-- ==== Sys2Proof/Word.lean ====
section
/-! DEFINITION. The words of the machine: their widths and nothing else (R4, R6, R67). -/

namespace Sys2Proof

/-- A byte of memory. -/
abbrev Byte := BitVec 8
/-- A 64-bit word: a g register, a system register, a computed address (R4, R67). -/
abbrev Word := BitVec 64
/-- A vector register or a queue entry: 512 bits (R67, R253). -/
abbrev Vec := BitVec 512
/-- The 2,048 bytes of a B latch, byte 0 lowest (R124, R129). -/
abbrev Tile := BitVec 16384
/-- An accumulator: 1,024 words of 32 bits, word 32i + j at bits [32(32i+j)+31 : 32(32i+j)] (R124, R137). -/
abbrev AccWords := BitVec 32768
/-- A codebook bank: 256 rows of 32 bits, row r at bits [32r+31 : 32r] (R124, R142). -/
abbrev Bank := BitVec 8192

end Sys2Proof
end

