-- ==== Sys2Proof/Config.lean ====
section
/-! DEFINITION. What an implementation fixes, and the free values: constants with no body, so that
nothing can compute or prove a value of them. -/

namespace Sys2Proof.Config

/-- Module power, in mW, measured over ramp slot n (R332). The spec gives no power model: free (log 6). -/
opaque modulePower (slot : Nat) : Nat

/-- Module power, in mW, without ballast at a cycle, and the power of an idle module (R332): free (log 6). -/
opaque livePower (cycle : Nat) : Nat
opaque idlePower : Nat

/-- The core that the Yoke issues a ballast MMA on at a cycle (R332): free (log 6). -/
opaque ballastPick (cycle : Nat) : Nat

/-- The change of summed power, in W/µs, of the cores of launch (die, lctr) over slot n (R334): free (log 6). -/
opaque launchSlope (slot die lctr : Nat) : Nat

/-- The choices that shape the binary tree of an f32 combining group (R223): free (log 6). -/
opaque treePick (serial step : Nat) : Nat

/-- Whether the frame of media job n decodes (R352): the codecs' standards are outside the spec; free (log 6). -/
opaque mediaDecodes (serial : Nat) : Bool

/-- The converted sample of element e of the tensor of media job n, in units of 2^-64 of the full scale (R352): free (log 6). -/
opaque mediaSample (serial elem : Nat) : Nat

/-- Where the reduction tree of a group of n members splits the ranks [a, b) (R350): free (log 6). -/
opaque rankSplit (n a b : Nat) : Nat

/-- Bytes [16, 32) of a trace record (R357): the spec calls them detail and gives no layout; free (log 6). -/
opaque traceDetail (serial byte : Nat) : Byte

/-- The dump header's and contents' bytes that R353 names without a layout: free (log 6). -/
opaque dumpByte (serial byte : Nat) : Byte

/-- The bytes of a load that another device, a peer or the host would answer (R191, R278): free (log 6). -/
opaque outsideByte (serial byte : Nat) : Byte

/-- The candidate that a correctly rounded 2^x or log2 x takes where the model's bounds do not decide it (log 8). -/
opaque roundPick (kind : Bool) (x : Nat) : Bool

/-- The set of a page in a PLB (R284), of a region in a home's directory and in a cluster filter (R190), and in a device's remote filter
(R191): the spec gives no index; free (log 3). -/
opaque plbSetOf (page : Nat) : Nat
opaque dirSetOf (region : Nat) : Nat
opaque filterSetOf (region : Nat) : Nat
opaque remoteSetOf (region : Nat) : Nat

/-- The HBM stack that holds a frame (R344): the spec does not say; free (log 6). -/
opaque stackOf (phys : Nat) : Nat

/-- Which of several near-buffer entries that hold a weak load's extent serves it (R183, R235), and which of several pairs the idle coalescer
joins (R182): the spec leaves both to the device; free (log 6). -/
opaque nearPick (serial : Nat) : Nat
opaque joinPick (serial : Nat) : Nat

/-- The place that a request takes among those of other cores as it reaches a home or a Bolt (R251): free (log 25). -/
opaque arrivalPick (serial : Nat) : Nat

/-- How a request fails that another device, or the path to it, does not perform: 1 refused, 2 poisoned, anything else not at all (R187,
R191, R194); free (log 6). -/
opaque outsideFails (serial : Nat) : Nat

/-- The reference tags of a fill that another device's home answers (R216), and whether another device says that it holds no byte of a region
any more (R191); free (log 6). -/
opaque outsideTags (serial : Nat) : BitVec 64
opaque outsideNone (serial : Nat) : Bool

/-- The silicon revision in ident (R340): free (log 6). -/
opaque revision : BitVec 32

/-- Device time in ns that one ramp slot lasts (R331). -/
def rampSlotNs : Nat := 1000
/-- The rise budget of a die for one slot, in mW (R331). -/
def slotBudget : Nat := 62500
/-- Power charged to a task of class c, in mW (R331). -/
def classPower (c : Nat) : Nat := 25 * c

/-- Bytes of HBM: 12 stacks of 48 GiB (R15); no frame lies above them (log 48). -/
def hbmBytes : Nat := 576 * 2 ^ 30

end Sys2Proof.Config
end

