-- ==== Sys2Proof/Machine/Bits.lean ====
section
/-! DEFINITION. Bit fields, elements of a vector, sign extension and byte order: the primitives of R6 and R64. -/

namespace Sys2Proof.Machine

/-- The n bits of x from bit lo up, as an unsigned number: bits(x, lo + n - 1, lo) of R64. -/
def bf {w : Nat} (x : BitVec w) (lo n : Nat) : Nat := x.toNat / 2 ^ lo % 2 ^ n

/-- Bit i of x. -/
def bit {w : Nat} (x : BitVec w) (i : Nat) : Bool := x.getLsbD i

/-- Element i, w bits wide, of x (R64): bits [wi + w - 1 : wi]. -/
def lane {n : Nat} (x : BitVec n) (i w : Nat) : BitVec w := x.extractLsb' (w * i) w

/-- The n-element vector whose element i, w bits wide, is f i; `width` bits in all, the rest zero. -/
def ofLanes (width w : Nat) (f : Nat → BitVec w) : Nat → BitVec width
  | 0 => 0
  | k + 1 => ofLanes width w f k ||| ((f k).setWidth width <<< (w * k))

/-- x with element i, w bits wide, replaced by y. -/
def setLane {n : Nat} (x : BitVec n) (i w : Nat) (y : BitVec w) : BitVec n :=
  (x &&& ~~~ ((BitVec.allOnes w).setWidth n <<< (w * i))) ||| (y.setWidth n <<< (w * i))

/-- sext(x, n) of R64 to 64 bits. -/
def sext {n : Nat} (x : BitVec n) : Word := x.signExtend 64

/-- zext(x, n) of R64 to 64 bits. -/
def zext {n : Nat} (x : BitVec n) : Word := x.setWidth 64

/-- A number's 64-bit word. -/
def word (n : Nat) : Word := BitVec.ofNat 64 n

/-- The n little-endian bytes of x, lowest first (R6). -/
def toBytes {w : Nat} (x : BitVec w) : Nat → List Byte
  | 0 => []
  | n + 1 => x.setWidth 8 :: toBytes (x >>> 8) n

/-- The number whose little-endian bytes are bs (R6). -/
def ofBytes : List Byte → Nat
  | [] => 0
  | b :: bs => b.toNat + 256 * ofBytes bs

/-- The 64-bit word of up to eight little-endian bytes. -/
def wordOf (bs : List Byte) : Word := word (ofBytes bs)

/-- Word i of a list of bytes read as little-endian 64-bit words. -/
def wordAt (bs : List Byte) (i : Nat) : Word := wordOf ((bs.drop (8 * i)).take 8)

/-- The bytes of a list of 64-bit words. -/
def bytesOf (ws : List Word) : List Byte := ws.flatMap (fun w => toBytes w 8)

/-- The number of one bits of x. -/
def popcount {w : Nat} (x : BitVec w) : Nat :=
  (List.range w).foldl (fun n i => if x.getLsbD i then n + 1 else n) 0

/-- The index of the lowest set bit of x, or w if none. -/
def lowestSet {w : Nat} (x : BitVec w) : Nat :=
  ((List.range w).find? (fun i => x.getLsbD i)).getD w

/-- The number of zero bits of x above its highest set bit. -/
def leadingZeros {w : Nat} (x : BitVec w) : Nat :=
  if x = 0 then w else w - 1 - Nat.log2 x.toNat

/-- x rounded down to a multiple of a. -/
def alignDown (x a : Nat) : Nat := x / a * a
/-- x rounded up to a multiple of a. -/
def alignUp (x a : Nat) : Nat := (x + a - 1) / a * a

end Sys2Proof.Machine
end

