-- ==== Sys2Proof/Syntax.lean ====
section
/-! DEFINITION. The instructions of the Olipear: one constructor for each row of the opcode table.
Operands are the raw fields of the row (R43, R51); WellFormed says which values are legal.
Rows without an encoding are events of the device's units; their operands name the unit, or carry
what the outside of the device gives. -/

namespace Sys2Proof

/-- A C word's immediate, displacement or offset: the field itself, or the 32-bit literal that replaces it when L = 1 (R44). -/
inductive Imm (n : Nat) where
  | field (v : BitVec n)
  | lit (v : BitVec 32)
  deriving DecidableEq, Repr

/-- Who makes a management access: a host master 1 to 3, the management controller (4), or virtual function n (R337, R342). -/
inductive Master where
  | host (id : BitVec 2)
  | controller
  | vf (n : BitVec 4)
  deriving DecidableEq, Repr

/-- The path of a host or peer access: through BAR2 and a host window, through CXL.mem at a device address (R338), or a master's to the
registers of BAR0 (R340). -/
inductive HostPath where
  | window
  | cxlMem
  | bar0 (m : Master)
  deriving DecidableEq, Repr

/-- A unit with a ready bit and a mapped-out bit (R343, R344). -/
inductive DevUnit where
  | cluster (k : Nat)
  | homeGroup (k : Nat)
  | stack (n : Nat)
  | link (p : Nat)
  | media (b : Nat)
  | hostInterface
  deriving DecidableEq, Repr

/-- What a soft error strikes: a register word (flips of its 32 data bits, parity bit and seven SECDED bits), a granule of a near cache or home slice, or a Bolt block (R72, R194). -/
inductive ErrTarget where
  | regWord (h file index word : Nat) (flips : BitVec 40)
  | nearGranule (c entry granule : Nat) (correctable : Bool)
  | homeGranule (h entry granule : Nat) (correctable : Bool)
  | boltBlock (k block : Nat) (correctable : Bool)
  deriving DecidableEq, Repr

/-- A register that the debugger writes in a halted cluster, and its value (R355). -/
inductive DebugReg where
  | g (r : BitVec 5) (v : Word)
  | v (r : BitVec 5) (x : Vec)
  | m (r : BitVec 3) (x : Word)
  | pc (x : Word)
  | sys (num : BitVec 10) (x : Word)
  deriving DecidableEq, Repr

/-- The signed image in the management controller's flash (R341): whether its signature holds, and what it sets. -/
structure Image where
  signatureHolds : Bool
  devnum : BitVec 10
  mappedOut : List DevUnit
  partitions : List (Word × Word × Word × Word)
  dumpBase : Word
  dumpLength : Word
  /-- what the dump's header names it by (R353) -/
  identity : List Byte
  /-- the host window that the dump leaves through: entry and its two words (R353) -/
  dumpWindow : Option (BitVec 6 × Word × Word)
  /-- the collector of the dump's datagrams (R353) -/
  collector : List Byte
  deriving DecidableEq, Repr


/-- What a PLBINV at system scope asks of another device (R290): the number of its acknowledgement, and its extent. -/
structure FarDrop where
  id : Nat
  base : Nat
  len : Nat
  deriving DecidableEq, Repr

/-- Whose PLBINV has its drops made (R290): a hart's of this device, or, at system scope, that of hart `hid` of another. -/
inductive PlbDrop where
  | own (h : Nat)
  | far (hid : Nat) (d : FarDrop)
  deriving DecidableEq, Repr

/-- An event of the device's units, as the agenda holds it; each is also a constructor of Instr. -/
inductive Event where
  | machineCheck (h : Nat)
  | scrubWord (c : Nat)
  | mmaComplete (c : Nat)
  | seamHandoffBegin (c : Nat) (l : Bool)
  | seamArrivalLanded (c : Nat) (l : Bool)
  | ballastMma (c : Nat)
  | pageWalkComplete (c : Nat)
  | fillArrives (c : Nat)
  | idleCoalesce (c st : Nat)
  | homeStore (h : Nat)
  | homeFill (h : Nat)
  | homeWriteback (h : Nat)
  | farAtomic (h : Nat)
  | amoGroupTimeout (h : Nat)
  | invalidate (k : Nat)
  | remoteInvalidate (dev region lo hi : Nat)
  | invalidateAck (h : Nat)
  | invalidateTimeout (h party : Nat)
  | ackReceived (h : Nat)
  | egressCombineTimeout (k : Nat)
  | boltStore (k : Nat)
  | boltRead (k : Nat)
  | forwardedWindowAccess (c : Nat)
  | wunmapDrainComplete (c n : Nat)
  | sowerWalkStep (k : Nat)
  | publicationNotice (k : Nat)
  | pubComplete (h : Nat)
  | messageArrival (c : Nat)
  | channelPacketArrival (c : Nat)
  | countModeArrival (c : Nat)
  | taskDispatch (h : Nat)
  | dequeAgeing (c : Nat)
  | drillCycle (d : Nat)
  | preemptionRequest (h : Nat) (dest : Option Nat)
  | forcedSave (h : Nat)
  | registerContextArrival (c : Nat)
  | loadReplyForwarded (c : Nat)
  | copy (e : Nat)
  | copyChunk (e : Nat)
  | allReduce (e : Nat) (others : List (List Byte))
  | reduceScatter (e : Nat) (others : List (List Byte))
  | allGather (e : Nat) (others : List (List Byte))
  | broadcast (e : Nat) (others : List (List Byte))
  | mediaDecode (e : Nat)
  | jobComplete (e : Nat)
  | gleanerVisit (k slot : Nat)
  | gleanerPassStart (k slot : Nat)
  | rampSlotBoundary
  | waiteDeadline (h : Nat)
  | hostWrite (path : HostPath) (off : Nat) (data : List Byte)
  | hostRead (path : HostPath) (off len : Nat)
  | doorbellWrite (size : Nat) (value : BitVec 32)
  | ownerCas (m : Master) (expected new : BitVec 64)
  | hostLaunch (m : Master) (p : BitVec 4) (value : BitVec 64)
  | hostResume (m : Master) (handle action : BitVec 64)
  | trapAcknowledge (m : Master) (p : BitVec 4)
  | hostTrapDelivery (c : Nat)
  | partitionWrite (m : Master) (p : BitVec 4) (w0 w1 w2 w3 : BitVec 64)
  | samplingPulse (m : Option Master)
  | samplingPeriod
  | debugHalt (m : Option Master) (k : Nat)
  | debugRegisterWrite (m : Master) (h : Nat) (r : DebugReg)
  | registerWrite (m : Master) (off : Nat) (value : BitVec 64)
  | linkPortFailure (p : Nat)
  | linkFailoverTimeout (p : Nat)
  | powerOn (img : Image)
  | deviceReset
  | unitReady (u : DevUnit)
  | unitMappedOut (u : DevUnit)
  | fatalError (cause : BitVec 64)
  | dumpResendRequest (off len : Nat)
  | clusterResume (m : Master) (k : Nat)
  | softError (t : ErrTarget)
  | plbinvDrop (p : PlbDrop)
  | peerReadCompletion (data : List Byte)
  | malformedCommand (e : Nat)
  deriving DecidableEq, Repr

/-- One constructor for each row of spec/opcode_table.json. `sp` is the S bit of a C word (R39). -/
inductive Instr where
  /-- NOPC (R57): The all-zero C word does nothing in the C slot for one issue cycle. -/
  | nopc
  /-- ADD (R78): Writes (g[ra] + g[rb]) mod 2^64 to g[rd]. -/
  | add (sp : Bool) (rd : BitVec 5) (ra : BitVec 5) (rb : BitVec 5)
  /-- SUB (R78): Writes (g[ra] - g[rb]) mod 2^64 to g[rd]. -/
  | sub (sp : Bool) (rd : BitVec 5) (ra : BitVec 5) (rb : BitVec 5)
  /-- AND (R78): Writes the bitwise and of two g registers. -/
  | and (sp : Bool) (rd : BitVec 5) (ra : BitVec 5) (rb : BitVec 5)
  /-- OR (R78): Writes the bitwise or of two g registers. -/
  | or (sp : Bool) (rd : BitVec 5) (ra : BitVec 5) (rb : BitVec 5)
  /-- XOR (R78): Writes the bitwise exclusive or of two g registers. -/
  | xor (sp : Bool) (rd : BitVec 5) (ra : BitVec 5) (rb : BitVec 5)
  /-- ANDN (R78): Writes a and not b. -/
  | andn (sp : Bool) (rd : BitVec 5) (ra : BitVec 5) (rb : BitVec 5)
  /-- SLL (R78): Shifts g[ra] left by the low 6 bits of g[rb]. -/
  | sll (sp : Bool) (rd : BitVec 5) (ra : BitVec 5) (rb : BitVec 5)
  /-- SRL (R78): Shifts g[ra] right logically by the low 6 bits of g[rb]. -/
  | srl (sp : Bool) (rd : BitVec 5) (ra : BitVec 5) (rb : BitVec 5)
  /-- SRA (R78): Shifts g[ra] right arithmetically by the low 6 bits of g[rb]. -/
  | sra (sp : Bool) (rd : BitVec 5) (ra : BitVec 5) (rb : BitVec 5)
  /-- SLT (R78): Writes 1 if a < b as signed, else 0. -/
  | slt (sp : Bool) (rd : BitVec 5) (ra : BitVec 5) (rb : BitVec 5)
  /-- SLTU (R78): Writes 1 if a < b as unsigned, else 0. -/
  | sltu (sp : Bool) (rd : BitVec 5) (ra : BitVec 5) (rb : BitVec 5)
  /-- MIN (R78): Writes the signed minimum of two g registers. -/
  | min (sp : Bool) (rd : BitVec 5) (ra : BitVec 5) (rb : BitVec 5)
  /-- MAX (R78): Writes the signed maximum of two g registers. -/
  | max (sp : Bool) (rd : BitVec 5) (ra : BitVec 5) (rb : BitVec 5)
  /-- MINU (R78): Writes the unsigned minimum of two g registers. -/
  | minu (sp : Bool) (rd : BitVec 5) (ra : BitVec 5) (rb : BitVec 5)
  /-- MAXU (R78): Writes the unsigned maximum of two g registers. -/
  | maxu (sp : Bool) (rd : BitVec 5) (ra : BitVec 5) (rb : BitVec 5)
  /-- MUL (R78): Writes bits [63:0] of the product. -/
  | mul (sp : Bool) (rd : BitVec 5) (ra : BitVec 5) (rb : BitVec 5)
  /-- MULH (R78): Writes bits [127:64] of the signed product. -/
  | mulh (sp : Bool) (rd : BitVec 5) (ra : BitVec 5) (rb : BitVec 5)
  /-- MULHU (R78): Writes bits [127:64] of the unsigned product. -/
  | mulhu (sp : Bool) (rd : BitVec 5) (ra : BitVec 5) (rb : BitVec 5)
  /-- DIV (R78): Writes the signed quotient rounded towards zero, with defined divide-by-zero and overflow results. -/
  | div (sp : Bool) (rd : BitVec 5) (ra : BitVec 5) (rb : BitVec 5)
  /-- DIVU (R78): Writes the unsigned quotient, all ones for a zero divisor. -/
  | divu (sp : Bool) (rd : BitVec 5) (ra : BitVec 5) (rb : BitVec 5)
  /-- REM (R78): Writes the signed remainder, which takes the sign of the dividend. -/
  | rem (sp : Bool) (rd : BitVec 5) (ra : BitVec 5) (rb : BitVec 5)
  /-- REMU (R78): Writes the unsigned remainder, or a for a zero divisor. -/
  | remu (sp : Bool) (rd : BitVec 5) (ra : BitVec 5) (rb : BitVec 5)
  /-- CLZ (R78): Counts the leading zero bits of g[ra]. -/
  | clz (sp : Bool) (rd : BitVec 5) (ra : BitVec 5)
  /-- CTZ (R78): Counts the trailing zero bits of g[ra]. -/
  | ctz (sp : Bool) (rd : BitVec 5) (ra : BitVec 5)
  /-- POPC (R78): Counts the one bits of g[ra]. -/
  | popc (sp : Bool) (rd : BitVec 5) (ra : BitVec 5)
  /-- SEL (R78): Writes a if g[rd] is non-zero, else b. -/
  | sel (sp : Bool) (rd : BitVec 5) (ra : BitVec 5) (rb : BitVec 5)
  /-- ADDI (R79): Adds a sign-extended immediate or literal to g[ra]. -/
  | addi (sp : Bool) (rd : BitVec 5) (ra : BitVec 5) (imm : Imm 14)
  /-- ANDI (R79): Ands g[ra] with a sign-extended immediate. -/
  | andi (sp : Bool) (rd : BitVec 5) (ra : BitVec 5) (imm : Imm 14)
  /-- ORI (R79): Ors g[ra] with a sign-extended immediate. -/
  | ori (sp : Bool) (rd : BitVec 5) (ra : BitVec 5) (imm : Imm 14)
  /-- XORI (R79): Exclusive-ors g[ra] with a sign-extended immediate. -/
  | xori (sp : Bool) (rd : BitVec 5) (ra : BitVec 5) (imm : Imm 14)
  /-- SLTI (R79): Writes 1 if g[ra] is less than the immediate, signed. -/
  | slti (sp : Bool) (rd : BitVec 5) (ra : BitVec 5) (imm : Imm 14)
  /-- SLTIU (R79): Writes 1 if g[ra] is less than the immediate, unsigned. -/
  | sltiu (sp : Bool) (rd : BitVec 5) (ra : BitVec 5) (imm : Imm 14)
  /-- SLLI (R79): Shifts g[ra] left by a 6-bit immediate. -/
  | slli (sp : Bool) (rd : BitVec 5) (ra : BitVec 5) (sh : BitVec 6)
  /-- SRLI (R79): Shifts g[ra] right logically by a 6-bit immediate. -/
  | srli (sp : Bool) (rd : BitVec 5) (ra : BitVec 5) (sh : BitVec 6)
  /-- SRAI (R79): Shifts g[ra] right arithmetically by a 6-bit immediate. -/
  | srai (sp : Bool) (rd : BitVec 5) (ra : BitVec 5) (sh : BitVec 6)
  /-- LUI (R79): Places the immediate or literal in bits [63:32] above the low 32 bits of g[ra]. -/
  | lui (sp : Bool) (rd : BitVec 5) (ra : BitVec 5) (imm : Imm 14)
  /-- LI (R79): Loads the sign-extended 32-bit literal into g[rd]. -/
  | li (sp : Bool) (rd : BitVec 5) (lit : BitVec 32)
  /-- LEA (R80): Writes g[ra] + (g[rb] << scale) + disp7 without touching memory. -/
  | lea (sp : Bool) (rd : BitVec 5) (ra : BitVec 5) (rb : BitVec 5) (scale : BitVec 2) (disp : BitVec 7)
  /-- BEQ (R81): Branches when the two g registers are equal. -/
  | beq (sp : Bool) (ra : BitVec 5) (rb : BitVec 5) (off : Imm 14)
  /-- BNE (R81): Branches when the two g registers differ. -/
  | bne (sp : Bool) (ra : BitVec 5) (rb : BitVec 5) (off : Imm 14)
  /-- BLT (R81): Branches when g[ra] < g[rb] signed. -/
  | blt (sp : Bool) (ra : BitVec 5) (rb : BitVec 5) (off : Imm 14)
  /-- BGE (R81): Branches when g[ra] >= g[rb] signed. -/
  | bge (sp : Bool) (ra : BitVec 5) (rb : BitVec 5) (off : Imm 14)
  /-- BLTU (R81): Branches when g[ra] < g[rb] unsigned. -/
  | bltu (sp : Bool) (ra : BitVec 5) (rb : BitVec 5) (off : Imm 14)
  /-- BGEU (R81): Branches when g[ra] >= g[rb] unsigned. -/
  | bgeu (sp : Bool) (ra : BitVec 5) (rb : BitVec 5) (off : Imm 14)
  /-- JAL (R83): Jumps by a bundle offset and writes the link to g[rd]. -/
  | jal (sp : Bool) (rd : BitVec 5) (off : Imm 19)
  /-- JALR (R83): Jumps to g[ra] + immediate with bits [2:0] cleared and writes the link. -/
  | jalr (sp : Bool) (rd : BitVec 5) (ra : BitVec 5) (imm : Imm 14)
  /-- LOOP (R82): Decrements g[ra] and branches while the result is non-zero. -/
  | loop (sp : Bool) (ra : BitVec 5) (off : Imm 14)
  /-- FORK (R85): Pushes a forked task with n arguments to the deque and adds 1 to its join counter. -/
  | fork (sp : Bool) (ctr : BitVec 6) (n : BitVec 4) (off : Imm 14)
  /-- LDB (R213): Loads one byte, sign-extended. -/
  | ldb (sp : Bool) (rd : BitVec 5) (base : BitVec 5) (ord : BitVec 4) (imm : Imm 10)
  /-- LDBU (R213): Loads one byte, zero-extended. -/
  | ldbu (sp : Bool) (rd : BitVec 5) (base : BitVec 5) (ord : BitVec 4) (imm : Imm 10)
  /-- LDH (R213): Loads two bytes, sign-extended. -/
  | ldh (sp : Bool) (rd : BitVec 5) (base : BitVec 5) (ord : BitVec 4) (imm : Imm 10)
  /-- LDHU (R213): Loads two bytes, zero-extended. -/
  | ldhu (sp : Bool) (rd : BitVec 5) (base : BitVec 5) (ord : BitVec 4) (imm : Imm 10)
  /-- LDW (R213): Loads four bytes, sign-extended. -/
  | ldw (sp : Bool) (rd : BitVec 5) (base : BitVec 5) (ord : BitVec 4) (imm : Imm 10)
  /-- LDWU (R213): Loads four bytes, zero-extended. -/
  | ldwu (sp : Bool) (rd : BitVec 5) (base : BitVec 5) (ord : BitVec 4) (imm : Imm 10)
  /-- LDD (R213): Loads eight bytes. -/
  | ldd (sp : Bool) (rd : BitVec 5) (base : BitVec 5) (ord : BitVec 4) (imm : Imm 10)
  /-- STB (R213): Stores one byte and clears the touched tags. -/
  | stb (sp : Bool) (rd : BitVec 5) (base : BitVec 5) (ord : BitVec 4) (imm : Imm 10)
  /-- STH (R213): Stores two bytes. -/
  | sth (sp : Bool) (rd : BitVec 5) (base : BitVec 5) (ord : BitVec 4) (imm : Imm 10)
  /-- STW (R213): Stores four bytes. -/
  | stw (sp : Bool) (rd : BitVec 5) (base : BitVec 5) (ord : BitVec 4) (imm : Imm 10)
  /-- STD (R213): Stores eight bytes. -/
  | std (sp : Bool) (rd : BitVec 5) (base : BitVec 5) (ord : BitVec 4) (imm : Imm 10)
  /-- STREF (R218): Stores a reference and sets its word's tag, trapping as escape for an unpublished target in shared memory. -/
  | stref (sp : Bool) (rd : BitVec 5) (base : BitVec 5) (ord : BitVec 4) (imm : Imm 10)
  /-- LDT (R219): Writes the reference tag of the aligned word. -/
  | ldt (sp : Bool) (rd : BitVec 5) (base : BitVec 5) (ord : BitVec 4) (imm : Imm 10)
  /-- VLD (R214): Loads the selected bytes of an extent of 1 to 64 bytes into a v register. -/
  | vld (sp : Bool) (vd : BitVec 5) (base : BitVec 5) (ord : BitVec 4) (len : BitVec 6) (mk : BitVec 3) (disp : Option (BitVec 32))
  /-- VST (R214): Stores the selected bytes of a v register to an extent of 1 to 64 bytes. -/
  | vst (sp : Bool) (vd : BitVec 5) (base : BitVec 5) (ord : BitVec 4) (len : BitVec 6) (mk : BitVec 3) (disp : Option (BitVec 32))
  /-- VLDX (R215): Gathers 4- or 8-byte elements at indexed addresses. -/
  | vldx (sp : Bool) (vd : BitVec 5) (base : BitVec 5) (ord : BitVec 4) (vi : BitVec 5) (e8 : BitVec 1) (mk : BitVec 3) (disp : Option (BitVec 32))
  /-- VSTX (R215): Scatters 4- or 8-byte elements to indexed addresses, in ascending order. -/
  | vstx (sp : Bool) (vd : BitVec 5) (base : BitVec 5) (ord : BitVec 4) (vi : BitVec 5) (e8 : BitVec 1) (mk : BitVec 3) (disp : Option (BitVec 32))
  /-- AMOADD (R220): Atomically adds b and returns the old value. -/
  | amoadd (sp : Bool) (rd : BitVec 5) (ra : BitVec 5) (rb : BitVec 5) (ord : BitVec 4) (w : BitVec 1)
  /-- AMOAND (R220): Atomically ands b and returns the old value. -/
  | amoand (sp : Bool) (rd : BitVec 5) (ra : BitVec 5) (rb : BitVec 5) (ord : BitVec 4) (w : BitVec 1)
  /-- AMOOR (R220): Atomically ors b and returns the old value. -/
  | amoor (sp : Bool) (rd : BitVec 5) (ra : BitVec 5) (rb : BitVec 5) (ord : BitVec 4) (w : BitVec 1)
  /-- AMOXOR (R220): Atomically exclusive-ors b and returns the old value. -/
  | amoxor (sp : Bool) (rd : BitVec 5) (ra : BitVec 5) (rb : BitVec 5) (ord : BitVec 4) (w : BitVec 1)
  /-- AMOMIN (R220): Atomically keeps the signed minimum. -/
  | amomin (sp : Bool) (rd : BitVec 5) (ra : BitVec 5) (rb : BitVec 5) (ord : BitVec 4) (w : BitVec 1)
  /-- AMOMAX (R220): Atomically keeps the signed maximum. -/
  | amomax (sp : Bool) (rd : BitVec 5) (ra : BitVec 5) (rb : BitVec 5) (ord : BitVec 4) (w : BitVec 1)
  /-- AMOMINU (R220): Atomically keeps the unsigned minimum. -/
  | amominu (sp : Bool) (rd : BitVec 5) (ra : BitVec 5) (rb : BitVec 5) (ord : BitVec 4) (w : BitVec 1)
  /-- AMOMAXU (R220): Atomically keeps the unsigned maximum. -/
  | amomaxu (sp : Bool) (rd : BitVec 5) (ra : BitVec 5) (rb : BitVec 5) (ord : BitVec 4) (w : BitVec 1)
  /-- AMOSWAP (R220): Atomically swaps in b. -/
  | amoswap (sp : Bool) (rd : BitVec 5) (ra : BitVec 5) (rb : BitVec 5) (ord : BitVec 4) (w : BitVec 1)
  /-- AMOCAS (R220): Atomically compares with g[rd] and swaps in b on equality. -/
  | amocas (sp : Bool) (rd : BitVec 5) (ra : BitVec 5) (rb : BitVec 5) (ord : BitVec 4) (w : BitVec 1)
  /-- AMOFADD (R220): Atomically adds an f32 operand with round_rne. -/
  | amofadd (sp : Bool) (rd : BitVec 5) (ra : BitVec 5) (rb : BitVec 5) (ord : BitVec 4)
  /-- AMOFADDV (R222): Posts one f32 atomic add per selected element to consecutive words. -/
  | amofaddv (sp : Bool) (vd : BitVec 5) (base : BitVec 5) (ord : BitVec 4) (len : BitVec 6) (mk : BitVec 3) (disp : Option (BitVec 32))
  /-- FENCE (R224): Orders the hart's accesses, clears its near buffer and writes the store status word. -/
  | fence (sp : Bool) (rd : BitVec 5) (ord : BitVec 4)
  /-- PUB (R225): Hands a reference to the Sower and waits until the reachable objects are published. -/
  | pub (sp : Bool) (rd : BitVec 5) (ra : BitVec 5) (scope : BitVec 2)
  /-- PREF (R230): Hints the bytes of an extent towards a level, with no architectural effect. -/
  | pref (sp : Bool) (ra : BitVec 5) (lvl : BitVec 4) (rb : BitVec 5)
  /-- RESQ (R230): Writes the number of bytes of an extent held at a level. -/
  | resq (sp : Bool) (rd : BitVec 5) (ra : BitVec 5) (lvl : BitVec 4) (rb : BitVec 5)
  /-- CLN (R231): Writes the dirty bytes of an extent to the next level. -/
  | cln (sp : Bool) (ra : BitVec 5) (ord : BitVec 4) (rb : BitVec 5)
  /-- INV (R231): Drops the bytes of an extent from near caches within the scope, discarding dirty bytes. -/
  | inv (sp : Bool) (ra : BitVec 5) (ord : BitVec 4) (rb : BitVec 5)
  /-- SETC (R305): Sets a trigger counter after a release wait, firing nothing. -/
  | setc (sp : Bool) (ra : BitVec 5) (ctr : BitVec 6)
  /-- DECC (R305): Decrements a trigger counter after a release wait and fires its binding at zero. -/
  | decc (sp : Bool) (ra : BitVec 5) (ctr : BitVec 6)
  /-- GETC (R306): Writes a snapshot of a trigger counter. -/
  | getc (sp : Bool) (rd : BitVec 5) (ctr : BitVec 6)
  /-- WAITC (R308): Waits until a counter reads zero, or is interrupted at a safe point. -/
  | waitc (sp : Bool) (rd : BitVec 5) (ctr : BitVec 6)
  /-- BINDC (R307): Binds a copy of a launch descriptor to a counter, or clears the binding. -/
  | bindc (sp : Bool) (rd : BitVec 5) (ra : BitVec 5) (ctr : BitVec 6)
  /-- EXIT (R317): Ends the task with its claim release, join, ring, Gleaner and launch decrements. -/
  | exit (sp : Bool)
  /-- YIELD (R166): Saves and vacates the task if a ready task waits and a save slot is free. -/
  | yield (sp : Bool)
  /-- LAUNCH (R314): Submits a launch descriptor to the Drill and writes the submission status. -/
  | launch (sp : Bool) (rd : BitVec 5) (ra : BitVec 5)
  /-- CANCEL (R318): Cancels, queries or tears down the tasks beneath a Drill counter. -/
  | cancel (sp : Bool) (rd : BitVec 5) (ra : BitVec 5) (op : BitVec 4)
  /-- BAR (R321): Arrives at a cluster barrier and is clock-gated until all participants arrive. -/
  | bar (sp : Bool) (ra : BitVec 5) (bar : BitVec 3)
  /-- SEND (R260): Sends a message whose payload is taken from a v register. -/
  | send (sp : Bool) (ra : BitVec 5) (rb : BitVec 5) (vp : BitVec 5)
  /-- SENDX (R260): Sends a message whose payload is read from memory. -/
  | sendx (sp : Bool) (rp : BitVec 5) (ra : BitVec 5) (rb : BitVec 5)
  /-- QSTAT (R269): Writes a snapshot of a queue's count, limits and the pool. -/
  | qstat (sp : Bool) (rd : BitVec 5) (q : BitVec 5)
  /-- QRESV (R267): Reserves or returns landing-ring bytes of a handler entry. -/
  | qresv (sp : Bool) (rd : BitVec 5) (ra : BitVec 5) (rb : BitVec 5)
  /-- ENQ (R271): Enqueues a 64-byte engine command with release and returns a job handle. -/
  | enq (sp : Bool) (rd : BitVec 5) (ra : BitVec 5) (rb : BitVec 5) (eng : BitVec 5)
  /-- JOBQ (R274): Reads a job's state without waiting. -/
  | jobq (sp : Bool) (rd : BitVec 5) (ra : BitVec 5)
  /-- JOBW (R274): Waits until a job completes or the task is pre-empted at a safe point. -/
  | jobw (sp : Bool) (rd : BitVec 5) (ra : BitVec 5)
  /-- GLEAN (R329): Starts a Gleaner walk of an iteration set and returns a handle. -/
  | glean (sp : Bool) (rd : BitVec 5) (ra : BitVec 5)
  /-- GSTAT (R330): Reports or aborts a Gleaner walk. -/
  | gstat (sp : Bool) (rd : BitVec 5) (ra : BitVec 5) (op : BitVec 5)
  /-- YDECL (R335): Declares the task's power class and its launch's slope. -/
  | ydecl (sp : Bool) (rd : BitVec 5) (ra : BitVec 5)
  /-- PLBINV (R290): Optionally splinters a leaf, then drops PLB, translation and walk-cache entries within a scope. -/
  | plbinv (sp : Bool) (rd : BitVec 5) (ra : BitVec 5) (rb : BitVec 5) (f : BitVec 5)
  /-- HTW (R293): Installs a whole handler-table entry from a memory image. -/
  | htw (sp : Bool) (rd : BitVec 5) (ra : BitVec 5) (rb : BitVec 5)
  /-- WMAP (R295): Maps a local-memory window, optionally to a global extent and swizzled. -/
  | wmap (sp : Bool) (rd : BitVec 5) (ra : BitVec 5) (rb : BitVec 5) (n : BitVec 5)
  /-- WUNMAP (R296): Starts draining a window to its backing memory. -/
  | wunmap (sp : Bool) (rd : BitVec 5) (rb : BitVec 5) (n : BitVec 5)
  /-- CBLD (R142): Loads 1 KiB into a codebook bank. -/
  | cbld (sp : Bool) (ra : BitVec 5) (bank : BitVec 5)
  /-- SYR (R87): Reads a system register into g[rd]. -/
  | syr (sp : Bool) (rd : BitVec 5) (num : BitVec 10)
  /-- SYW (R87): Writes g[ra] to a system register, with access and field checks. -/
  | syw (sp : Bool) (ra : BitVec 5) (num : BitVec 10)
  /-- TRAP (R89): Raises a precise trap instruction cause with a code and g[ra] in sy.faddr. -/
  | trap (sp : Bool) (ra : BitVec 5) (code : BitVec 10)
  /-- BRK (R89): Raises a breakpoint, or halts the cluster when breakpoint halt is enabled. -/
  | brk (sp : Bool) (code : BitVec 10)
  /-- WAITE (R91): Waits for a time, a queue entry or a counter at zero, with an optional deadline. -/
  | waite (sp : Bool) (rd : BitVec 5) (ra : BitVec 5) (event : BitVec 10)
  /-- RESUME (R158): Resumes a parked hart by retry or skip, or cancels its task. -/
  | resume (sp : Bool) (rd : BitVec 5) (ra : BitVec 5) (action : BitVec 10)
  /-- NOPA (R57): The all-zero A word does nothing in the A slot. -/
  | nopa
  /-- VADD (R107): Adds floating-point elements with one rounding. -/
  | vadd (vd : BitVec 6) (va : BitVec 6) (vb : BitVec 6) (ty : BitVec 4) (rm : BitVec 3)
  /-- VSUB (R107): Subtracts floating-point elements. -/
  | vsub (vd : BitVec 6) (va : BitVec 6) (vb : BitVec 6) (ty : BitVec 4) (rm : BitVec 3)
  /-- VMUL (R107): Multiplies floating-point elements. -/
  | vmul (vd : BitVec 6) (va : BitVec 6) (vb : BitVec 6) (ty : BitVec 4) (rm : BitVec 3)
  /-- VFMA (R108): Computes a*b + vd with one rounding. -/
  | vfma (vd : BitVec 5) (va : BitVec 6) (vb : BitVec 6) (ty : BitVec 4) (rm : BitVec 3)
  /-- VFMS (R108): Computes a*b - vd with one rounding. -/
  | vfms (vd : BitVec 5) (va : BitVec 6) (vb : BitVec 6) (ty : BitVec 4) (rm : BitVec 3)
  /-- VFNMA (R108): Computes -(a*b) + vd with one rounding. -/
  | vfnma (vd : BitVec 5) (va : BitVec 6) (vb : BitVec 6) (ty : BitVec 4) (rm : BitVec 3)
  /-- VMIN (R107): Takes the smaller element, with -0 below +0 and NaN handling. -/
  | vmin (vd : BitVec 6) (va : BitVec 6) (vb : BitVec 6) (ty : BitVec 4)
  /-- VMAX (R107): Takes the larger element. -/
  | vmax (vd : BitVec 6) (va : BitVec 6) (vb : BitVec 6) (ty : BitVec 4)
  /-- VABS (R109): Clears each element's sign bit. -/
  | vabs (vd : BitVec 6) (va : BitVec 6) (ty : BitVec 4)
  /-- VNEG (R109): Inverts each element's sign bit. -/
  | vneg (vd : BitVec 6) (va : BitVec 6) (ty : BitVec 4)
  /-- VRCP (R109): Computes a correctly rounded reciprocal. -/
  | vrcp (vd : BitVec 6) (va : BitVec 6) (ty : BitVec 4) (rm : BitVec 3)
  /-- VRSQ (R109): Computes a correctly rounded reciprocal square root. -/
  | vrsq (vd : BitVec 6) (va : BitVec 6) (ty : BitVec 4) (rm : BitVec 3)
  /-- VEXP2 (R109): Computes a correctly rounded 2^a. -/
  | vexp2 (vd : BitVec 6) (va : BitVec 6) (ty : BitVec 4) (rm : BitVec 3)
  /-- VLOG2 (R109): Computes a correctly rounded log2 a. -/
  | vlog2 (vd : BitVec 6) (va : BitVec 6) (ty : BitVec 4) (rm : BitVec 3)
  /-- VIADD (R110): Adds integer elements modulo 2^w. -/
  | viadd (vd : BitVec 6) (va : BitVec 6) (vb : BitVec 6) (ty : BitVec 4)
  /-- VISUB (R110): Subtracts integer elements modulo 2^w. -/
  | visub (vd : BitVec 6) (va : BitVec 6) (vb : BitVec 6) (ty : BitVec 4)
  /-- VIMUL (R110): Writes the low w bits of integer products. -/
  | vimul (vd : BitVec 6) (va : BitVec 6) (vb : BitVec 6) (ty : BitVec 4)
  /-- VIMULH (R110): Writes the high w bits of integer products. -/
  | vimulh (vd : BitVec 6) (va : BitVec 6) (vb : BitVec 6) (ty : BitVec 4)
  /-- VAND (R110): Ands integer elements. -/
  | vand (vd : BitVec 6) (va : BitVec 6) (vb : BitVec 6) (ty : BitVec 4)
  /-- VOR (R110): Ors integer elements. -/
  | vor (vd : BitVec 6) (va : BitVec 6) (vb : BitVec 6) (ty : BitVec 4)
  /-- VXOR (R110): Exclusive-ors integer elements. -/
  | vxor (vd : BitVec 6) (va : BitVec 6) (vb : BitVec 6) (ty : BitVec 4)
  /-- VSHL (R110): Shifts integer elements left. -/
  | vshl (vd : BitVec 6) (va : BitVec 6) (vb : BitVec 6) (ty : BitVec 4)
  /-- VSHR (R110): Shifts integer elements right logically. -/
  | vshr (vd : BitVec 6) (va : BitVec 6) (vb : BitVec 6) (ty : BitVec 4)
  /-- VSRA (R110): Shifts integer elements right arithmetically. -/
  | vsra (vd : BitVec 6) (va : BitVec 6) (vb : BitVec 6) (ty : BitVec 4)
  /-- VIMIN (R110): Takes the smaller integer element. -/
  | vimin (vd : BitVec 6) (va : BitVec 6) (vb : BitVec 6) (ty : BitVec 4)
  /-- VIMAX (R110): Takes the larger integer element. -/
  | vimax (vd : BitVec 6) (va : BitVec 6) (vb : BitVec 6) (ty : BitVec 4)
  /-- VFCMP (R111): Compares floating-point elements into a lane mask. -/
  | vfcmp (vd : BitVec 6) (va : BitVec 6) (vb : BitVec 6) (ty : BitVec 4) (cond : BitVec 3)
  /-- VICMP (R111): Compares integer elements into a lane mask. -/
  | vicmp (vd : BitVec 6) (va : BitVec 6) (vb : BitVec 6) (ty : BitVec 4) (cond : BitVec 3)
  /-- VSEL (R112): Selects elements of va or vb by a lane mask. -/
  | vsel (vd : BitVec 6) (va : BitVec 6) (vb : BitVec 6) (ty : BitVec 4) (mk : BitVec 3)
  /-- MAND (R113): Ands two lane masks. -/
  | mand (vd : BitVec 6) (va : BitVec 6) (vb : BitVec 6)
  /-- MOR (R113): Ors two lane masks. -/
  | mor (vd : BitVec 6) (va : BitVec 6) (vb : BitVec 6)
  /-- MXOR (R113): Exclusive-ors two lane masks. -/
  | mxor (vd : BitVec 6) (va : BitVec 6) (vb : BitVec 6)
  /-- MNOT (R113): Inverts a lane mask. -/
  | mnot (vd : BitVec 6) (va : BitVec 6)
  /-- MPOP (R113): Counts the set bits of a lane mask into a g register. -/
  | mpop (vd : BitVec 5) (va : BitVec 6)
  /-- MFIRST (R113): Writes the index of a mask's lowest set bit, or 64. -/
  | mfirst (vd : BitVec 5) (va : BitVec 6)
  /-- VBCAST (R114): Broadcasts element k to every lane. -/
  | vbcast (vd : BitVec 6) (va : BitVec 6) (k : BitVec 6) (ty : BitVec 4)
  /-- VEXTR (R114): Extracts element k into a g register. -/
  | vextr (vd : BitVec 5) (va : BitVec 6) (k : BitVec 6) (ty : BitVec 4)
  /-- VINS (R114): Inserts element 0 of va at element k of vd. -/
  | vins (vd : BitVec 6) (va : BitVec 6) (k : BitVec 6) (ty : BitVec 4)
  /-- VPERM (R114): Permutes elements by the indices in vb. -/
  | vperm (vd : BitVec 6) (va : BitVec 6) (vb : BitVec 6) (ty : BitVec 4)
  /-- VROT (R114): Rotates elements by k. -/
  | vrot (vd : BitVec 6) (va : BitVec 6) (k : BitVec 6) (ty : BitVec 4)
  /-- VSLIDE (R114): Slides elements of va followed by old vd by k. -/
  | vslide (vd : BitVec 6) (va : BitVec 6) (k : BitVec 6) (ty : BitVec 4)
  /-- VZIP (R114): Interleaves one half of va and vb. -/
  | vzip (vd : BitVec 6) (va : BitVec 6) (vb : BitVec 6) (ty : BitVec 4) (h : BitVec 3)
  /-- VUNZIP (R114): De-interleaves even or odd elements of va and vb. -/
  | vunzip (vd : BitVec 6) (va : BitVec 6) (vb : BitVec 6) (ty : BitVec 4) (h : BitVec 3)
  /-- VRSUM (R115): Sums floating-point elements in a fixed pairwise tree into a g register. -/
  | vrsum (vd : BitVec 5) (va : BitVec 6) (ty : BitVec 4) (rm : BitVec 3)
  /-- VRMAX (R116): Reduces elements to their maximum in a g register. -/
  | vrmax (vd : BitVec 5) (va : BitVec 6) (ty : BitVec 4)
  /-- VRMIN (R116): Reduces elements to their minimum in a g register. -/
  | vrmin (vd : BitVec 5) (va : BitVec 6) (ty : BitVec 4)
  /-- VIRSUM (R116): Sums integer elements modulo 2^64 into a g register. -/
  | virsum (vd : BitVec 5) (va : BitVec 6) (ty : BitVec 4)
  /-- VDOT4 (R117): Accumulates 4-element dot products into 16 lanes of vd. -/
  | vdot4 (vd : BitVec 5) (va : BitVec 6) (vb : BitVec 6) (ty : BitVec 4) (rm : BitVec 3)
  /-- VDOT2 (R117): Accumulates 2-element dot products into 16 lanes of vd. -/
  | vdot2 (vd : BitVec 5) (va : BitVec 6) (vb : BitVec 6) (ty : BitVec 4) (rm : BitVec 3)
  /-- VCVT (R118): Converts one part of the elements between types with one rounding. -/
  | vcvt (vd : BitVec 6) (va : BitVec 6) (part : BitVec 2) (src : BitVec 4) (ty : BitVec 4) (rm : BitVec 3)
  /-- VPACK (R119): Narrows integers with saturation. -/
  | vpack (vd : BitVec 6) (va : BitVec 6) (vb : BitVec 6) (ty : BitVec 4)
  /-- VUNPACK (R119): Widens one half of the integer elements. -/
  | vunpack (vd : BitVec 6) (va : BitVec 6) (part : BitVec 6) (ty : BitVec 4)
  /-- VQNT (R120): Quantises 32 bf16 values with an E8M0 scale. -/
  | vqnt (vd : BitVec 6) (va : BitVec 6) (gs : BitVec 4) (ty : BitVec 4) (rm : BitVec 3)
  /-- VPOPX (R121): Counts the bits set in both of two 512-bit operands. -/
  | vpopx (vd : BitVec 5) (va : BitVec 6) (vb : BitVec 6)
  /-- VCOMPR (R122): Compacts the elements selected by a bitmap. -/
  | vcompr (vd : BitVec 6) (va : BitVec 6) (vb : BitVec 6) (ty : BitVec 4)
  /-- VEXPND (R122): Expands consecutive elements to the positions set in a bitmap. -/
  | vexpnd (vd : BitVec 6) (va : BitVec 6) (vb : BitVec 6) (ty : BitVec 4)
  /-- VCBD (R123): Decodes cb2 indices into weights through a codebook bank. -/
  | vcbd (vd : BitVec 6) (va : BitVec 6) (bank : BitVec 1) (start : BitVec 5) (ty : BitVec 4)
  /-- MMA_E4E4 (R135): Accumulates a 32x32 product of e4m3 A rows and an e4m3 B latch, K 64. -/
  | mmaE4e4 (acc : BitVec 2) (ga : BitVec 5) (latch : BitVec 1) (stride : BitVec 6)
  /-- MMA_E4E5 (R135): Matrix multiply-accumulate of e4m3 A and e5m2 B. -/
  | mmaE4e5 (acc : BitVec 2) (ga : BitVec 5) (latch : BitVec 1) (stride : BitVec 6)
  /-- MMA_E5E4 (R135): Matrix multiply-accumulate of e5m2 A and e4m3 B. -/
  | mmaE5e4 (acc : BitVec 2) (ga : BitVec 5) (latch : BitVec 1) (stride : BitVec 6)
  /-- MMA_E5E5 (R135): Matrix multiply-accumulate of e5m2 A and e5m2 B. -/
  | mmaE5e5 (acc : BitVec 2) (ga : BitVec 5) (latch : BitVec 1) (stride : BitVec 6)
  /-- MMA_BF16 (R135): Matrix multiply-accumulate of bf16 operands, K 32. -/
  | mmaBf16 (acc : BitVec 2) (ga : BitVec 5) (latch : BitVec 1) (stride : BitVec 6)
  /-- MMA_F16 (R135): Matrix multiply-accumulate of f16 operands, K 32. -/
  | mmaF16 (acc : BitVec 2) (ga : BitVec 5) (latch : BitVec 1) (stride : BitVec 6)
  /-- MMA_E3M2 (R135): Matrix multiply-accumulate of e3m2 operands. -/
  | mmaE3m2 (acc : BitVec 2) (ga : BitVec 5) (latch : BitVec 1) (stride : BitVec 6)
  /-- MMA_E2M3 (R135): Matrix multiply-accumulate of e2m3 operands. -/
  | mmaE2m3 (acc : BitVec 2) (ga : BitVec 5) (latch : BitVec 1) (stride : BitVec 6)
  /-- MMA_E2M1 (R135): Matrix multiply-accumulate of e2m1 operands, K 128. -/
  | mmaE2m1 (acc : BitVec 2) (ga : BitVec 5) (latch : BitVec 1) (stride : BitVec 6)
  /-- MMA_CB2E4 (R135): Matrix multiply-accumulate of cb2 codebook A and e4m3 B. -/
  | mmaCb2e4 (acc : BitVec 2) (ga : BitVec 5) (latch : BitVec 1) (bank : BitVec 1) (stride : BitVec 6)
  /-- MMA_S8 (R135): Integer matrix multiply-accumulate of s8 operands into s32 words. -/
  | mmaS8 (acc : BitVec 2) (ga : BitVec 5) (latch : BitVec 1) (stride : BitVec 6)
  /-- MMA_CB2BF (R135): Matrix multiply-accumulate of cb2 A and bf16 B, K 32. -/
  | mmaCb2bf (acc : BitVec 2) (ga : BitVec 5) (latch : BitVec 1) (bank : BitVec 1) (stride : BitVec 6)
  /-- MZERO (R136): Zeroes an accumulator after earlier MMAs into it. -/
  | mzero (acc : BitVec 2)
  /-- MST (R137): Converts and stores an accumulator to local memory. -/
  | mst (acc : BitVec 2) (ga : BitVec 5) (ty : BitVec 4) (rm : BitVec 3)
  /-- MLD (R138): Loads an accumulator from local memory. -/
  | mld (acc : BitVec 2) (ga : BitVec 5) (ty : BitVec 4)
  /-- BLD_MEMORY (R139): Fills a B latch with 2,048 bytes from local memory. -/
  | bldMemory (ga : BitVec 5) (latch : BitVec 1)
  /-- BLD_QUEUE (R139): Fills a B latch by popping 32 entries of a queue. -/
  | bldQueue (q : BitVec 3) (latch : BitVec 1)
  /-- BPASS (R140): Hands a FULL latch's tile to the successor core on the Seam. -/
  | bpass (latch : BitVec 1)
  /-- BWAIT (R141): Waits until a latch is FULL, opening a CLOSED latch. -/
  | bwait (latch : BitVec 1)
  /-- MACHINE_CHECK (R151): A known store, load or save failure is taken as a machine check at the hart's next bundle boundary. -/
  | machineCheck (h : Nat)
  /-- SCRUB_WORD (R74): The scrubber checks one register word, correcting it or marking it poisoned. -/
  | scrubWord (c : Nat)
  /-- MMA_COMPLETE (R135): An issued MMA finishes on the matrix unit and its flags reach sy.fflags. -/
  | mmaComplete (c : Nat)
  /-- SEAM_HANDOFF_BEGIN (R134): A pending hand-off starts sending its 32 beats once earlier MMAs have read the latch and the successor accepts. -/
  | seamHandoffBegin (c : Nat) (l : Bool)
  /-- SEAM_ARRIVAL_LANDED (R133): The last beat of a tile lands and the receiving latch becomes FULL. -/
  | seamArrivalLanded (c : Nat) (l : Bool)
  /-- BALLAST_MMA (R332): The Yoke issues a ballast MMA into a null accumulator on an idle matrix unit and counts it. -/
  | ballastMma (c : Nat)
  /-- PAGE_WALK_COMPLETE (R287): A page walk returns and fills a PLB entry, or the waiting bundle traps. -/
  | pageWalkComplete (c : Nat)
  /-- FILL_ARRIVES (R180): A fill reply lands in a near cache as clean fragments that coalesce with neighbours. -/
  | fillArrives (c : Nat)
  /-- IDLE_COALESCE (R182): In a cycle with no lookup, a set joins one pair of compatible abutting entries. -/
  | idleCoalesce (c st : Nat)
  /-- HOME_STORE (R189): A home performs a shared store, holds overlapping fills and sends invalidations to sharers. -/
  | homeStore (h : Nat)
  /-- HOME_FILL (R189): A home answers a fill request, fetching from HBM and recording the sharer. -/
  | homeFill (h : Nat)
  /-- HOME_WRITEBACK (R185): A home merges a private write-back into its entry as a store of those bytes. -/
  | homeWriteback (h : Nat)
  /-- FAR_ATOMIC (R221): A far-atomic unit performs an atomic, or adds a posted add to a combining group, in home order. -/
  | farAtomic (h : Nat)
  /-- AMO_GROUP_TIMEOUT (R223): A combining group closes and is performed 64 fabric cycles after its first member. -/
  | amoGroupTimeout (h : Nat)
  /-- INVALIDATE (R192): A cluster filter forwards an invalidation to its sharing cores, which trim the overlapped bytes, and acknowledges. -/
  | invalidate (k : Nat)
  /-- REMOTE_INVALIDATE (R191): A remote filter forwards a home's invalidation to its clusters and acknowledges to the home. -/
  | remoteInvalidate (dev region lo hi : Nat)
  /-- INVALIDATE_ACK (R189): A home receives the last invalidation acknowledgement, clears bits, releases held fills and acknowledges the writer. -/
  | invalidateAck (h : Nat)
  /-- INVALIDATE_TIMEOUT (R193): After three failed attempts within 10 µs the home fences the unreachable party and completes the store. -/
  | invalidateTimeout (h party : Nat)
  /-- ACK_RECEIVED (R184): A store, atomic or message acknowledgement reaches its hart and sy.unacked decrements. -/
  | ackReceived (h : Nat)
  /-- EGRESS_COMBINE_TIMEOUT (R270): An egress combining group of loads goes out 64 cycles after its first member. -/
  | egressCombineTimeout (k : Nat)
  /-- BOLT_STORE (R199): The Bolt performs a store to a block, recompressing it, compacting or refusing. -/
  | boltStore (k : Nat)
  /-- BOLT_READ (R200): The Bolt serves a read from the expander, expanding the block on a miss. -/
  | boltRead (k : Nat)
  /-- FORWARDED_WINDOW_ACCESS (R206): An access to a window's global bytes is forwarded by its home and performed in the owning core's local memory. -/
  | forwardedWindowAccess (c : Nat)
  /-- WUNMAP_DRAIN_COMPLETE (R296): A window's lazy write-back ends, the homes release it, the entry becomes invalid and the named counter is decremented. -/
  | wunmapDrainComplete (c n : Nat)
  /-- SOWER_WALK_STEP (R226): The Sower performs one step of a publication walk. -/
  | sowerWalkStep (k : Nat)
  /-- PUBLICATION_NOTICE (R228): A cluster receives a publication notice, updates PLB masks, trims clean private ranges and acknowledges. -/
  | publicationNotice (k : Nat)
  /-- PUB_COMPLETE (R228): Once every cluster has acknowledged, PUB writes its status with release. -/
  | pubComplete (h : Nat)
  /-- MESSAGE_ARRIVAL (R261): A core's port takes an active message: checks, transform, landing, decrement and task creation. -/
  | messageArrival (c : Nat)
  /-- CHANNEL_PACKET_ARRIVAL (R268): A channel packet's payload is pushed as whole entries onto a hart's queue. -/
  | channelPacketArrival (c : Nat)
  /-- COUNT_MODE_ARRIVAL (R264): A payload-less decrement from an engine, WUNMAP, doorbell or remote exit is applied at the counter's port. -/
  | countModeArrival (c : Nat)
  /-- TASK_DISPATCH (R310): A free hart takes the highest-priority ready task, or a deque entry, and starts or restores it. -/
  | taskDispatch (h : Nat)
  /-- DEQUE_AGEING (R311): A deque entry that has waited 4,096 cycles moves to the tail of the run queue. -/
  | dequeAgeing (c : Nat)
  /-- DRILL_CYCLE (R316): Each die's Drill admits at most one task per cycle from its admission list. -/
  | drillCycle (d : Nat)
  /-- PREEMPTION_REQUEST (R160): The Drill requests pre-emption of a running task whose hart has a free save slot. -/
  | preemptionRequest (h : Nat) (dest : Option Nat)
  /-- FORCED_SAVE (R160): 100 µs after a pre-emption request, the task is saved in full at the next bundle boundary. -/
  | forcedSave (h : Nat)
  /-- REGISTER_CONTEXT_ARRIVAL (R167): A migrated task's register-context message lands in the reserved slot and the task enters the run queue. -/
  | registerContextArrival (c : Nat)
  /-- LOAD_REPLY_FORWARDED (R169): A late load reply for a migrated task is forwarded and written to its pending register or slot. -/
  | loadReplyForwarded (c : Nat)
  /-- COPY (R275): A copy hart accepts a copy command (op 1) and starts the job. -/
  | copy (e : Nat)
  /-- COPY_CHUNK (R275): A copy hart reads and writes one 512-byte source chunk, or raises a copy fault. -/
  | copyChunk (e : Nat)
  /-- ALL_REDUCE (R350): The collective hart performs an all-reduce command over a group. -/
  | allReduce (e : Nat) (others : List (List Byte))
  /-- REDUCE_SCATTER (R350): The collective hart performs a reduce-scatter command. -/
  | reduceScatter (e : Nat) (others : List (List Byte))
  /-- ALL_GATHER (R350): The collective hart performs an all-gather command. -/
  | allGather (e : Nat) (others : List (List Byte))
  /-- BROADCAST (R350): The collective hart performs a broadcast from a root rank. -/
  | broadcast (e : Nat) (others : List (List Byte))
  /-- MEDIA_DECODE (R351): A media block decodes one frame, resizes, converts colour and writes a tensor. -/
  | mediaDecode (e : Nat)
  /-- JOB_COMPLETE (R273): After its stores are acknowledged, an engine stores the mailbox, decrements the counter and records status. -/
  | jobComplete (e : Nat)
  /-- GLEANER_VISIT (R325): The Gleaner visits one point, issuing it, deferring it with a prefetch, or counting it done. -/
  | gleanerVisit (k slot : Nat)
  /-- GLEANER_PASS_START (R325): A later pass over the deferred list begins once the previous pass ended and 512 cycles passed. -/
  | gleanerPassStart (k slot : Nat)
  /-- RAMP_SLOT_BOUNDARY (R331): At each 1 µs slot boundary the Yoke renews budgets, sets the ballast floor, boosts and checks pinned launches. -/
  | rampSlotBoundary
  /-- WAITE_DEADLINE (R91): A WAITE's deadline passes and it completes with 0, or 1 in class 0. -/
  | waiteDeadline (h : Nat)
  /-- HOST_WRITE (R338): A host or peer write through a host window or CXL.mem is performed as a system-scope store-release. -/
  | hostWrite (path : HostPath) (off : Nat) (data : List Byte)
  /-- HOST_READ (R338): A host read through a host window is performed as a strong system-scope load. -/
  | hostRead (path : HostPath) (off len : Nat)
  /-- DOORBELL_WRITE (R339): A 4-byte write to the doorbell page decrements the named counter as a count-mode arrival. -/
  | doorbellWrite (size : Nat) (value : BitVec 32)
  /-- OWNER_CAS (R342): A 64-bit CAS on the owner register changes ownership under the handover rules. -/
  | ownerCas (m : Master) (expected new : BitVec 64)
  /-- HOST_LAUNCH (R340): A write to a host launch register submits a descriptor to a die's Drill for the partition. -/
  | hostLaunch (m : Master) (p : BitVec 4) (value : BitVec 64)
  /-- HOST_RESUME (R340): A write of handle and action to the host resume registers resumes or cancels a parked hart. -/
  | hostResume (m : Master) (handle action : BitVec 64)
  /-- TRAP_ACKNOWLEDGE (R346): A write to a partition's trap acknowledge register retires the shown payload and shows the next. -/
  | trapAcknowledge (m : Master) (p : BitVec 4)
  /-- HOST_TRAP_DELIVERY (R346): A trap message for the host enters the partition's queue and raises MSI-X vector 0. -/
  | hostTrapDelivery (c : Nat)
  /-- PARTITION_WRITE (R345): The owner writes a partition entry, dropped if its groups overlap another valid entry. -/
  | partitionWrite (m : Master) (p : BitVec 4) (w0 w1 w2 w3 : BitVec 64)
  /-- SAMPLING_PULSE (R356): A write of bit 0 or a trigger makes every hart latch its state and each die write a sampling record. -/
  | samplingPulse (m : Option Master)
  /-- SAMPLING_PERIOD (R356): The sampling period expires and a device-wide sampling pulse is made. -/
  | samplingPeriod
  /-- DEBUG_HALT (R354): A match, owner request or cross-trigger halts a cluster at its bundle boundaries. -/
  | debugHalt (m : Option Master) (k : Nat)
  /-- DEBUG_REGISTER_WRITE (R355): A debugger write replaces an architectural register of a halted cluster. -/
  | debugRegisterWrite (m : Master) (h : Nat) (r : DebugReg)
  /-- REGISTER_WRITE (R340): A write to a management register with no behaviour of its own stores the value if the master may write it. -/
  | registerWrite (m : Master) (off : Nat) (value : BitVec 64)
  /-- LINK_PORT_FAILURE (R348): A Jareb Link port is declared failed and its plane's new traffic waits. -/
  | linkPortFailure (p : Nat)
  /-- LINK_FAILOVER_TIMEOUT (R348): 10 µs after a port failure, outstanding flits are declared lost and traffic moves to the next plane. -/
  | linkFailoverTimeout (p : Nat)
  /-- POWER_ON (R341): The controller checks the signed image, configures the device and releases the dies. -/
  | powerOn (img : Image)
  /-- DEVICE_RESET (R298): Device reset puts tables, queues, counters and system registers in their reset state. -/
  | deviceReset
  /-- UNIT_READY (R343): A unit passes its self-test and sets its ready bit. -/
  | unitReady (u : DevUnit)
  /-- UNIT_MAPPED_OUT (R344): A failing unit is mapped out and the device continues without it. -/
  | unitMappedOut (u : DevUnit)
  /-- FATAL_ERROR (R353): A fatal error stops every hart and firmware writes the dump. -/
  | fatalError (cause : BitVec 64)
  /-- DUMP_RESEND_REQUEST (R353): A collector datagram asks for missing dump bytes, which are sent again. -/
  | dumpResendRequest (off len : Nat)
  /-- CLUSTER_RESUME (R354): A halted cluster resumes issuing, its waiting tasks may run and CANCELs of halted tasks take effect. -/
  | clusterResume (m : Master) (k : Nat)
  /-- SOFT_ERROR (R194): A soft error flips bits of a register word or of a cache or Bolt granule, to be corrected or poisoned. -/
  | softError (t : ErrTarget)
  /-- PLBINV_DROP (R287): A PLBINV drop reaches a core, home or page-walk unit, drops matching entries, discards walks in progress and acknowledges once accesses under them are performed. -/
  | plbinvDrop (p : PlbDrop)
  /-- PEER_READ_COMPLETION (R278): The PCIe completion of a non-posted peer-window read returns and the waiting load is completed. -/
  | peerReadCompletion (data : List Byte)
  /-- MALFORMED_COMMAND (R273): An engine reads a command whose op or fields it does not accept, does nothing and completes the job with status 2. -/
  | malformedCommand (e : Nat)
  deriving DecidableEq, Repr

end Sys2Proof
end

