-- ==== Sys2Proof/WellFormed.lean ====
section
/-! DEFINITION. Which field values are legal (R45 to R54, and the limits of each instruction's own rule).
An instruction that fails its check traps as an illegal instruction. -/

namespace Sys2Proof

/-- Element types, in the order of mod [6:3] (R53). -/
inductive Ty where
  | f32 | f16 | bf16 | e5m2 | e4m3 | e3m2 | e2m3 | e2m1 | s8 | z8 | s16 | z16 | s32 | z32 | s64 | cb2
  deriving DecidableEq, Repr

/-- The type of a code (R53). -/
def Ty.of (c : BitVec 4) : Ty :=
  match c.toNat with
  | 0 => .f32 | 1 => .f16 | 2 => .bf16 | 3 => .e5m2 | 4 => .e4m3 | 5 => .e3m2 | 6 => .e2m3 | 7 => .e2m1
  | 8 => .s8 | 9 => .z8 | 10 => .s16 | 11 => .z16 | 12 => .s32 | 13 => .z32 | 14 => .s64 | _ => .cb2

/-- The element width w (R53, R94). -/
def Ty.width : Ty → Nat
  | .f32 | .s32 | .z32 => 32
  | .f16 | .bf16 | .s16 | .z16 | .cb2 => 16
  | .e5m2 | .e4m3 | .s8 | .z8 => 8
  | .s64 => 64
  | .e3m2 | .e2m3 => 6
  | .e2m1 => 4

/-- The lane count L (R94). -/
def Ty.lanes : Ty → Nat
  | .f32 | .s32 | .z32 => 16
  | .f16 | .bf16 | .s16 | .z16 | .cb2 => 32
  | .e5m2 | .e4m3 | .s8 | .z8 | .e3m2 | .e2m3 => 64
  | .s64 => 8
  | .e2m1 => 128

/-- The set F of R105. -/
def Ty.isF : Ty → Bool
  | .f32 | .f16 | .bf16 => true
  | _ => false

/-- The set I of R105. -/
def Ty.isI : Ty → Bool
  | .s8 | .z8 | .s16 | .z16 | .s32 | .z32 | .s64 => true
  | _ => false

/-- The signed integer types (R98). -/
def Ty.signed : Ty → Bool
  | .s8 | .s16 | .s32 | .s64 => true
  | _ => false

/-- The set W of R105. -/
def Ty.isW (t : Ty) : Bool := !(t == .e3m2 || t == .e2m3 || t == .e2m1)

/-- Floating-point formats (R95). -/
def Ty.isFloat : Ty → Bool
  | .f32 | .f16 | .bf16 | .e5m2 | .e4m3 | .e3m2 | .e2m3 | .e2m1 => true
  | _ => false

/-- A weak access has scope 00 (R46), and the kind is one of those of the class (R45). -/
def ordOk (kinds : List Nat) (o : BitVec 4) : Bool :=
  kinds.contains (o.toNat / 4) && (o.toNat / 4 != 0 || o.toNat % 4 == 0)

/-- Load kinds: weak, strong relaxed, acquire (R45). -/
def ordLoad : BitVec 4 → Bool := ordOk [0, 1, 2]
/-- Store kinds: weak, strong relaxed, release (R45). -/
def ordStore : BitVec 4 → Bool := ordOk [0, 1, 2]
/-- Atomic kinds: weak, strong relaxed, acquire-release (R45). -/
def ordAmo : BitVec 4 → Bool := ordOk [0, 1, 3]
/-- FENCE kinds (R45). -/
def ordFence : BitVec 4 → Bool := ordOk [2, 3]
/-- CLN and INV kinds (R45). -/
def ordClean : BitVec 4 → Bool := ordOk [0, 1]

/-- A vector destination: v0 to v31, or a push (R51, R54). -/
def destV (d : BitVec 6) : Bool := d.toNat < 40
/-- A vector destination that is also read (R105). -/
def destRead (d : BitVec 6) : Bool := d.toNat < 32
/-- A mask destination m1 to m7 (R54). -/
def destM (d : BitVec 6) : Bool := 41 ≤ d.toNat && d.toNat < 48
/-- A mask source m0 to m7 (R54). -/
def srcM (d : BitVec 6) : Bool := 40 ≤ d.toNat && d.toNat < 48

/-- The system registers that exist, and whether SYW may write them (R68). -/
def sysAssigned (n : BitVec 10) : Bool :=
  [0x000, 0x001, 0x002, 0x003, 0x004, 0x008, 0x009, 0x00A, 0x00B, 0x010, 0x011, 0x012, 0x013, 0x018, 0x019, 0x01A,
   0x020, 0x021, 0x022, 0x023, 0x024].contains n.toNat
def sysReadOnly (n : BitVec 10) : Bool := [0x000, 0x001, 0x003, 0x00B, 0x018, 0x019, 0x01A].contains n.toNat

/-- A WAITE event: class in [9:8], argument in [7:0] (R91). -/
def eventOk (e : BitVec 10) : Bool :=
  match e.toNat / 256 with
  | 0 => e.toNat % 256 == 0
  | 1 => true
  | 2 => e.toNat % 256 < 64
  | _ => false

/-- VCVT's part and types (R118). -/
def cvtOk (d s : Ty) (p : Nat) (vd : BitVec 6) : Bool :=
  let n := min s.lanes d.lanes
  let ratio := max s.lanes d.lanes / n
  s != .cb2 && d != .cb2 && ratio ≤ 4 && p < ratio && destV vd && (d.lanes ≤ s.lanes || destRead vd)

/-- Types of MST with their rounding codes (R137). -/
def mstOk (t : Ty) (rm : BitVec 3) : Bool := t.isFloat || (t.isI && t != .s64 && rm == 0)
/-- Types of MLD (R138). -/
def mldOk : Ty → Bool
  | .f32 | .s32 | .z32 | .f16 | .bf16 | .s8 | .s16 | .z8 | .z16 => true
  | _ => false
/-- Types of VDOT4 and VDOT2 with their rounding codes (R117). -/
def dot4Ok (t : Ty) (rm : BitVec 3) : Bool := t == .e4m3 || t == .e5m2 || ((t == .s8 || t == .z8) && rm == 0)
def dot2Ok (t : Ty) (rm : BitVec 3) : Bool := t == .bf16 || t == .f16 || ((t == .s16 || t == .z16) && rm == 0)
/-- Types of VPACK and VUNPACK (R119). -/
def packOk (t : Ty) : Bool := t.isI && t != .s64
def unpackOk (t : Ty) : Bool := t.isI && t != .s8 && t != .z8
/-- Types of VQNT (R120). -/
def qntOk (t : Ty) : Bool := [Ty.e5m2, .e4m3, .e3m2, .e2m3, .e2m1, .s8].contains t
/-- Indices that one VCBD decodes (R123). -/
def cbdCount (t : Ty) : Nat := if t == .f32 then 2 else 4

/-- A hart, core, cluster, home slice, die, engine number that exists (R13, R271). -/
def isHart (h : Nat) : Bool := h < 16384
def isCore (c : Nat) : Bool := c < 4096
def isCluster (k : Nat) : Bool := k < 256
def isHome (h : Nat) : Bool := h < 2048
/-- Engines: 4k + e for copy hart e = 0, 1 or collective hart e = 2 of cluster k; 1024 + b for media block b. -/
def isEngine (e : Nat) : Bool := (e < 1024 && e % 4 != 3) || (1024 ≤ e && e < 1032)

/-- The check: every field of the instruction has a value that its rule allows. -/
def wellFormed : Instr → Bool
  | .loop _ ra _ => ra != 0
  | .fork _ _ n _ => n.toNat ≤ 8
  | .ldb _ _ _ o _ | .ldbu _ _ _ o _ | .ldh _ _ _ o _ | .ldhu _ _ _ o _ | .ldw _ _ _ o _ | .ldwu _ _ _ o _
  | .ldd _ _ _ o _ | .ldt _ _ _ o _ => ordLoad o
  | .stb _ _ _ o _ | .sth _ _ _ o _ | .stw _ _ _ o _ | .std _ _ _ o _ | .stref _ _ _ o _ => ordStore o
  | .vld _ _ _ o _ _ _ | .vldx _ _ _ o _ _ _ _ => ordLoad o
  | .vst _ _ _ o _ _ _ | .vstx _ _ _ o _ _ _ _ => ordStore o
  | .amoadd _ _ _ _ o _ | .amoand _ _ _ _ o _ | .amoor _ _ _ _ o _ | .amoxor _ _ _ _ o _ | .amomin _ _ _ _ o _
  | .amomax _ _ _ _ o _ | .amominu _ _ _ _ o _ | .amomaxu _ _ _ _ o _ | .amoswap _ _ _ _ o _ | .amocas _ _ _ _ o _
  | .amofadd _ _ _ _ o | .amofaddv _ _ _ o _ _ _ => ordAmo o
  | .fence _ _ o => ordFence o
  | .pref _ _ l _ => 1 ≤ l.toNat && l.toNat ≤ 3
  | .resq _ _ _ l _ => l.toNat ≤ 3
  | .cln _ _ o _ | .inv _ _ o _ => ordClean o
  | .cancel _ _ _ op => op.toNat / 8 == 0 || op.toNat % 4 == 3
  | .qstat _ _ q => q.toNat < 8
  | .enq _ _ _ rb e => e.toNat < 3 || (8 ≤ e.toNat && e.toNat < 16 && rb == 0)
  | .gstat _ _ _ op => op.toNat < 3
  | .plbinv _ _ _ _ f => f.toNat < 8
  | .wmap _ _ _ _ n | .wunmap _ _ _ n => n.toNat < 16
  | .cbld _ _ b => b.toNat < 2
  | .syr _ _ n => sysAssigned n
  | .syw _ _ n => sysAssigned n && !sysReadOnly n
  | .waite _ _ _ e => eventOk e
  | .resume _ _ _ a => a.toNat < 3
  | .vadd d _ _ t _ | .vsub d _ _ t _ | .vmul d _ _ t _ => destV d && (Ty.of t).isF
  | .vmin d _ _ t | .vmax d _ _ t => destV d && (Ty.of t).isF
  | .vfma _ _ _ t _ | .vfms _ _ _ t _ | .vfnma _ _ _ t _ => (Ty.of t).isF
  | .vabs d _ t | .vneg d _ t => destV d && (Ty.of t).isF
  | .vrcp d _ t _ | .vrsq d _ t _ | .vexp2 d _ t _ | .vlog2 d _ t _ => destV d && (Ty.of t).isF
  | .viadd d _ _ t | .visub d _ _ t | .vimul d _ _ t | .vimulh d _ _ t | .vand d _ _ t | .vor d _ _ t | .vxor d _ _ t
  | .vshl d _ _ t | .vshr d _ _ t | .vsra d _ _ t | .vimin d _ _ t | .vimax d _ _ t => destV d && (Ty.of t).isI
  | .vfcmp d _ _ t _ => destM d && (Ty.of t).isF
  | .vicmp d _ _ t c => destM d && (Ty.of t).isI && c.toNat < 6
  | .vsel d _ _ _ _ => destV d
  | .mand d a b | .mor d a b | .mxor d a b => destM d && srcM a && srcM b
  | .mnot d a => destM d && srcM a
  | .mpop _ a | .mfirst _ a => srcM a
  | .vbcast d _ k t => destV d && (Ty.of t).isW && k.toNat < (Ty.of t).lanes
  | .vextr _ _ k t => (Ty.of t).isW && k.toNat < (Ty.of t).lanes
  | .vins d _ k t => destRead d && (Ty.of t).isW && k.toNat < (Ty.of t).lanes
  | .vperm d _ _ t => destV d && (Ty.of t).isW
  | .vrot d _ k t => destV d && (Ty.of t).isW && k.toNat < (Ty.of t).lanes
  | .vslide d _ k t => destRead d && (Ty.of t).isW && k.toNat < (Ty.of t).lanes
  | .vzip d _ _ t h | .vunzip d _ _ t h => destV d && (Ty.of t).isW && h.toNat < 2
  | .vrsum _ _ t _ => (Ty.of t).isF
  | .vrmax _ _ t | .vrmin _ _ t => (Ty.of t).isF || (Ty.of t).isI
  | .virsum _ _ t => (Ty.of t).isI
  | .vdot4 _ _ _ t rm => dot4Ok (Ty.of t) rm
  | .vdot2 _ _ _ t rm => dot2Ok (Ty.of t) rm
  | .vcvt d _ p src t _ => cvtOk (Ty.of t) (Ty.of src) p.toNat d
  | .vpack d _ _ t => destV d && packOk (Ty.of t)
  | .vunpack d _ p t => destV d && unpackOk (Ty.of t) && p.toNat < 2
  | .vqnt d _ _ t _ => destV d && qntOk (Ty.of t)
  | .vcompr d _ _ t | .vexpnd d _ _ t => destV d && (Ty.of t).isW
  | .vcbd d _ _ st t => destV d && (Ty.of t).isF && st.toNat + cbdCount (Ty.of t) ≤ 32
  | .mst _ _ t rm => mstOk (Ty.of t) rm
  | .mld _ _ t => mldOk (Ty.of t)
  | .machineCheck h | .ackReceived h | .pubComplete h | .taskDispatch h | .forcedSave h | .waiteDeadline h => isHart h
  | .preemptionRequest h d => isHart h && d.all isHart
  | .scrubWord c | .mmaComplete c | .seamHandoffBegin c _ | .seamArrivalLanded c _ | .ballastMma c | .pageWalkComplete c
  | .fillArrives c | .forwardedWindowAccess c | .messageArrival c | .channelPacketArrival c | .countModeArrival c
  | .dequeAgeing c | .registerContextArrival c | .loadReplyForwarded c | .hostTrapDelivery c => isCore c
  | .idleCoalesce c st => (isCore c && st < 32) || (4096 ≤ c && isHome (c - 4096) && st < 128)
  | .wunmapDrainComplete c n => isCore c && n < 16
  | .homeStore h | .homeFill h | .homeWriteback h | .farAtomic h | .amoGroupTimeout h | .invalidateAck h
  | .invalidateTimeout h _ => isHome h
  | .plbinvDrop (.own h) => isHart h
  | .plbinvDrop (.far hid _) => 16384 ≤ hid && hid < 16384 * 1025
  | .invalidate k | .egressCombineTimeout k | .boltStore k | .boltRead k | .sowerWalkStep k | .publicationNotice k
  | .debugHalt _ k | .clusterResume _ k => isCluster k
  | .remoteInvalidate dev _ lo hi => dev < 1024 && lo < hi && hi ≤ 512
  | .drillCycle d => d < 4
  | .copy e | .copyChunk e | .mediaDecode e | .jobComplete e | .malformedCommand e => isEngine e
  | .allReduce e _ | .reduceScatter e _ | .allGather e _ | .broadcast e _ => isEngine e && e % 4 == 2
  | .gleanerVisit k sl | .gleanerPassStart k sl => isCluster k && sl < 4
  | .linkPortFailure p | .linkFailoverTimeout p => p < 18
  | .debugRegisterWrite _ h _ => isHart h
  | _ => true

end Sys2Proof
end

