-- ==== Sys2Proof/Machine/Float.lean ====
section
/-! DEFINITION. Floating-point formats (R95, R96), exact values, the one rounding step (R64, R100 to R103), the generator of
stochastic rounding (R76), and the correctly rounded functions of R109. -/

namespace Sys2Proof

/-- Mantissa bits m of a format (R95). -/
def Ty.mbits : Ty → Nat
  | .f32 => 23 | .f16 => 10 | .bf16 => 7 | .e5m2 => 2 | .e4m3 => 3 | .e3m2 => 2 | .e2m3 => 3 | .e2m1 => 1 | _ => 0

/-- Exponent bits of a format (R95). -/
def Ty.ebits : Ty → Nat
  | .f32 | .bf16 => 8 | .f16 | .e5m2 => 5 | .e4m3 => 4 | .e3m2 => 3 | .e2m3 | .e2m1 => 2 | _ => 0

/-- The bias of a format (R95). -/
def Ty.bias : Ty → Nat
  | .f32 | .bf16 => 127 | .f16 | .e5m2 => 15 | .e4m3 => 7 | .e3m2 => 3 | _ => 1

/-- The format has infinities (R96). -/
def Ty.hasInf : Ty → Bool
  | .f32 | .f16 | .bf16 | .e5m2 => true
  | _ => false

/-- The format always clamps (R100). -/
def Ty.clamps : Ty → Bool
  | .e3m2 | .e2m3 | .e2m1 => true
  | _ => false

/-- The canonical NaN (R96). -/
def Ty.nanBits : Ty → Nat
  | .f32 => 0x7FC00000 | .f16 => 0x7E00 | .bf16 => 0x7FC0 | .e5m2 => 0x7E | .e4m3 => 0x7F | _ => 0

/-- The largest finite value's encoding without its sign (R95). -/
def Ty.maxBits : Ty → Nat
  | .f32 => 0x7F7FFFFF | .f16 => 0x7BFF | .bf16 => 0x7F7F | .e5m2 => 0x7B | .e4m3 => 0x7E | .e3m2 | .e2m3 => 0x1F | _ => 7

/-- The infinity's encoding without its sign. -/
def Ty.infBits (t : Ty) : Nat := (2 ^ t.ebits - 1) * 2 ^ t.mbits

/-- The sign bit of an encoding. -/
def Ty.signBit (t : Ty) : Nat := 2 ^ (t.ebits + t.mbits)

/-- The bounds of an integer type. -/
def Ty.lo (t : Ty) : Int := if t.signed then -(2 ^ (t.width - 1)) else 0
def Ty.top (t : Ty) : Int := if t.signed then 2 ^ (t.width - 1) - 1 else 2 ^ t.width - 1

end Sys2Proof

namespace Sys2Proof.Machine

/-! ### The generator -/

/-- rng_next of R76: the next state. -/
def rngStep (s : Word) : Word :=
  let s := s ^^^ (s <<< 13)
  let s := s ^^^ (s >>> 7)
  s ^^^ (s <<< 17)

/-- The state after n draws. -/
def rngAfter (s : Word) : Nat → Word
  | 0 => s
  | n + 1 => rngAfter (rngStep s) n

/-- The draw that a state came with: its bits [63:32]. -/
def drawOf (s : Word) : Nat := bf s 32 32

/-! ### Values -/

/-- What an encoding stands for. A number is (-1)^s * m * 2^e; m = 0 is a signed zero. -/
inductive FVal where
  | nan (signalling : Bool)
  | inf (s : Bool)
  | num (s : Bool) (m : Nat) (e : Int)
  deriving DecidableEq, Repr

/-- The value of an encoding of a float format (R95, R96). -/
def fdecode (t : Ty) (x : Nat) : FVal :=
  let s := x / t.signBit % 2 == 1
  let e := x / 2 ^ t.mbits % 2 ^ t.ebits
  let m := x % 2 ^ t.mbits
  let isF := t.isF
  if t.hasInf && e == 2 ^ t.ebits - 1 then
    if m == 0 then .inf s else .nan (isF && m < 2 ^ (t.mbits - 1))
  else if t == .e4m3 && e == 15 && m == 7 then .nan false
  else if e == 0 then .num s m (1 - (t.bias : Int) - t.mbits)
  else .num s (2 ^ t.mbits + m) ((e : Int) - t.bias - t.mbits)

/-- The exact value of an integer element of type t (R98). -/
def idecode (t : Ty) (x : Nat) : Int :=
  if t.signed && 2 ^ (t.width - 1) ≤ x then (x : Int) - 2 ^ t.width else x

/-- An integer as a value. -/
def FVal.ofInt (i : Int) : FVal := .num (i < 0) i.natAbs 0

def FVal.isNan : FVal → Bool
  | .nan _ => true
  | _ => false

def FVal.isSig : FVal → Bool
  | .nan s => s
  | _ => false

def FVal.isZero : FVal → Bool
  | .num _ m _ => m == 0
  | _ => false

def FVal.neg : FVal → FVal
  | .nan g => .nan g
  | .inf s => .inf (!s)
  | .num s m e => .num (!s) m e

/-! ### Rounding -/

/-- The flags of R102: invalid 1, overflow 2, underflow 4, inexact 8, saturate 16. -/
abbrev Flags := BitVec 5

def flagInvalid : Flags := 1
def flagOverflow : Flags := 2
def flagUnderflow : Flags := 4
def flagInexact : Flags := 8
def flagSaturate : Flags := 16

/-- A rounding code draws (R101). -/
def rmDraws (rm : BitVec 3) : Bool := rm == 4 || rm == 7
/-- A rounding code saturates (R64). -/
def rmSat (rm : BitVec 3) : Bool := 5 ≤ rm.toNat

/-- Round up the magnitude k + frac, where frac = rem / 2^sh, plus a positive trifle when `st` is set (R64). -/
def roundsUp (rm : BitVec 3) (s : Bool) (draw k rem sh : Nat) (st : Bool) : Bool :=
  let inexact := rem != 0 || st
  match rm.toNat with
  | 0 | 5 => 2 ^ sh < 2 * rem || (2 * rem == 2 ^ sh && (st || k % 2 == 1))
  | 1 | 6 => false
  | 2 => s && inexact
  | 3 => !s && inexact
  | _ =>
    if !inexact then false
    else if s then
      -- the upper neighbour is -k
      let d := 2 ^ 32 * (2 ^ sh - rem)
      !decide (draw < (if st then (d - 1) / 2 ^ sh else d / 2 ^ sh))
    else decide (draw < 2 ^ 32 * rem / 2 ^ sh)

/-- The largest finite magnitude of t as k * 2^q. -/
def maxFinite (t : Ty) : Nat × Int :=
  match fdecode t t.maxBits with
  | .num _ m e => (m, e)
  | _ => (0, 0)

/-- a * 2^e < b * 2^f. -/
def dyLt (a : Nat) (e : Int) (b : Nat) (f : Int) : Bool :=
  if e ≤ f then a < b * 2 ^ (f - e).toNat else a * 2 ^ (e - f).toNat < b

/-- What lies beyond the largest finite value (R100). -/
def overflowed (t : Ty) (rm : BitVec 3) (s : Bool) : Nat × Flags :=
  let sg := if s then t.signBit else 0
  if rmSat rm || t.clamps then (sg + t.maxBits, flagSaturate ||| flagInexact)
  else if t == .e4m3 then (t.nanBits, flagOverflow ||| flagInexact)
  else
    let inf := sg + t.infBits
    let big := sg + t.maxBits
    (match rm.toNat with
      | 1 => big
      | 2 => if s then inf else big
      | 3 => if s then big else inf
      | _ => inf, flagOverflow ||| flagInexact)

/-- The exact magnitude m * 2^e (m ≠ 0), or a value strictly between it and (m + 1) * 2^e when `st` is set, with sign s,
rounded to format t and encoded (R64, R95, R100, R102). -/
def roundTo (t : Ty) (rm : BitVec 3) (draw : Nat) (s : Bool) (m : Nat) (e : Int) (st : Bool) : Nat × Flags :=
  let top := (Nat.log2 m : Int) + e
  let emin : Int := 1 - t.bias
  let q := max top emin - t.mbits
  let (k0, rem, sh) := if q ≤ e then (m * 2 ^ (e - q).toNat, 0, 0) else (m / 2 ^ (q - e).toNat, m % 2 ^ (q - e).toNat, (q - e).toNat)
  let k := if roundsUp rm s draw k0 rem sh st then k0 + 1 else k0
  let inexact := rem != 0 || st
  let (mk, mq) := maxFinite t
  if dyLt mk mq k q then overflowed t rm s
  else
    let fl : Flags := (if inexact then flagInexact else 0) ||| (if inexact && top < emin then flagUnderflow else 0)
    let (k', q') := if k = 2 ^ (t.mbits + 1) then (2 ^ t.mbits, q + 1) else (k, q)
    let sg := if s then t.signBit else 0
    if k' < 2 ^ t.mbits then (sg + k', fl)
    else (sg + (q' + t.mbits + t.bias).toNat * 2 ^ t.mbits + (k' - 2 ^ t.mbits), fl)

/-- A value of a float type as the result of an operation whose specials are settled: NaN and infinity are encoded, a
number is rounded (R96, R100). An exact infinity stays one under a .sat code, without a flag, which is the model's choice (log 53). -/
def fencode (t : Ty) (rm : BitVec 3) (draw : Nat) : FVal → Nat × Flags
  | .nan _ => (t.nanBits, 0)
  | .inf s => ((if s then t.signBit else 0) + t.infBits, 0)
  | .num s m e => if m = 0 then ((if s then t.signBit else 0), 0) else roundTo t rm draw s m e false

/-! ### Exact arithmetic -/

/-- An integer-significand value x * 2^e as a number; an exact zero has the sign z. -/
def FVal.ofScaled (x : Int) (e : Int) (z : Bool) : FVal :=
  if x = 0 then .num z 0 0 else .num (x < 0) x.natAbs e

/-- The exact sum of finite terms, and the sign of an exact zero (R100). -/
def sumNums (rm : BitVec 3) (ts : List (Bool × Nat × Int)) : FVal :=
  let e := ts.foldl (fun a t => min a t.2.2) (match ts with
    | t :: _ => t.2.2
    | [] => 0)
  let x := ts.foldl (fun (a : Int) t =>
    let v : Int := (t.2.1 : Int) * 2 ^ (t.2.2 - e).toNat
    if t.1 then a - v else a + v) 0
  let allNeg := ts.all (fun t => t.2.1 == 0 && t.1)
  let allPos := ts.all (fun t => t.2.1 == 0 && !t.1)
  FVal.ofScaled x e (if allNeg then true else if allPos then false else rm == 2)

/-- The sum of terms that are no NaN: none where it is invalid (infinities of opposite sign). -/
def sumVals (rm : BitVec 3) (vs : List FVal) : Option FVal :=
  let pos := vs.any (fun v => v == .inf false)
  let neg := vs.any (fun v => v == .inf true)
  if pos && neg then none
  else if pos then some (.inf false)
  else if neg then some (.inf true)
  else some (sumNums rm (vs.filterMap (fun v => match v with
    | .num s m e => some (s, m, e)
    | _ => none)))

/-- The product of two values that are no NaN: none where it is invalid (zero times infinity). -/
def mulVals (a b : FVal) : Option FVal :=
  match a, b with
  | .num s m e, .num s' m' e' => some (.num (s != s') (m * m') (e + e'))
  | .inf s, .num s' m' _ => if m' = 0 then none else some (.inf (s != s'))
  | .num s m _, .inf s' => if m = 0 then none else some (.inf (s != s'))
  | .inf s, .inf s' => some (.inf (s != s'))
  | .nan g, _ => some (.nan g)
  | _, .nan g => some (.nan g)

/-- The result of an operation whose exact value is `r` (none: invalid), on operands `ops` (R102, R107). A NaN operand prevails over an invalid
operation: beside a quiet one, zero times infinity or opposite infinities set no flag, which is the model's choice (log 53). -/
def arith (t : Ty) (rm : BitVec 3) (draw : Nat) (ops : List FVal) (r : Option FVal) : Nat × Flags :=
  let sig : Flags := if ops.any FVal.isSig then flagInvalid else 0
  if ops.any FVal.isNan then (t.nanBits, sig)
  else match r with
    | none => (t.nanBits, flagInvalid)
    | some v => fencode t rm draw v

/-- a < b for values that are no NaN; zeros are equal. -/
def FVal.lt (a b : FVal) : Bool :=
  match a, b with
  | .inf s, .inf s' => s && !s'
  | .inf s, .num .. => s
  | .num .., .inf s => !s
  | .num s m e, .num s' m' e' =>
    if m = 0 && m' = 0 then false
    else if m = 0 then !s'
    else if m' = 0 then s
    else if s && !s' then true
    else if !s && s' then false
    else if s then dyLt m' e' m e
    else dyLt m e m' e'
  | _, _ => false

/-- a < b with -0 below +0 (R107). -/
def FVal.ltZ (a b : FVal) : Bool :=
  match a, b with
  | .num s 0 _, .num s' 0 _ => s && !s'
  | _, _ => a.lt b

/-! ### Reciprocal, square root, power, logarithm (R109) -/

/-- floor(√n), from k result bits down. -/
def isqrtFrom (n : Nat) : Nat → Nat → Nat
  | 0, r => r
  | k + 1, r => if (r + 2 ^ k) * (r + 2 ^ k) ≤ n then isqrtFrom n k (r + 2 ^ k) else isqrtFrom n k r

def isqrt (n : Nat) : Nat := isqrtFrom n (Nat.log2 n / 2 + 1) 0

/-- Fraction bits of the bounds for powers and logarithms (log 8). -/
def expBits : Nat := 400

/-- Bounds of 2^f, f = fr / 2^n < 1, scaled by 2^expBits: the product of square roots, each bounded. -/
def pow2Frac (fr : Nat) : Nat → Nat → Nat → Nat → Nat → Nat × Nat
  | 0, _, _, lo, hi => (lo, hi)
  | n + 1, clo, chi, lo, hi =>
    let clo := isqrt (clo * 2 ^ expBits)
    let chi := isqrt (chi * 2 ^ expBits) + 1
    if fr / 2 ^ n % 2 = 1 then pow2Frac fr n clo chi (lo * clo / 2 ^ expBits) (hi * chi / 2 ^ expBits + 1)
    else pow2Frac fr n clo chi lo hi

/-- 2^(±m * 2^e), m ≠ 0, rounded. -/
def exp2Num (t : Ty) (rm : BitVec 3) (draw : Nat) (s : Bool) (m : Nat) (e : Int) : Nat × Flags :=
  if dyLt 4096 0 m e then
    if s then roundTo t rm draw false 1 (-8000) true else roundTo t rm draw false 1 8000 true
  else
    let n := (-e).toNat
    let x : Int := if 0 ≤ e then (m : Int) * 2 ^ e.toNat * 2 ^ n else m
    let x := if s then -x else x
    let ip := x / 2 ^ n
    let fr := (x % 2 ^ n).toNat
    if fr = 0 then roundTo t rm draw false 1 ip false
    else
      let (lo, hi) := pow2Frac fr n (2 * 2 ^ expBits) (2 * 2 ^ expBits) (2 ^ expBits) (2 ^ expBits)
      let k := expBits - 200
      let c := if lo / 2 ^ k = hi / 2 ^ k || Config.roundPick false (m * 2 ^ n) then lo / 2 ^ k else hi / 2 ^ k
      roundTo t rm draw false c (ip - 200) true

/-- n fraction bits of log2 z, z = lo = hi scaled by 2^expBits in [1, 2), by repeated squaring of its bounds. -/
def log2Frac (pick : Bool) : Nat → Nat → Nat → Nat → Nat
  | 0, _, _, acc => acc
  | n + 1, lo, hi, acc =>
    let lo := lo * lo / 2 ^ expBits
    let hi := hi * hi / 2 ^ expBits + 1
    let one := if 2 ^ (expBits + 1) ≤ lo then true else if hi < 2 ^ (expBits + 1) then false else pick
    if one then log2Frac pick n (lo / 2) ((hi + 1) / 2) (2 * acc + 1) else log2Frac pick n lo hi (2 * acc)

/-- log2 of m * 2^e, m ≠ 0, rounded; log2 of 1 is +0. -/
def log2Num (t : Ty) (rm : BitVec 3) (draw : Nat) (m : Nat) (e : Int) : Nat × Flags :=
  let ip := (Nat.log2 m : Int) + e
  if m = 2 ^ Nat.log2 m then
    if ip = 0 then (0, 0) else roundTo t rm draw (ip < 0) ip.natAbs 0 false
  else
    let z := m * 2 ^ (expBits - Nat.log2 m)
    let fr := log2Frac (Config.roundPick true m) 150 z z 0
    let x : Int := ip * 2 ^ 150 + fr
    if x < 0 then roundTo t rm draw true (x.natAbs - 1) (-150) true
    else roundTo t rm draw false x.natAbs (-150) true

/-- Fraction bits of quotients and roots: enough that the sticky bit decides every rounding. -/
def quoBits : Nat := 160

/-- VRCP's r_i (R109). -/
def rcp (t : Ty) (rm : BitVec 3) (draw : Nat) (a : FVal) : Nat × Flags :=
  match a with
  | .nan g => (t.nanBits, if g then flagInvalid else 0)
  | .inf s => fencode t rm draw (.num s 0 0)
  | .num s m e =>
    if m = 0 then fencode t rm draw (.inf s)
    else roundTo t rm draw s (2 ^ quoBits / m) (-(quoBits : Int) - e) (2 ^ quoBits % m != 0)

/-- VRSQ's r_i (R109). -/
def rsq (t : Ty) (rm : BitVec 3) (draw : Nat) (a : FVal) : Nat × Flags :=
  match a with
  | .nan g => (t.nanBits, if g then flagInvalid else 0)
  | .inf s => if s then (t.nanBits, flagInvalid) else (0, 0)
  | .num s m e =>
    if m = 0 then fencode t rm draw (.inf s)
    else if s then (t.nanBits, flagInvalid)
    else
      let (m, e) := if e % 2 = 0 then (m, e) else (2 * m, e - 1)
      let r := isqrt (2 ^ (2 * quoBits) / m)
      roundTo t rm draw false r (-(quoBits : Int) - e / 2) (m * r * r != 2 ^ (2 * quoBits))

/-- VEXP2's r_i (R109); 2^0 is 1. -/
def exp2 (t : Ty) (rm : BitVec 3) (draw : Nat) (a : FVal) : Nat × Flags :=
  match a with
  | .nan g => (t.nanBits, if g then flagInvalid else 0)
  | .inf s => if s then (0, 0) else fencode t rm draw (.inf false)
  | .num s m e => if m = 0 then roundTo t rm draw false 1 0 false else exp2Num t rm draw s m e

/-- VLOG2's r_i (R109). -/
def log2 (t : Ty) (rm : BitVec 3) (draw : Nat) (a : FVal) : Nat × Flags :=
  match a with
  | .nan g => (t.nanBits, if g then flagInvalid else 0)
  | .inf s => if s then (t.nanBits, flagInvalid) else fencode t rm draw (.inf false)
  | .num s m e =>
    if m = 0 then fencode t rm draw (.inf true)
    else if s then (t.nanBits, flagInvalid)
    else log2Num t rm draw m e

/-! ### Conversion (R103) -/

/-- An integer's encoding in w bits, two's complement. -/
def wrapInt (w : Nat) (i : Int) : Nat := (i % 2 ^ w).toNat

/-- An integer clamped to an integer type, encoded; saturate when that changes it (R103), and that flag alone, which is the model's choice
(log 53). -/
def clampInt (t : Ty) (i : Int) : Nat × Flags :=
  if i < t.lo then (wrapInt t.width t.lo, flagSaturate)
  else if t.top < i then (wrapInt t.width t.top, flagSaturate)
  else (wrapInt t.width i, 0)

/-- A value rounded to an integer by the rounding code and clamped (R103). -/
def toInt (t : Ty) (rm : BitVec 3) (draw : Nat) (v : FVal) : Nat × Flags :=
  match v with
  | .nan _ => (0, flagInvalid)
  | .inf s => (wrapInt t.width (if s then t.lo else t.top), flagSaturate ||| flagInexact)
  | .num s m e =>
    if 0 ≤ e then
      let x : Int := (m : Int) * 2 ^ e.toNat
      let (b, f) := clampInt t (if s then -x else x)
      (b, if f = 0 then 0 else f ||| flagInexact)
    else
      let sh := (-e).toNat
      let k0 := m / 2 ^ sh
      let rem := m % 2 ^ sh
      let k : Int := if roundsUp rm s draw k0 rem sh false then k0 + 1 else k0
      let (b, f) := clampInt t (if s then -k else k)
      (b, f ||| (if rem != 0 || f != 0 then flagInexact else 0))

/-- convert of R118: the exact value of the source to type d, rounded once. -/
def convert (d : Ty) (rm : BitVec 3) (draw : Nat) (v : FVal) : Nat × Flags :=
  if !d.isFloat then toInt d rm draw v
  else match v with
    | .nan g =>
      if d.hasInf then (d.nanBits, if g then flagInvalid else 0)
      else if d == .e4m3 && !rmSat rm then (d.nanBits, if g then flagInvalid else 0)
      else (0, flagInvalid)
    | .inf s =>
      if d.hasInf then fencode d rm draw (.inf s)
      else if d == .e4m3 && !rmSat rm then (d.nanBits, flagInvalid)
      else ((if s then d.signBit else 0) + d.maxBits, flagSaturate ||| flagInexact)
    | v => fencode d rm draw v

/-- The exact value of element x of a source type. -/
def valueOf (t : Ty) (x : Nat) : FVal := if t.isFloat then fdecode t x else FVal.ofInt (idecode t x)

/-! ### Codebook weights (R99) -/

/-- cb2_decode of R99: weight j of index x under a row, in units of 2^-3. -/
def cb2Weight (x : Nat) (row : Nat) (j : Nat) : FVal :=
  let sg (j : Nat) : Bool := x / 2 ^ j % 2 == 1
  let par := ((List.range 7).filter (fun k => sg (k + 1))).length % 2 == 1
  let s := if j = 0 then par else sg j
  .num s (2 * (row / 2 ^ (4 * j) % 16) + x % 2) (-3)

/-- The row of a bank that an index selects. -/
def cb2Row (b : Bank) (x : Nat) : Nat := (lane b (x / 256 % 256) 32).toNat

end Sys2Proof.Machine
end

