-- ==== Sys2Proof/Machine/Map.lean ====
section
/-! DEFINITION. Sparse tables: a list of (key, value) pairs, keys rising. What a missing key holds is the reader's. -/

namespace Sys2Proof.Machine

/-- The value at key k, if the table lists it. -/
def find {α : Type} (k : Nat) : List (Nat × α) → Option α
  | [] => none
  | (j, v) :: r => if k = j then some v else find k r

/-- The table with v at key k, keys kept rising. -/
def put {α : Type} (k : Nat) (v : α) : List (Nat × α) → List (Nat × α)
  | [] => [(k, v)]
  | (j, w) :: r => if k = j then (k, v) :: r else if k < j then (k, v) :: (j, w) :: r else (j, w) :: put k v r

/-- The table without key k. -/
def drop {α : Type} (k : Nat) (m : List (Nat × α)) : List (Nat × α) := m.filter (fun p => p.1 != k)

/-- Element i of a list replaced, when it has one. -/
def setAt {α : Type} (i : Nat) (v : α) : List α → List α
  | [] => []
  | x :: r => match i with
    | 0 => v :: r
    | j + 1 => x :: setAt j v r

/-- The list without its first element that satisfies p. -/
def removeFirst {α : Type} (p : α → Bool) : List α → List α
  | [] => []
  | x :: r => if p x then r else x :: removeFirst p r

end Sys2Proof.Machine
end

