-- ==== Sys2Proof/Machine/State.lean ====
section
/-! DEFINITION. The state of the device as plain data: every piece that the spec names, and the few fields
of the model's own (agenda, sched, cur, cycle, pace, serial, free). Tables of units are sparse: a unit that a
table does not list is in its reset state. -/

namespace Sys2Proof.Machine

/-- Why the machine stops. No step of this model stops with a fault: every trap of the spec is a next state. -/
inductive Fault where
  /-- Raised by nothing: kept so that the type has a member; safe. -/
  | unreachable
  deriving DecidableEq, Repr

/-- Why a step has no meaning. -/
inductive Refusal where
  /-- Raised by exec's arm of an instruction that has no meaning yet; safe. -/
  | notModelled (mnemonic : String)
  deriving DecidableEq, Repr

/-- Trap causes (R149). -/
inductive Cause where
  | none | illegal | privileged | misaligned | protection | notPresent | escape | ramp | queue | counter
  | regUncorrectable | copyFault | breakpoint | watch | machineCheck | trapInstr
  deriving DecidableEq, Repr

/-- The class of an access (R172). -/
inductive Cls where
  | priv | shared
  deriving DecidableEq, Repr

/-- What a task came from (R85, R262, R313, R324). -/
inductive TaskKind where
  | launch
  | fork
  /-- a handler task: the core whose entry made it, the entry, the generation of its ring, and the charge up to which its EXIT returns
  bytes (R266) -/
  | handler (cid entry ringGen : Nat) (charge : Option Nat)
  /-- a Gleaner point: cluster, slot, generation of the walk, point -/
  | glean (kid slot gen point : Nat)
  deriving DecidableEq, Repr

/-- The counter that a task's EXIT decrements: core and counter number (R85, R163). -/
structure Join where
  cid : Nat
  ctr : Nat
  deriving DecidableEq, Repr

/-- The launch that a task belongs to (R315). -/
structure LaunchRef where
  die : Nat
  lctr : Nat
  deriving DecidableEq, Repr

/-- Where a pre-empted task was saved: the hart that owns the slot, the slot, its address, and the saved pc (R161 to R164). -/
structure SaveRef where
  hid : Nat
  slot : Nat
  addr : Nat
  pc : Word
  deriving DecidableEq, Repr

/-- An atomic operation (R49, R220). -/
inductive AmoOp where
  | add | and | or | xor | min | max | minu | maxu | swap | cas | fadd
  deriving DecidableEq, Repr

/-- Where the bytes that a hart waits for go: those of a load, or those that its waiting bundle needs before it issues. -/
inductive Dest where
  /-- a g register: size in bytes, sign-extended or not -/
  | g (r : BitVec 5) (size : Nat) (signed : Bool)
  | v (r : BitVec 5)
  /-- LDT: the tag of the word -/
  | tag (r : BitVec 5)
  /-- CBLD: a codebook bank -/
  | bank (b : Bool)
  /-- the bytes that the near cache lacks of a waiting private store or atomic, or that they were refused (R214, R221) -/
  | hull (failed : Bool)
  /-- what a waiting instruction reads, as it issues, from the peer window or from another device (R278) -/
  | buf
  deriving DecidableEq, Repr

/-- One byte that a load still wants or has: its address, its place in the destination, the piece of the access that it belongs to (R176),
its value once bound. -/
structure Want where
  addr : Nat
  pos : Nat
  piece : Nat
  val : Option Byte
  deriving DecidableEq, Repr

/-- What a fill is for: a hart, its load, and the piece of it that lacks the bytes (R176). -/
structure Asker where
  hid : Nat
  id : Nat
  piece : Nat
  deriving DecidableEq, Repr

/-- An outstanding load (R75, R212). -/
structure PLoad where
  id : Nat
  dest : Dest
  acq : Bool
  wants : List Want
  /-- LDT's tag once bound -/
  tag : Option Bool
  /-- the near-buffer entries that the load makes: address and length (R183) -/
  nb : List (Nat × Nat)
  /-- carried with a pending mark by a migration (R168) -/
  forwarded : Bool
  deriving DecidableEq, Repr

/-- What the next FENCE reports (R36). -/
structure FenceAcc where
  count : Nat
  poison : Bool
  refused : Bool
  lost : Bool
  deriving DecidableEq, Repr

/-- How a store fails (R36). -/
inductive Failure where
  | lost | refused | poison
  deriving DecidableEq, Repr

/-- An issued store, atomic or message that is not yet acknowledged (R184, R212, R260). -/
structure PStore where
  id : Nat
  addr : Nat
  len : Nat
  /-- pieces whose acknowledgement has not come -/
  pieces : Nat
  /-- an acquire-release atomic: no later access of the hart is performed until it is bound (R212) -/
  acq : Bool
  /-- the register that an atomic's old value goes to, its width in bytes, and whether sign-extended -/
  ret : Option (BitVec 5 × Nat × Bool)
  /-- how pieces of it have failed, and where: one store, whatever its pieces, is reported once (R36) -/
  fails : List (Failure × Nat)
  deriving DecidableEq, Repr

/-- One task (R309): the state it starts with, and what the device records about it. -/
structure Task where
  kind : TaskKind
  entry : Word
  g3 : Word
  /-- g8 onward -/
  args : List Word
  corr : BitVec 32
  index : BitVec 32
  domain : BitVec 16
  prio : BitVec 2
  regmask : Word
  join : Option Join
  launch : Option LaunchRef
  /-- partition's service task, or descended from one (R154) -/
  service : Bool
  /-- default barrier count (R321) -/
  barDefault : Nat
  /-- power class (R334) -/
  power : BitVec 4
  /-- belongs to a pinned launch (R334) -/
  pinned : Bool
  /-- set when the task is saved (R162) -/
  saved : Option SaveRef
  /-- channel-bound: may be restored only on this hart (R256) -/
  boundTo : Option Nat
  /-- suspended publication walks that the task issued: cluster, first slot, generation (R226) -/
  walks : List (Nat × Nat × Nat)
  /-- loads that were outstanding when the task was sent to another core: their registers carry a pending mark (R168) -/
  pending : List PLoad
  /-- its stores that were not acknowledged when it was saved (R162) -/
  stores : List PStore
  /-- failures of its stores that no FENCE has reported (R36), and machine checks that it has not taken (R151), when it was saved -/
  fenceAcc : FenceAcc
  mchecks : List Nat
  deriving DecidableEq, Repr

/-- An access of a task that has ended without waiting for it: its number and extent, and the replies or acknowledgements that are still to come
(R290, R327). -/
structure Orphan where
  id : Nat
  addr : Nat
  len : Nat
  left : Nat
  deriving DecidableEq, Repr

/-- A fill of a core's near cache that has not landed: its extent, and the bytes of it that have changed meanwhile, [lo, hi), and that the near cache
does not take from it (R212, R227, R231). -/
structure FillAsk where
  addr : Nat
  len : Nat
  gone : List (Nat × Nat)
  deriving DecidableEq, Repr

/-- An acknowledgement on its way to a hart (R184): which store, what it returns, and how it failed if it did. -/
structure Ack where
  id : Nat
  value : Word
  failed : Option Failure
  faddr : Nat
  /-- the link port that it comes by, from another device (R348) -/
  port : Option Nat
  deriving DecidableEq, Repr

/-- An answer on its way to a unit of the device: the link port that it comes by, how the request failed, and the bytes that it brings. -/
structure UnitAck where
  port : Option Nat
  failed : Option Failure
  bytes : List (Nat × Byte)
  deriving DecidableEq, Repr

/-- What a unit of the device waits for: answers that have not come, those on their way, how one has failed, and the bytes that have come
(R228, R238, R265, R278). -/
structure Posted where
  left : Nat
  acks : List UnitAck
  failed : Option Failure
  bytes : List (Nat × Byte)
  deriving DecidableEq, Repr

/-- A near-buffer entry (R183). -/
structure NearBuf where
  addr : Nat
  data : List Byte
  deriving DecidableEq, Repr

/-- A FENCE whose status is not written yet (R224). -/
structure FenceWait where
  rd : BitVec 5
  sc : Bool
  deriving DecidableEq, Repr

/-- A soft error or poison mark of one register word (R72 to R74). File 0 g, 1 v, 2 m. Flips [31:0] are of the data, 32 of the parity bit,
[39:33] of the SECDED bits. The mirror of a register is the storage of the unallocated register 16 away, so an error of a mirror word
is one of that register's word. -/
structure RegErr where
  file : Nat
  index : Nat
  word : Nat
  flips : BitVec 40
  poisoned : Bool
  deriving DecidableEq, Repr

inductive RunState where
  | free | running | blocked | parked
  deriving DecidableEq, Repr

/-- A window entry (R294). -/
structure Window where
  valid : Bool
  draining : Bool
  base : Nat
  off : Nat
  len : Nat
  swz : Bool
  /-- counter that WUNMAP named (R296) -/
  ctr : Option Nat
  /-- it drains, and its bytes of other devices have gone back to them (R208) -/
  away : Bool
  deriving DecidableEq, Repr

/-- What an unissued, waiting bundle has recorded elsewhere. -/
inductive Wait where
  | none
  /-- arrived at barrier b (R321) -/
  | bar (b : Nat)
  /-- waiting in WAITC on counter c (R308) -/
  | ctr (c : Nat)
  /-- the barrier released the hart, or the counter read zero -/
  | released
  /-- the C slot's CBLD of bank b has begun, and the A slot waits for it (R142) -/
  | bank (b : Bool)
  /-- waiting for an entry of a queue, or for room in one (R255) -/
  | queue
  /-- waiting in a GLEAN for a walk slot: the descriptor, read and found good (R329) -/
  | glean (d : List Word)
  /-- waiting in an ENQ for room in the queue of engine e (R271) -/
  | enq (e : Nat)
  /-- waiting in a WMAP, which a CANCEL lets complete: the entry's number, and what it becomes (R299) -/
  | wmap (n : Nat) (w : Window)
  /-- waiting in a WAITE: destination and event (R91) -/
  | event (rd : BitVec 5) (ev : BitVec 10) (deadline : Word)
  deriving DecidableEq, Repr

/-- An instruction that has issued and whose hart issues no later bundle until it writes its result. -/
inductive Busy where
  /-- PUB (R225): destination -/
  | pub (rd : BitVec 5)
  /-- PLBINV (R290): destination, extent and scope of its drop; once it is made, the pages of the entries dropped, address and size, the
  accesses to them that were not performed then, and what other devices have still to acknowledge -/
  | plbinv (rd : BitVec 5) (base len scope : Nat) (dropped : Option (List (Nat × Nat))) (ids far : List Nat)
  /-- CLN.st (R231): write-backs not yet acknowledged -/
  | clean (ids : List Nat)
  /-- INV.st (R231): drops on other devices that are not done -/
  | inv (ids : List Nat)
  /-- a save that waits for what the hart has issued (R162, R168): resumption pc, live masks, forced -/
  | save (pc : Word) (glive vlive : BitVec 32) (forced : Bool)
  /-- a restore that waits for the matrix unit (R145) -/
  | restore (t : Task)
  deriving DecidableEq, Repr

/-- How a parked hart comes back: the bundle's S bit (R158), or a restore that failed (R164). -/
inductive ParkKind where
  | bundle (sBit : Bool)
  | restore (t : Task)
  deriving DecidableEq, Repr

/-- One hart (R67, R68). -/
structure Hart where
  g : Vector Word 32
  v : Vector Vec 32
  m : Vector Word 8
  pc : Word
  task : Word
  domain : Word
  prio : Word
  cause : Word
  faddr : Word
  trappc : Word
  regmask : Word
  fflags : Word
  rng : Word
  lmflag : Word
  lmaddr : Word
  /-- fields 0 to 3 of sy.qmin and sy.qcap -/
  qmin : BitVec 32
  qcap : BitVec 32
  stktop : Word
  ctxbase : Word
  run : RunState
  job : Option Task
  parkSeq : BitVec 16
  park : ParkKind
  preempt : Option Word
  /-- destination hart that the Drill chose for a migration of the task asked to vacate (R167) -/
  migrate : Option SaveRef
  slots : BitVec 8
  near : List NearBuf
  loads : List PLoad
  /-- what the waiting bundle needs before it issues, asked for or there: bytes from outside the device (R278), and the hull of a private store or
  atomic (R214) -/
  reads : List PLoad
  stores : List PStore
  acks : List Ack
  fence : Option FenceWait
  fenceAcc : FenceAcc
  mchecks : List Nat
  /-- a CANCEL has reached the hart's task: it ends at the next bundle boundary (R318) -/
  cancelled : Bool
  wait : Wait
  /-- the latch that the waiting bundle has opened, and whether it took the claim for that (R125, R133) -/
  opened : Option (Bool × Bool)
  busy : Option Busy
  /-- the bundle with S = 1 whose instruction is the `busy` one: a pre-emption is taken at it once that is done (R33) -/
  safeAt : Option Word
  errs : List RegErr
  /-- its first bundle traps as register uncorrectable with this id (R164) -/
  lostWord : Option Nat
  deriving DecidableEq, Repr

/-- A range entry (R173). Its data list is the chain of its bytes; region is address bits [56:9]. -/
structure RangeEntry where
  region : Nat
  lo : Nat
  len : Nat
  dlo : Nat
  dlen : Nat
  cls : Cls
  data : List Byte
  /-- bit k: the tag of 8-byte word k of the region -/
  tags : BitVec 64
  /-- bit k: the region's bytes [16k, 16k + 16) are poisoned where the range holds them (R194) -/
  poison : BitVec 32
  age : Nat
  deriving DecidableEq, Repr

/-- A PLB entry (R284), oldest first in its set. -/
structure PlbEntry where
  page : Nat
  size : Nat
  domain : BitVec 16
  glob : Bool
  r : Bool
  w : Bool
  x : Bool
  arena : Bool
  mask : BitVec 64
  placeCluster : Bool
  die : Nat
  cluster : Nat
  deriving DecidableEq, Repr

/-- A walk requested by a hart for the page that holds an address (R287). -/
structure WalkReq where
  hid : Nat
  addr : Nat
  deriving DecidableEq, Repr

/-- A handler entry and its ring counts (R266, R292). -/
structure Handler where
  w0 : Word
  w1 : Word
  free : Nat
  reserved : Nat
  off : Nat
  gen : Nat
  /-- bytes charged and not returned, oldest first: (charge number, bytes) -/
  charges : List (Nat × Nat)
  deriving DecidableEq, Repr

/-- A launch binding: the descriptor's copy and what BINDC recorded (R307). -/
structure Binding where
  desc : List Word
  domain : BitVec 16
  part : BitVec 4
  corr : BitVec 32
  deriving DecidableEq, Repr

/-- What kind of message this is: bounces and trap messages follow rules of their own (R155, R263). -/
inductive MsgKind where
  | plain
  | bounce
  /-- a trap message of partition p, sent to its primary (false) or its fallback (true) -/
  | trap (p : Nat) (fallback : Bool)
  deriving DecidableEq, Repr

/-- What waits at a core's port (R261, R264). -/
inductive Arrival where
  | msg (h0 h1 : Word) (payload : List Byte) (tags : List Bool) (kind : MsgKind) (sender : Option (Nat × Nat)) (domain : BitVec 16)
  /-- a decrement without a sender: counter, its source code of R264, correlation number -/
  | count (ctr source : Nat) (corr : BitVec 32)
  deriving DecidableEq, Repr

/-- A trap message on its way to the host: payload and partition (R153, R346). -/
structure HostMsg where
  part : Nat
  payload : List Word
  deriving DecidableEq, Repr

inductive LatchState where
  | closed | opened | full | sending
  deriving DecidableEq, Repr

/-- A B latch (R133, R134). -/
structure Latch where
  st : LatchState
  data : Tile
  /-- a hand-off asked for by BPASS and not begun -/
  pass : Bool
  /-- the outgoing read has begun and its landing at the successor is not complete -/
  out : Bool
  /-- a tile whose landing has begun -/
  landing : Option Tile
  deriving DecidableEq, Repr

/-- An issued MMA (R135): what it will write when it completes. -/
structure MmaJob where
  hid : Nat
  acc : BitVec 2
  latch : Bool
  bank : Option Bool
  result : AccWords
  flags : BitVec 5
  deriving DecidableEq, Repr

/-- A fill's reply on its way to a core (R180, R188). -/
structure Reply where
  addr : Nat
  data : List Byte
  tags : BitVec 64
  /-- bit k: the region's granule of 64 bytes k has the shared class -/
  shared : BitVec 8
  /-- the bytes go into the near cache -/
  cache : Bool
  /-- the loads that wait for it: hart, load -/
  asks : List Asker
  refused : Bool
  /-- poisoned granules of 16 bytes of the region -/
  poison : BitVec 32
  deriving DecidableEq, Repr

/-- What is performed at an address, away from the hart that asked: at a home, the Bolt, or a window's owner (R187, R206). Core c of another
device d is numbered 4096 (d + 1) + c, and its harts accordingly. -/
inductive Req where
  | store (hid id addr : Nat) (data : List (Nat × Byte)) (ref : Bool)
  | fill (members : List (Nat × Option Asker)) (addr len : Nat) (shared : BitVec 8) (cache : Bool)
  | writeback (cid addr : Nat) (data : List Byte) (tags : BitVec 64) (cls : Cls) (poison : BitVec 32) (ack : Option (Nat × Nat))
  | clean (hid id addr len : Nat)
  | atomic (hid id addr : Nat) (op : AmoOp) (size : Nat) (b old : Word) (posted : Bool)
  deriving DecidableEq, Repr

/-- A forwarding entry for the late load replies of a migrated task (R168, R169). -/
structure Forward where
  toCid : Nat
  ids : List Nat
  deriving DecidableEq, Repr

/-- A register-context message (R167): the image, where it lands, the task. -/
structure CtxMsg where
  image : List (Nat × List Byte)
  dest : SaveRef
  task : Task
  deriving DecidableEq, Repr

/-- One core. -/
structure Core where
  loc : List Host.Cell
  nc : List RangeEntry
  plb : List PlbEntry
  walks : List WalkReq
  /-- pages that a walk found absent for a waiting hart: (hart, page) -/
  absent : List (Nat × Nat)
  ctr : Vector (BitVec 40) 64
  bind : List (Nat × Binding)
  handlers : List (Nat × Handler)
  windows : List (Nat × Window)
  /-- WMAPs of tasks cancelled in their wait, which still complete: entry number, entry, domain (R299) -/
  wmaps : List (Nat × Window × BitVec 16)
  cb0 : Bank
  cb1 : Bank
  loading0 : Bool
  loading1 : Bool
  /-- queues: 4h + n is q_n of hart h, 16 + n is q_(4+n) -/
  queues : List (Nat × List Vec)
  qminShared : BitVec 32
  qcapShared : BitVec 32
  port : List Arrival
  egress : List HostMsg
  runq : List (Nat × Task)
  deque : List (Nat × Task)
  /-- tasks that have ended and whose last decrements wait: the hart whose stores they wait for, the task, cancelled (R302, R318) -/
  ending : List (Nat × Task × Bool)
  ballast : Word
  regerr : Word
  scrubPos : Nat
  acc : Vector AccWords 4
  bl : Vector Latch 2
  claim : Option Nat
  mma : Option MmaJob
  forwards : List Forward
  ctxIn : List CtxMsg
  /-- places of the run queue reserved for arriving contexts (R167) -/
  reservedRunq : Nat
  lateReplies : List (Nat × Reply)
  /-- requests for the core's windows: the home that forwards each, or 8192 + the device whose home does (R206) -/
  fwd : List (Nat × Req)
  /-- fills of the near cache that have not landed (R180) -/
  fills : List FillAsk
  /-- accesses under way of tasks that have ended (R290) -/
  left : List Orphan
  clockMHz : Nat
  /-- what the core is boosted for: barrier and hart of each participant that has not arrived (R333) -/
  boosts : List (Nat × Nat)
  /-- the launches whose ramp violations hold the core's clock at 1.2 GHz (R334) -/
  clamped : List LaunchRef
  /-- the hart, 0 to 3, that the core issues from (R14) -/
  turn : Nat
  deriving DecidableEq, Repr

/-- A cluster-filter entry (R190). -/
structure FilterEntry where
  region : Nat
  cores : BitVec 16
  deriving DecidableEq, Repr

/-- An invalidation on its way to a cluster: the home that waits for it, or none for a remote filter's (R189, R191). -/
structure Inval where
  home : Option Nat
  region : Nat
  lo : Nat
  hi : Nat
  deriving DecidableEq, Repr

/-- What a home, a Bolt or another device sends to a cluster on its one ordered channel (R188, R191). -/
inductive Down where
  | reply (cid : Nat) (r : Reply)
  | inval (v : Inval)
  deriving DecidableEq, Repr

/-- A barrier generation (R321). -/
structure Barrier where
  count : Nat
  arrived : List Nat
  deriving DecidableEq, Repr

/-- A Bolt block (R197). -/
structure BoltBlock where
  code : BitVec 3
  stored : List Byte
  tags : BitVec 16
  poison : Bool
  deriving DecidableEq, Repr

/-- A cluster's Bolt: the blocks that are not zero, and the expander, newest first (R197, R200). -/
structure Bolt where
  blocks : List (Nat × BoltBlock)
  expander : List Nat
  input : List Req
  deriving DecidableEq, Repr

/-- A publication walk (R225, R226): held slots with their stacks, the slot in use first. -/
structure SowerWalk where
  hid : Nat
  corr : BitVec 32
  scope : BitVec 2
  /-- when its PUB reached the Sower -/
  arrived : Nat
  frames : List (Nat × List (Nat × Nat))
  counted : Nat
  pages : List Nat
  /-- granules of other devices that the walk has published -/
  away : List Nat
  suspended : Bool
  /-- what PUB will write, and the clusters whose acknowledgement it waits for -/
  result : Option Word
  waiting : List Nat
  deriving DecidableEq, Repr

/-- A publication notice on its way to a cluster (R228): the walk, its pages, and the granules of other devices that it has published. -/
structure Notice where
  walk : Nat
  pages : List Nat
  away : List Nat
  deriving DecidableEq, Repr

/-- A point that a Gleaner is issuing (R325): its index value, whether its operands were resident, whether it is issued again (R327), and
whether the Yoke has granted its power. -/
structure Issuing where
  point : Nat
  idx : Nat
  resident : Bool
  again : Bool
  granted : Bool
  deriving DecidableEq, Repr

/-- A Gleaner walk (R325, R329, R330). -/
structure GleanWalk where
  gen : Nat
  live : Bool
  desc : List Word
  descAddr : Word
  w0 : Word
  w1 : Word
  domain : BitVec 16
  launch : Option LaunchRef
  cid : Nat
  corr : BitVec 32
  power : BitVec 4
  pinned : Bool
  service : Bool
  barDefault : Nat
  part : BitVec 4
  /-- 0 running, 1 complete, 2 aborted -/
  state : Nat
  reason : Nat
  pass : Nat
  passStart : Nat
  passOpen : Bool
  /-- points the present pass has still to visit -/
  todo : List Nat
  deferred : List Nat
  /-- points whose task ended by a RESUME with retry and that are to be issued again (R327) -/
  reissue : List Nat
  /-- (point, (d, t0)) -/
  marks : List (Nat × Nat × Nat)
  issued : Nat
  retired : Nat
  starved : Nat
  outstanding : Nat
  lastCore : Option Nat
  /-- a visit that waits to issue its point -/
  issuing : Option Issuing
  deriving DecidableEq, Repr

/-- An accepted engine command (R271, R272). -/
structure Cmd where
  words : List Word
  domain : BitVec 16
  part : BitVec 4
  id : BitVec 16
  /-- the cluster whose hart issued it -/
  cluster : Nat
  deriving DecidableEq, Repr

/-- The job an engine runs. -/
structure Job where
  cmd : Cmd
  /-- source bytes done, destination bytes written -/
  done : Nat
  written : Nat
  status : Nat
  /-- its data movement is over and it may complete -/
  ended : Bool
  /-- where source and destination overlap: the source bytes as they were read at its start, and the source words whose tag was set (R276) -/
  held : Option (List (Option Byte) × List Nat)
  deriving DecidableEq, Repr

/-- A copy, collective or media engine (R271 to R277). -/
structure Engine where
  queue : List Cmd
  nextId : BitVec 16
  /-- job id to state: 0 queued, 1 running, 2 complete, 3 ended otherwise -/
  states : List (Nat × Nat)
  job : Option Job
  parked : Bool
  parkSeq : BitVec 16
  cause : Word
  faddr : Word
  /-- the cluster that the last command came from, and the core that each cluster's last one came from (R271) -/
  lastCluster : Nat
  lastCores : List (Nat × Nat)
  deriving DecidableEq, Repr

/-- A watch extent (R354). -/
structure Watch where
  base : Nat
  len : Nat
  onLoad : Bool
  onStore : Bool
  deriving DecidableEq, Repr

/-- A cluster debug module (R354). -/
structure Debug where
  /-- PC and core mask -/
  bps : List (Nat × BitVec 16)
  watches : List Watch
  haltOnBp : Bool
  haltOnWatch : Bool
  halted : Bool
  trace : Bool
  /-- the last cycle of a window that started and stopped at once (R355) -/
  traceUntil : Option Nat
  cross : List Nat
  deriving DecidableEq, Repr

/-- One cluster. -/
structure Cluster where
  filter : List FilterEntry
  /-- what is on its way to the cluster, in the order of sending: its sender (a home, 4096 + k for the Bolt of cluster k, 8192 + d for device
  d) and what it is -/
  down : List (Nat × Down)
  notices : List Notice
  barriers : List (Nat × Barrier)
  bolt : Bolt
  /-- generation of each of the 16 walk slots -/
  slotGen : List (Nat × Nat)
  walks : List (Nat × SowerWalk)
  glean : List (Nat × GleanWalk)
  /-- 0, 1 copy harts, 2 the collective hart -/
  engines : List (Nat × Engine)
  dbg : Debug
  lastThief : Nat
  /-- load requests waiting to be combined, and the requests of their cores that wait behind them: home, request, cycle of the first (R185,
  R270) -/
  egress : List (Nat × Req × Nat)
  deriving DecidableEq, Repr

/-- A directory entry (R190, R191). -/
structure DirEntry where
  region : Nat
  clusters : BitVec 256
  remote : List Nat
  overflow : Bool
  deriving DecidableEq, Repr

/-- A store that a home has performed and whose acknowledgements it waits for (R189). -/
structure HomeWait where
  /-- the stores that it acknowledges: hart, store -/
  writers : List (Nat × Nat)
  addr : Nat
  len : Nat
  region : Nat
  clusters : List Nat
  remotes : List Nat
  /-- some device has answered "bytes left", or none at all, and the devices that were sent bytes of the region meanwhile (R191) -/
  someLeft : Bool
  joined : List Nat
  /-- the old value that an atomic returns, and how it failed -/
  value : Word
  failed : Option Failure
  deriving DecidableEq, Repr

/-- A combining group of posted adds (R223). -/
structure Group where
  addr : Nat
  size : Nat
  float : Bool
  since : Nat
  /-- hart, store id, core and operand of each member, in arrival order -/
  members : List (Nat × Nat × Word)
  deriving DecidableEq, Repr

/-- A translation that a home holds (R283, R290). -/
structure Xlat where
  page : Nat
  size : Nat
  phys : Nat
  deriving DecidableEq, Repr

/-- A home slice. -/
structure Home where
  entries : List RangeEntry
  dir : List DirEntry
  input : List Req
  waits : List HomeWait
  /-- acknowledgements received: region, cluster or device, "none left" -/
  acks : List (Nat × Nat × Bool)
  groups : List Group
  xlats : List Xlat
  /-- regions registered to a window: region, core, window (R206) -/
  windows : List (Nat × Nat × Nat)
  fenced : List Nat
  deriving DecidableEq, Repr

/-- A Drill counter (R314). -/
structure DCtr where
  count : Nat
  cancelled : Bool
  owner : BitVec 4
  /-- the counter above it: the graph of a launch, the phase of a graph, the job of a phase -/
  parent : Nat
  /-- a launch's correlation number -/
  corr : BitVec 32
  deriving DecidableEq, Repr

/-- A launch on the admission list (R316). -/
structure Launch where
  desc : List Word
  next : Nat
  part : BitVec 4
  domain : BitVec 16
  deriving DecidableEq, Repr

/-- A walk result that a page-walk unit holds (R283): page number and size, the leaf's words, the page's frame, and where the leaf
stands. -/
structure WalkResult where
  page : Nat
  size : Nat
  w0 : Word
  w1 : Word
  phys : Nat
  level : Nat
  ptr : Nat
  group : Bool
  deriving DecidableEq, Repr

/-- One die: Drill, walk unit, Yoke budget, trace ring. -/
structure Die where
  launches : List (Nat × DCtr)
  graphs : List (Nat × DCtr)
  phases : List (Nat × DCtr)
  admission : List Launch
  budget : Nat
  /-- the walk unit's cached results -/
  walkCache : List WalkResult
  traceOff : Nat
  sampleSeq : Nat
  /-- declared slopes of open launches (R335) and those already reported (R334) -/
  slopes : List (Nat × Nat)
  violated : List Nat
  /-- the launches whose descriptor is pinned (R312, R334) -/
  pinned : List Nat
  /-- trap messages of failed binding submissions that wait for the host queue (R346) -/
  egress : List HostMsg
  /-- the last sampling record (R353, R356) -/
  lastSample : List Byte
  deriving DecidableEq, Repr

/-- The host's view of a partition's trap messages (R346). -/
structure HostQ where
  shown : Option (List Word)
  queue : List (List Word)
  msix : Nat
  deriving DecidableEq, Repr

/-- A link port: failing since a time, until what was under way on it is acknowledged or lost (R348). -/
inductive PortState where
  | up
  | failing (since : Word)
  | failed
  deriving DecidableEq, Repr

/-- What leaves the device: to another device, to a peer, or to the dump collector. -/
inductive OutMsg where
  | remote (plane dev : Nat) (r : Req)
  | message (plane dev : Nat) (a : Arrival)
  | resume (plane dev : Nat) (handle : Word) (action : Nat)
  | invalidate (dev region lo hi : Nat)
  | remoteAck (dev region : Nat) (left : Bool)
  /-- what this device's homes answer to harts of another device (R191) -/
  | fillReply (dev cid : Nat) (r : Reply)
  | storeAck (dev hid : Nat) (a : Ack)
  /-- a posted PCIe write, bytes at PCIe addresses; a read: who asks, the address, its PCIe address, length (R278, R339) -/
  | peerWrite (data : List (Nat × Byte))
  | peerRead (ask : Asker) (addr pcie len : Nat)
  | hostRead (data : List Byte)
  /-- what a collective hart sends to another member of its group (R350) -/
  | share (dev : Nat) (data : List Byte)
  | unsupported
  /-- an INV that reaches other devices: their near caches (R231); the homes of one device -/
  | dropExtent (addr len : Nat)
  | dropHome (dev addr len : Nat)
  /-- a granule of another device published: its bit is to be set in that device's memory (R227); the notice of a .s walk's pages (R228) -/
  | publish (addr : Nat)
  | notice (pages : List Nat)
  /-- a PLBINV at system scope (R290) -/
  | plbDrop (addr len : Nat)
  /-- a window registered or released at homes of another device (R295, R296) -/
  | window (addr len : Nat) (mapped : Bool)
  /-- dump bytes for the collector that the image names (R353) -/
  | datagram (collector : List Byte) (off : Nat) (data : List Byte)
  deriving DecidableEq, Repr

/-- What comes back for a message to another device (log 19): an acknowledgement for a hart, a reply for a core. -/
inductive Answer where
  | nothing
  | ack (hid : Nat) (a : Ack)
  /-- device dev's reply to the members of a fill -/
  | fill (dev : Nat) (members : List (Nat × Option Asker)) (r : Reply)
  /-- an answer for a unit of this device -/
  | unit (u : Nat) (a : UnitAck)
  /-- device dev's answer to home h's invalidation of a region: whether bytes are left (R191); or the invalidation cannot be delivered (R193) -/
  | trimmed (h dev region : Nat) (left : Bool)
  | cut (h dev : Nat)
  /-- a request for a window of core c whose backing memory another device's home, 8192 + device, serves: it comes back to the core (R206) -/
  | forward (c key : Nat) (r : Req)
  deriving DecidableEq, Repr

/-- A PLBINV at system scope of another device that this one is acting on (R290): the hart that waits, numbered as a request's is, its
acknowledgement's number, the extent, the pages that lost an entry, and the accesses to them that were not performed then. -/
structure FarDropWait where
  hid : Nat
  drop : FarDrop
  gone : List (Nat × Nat)
  ids : List Nat
  deriving DecidableEq, Repr

/-- Who moves in a step: a core, or the n-th event of the agenda (log 4). -/
inductive Move where
  | core (c : Nat)
  | event (n : Nat)
  deriving DecidableEq, Repr

/-- The whole device. -/
structure State where
  time : Word
  cycle : Nat
  pace : Nat
  serial : Nat
  free : Nat
  cur : Nat
  agenda : List Event
  sched : List Move
  harts : List (Nat × Hart)
  cores : List (Nat × Core)
  clusters : List (Nat × Cluster)
  homes : List (Nat × Home)
  dies : List (Nat × Die)
  jobs : List (Nat × DCtr)
  media : List (Nat × Engine)
  /-- stream contexts that hold reference frames: 256 block + stream (R351) -/
  streams : List Nat
  mem : List Host.Cell
  /-- 8-byte words of HBM, by physical address / 8, whose reference tag is set (R216) -/
  memTags : List Nat
  /-- 16-byte granules of HBM, by physical address / 16, whose bytes came poisoned (R194) -/
  memPoison : List Nat
  /-- the management space's registers by offset (R340) -/
  mgmt : List (Nat × Word)
  hostq : List (Nat × HostQ)
  /-- link ports that have been declared failed, or are about to be (R348) -/
  ports : List (Nat × PortState)
  /-- plane to the port that carries it (R348) -/
  planes : List (Nat × Nat)
  remoteFilter : List (Nat × BitVec 256)
  /-- invalidations of other devices' homes that wait for clusters: device, region, clusters left, some byte left -/
  remoteWaits : List (Nat × Nat × List Nat × Bool)
  out : List OutMsg
  /-- traffic to other devices that waits for its plane's port: plane, message, answer (R348) -/
  outHeld : List (Nat × OutMsg × Answer)
  floor : Nat
  slot : Nat
  /-- ramp-violation messages that wait for the host queue (R346) -/
  yokeEgress : List HostMsg
  /-- the last sampling pulse's period start (R356) -/
  sampleBase : Word
  /-- the dies are released (R341) -/
  released : Bool
  /-- the identity of the image that released them, and the collector that it names (R353) -/
  identity : List Byte
  collector : List Byte
  fatal : Bool
  dump : List Byte
  /-- what units of the device wait for, by unit: an engine's number, 2048 + 16k + n for walk n of cluster k's Sower, 8192 + c for what lands
  at core c, 16384 + h for home h, 20480 + c for the windows of core c, 24576 + e for what engine e reads, 32768 for the host interface, 65536 +
  1024g + 4k + n for walk n of cluster k's Gleaner, of generation g -/
  posted : List (Nat × Posted)
  /-- drops of other devices that wait for accesses here (R290) -/
  farDrops : List FarDropWait
  /-- accesses through the host interface in the order of their arrival, while the first waits (R338) -/
  hostIn : List Event
  deriving DecidableEq, Repr

/-- The hart at place `hid` right after device reset (R68, R298): registers without a stated reset value hold 0 (log 1). -/
def Hart.reset (hid : Nat) : Hart where
  g := Vector.replicate 32 0
  v := Vector.replicate 32 0
  m := Vector.replicate 8 0
  pc := 0
  task := 0
  domain := 0
  prio := 0
  cause := 0
  faddr := 0
  trappc := 0
  regmask := BitVec.allOnes 64
  fflags := 0
  rng := 0x9E3779B97F4A7C15
  lmflag := 0
  lmaddr := 0
  qmin := 0x04040404
  qcap := 0x10101010
  stktop := BitVec.ofNat 64 (0x00FF000000018000 - 0x1000 * (hid % 4))
  ctxbase := 0
  run := .free
  job := none
  parkSeq := 0
  park := .bundle false
  preempt := none
  migrate := none
  slots := 0
  near := []
  loads := []
  reads := []
  stores := []
  acks := []
  fence := none
  fenceAcc := ⟨0, false, false, false⟩
  mchecks := []
  cancelled := false
  wait := .none
  opened := none
  busy := none
  safeAt := none
  errs := []
  lostWord := none

/-- A latch at claim and at reset: CLOSED, every byte zero (R124). -/
def Latch.atClaim : Latch := ⟨.closed, 0, false, false, none⟩

/-- A core right after device reset (R124, R298, R300). -/
def Core.reset : Core where
  loc := []
  nc := []
  plb := []
  walks := []
  absent := []
  ctr := Vector.replicate 64 0
  bind := []
  handlers := []
  windows := []
  wmaps := []
  cb0 := 0
  cb1 := 0
  loading0 := false
  loading1 := false
  queues := []
  qminShared := 0x04040404
  qcapShared := 0x10101010
  port := []
  egress := []
  runq := []
  deque := []
  ending := []
  ballast := 0
  regerr := 0
  scrubPos := 0
  acc := Vector.replicate 4 0
  bl := Vector.replicate 2 Latch.atClaim
  claim := none
  mma := none
  forwards := []
  ctxIn := []
  reservedRunq := 0
  lateReplies := []
  fwd := []
  fills := []
  left := []
  clockMHz := 1700
  boosts := []
  clamped := []
  turn := 0

/-- A cluster right after device reset. -/
def Cluster.reset : Cluster where
  filter := []
  down := []
  notices := []
  barriers := []
  bolt := ⟨[], [], []⟩
  slotGen := []
  walks := []
  glean := []
  engines := []
  dbg := ⟨[], [], false, false, false, false, none, []⟩
  lastThief := 0
  egress := []

/-- An engine with nothing queued and no job issued; its park sequence reads 0 (R362). -/
def Engine.reset : Engine := ⟨[], 0, [], none, false, 0, 0, 0, 255, []⟩

/-- A home slice that holds nothing. -/
def Home.reset : Home := ⟨[], [], [], [], [], [], [], [], []⟩

/-- A die right after device reset. -/
def Die.reset : Die := ⟨[], [], [], [], 62500, [], 0, 0, [], [], [], [], []⟩

/-- A Drill counter that has never opened (R316). -/
def DCtr.zero : DCtr := ⟨0, false, 0, 0, 0⟩

/-- The device right after device reset: no task runs, tables and queues stand as R298 gives them, device time is 0. -/
def State.reset : State where
  time := 0
  cycle := 0
  pace := 1
  serial := 0
  free := 0
  cur := 0
  agenda := []
  sched := []
  harts := []
  cores := []
  clusters := []
  homes := []
  dies := []
  jobs := []
  media := []
  streams := []
  mem := []
  memTags := []
  memPoison := []
  mgmt := []
  hostq := []
  ports := []
  planes := []
  remoteFilter := []
  remoteWaits := []
  out := []
  outHeld := []
  floor := 0
  slot := 0
  yokeEgress := []
  sampleBase := 0
  released := false
  identity := []
  collector := []
  fatal := false
  dump := []
  posted := []
  farDrops := []
  hostIn := []

end Sys2Proof.Machine
end

