-- ==== Sys2Proof/Machine/Ops.lean ====
section
/-! DEFINITION. Named operations over the state: units, registers, memory bytes, the agenda, messages for fault
services, taking a trap (R152) and coming back from one (R158). -/

namespace Sys2Proof.Machine

/-! ### Units -/

def State.hart (s : State) (h : Nat) : Hart := (find h s.harts).getD (Hart.reset h)
def State.core (s : State) (c : Nat) : Core := (find c s.cores).getD Core.reset
def State.cluster (s : State) (k : Nat) : Cluster := (find k s.clusters).getD Cluster.reset
def State.home (s : State) (h : Nat) : Home := (find h s.homes).getD Home.reset
def State.die (s : State) (d : Nat) : Die := (find d s.dies).getD Die.reset

def State.setHart (s : State) (h : Nat) (x : Hart) : State := { s with harts := put h x s.harts }
def State.setCore (s : State) (c : Nat) (x : Core) : State := { s with cores := put c x s.cores }
def State.setCluster (s : State) (k : Nat) (x : Cluster) : State := { s with clusters := put k x s.clusters }
def State.setHome (s : State) (h : Nat) (x : Home) : State := { s with homes := put h x s.homes }
def State.setDie (s : State) (d : Nat) (x : Die) : State := { s with dies := put d x s.dies }

def State.modHart (s : State) (h : Nat) (f : Hart → Hart) : State := s.setHart h (f (s.hart h))
def State.modCore (s : State) (c : Nat) (f : Core → Core) : State := s.setCore c (f (s.core c))
def State.modCluster (s : State) (k : Nat) (f : Cluster → Cluster) : State := s.setCluster k (f (s.cluster k))
def State.modHome (s : State) (h : Nat) (f : Home → Home) : State := s.setHome h (f (s.home h))
def State.modDie (s : State) (d : Nat) (f : Die → Die) : State := s.setDie d (f (s.die d))

/-- An engine by its number: 4k + e of cluster k, or 1024 + b of the I/O die. -/
def State.engine (s : State) (n : Nat) : Engine :=
  if n < 1024 then (find (n % 4) (s.cluster (n / 4)).engines).getD Engine.reset else (find (n - 1024) s.media).getD Engine.reset

def State.setEngine (s : State) (n : Nat) (x : Engine) : State :=
  if n < 1024 then s.modCluster (n / 4) (fun c => { c with engines := put (n % 4) x c.engines })
  else { s with media := put (n - 1024) x s.media }

def State.modEngine (s : State) (n : Nat) (f : Engine → Engine) : State := s.setEngine n (f (s.engine n))

/-- The cores whose table entries the state lists. -/
def State.coreIds (s : State) : List Nat := s.cores.map (fun c => c.1)

/-- The core, cluster and die of a hart; a hart's number is sy.hart [13:0] (R69). -/
def coreOf (h : Nat) : Nat := h / 4
def clusterOf (h : Nat) : Nat := h / 64
def dieOf (h : Nat) : Nat := h / 4096

/-- The cores that have state of their own, or a hart that has. -/
def State.usedCores (s : State) : List Nat :=
  s.coreIds ++ ((s.harts.map (fun h => coreOf h.1)).filter (fun c => !s.coreIds.contains c)).eraseDups

/-- The hart that issues. -/
def State.me (s : State) : Hart := s.hart s.cur
def State.setMe (s : State) (x : Hart) : State := s.setHart s.cur x
def State.modMe (s : State) (f : Hart → Hart) : State := s.setHart s.cur (f s.me)

/-- An event that is under way: it will be performed by a later step (log 4). -/
def State.push (s : State) (e : Event) : State := { s with agenda := s.agenda ++ [e] }

/-- A fresh number for a load, store or charge. -/
def State.fresh (s : State) : State := { s with serial := s.serial + 1 }

/-- A fresh index for a free value. -/
def State.drawFree (s : State) : State := { s with free := s.free + 1 }

/-! ### Management space and partitions -/

/-- The management register at an offset (R340); what was never written holds 0 (log 1), ident aside, whose revision is free (log 6). -/
def State.reg (s : State) (off : Nat) : Word :=
  if off = 0 then word 0x00004A0100000000 ||| zext Config.revision else (find off s.mgmt).getD 0

def State.setReg (s : State) (off : Nat) (v : Word) : State := { s with mgmt := put off v s.mgmt }

/-- The device number (R340). -/
def State.devnum (s : State) : Nat := bf (s.reg 0x8) 0 10

/-- Word i of partition p's entry (R345). -/
def State.partWord (s : State) (p i : Nat) : Word := s.reg (0x1000 + 32 * p + 8 * i)

/-- The valid partition that holds cluster k (R345). -/
def State.partOf? (s : State) (k : Nat) : Option Nat :=
  (List.range 16).find? (fun p => bit (s.partWord p 0) 63 && bit (s.partWord p 0) (k / 16))

/-- sy.part of the harts of cluster k (R68); 0 where no valid partition holds the cluster (R346). -/
def State.partOf (s : State) (k : Nat) : Nat := (s.partOf? k).getD 0

/-- Recovery mode of partition p's harts (R36, R345). -/
def State.recovery (s : State) (k : Nat) : Bool := bit (s.partWord (s.partOf k) 0) 62

/-- A cluster is mapped out (R344). -/
def State.mappedOut (s : State) (k : Nat) : Bool := bit (s.reg (0x200 + 8 * (k / 64))) (k % 64)

/-- A cluster has set its ready bit (R343). -/
def State.isReady (s : State) (k : Nat) : Bool := bit (s.reg (0x100 + 8 * (k / 64))) (k % 64)

/-- sy.hart of hart h (R69). -/
def State.location (s : State) (h : Nat) : Word := word (s.devnum * 16384 + h % 16384)

/-- The state of a link port; up at reset (R347). -/
def State.portState (s : State) (p : Nat) : PortState := (find p s.ports).getD .up

/-- The port that carries a plane (R348). -/
def State.planePort (s : State) (p : Nat) : Nat := (find p s.planes).getD p

/-- A frame of an HBM stack that is mapped out (R344); which of the 12 stacks holds it is free (log 6). -/
def State.stackOut (s : State) (phys : Nat) : Bool := s.reg 0x240 != 0 && bit (s.reg 0x240) (Config.stackOf phys % 12)

/-- No byte of HBM stands at a physical address: past the last frame (R15; log 48), or in a stack that is mapped out. -/
def State.frameOut (s : State) (phys : Nat) : Bool := decide (Config.hbmBytes ≤ phys) || s.stackOut phys

/-! ### What the units of the device wait for -/

/-- Numbers of units that others answer: walk n of cluster k's Sower, what lands at core c, home h, the windows of core c. An engine's is its own. -/
def sowerUnit (k n : Nat) : Nat := 2048 + 16 * k + n
def landUnit (c : Nat) : Nat := 8192 + c
def homeUnit (h : Nat) : Nat := 16384 + h
def windowUnit (c : Nat) : Nat := 20480 + c

/-- What engine e reads from outside the device. -/
def readUnit (e : Nat) : Nat := 24576 + e

/-- Walk n of cluster k's Gleaner, and the host interface, for what they read outside the device. -/
def gleanUnit (k n gen : Nat) : Nat := 65536 + 1024 * gen + 4 * k + n
def hostUnit : Nat := 32768

/-- What stands for unit u where a request names the hart that asks; no hart of any device has such a number. -/
def unitHart (u : Nat) : Nat := 2 ^ 26 + u

def Posted.none : Posted := ⟨0, [], .none, []⟩

/-- What unit u waits for. -/
def State.postedOf (s : State) (u : Nat) : Posted := (find u s.posted).getD Posted.none

def State.setPosted (s : State) (u : Nat) (x : Posted) : State :=
  { s with posted := if x = Posted.none then drop u s.posted else put u x s.posted }

def State.modPosted (s : State) (u : Nat) (f : Posted → Posted) : State := s.setPosted u (f (s.postedOf u))

/-- Unit u waits for n answers more. -/
def State.owe (s : State) (u n : Nat) : State := s.modPosted u (fun x => { x with left := x.left + n })

/-- Unit u waits for nothing. -/
def State.settled (s : State) (u : Nat) : Bool := (s.postedOf u).left == 0

/-- An answer on its way to unit u. -/
def State.tellUnit (s : State) (u : Nat) (a : UnitAck) : State :=
  (s.modPosted u (fun x => { x with acks := x.acks ++ [a] })).push (.ackReceived (unitHart u))

/-- The oldest answer reaches unit u. -/
def State.unitAck (s : State) (u : Nat) : State :=
  match (s.postedOf u).acks with
  | [] => s
  | a :: rest => s.modPosted u (fun x => { x with left := x.left - 1, acks := rest, failed := x.failed.or a.failed, bytes := x.bytes ++ a.bytes })

/-! ### Channels to clusters and traffic to other devices -/

/-- An item sent to cluster k by a home, a Bolt or another device, on that sender's ordered channel (R188). -/
def State.sendDown (s : State) (k sender : Nat) (d : Down) : State :=
  (s.modCluster k (fun c => { c with down := c.down ++ [(sender, d)] })).push (match d with
    | .reply c _ => .fillArrives c
    | .inval _ => .invalidate k)

/-- The senders' numbers on the channels of a cluster. -/
def boltSender (k : Nat) : Nat := 4096 + k
def deviceSender (d : Nat) : Nat := 8192 + d

/-- An acknowledgement for a hart, or for the unit that a hart's number stands for. -/
def ackAnswer (hid id : Nat) (value : Word) (failed : Option Failure) (a : Nat) : Answer :=
  if 2 ^ 26 ≤ hid then .unit (hid - 2 ^ 26) ⟨none, failed, []⟩ else .ack hid ⟨id, value, failed, a, none⟩

/-- What a request of this device that is lost on its way to device dev comes to: a store is lost, a load refused (R348). -/
def Req.lost (r : Req) (dev : Nat) : Answer :=
  match r with
  | .store h id a _ _ | .clean h id a _ | .atomic h id a _ _ _ _ _ => ackAnswer h id 0 (some .lost) a
  | .writeback _ a _ _ _ _ ack => match ack with
    | some (h, id) => ackAnswer h id 0 (some .lost) a
    | none => .nothing
  | .fill ms a n shared cache => .fill dev ms ⟨a, List.replicate n 0, 0, shared, cache, [], true, 0⟩

/-- A request sent to core c for one of its windows by a home, 8192 + d for one of device d (R206). -/
def State.forwardReq (s : State) (c key : Nat) (r : Req) : State :=
  (s.modCore c (fun x => { x with fwd := x.fwd ++ [(key, r)] })).push (.forwardedWindowAccess c)

/-- What comes back for a message arrives, or is on its way (log 19). -/
def State.answer (s : State) (port : Nat) (x : Answer) : State :=
  match x with
  | .nothing => s
  | .ack h a => (s.modHart h (fun y => { y with acks := y.acks ++ [{ a with port := some port }] })).push (.ackReceived h)
  | .fill dev ms r => ms.foldl (fun s m => s.sendDown (m.1 / 16) (deviceSender dev) (.reply m.1 { r with asks := m.2.toList })) s
  | .trimmed h dev region left =>
    (s.modHome h (fun y => { y with acks := y.acks ++ [(region, 256 + dev, !left)] })).push (.invalidateAck h)
  | .unit u a => s.tellUnit u { a with port := some port }
  | .cut h dev => s.push (.invalidateTimeout h (256 + dev))
  | .forward c key r => s.forwardReq c key r

/-- An answer that a dead link loses: the store is lost, the load refused, the invalidation not delivered (R193, R348). -/
def Answer.dead : Answer → Answer
  | .nothing => .nothing
  | .ack h a => .ack h { a with failed := some .lost }
  | .fill dev ms r => .fill dev ms { r with refused := true }
  | .unit u a => .unit u { a with failed := some .lost, bytes := [] }
  | .trimmed h dev _ _ | .cut h dev => .cut h dev
  | .forward _ key r => r.lost (key - deviceSender 0)

/-- Traffic on a plane (R348): it waits while the plane's port is failing, and is lost where no port is left. -/
def State.sendOut (s : State) (plane : Nat) (m : OutMsg) (x : Answer) : State :=
  let p := s.planePort plane
  match s.portState p with
  | .up => ({ s with out := s.out ++ [m] } : State).answer p x
  | .failing _ => { s with outHeld := s.outHeld ++ [(plane, m, x)] }
  | .failed => s.answer p x.dead

/-! ### Registers -/

/-- g[r]; g0 reads zero (R67). -/
def Hart.getG (h : Hart) (r : BitVec 5) : Word := if r = 0 then 0 else h.g[r.toNat]'r.isLt

/-- The register has a mirror: the register 16 away is unallocated (R72). -/
def Hart.mirrored (x : Hart) (file index : Nat) : Bool :=
  let o := index ^^^ 16
  match file with
  | 0 => index != 0 && index != 16 && !bit x.regmask o
  | 1 => !bit x.regmask (32 + o)
  | _ => false

/-- The errors and poison marks that remain once a register is written: none of its words, nor of its mirror's, which the write also writes
(R72, R74). -/
def Hart.errsWithout (x : Hart) (file index : Nat) : List RegErr :=
  x.errs.filter (fun e => !(e.file == file && (e.index == index || (x.mirrored file index && e.index == index ^^^ 16))))

/-- g[r] written; a write to g0 is discarded (R40, R67). A write clears the words' error records and poison (R74). -/
def Hart.setG (h : Hart) (r : BitVec 5) (x : Word) : Hart :=
  if r = 0 then h
  else { h with g := h.g.set r.toNat x r.isLt, errs := h.errsWithout 0 r.toNat }

def Hart.getV (h : Hart) (r : BitVec 5) : Vec := h.v[r.toNat]'r.isLt

def Hart.setV (h : Hart) (r : BitVec 5) (x : Vec) : Hart :=
  { h with v := h.v.set r.toNat x r.isLt, errs := h.errsWithout 1 r.toNat }

/-- m[r]; m0 reads all ones (R67). -/
def Hart.getM (h : Hart) (r : BitVec 3) : Word := if r = 0 then BitVec.allOnes 64 else h.m[r.toNat]'r.isLt

/-- m[r] written; m0 is read-only (R66). -/
def Hart.setM (h : Hart) (r : BitVec 3) (x : Word) : Hart :=
  if r = 0 then h
  else { h with m := h.m.set r.toNat x r.isLt, errs := h.errsWithout 2 r.toNat }

/-- A hart is privileged while its sy.domain reads 0 (R69). -/
def Hart.privileged (h : Hart) : Bool := h.domain == 0

/-- gi and vi are allocated (R71); g0 always is. -/
def Hart.allocG (h : Hart) (r : BitVec 5) : Bool := r == 0 || bit h.regmask r.toNat
def Hart.allocV (h : Hart) (r : BitVec 5) : Bool := bit h.regmask (32 + r.toNat)

/-- Raised flags are set in sy.fflags (R102). -/
def Hart.raise (h : Hart) (f : BitVec 5) : Hart := { h with fflags := h.fflags ||| zext f }

/-- sy.unacked: stores, atomics and messages issued and not acknowledged (R68). -/
def Hart.unacked (h : Hart) : Word := word (h.stores.length % 65536)

/-- Bits that a system register has (R68); the others are reserved (R7). Of sy.ctxbase the table says only that bits [5:0] are zero; the model takes them
for reserved, so that SYW of a word with one of them set is an illegal instruction (log 63, DESIGN CHOICE). -/
def sysBits (n : Nat) : Word :=
  match n with
  | 0x002 => 0xFFFF
  | 0x004 => 3
  | 0x008 => 0x7FFFF
  | 0x010 => 0x1F
  | 0x012 => 3
  | 0x019 => 0xFFFFFFFFFFFF
  | 0x023 => 0xFFFFFFFFFFFFFFC0
  | 0x024 => 0x1FFFFFFFF
  | _ => BitVec.allOnes 64

/-! ### Bytes of memory -/

/-- What a byte reads as where no write has been (log 2). -/
def unlisted : Byte := 0

/-- One byte of a memory. -/
def readByte (m : List Host.Cell) (a : Nat) : Byte := (find a m).getD unlisted

/-- One byte written; a byte equal to what an unlisted address reads as leaves no entry. -/
def writeByte (m : List Host.Cell) (a : Nat) (b : Byte) : List Host.Cell :=
  if b = unlisted then drop a m else put a b m

/-- The bytes of [a, a + n). -/
def readBytes (m : List Host.Cell) (a : Nat) : Nat → List Byte
  | 0 => []
  | n + 1 => readByte m a :: readBytes m (a + 1) n

/-- bs written from a up. -/
def writeBytes (m : List Host.Cell) (a : Nat) : List Byte → List Host.Cell
  | [] => m
  | b :: bs => writeBytes (writeByte m a b) (a + 1) bs

/-- The canonical form: addresses strictly rising, and no entry equal to what an unlisted address reads as. -/
def memWf : List Host.Cell → Bool
  | [] => true
  | (a, b) :: r => b != unlisted && (match r with
    | [] => true
    | (a', _) :: _ => decide (a < a')) && memWf r

/-- The canonical form of a memory, as a proposition that can be decided. -/
abbrev Memory.wf (m : List Host.Cell) : Prop := memWf m = true

/-- The tag of a word of HBM set or cleared (R216); the list rises. -/
def setTag (ts : List Nat) (w : Nat) (t : Bool) : List Nat :=
  if t then (ts.filter (· < w)) ++ [w] ++ (ts.filter (w < ·)) else ts.filter (· != w)

/-! ### Trace records (R357) -/

/-- A byte written at a physical address; where no frame stands there, nothing is (R15; log 48). -/
def State.physWrite (s : State) (m : List Host.Cell) (p : Nat) (b : Byte) : List Host.Cell :=
  if s.frameOut p then m else writeByte m p b

/-- Bytes written to die d's trace ring of 1 MiB, which wraps (R340, R357). -/
def State.ringWrite (s : State) (d : Nat) (bs : List Byte) : State :=
  let x := s.die d
  let base := (s.reg 0x340).toNat + d * 0x100000
  { (s.setDie d { x with traceOff := (x.traceOff + bs.length) % 0x100000 }) with
    mem := (bs.mapIdx (fun i b => (base + (x.traceOff + i) % 0x100000, b))).foldl (fun m p => s.physWrite m p.1 p.2) s.mem }

/-- Tracing is on for a cluster at a cycle (R355, R357). -/
def Debug.tracing (x : Debug) (cycle : Nat) : Bool := x.trace && x.traceUntil.all (fun u => decide (cycle ≤ u))

/-- A 32-byte record in the die's ring, when tracing is on for the cluster. -/
def State.trace (s : State) (k kind : Nat) (corr : BitVec 32) (loc : Nat) : State :=
  if (s.cluster k).dbg.tracing s.cycle then
    { (s.ringWrite (k / 64) (bytesOf [s.time, word (corr.toNat * 2 ^ 32 + kind * 2 ^ 24 + loc % 2 ^ 24)]
      ++ (List.range 16).map (Config.traceDetail s.free))) with free := s.free + 1 }
  else s

/-! ### Fault services (R153 to R155, R346) -/

/-- The number of a cause (R149). -/
def Cause.num : Cause → Nat
  | .none => 0 | .illegal => 1 | .privileged => 2 | .misaligned => 3 | .protection => 4 | .notPresent => 5
  | .escape => 6 | .ramp => 7 | .queue => 8 | .counter => 9 | .regUncorrectable => 10 | .copyFault => 11
  | .breakpoint => 12 | .watch => 13 | .machineCheck => 14 | .trapInstr => 15

/-- sy.cause (R68): slot, code, cause. -/
def causeWord (slotA : Bool) (code : BitVec 10) (c : Cause) : Word :=
  word ((if slotA then 2 ^ 18 else 0) + code.toNat * 256 + c.num)

/-- The partition whose configuration and host queue a message raised on cluster k uses: partition 0 where no
valid partition holds the cluster (R154, R346). -/
def State.servicePart (s : State) (k : Nat) : Nat := s.partOf k

/-- A message's header word 0 for a trap message (R155): handler, len16 4, count mode, corr. -/
def trapHeader0 (handler : Nat) (corr : BitVec 32) : Word :=
  word (corr.toNat * 2 ^ 32 + 4 * 2 ^ 24 + handler * 256)

/-- The device-written part of header word 1 with a destination core's location (R257). -/
def header1 (part srcLoc destLoc : Nat) : Word :=
  word (part % 16 * 2 ^ 48 + srcLoc % 2 ^ 24 * 2 ^ 24 + destLoc % 2 ^ 22 * 4)

/-- A payload for the host queue waits in the egress of core c (R346). -/
def State.toHost (s : State) (c part : Nat) (payload : List Word) : State :=
  (s.modCore c (fun x => { x with egress := x.egress ++ [⟨part, payload⟩] })).push (.hostTrapDelivery c)

/-- A payload joins the host's view of its partition: it is shown, and raises MSI-X vector 0 of the virtual function, or waits in the queue of
64; none while that is full (R346). -/
def State.queueHost (s : State) (m : HostMsg) : Option State :=
  let q := (find m.part s.hostq).getD ⟨none, [], 0⟩
  if q.shown.isNone then some { s with hostq := put m.part ⟨some m.payload, q.queue, q.msix + 1⟩ s.hostq }
  else if q.queue.length < 64 then some { s with hostq := put m.part { q with queue := q.queue ++ [m.payload] } s.hostq }
  else none

/-- A message can reach a core (R344, R347, R348): on this device one that is not mapped out, else one of a device of the load-store domain, while
a link port works that carries it. -/
def State.reaches (s : State) (loc : Nat) : Bool :=
  if loc / 4096 = s.devnum then !s.mappedOut (loc % 4096 / 16)
  else decide (loc / 4096 < 576) && s.portState (s.planePort (loc % 18)) != .failed

/-- The service that takes a trap message of partition p, and whether it is the fallback; none for the host (R154, R155, R345). A service on
another device that no link port can reach counts as absent (log 62, DESIGN CHOICE). -/
def State.trapService (s : State) (p : Nat) (toFallback : Bool) : Option (Nat × Bool) :=
  let conf := s.partWord p 1
  let svc (fb : Bool) : Nat := if fb then bf conf 32 32 else bf conf 0 32
  let usable (x : Nat) : Bool := x / 2 ^ 31 == 1 || s.reaches (x / 256 % 2 ^ 22)
  let fb := toFallback || !usable (svc false)
  let x := svc fb
  if x / 2 ^ 31 == 1 || !usable x then none else some (x, fb)

/-- A trap message of partition p travels to a service's core; `srcLoc` is the sender's location (R155, R257). -/
def State.toService (s : State) (p srcLoc x : Nat) (fb : Bool) (payload : List Word) (corr : BitVec 32) : State :=
  let loc := x / 256 % 2 ^ 22
  let a : Arrival := .msg (trapHeader0 (x % 256) corr) (header1 p srcLoc loc) (bytesOf payload) [] (.trap p fb) none 0
  if loc / 4096 == s.devnum then
    (s.modCore (loc % 4096) (fun y => { y with port := y.port ++ [a] })).push (.messageArrival (loc % 4096))
  else s.sendOut (loc % 18) (.message (loc % 18) (loc / 4096) a) .nothing

/-- A trap message of partition p at core c that goes to the primary service, to the fallback, or to the host (R154, R155); `src` is its sender's
location (R257). -/
def State.passTrap (s : State) (c p : Nat) (toFallback : Bool) (src : Nat) (payload : List Word) (corr : BitVec 32) : State :=
  match s.trapService p toFallback with
  | none => s.toHost c p payload
  | some (x, fb) => s.toService p src x fb payload corr

/-- A trap message of partition p raised on core c: to the host where the core's cluster lies in no valid partition (R154). -/
def State.sendTrap (s : State) (c p : Nat) (toFallback : Bool) (src : Nat) (payload : List Word) (corr : BitVec 32) : State :=
  if (s.partOf? (c / 16)).isNone then s.toHost c p payload else s.passTrap c p toFallback src payload corr

/-- The payload of a trap message that no parked hart sends (R380). -/
def State.reportPayload (s : State) (p : Nat) (cause : Cause) (faddr : Word) (corr : BitVec 32) : List Word :=
  [0, causeWord false 0 cause, faddr, 0, zext corr, word (p * 65536), s.time, 0]

/-- A trap message that a die's Drill (some d) or the Yoke (none) sends; one for a full host queue waits in the unit (R346). -/
def State.unitTrap (s : State) (d : Option Nat) (p : Nat) (cause : Cause) (faddr : Word) (corr : BitVec 32) : State :=
  let payload := s.reportPayload p cause faddr corr
  match s.trapService p false with
  | some (x, fb) => s.toService p 0 x fb payload corr
  | none =>
    let waiting := match d with
      | some d => !(s.die d).egress.isEmpty
      | none => !s.yokeEgress.isEmpty
    match (if waiting then none else s.queueHost ⟨p, payload⟩) with
    | some s => s
    | none => match d with
      | some d => s.modDie d (fun x => { x with egress := x.egress ++ [⟨p, payload⟩] })
      | none => { s with yokeEgress := s.yokeEgress ++ [⟨p, payload⟩] }

/-- A trap message sent by no parked hart (R380). -/
def State.reportTrap (s : State) (c p : Nat) (cause : Cause) (faddr : Word) (corr : BitVec 32) : State :=
  s.sendTrap c p false (s.devnum * 16384 + c * 4) (s.reportPayload p cause faddr corr) corr

/-- A core without the boosts for participants that have arrived, gone, or been released; with none left it returns to 1.7 GHz (R333). -/
def Core.unboost (x : Core) (ended : Nat × Nat → Bool) : Core :=
  if x.boosts.any ended then
    let left := x.boosts.filter (fun b => !ended b)
    { x with boosts := left, clockMHz := if left.isEmpty && 1700 < x.clockMHz then 1700 else x.clockMHz }
  else x

/-- The boosts for hart h's task end (R333). -/
def State.unboost (s : State) (h : Nat) : State :=
  if (s.core (coreOf h)).boosts.isEmpty then s else s.modCore (coreOf h) (fun x => x.unboost (fun b => b.2 == h))

/-! ### Taking a trap and coming back -/

/-- What the 100 µs of a requested pre-emption run from (R160): while the hart is neither parked nor halted, the time of the request moved on
by the suspensions; while it is, the time already counted (R150, R354). This turns one into the other. -/
def State.flipInterval (s : State) (h : Nat) : State :=
  s.modHart h (fun x => { x with preempt := x.preempt.map (fun t => s.time - t) })

/-- The same, unless the hart's cluster is halted. -/
def State.flipUnlessHalted (s : State) (h : Nat) : State :=
  if (s.cluster (clusterOf h)).dbg.halted then s else s.flipInterval h

/-- No hart: what a walk or a queued task that no hart waits for names instead. -/
def noHart : Nat := 16384

/-- A core on which nothing waits for a walk for hart h: pages found absent for it are forgotten, and a walk still under way fills the PLB only. -/
def Core.forgetAbsentOf (c : Core) (h : Nat) : Core :=
  { c with
    absent := c.absent.filter (fun p => p.1 != h)
    walks := c.walks.map (fun w => if w.hid = h then { w with hid := noHart } else w) }

/-- What walks found absent for a hart, or will find, is forgotten once its bundle issues, traps or is left (R287). -/
def State.forgetAbsentOf (s : State) (h : Nat) : State :=
  let c := s.core (coreOf h)
  if c.absent.any (fun p => p.1 == h) || c.walks.any (fun w => w.hid == h) then s.setCore (coreOf h) (c.forgetAbsentOf h) else s

/-- The hart parks (R152): sy.cause, sy.faddr and sy.trappc written, the park sequence advanced, the trap message sent (R153).
`bundle` is the message's bundle field. -/
def State.parkAs (s : State) (h : Nat) (slotA : Bool) (cause : Cause) (code : BitVec 10) (faddr trappc bundle : Word)
    (kind : ParkKind) : State :=
  let x := s.hart h
  let x' : Hart := { x with
    cause := causeWord slotA code cause, faddr := faddr, trappc := trappc, parkSeq := x.parkSeq + 1,
    run := .parked, park := kind, wait := .none, reads := [], lostWord := if cause = .regUncorrectable then none else x.lostWord }
  let s1 := ((s.setHart h x').flipUnlessHalted h).forgetAbsentOf h
  let p := s.servicePart (clusterOf h)
  let corr : BitVec 32 := x.task.setWidth 32
  let handle := word (x'.parkSeq.toNat * 2 ^ 32) ||| s.location h
  let payload := [handle, x'.cause, faddr, trappc, x.task, word (p * 65536) ||| (x.domain &&& 0xFFFF), s.time, bundle]
  let service := match x.job with
    | some t => t.service
    | none => false
  (s1.sendTrap (coreOf h) p service (s.location h).toNat payload corr).trace (clusterOf h) 6 corr (s.location h).toNat

/-- The fall-through successor of a bundle: the next address, or the one after it when the bundle has S = 1 (R41). -/
def successor (pc : Word) (sBit : Bool) : Word := if sBit then pc + 16 else pc + 8

/-- The near buffer is emptied by an acquire, a FENCE or the taking up of a task (R183); a weak load that is still outstanding makes no entry
either, for its value may be older (R237; log 50). -/
def Hart.clearNear (x : Hart) : Hart := { x with near := [], loads := x.loads.map (fun l => { l with nb := [] }) }

/-- The bundle address that sy.trappc gives the pc: bits [2:0] of what software has written there are taken for zero, for a pc always holds a
bundle address (R37; log 55, DESIGN CHOICE). -/
def Hart.trapPc (x : Hart) : Word := x.trappc &&& ~~~ 7

/-- A parked hart resumes at sy.trappc (retry, R158). -/
def State.unparkRetry (s : State) (h : Nat) : State :=
  (s.flipUnlessHalted h).modHart h (fun x => { x.clearNear with run := .running, pc := x.trapPc, wait := .none })

/-- A parked hart's sy.trappc moves to the fall-through successor and the hart resumes there (skip, R158). -/
def State.unparkSkip (s : State) (h : Nat) (sBit : Bool) : State :=
  (s.flipUnlessHalted h).modHart h (fun x =>
    { x.clearNear with run := .running, trappc := successor x.trapPc sBit, pc := successor x.trapPc sBit, wait := .none })

/-! ### What a slot's instruction comes to -/

/-- What the instruction of one slot comes to. -/
inductive Eff where
  /-- its effect, and where control goes if it is a transfer that is taken -/
  | ok (s : State) (jump : Option Word)
  /-- a precise trap: cause, code, faulting address (R41, R149) -/
  | trap (cause : Cause) (code : BitVec 10) (faddr : Word)
  /-- the PLB does not hold an entry that its checks need: the bundle does not issue, and no check is decided (R41, R287) -/
  | walk (s : State)
  /-- its checks pass and it waits: the bundle does not issue (R41) -/
  | wait (s : State)
  /-- the task ends or vacates with this bundle (EXIT, YIELD): what is to be done once the bundle retires -/
  | leave (s : State)
  deriving Repr

/-- The rank of a cause (R379), 1 highest. -/
def Cause.rank : Cause → Nat
  | .illegal => 3 | .privileged => 4 | .regUncorrectable => 5 | .misaligned => 6 | .notPresent => 7 | .protection => 7
  | .escape => 8 | .watch => 9 | .queue => 10 | .counter => 10 | .trapInstr => 11 | .breakpoint => 11 | _ => 12

end Sys2Proof.Machine
end

