-- ==== Sys2Proof/Machine/Operands.lean ====
section
/-! DEFINITION. Operands: immediates (R44, R47), operand codes (R51, R52, R66), queues (R26, R253 to R256), and the
registers that an instruction names (R40, R71, R75). -/

namespace Sys2Proof.Machine

/-! ### C-slot operands -/

/-- i of R79 and R83, the displacement of R213, the offset of R42: the field or the literal, sign-extended. -/
def immWord {n : Nat} : Imm n → Word
  | .field v => sext v
  | .lit v => sext v

/-- A vector access's displacement: zero, or the literal (R25, R44). -/
def dispWord : Option (BitVec 32) → Word
  | none => 0
  | some v => sext v

/-- The target of a branch by bundles (R42). -/
def branchTarget {n : Nat} (pc : Word) (off : Imm n) : Word := pc + (immWord off <<< 3)

/-! ### Queues -/

/-- Where queue n of hart h stands in its core's list (R253). -/
def queueAt (h n : Nat) : Nat := if n < 4 then 4 * (h % 4) + n else 12 + n

/-- The entries of queue k of core c. -/
def Core.queue (c : Core) (k : Nat) : List Vec := (find k c.queues).getD []

def Core.setQueue (c : Core) (k : Nat) (q : List Vec) : Core :=
  { c with queues := if q.isEmpty then drop k c.queues else put k q c.queues }

/-- Field n of sy.qmin or sy.qcap as hart h sees it: fields 4 to 7 are the core's (R68). -/
def qminField (s : State) (h n : Nat) : Nat :=
  if n < 4 then bf (s.hart h).qmin (8 * n) 8 else bf (s.core (coreOf h)).qminShared (8 * (n - 4)) 8
def qcapField (s : State) (h n : Nat) : Nat :=
  if n < 4 then bf (s.hart h).qcap (8 * n) 8 else bf (s.core (coreOf h)).qcapShared (8 * (n - 4)) 8

/-- The effective minimum and cap of queue k of core c (R70). -/
def queueMin (s : State) (c k : Nat) : Nat :=
  max 4 (if k < 16 then qminField s (4 * c + k / 4) (k % 4) else qminField s (4 * c) (k - 12))
def queueCap (s : State) (c k : Nat) : Nat :=
  max (queueMin s c k) (if k < 16 then qcapField s (4 * c + k / 4) (k % 4) else qcapField s (4 * c) (k - 12))

/-- k more entries are accepted by queue q of core c under the limits of `lim` (R254). -/
def queueTakes (lim : State) (core : Core) (c q k : Nat) : Bool :=
  let n := (core.queue q).length + k
  let total := core.queues.foldl (fun t e => t + e.2.length) 0 + k
  let owed := (List.range 20).foldl (fun t j => if j = q then t else t + (queueMin lim c j - (core.queue j).length)) 0
  n ≤ queueCap lim c q && (n ≤ queueMin lim c q || owed + total ≤ 256)

/-- The hart's task has used one of q0 to q3 and is channel-bound (R256). -/
def Hart.bind (x : Hart) (h n : Nat) : Hart :=
  if n < 4 then { x with job := x.job.map (fun t => { t with boundTo := some h }) } else x

/-- The head n entries of a queue removed. -/
def State.popQ (s : State) (h n count : Nat) : State :=
  let k := queueAt h n
  (s.modCore (coreOf h) (fun c => c.setQueue k ((c.queue k).drop count))).modHart h (fun x => x.bind h n)

/-- An entry appended at the tail of qn, where there is room (R26, R254). -/
def State.pushQ (s lim : State) (h n : Nat) (v : Vec) : Option State :=
  let k := queueAt h n
  let c := s.core (coreOf h)
  if queueTakes lim c (coreOf h) k 1 then
    some ((s.setCore (coreOf h) (c.setQueue k (c.queue k ++ [v]))).modHart h (fun x => x.bind h n))
  else none

/-- A bundle that waits on a queue (R255). -/
def waitQueue (pre : State) : Eff := .wait (pre.modMe (fun x => { x with wait := if x.wait = .none then .queue else x.wait }))

/-! ### A-slot operands -/

/-- The low w bits of a g register in each of n lanes (R52). -/
def broadcast (x : Word) (w n : Nat) : Vec := ofLanes 512 w (fun _ => x.setWidth w) n

/-- What an operand code reads: a vector, the queue (with its number) or a broadcast register. -/
inductive Src where
  | vec (r : BitVec 5)
  | pop (n : Nat)
  | peek (n : Nat)
  | bcast (r : BitVec 5)
  deriving DecidableEq, Repr

/-- The source meaning of an operand code (R51). -/
def Src.of (c : BitVec 6) : Src :=
  let n := c.toNat
  if n < 32 then .vec (c.setWidth 5) else if n < 40 then .pop (n - 32) else if n < 48 then .peek (n - 40)
  else .bcast (BitVec.ofNat 5 (n - 32))

/-- How wide a broadcast's lanes are, and how many it has (R52). -/
structure Lanes where
  w : Nat
  n : Nat
  deriving DecidableEq, Repr

def elems (t : Ty) : Lanes := ⟨t.width, t.lanes⟩

/-- The value of a source whose queue entry, if it reads one, is e. -/
def srcVec (h : Hart) (l : Lanes) (e : Vec) : Src → Vec
  | .vec r => h.getV r
  | .pop _ | .peek _ => e
  | .bcast r => broadcast (h.getG r) l.w l.n

/-- The queue that a source names. -/
def Src.queue? : Src → Option Nat
  | .pop n | .peek n => some n
  | _ => none

def Src.pops : Src → Bool
  | .pop _ => true
  | _ => false

/-- Entry i of queue n of hart h. -/
def State.entry? (s : State) (h n i : Nat) : Option Vec := ((s.core (coreOf h)).queue (queueAt h n))[i]?

/-- One source read for the hart that issues, its pop made in `cur` (R66); none where it waits. -/
def readOne (pre cur : State) (l : Lanes) (c : BitVec 6) : Option (Vec × State) :=
  let h := pre.cur
  let a := Src.of c
  match a.queue? with
  | none => some (srcVec pre.me l 0 a, cur)
  | some n =>
    match pre.entry? h n 0 with
    | none => none
    | some e => some (e, if a.pops then cur.popQ h n 1 else cur.modHart h (fun x => x.bind h n))

/-- Two sources read (R26, R66): the same queue is read as the table of R26 gives; none where an entry is missing. -/
def readTwo (pre cur : State) (la lb : Lanes) (ca cb : BitVec 6) : Option (Vec × Vec × State) :=
  let h := pre.cur
  let a := Src.of ca
  let b := Src.of cb
  match a.queue?, b.queue? with
  | some n, some n' =>
    if n = n' then
      if a.pops && b.pops then
        match pre.entry? h n 0, pre.entry? h n 1 with
        | some x, some y => some (x, y, cur.popQ h n 2)
        | _, _ => none
      else
        match pre.entry? h n 0 with
        | some x => some (x, x, if a.pops || b.pops then cur.popQ h n 1 else cur.modHart h (fun x => x.bind h n))
        | none => none
    else
      match readOne pre cur la ca with
      | none => none
      | some (x, s1) => (readOne pre s1 lb cb).map (fun r => (x, r.1, r.2))
  | _, _ =>
    match readOne pre cur la ca with
    | none => none
    | some (x, s1) => (readOne pre s1 lb cb).map (fun r => (x, r.1, r.2))

/-- write_op of R66 for a vector destination, 0 to 39; none where a push waits. `pre` gives the queue limits (R88). -/
def writeVec (pre cur : State) (d : BitVec 6) (v : Vec) : Option State :=
  if d.toNat < 32 then some (cur.modMe (fun h => h.setV (d.setWidth 5) v))
  else cur.pushQ pre pre.cur (d.toNat - 32) v

/-- A mask destination, code 41 to 47 (R51). -/
def maskDest (d : BitVec 6) : BitVec 3 := BitVec.ofNat 3 (d.toNat - 40)

/-! ### The registers that an instruction names -/

/-- g and v registers named as sources and destinations (R71), and g registers read without being named. -/
structure Uses where
  gr : List (BitVec 5) := []
  gw : List (BitVec 5) := []
  vr : List (BitVec 5) := []
  vw : List (BitVec 5) := []
  mr : List (BitVec 3) := []
  extra : List (BitVec 5) := []
  deriving DecidableEq, Repr

def Uses.add (a b : Uses) : Uses :=
  ⟨a.gr ++ b.gr, a.gw ++ b.gw, a.vr ++ b.vr, a.vw ++ b.vw, a.mr ++ b.mr, a.extra ++ b.extra⟩

/-- A source operand code. -/
def srcUse (c : BitVec 6) : Uses :=
  match Src.of c with
  | .vec r => { vr := [r] }
  | .bcast r => { gr := [r] }
  | _ => {}

/-- A vector destination code, and one that is also read. -/
def destUse (d : BitVec 6) : Uses := if d.toNat < 32 then { vw := [d.setWidth 5] } else {}
def destReadUse (d : BitVec 6) : Uses := if d.toNat < 32 then { vr := [d.setWidth 5], vw := [d.setWidth 5] } else {}

/-- A mask source, code 40 to 47. -/
def maskUse (a : BitVec 6) : Uses := { mr := [maskDest a] }

/-- The registers of an instruction of a slot. -/
def uses : Instr → Uses
  | .add _ d a b | .sub _ d a b | .and _ d a b | .or _ d a b | .xor _ d a b | .andn _ d a b | .sll _ d a b | .srl _ d a b
  | .sra _ d a b | .slt _ d a b | .sltu _ d a b | .min _ d a b | .max _ d a b | .minu _ d a b | .maxu _ d a b | .mul _ d a b
  | .mulh _ d a b | .mulhu _ d a b | .div _ d a b | .divu _ d a b | .rem _ d a b | .remu _ d a b | .lea _ d a b _ _ =>
    { gr := [a, b], gw := [d] }
  | .clz _ d a | .ctz _ d a | .popc _ d a => { gr := [a], gw := [d] }
  | .sel _ d a b => { gr := [d, a, b], gw := [d] }
  | .addi _ d a _ | .andi _ d a _ | .ori _ d a _ | .xori _ d a _ | .slti _ d a _ | .sltiu _ d a _ | .slli _ d a _
  | .srli _ d a _ | .srai _ d a _ | .lui _ d a _ | .jalr _ d a _ => { gr := [a], gw := [d] }
  | .li _ d _ | .jal _ d _ => { gw := [d] }
  | .beq _ a b _ | .bne _ a b _ | .blt _ a b _ | .bge _ a b _ | .bltu _ a b _ | .bgeu _ a b _ => { gr := [a, b] }
  | .loop _ a _ => { gr := [a], gw := [a] }
  | .fork _ _ n _ => { gr := (List.range n.toNat).map (fun k => BitVec.ofNat 5 (8 + k)), extra := [3] }
  | .ldb _ d b _ _ | .ldbu _ d b _ _ | .ldh _ d b _ _ | .ldhu _ d b _ _ | .ldw _ d b _ _ | .ldwu _ d b _ _ | .ldd _ d b _ _
  | .ldt _ d b _ _ => { gr := [b], gw := [d] }
  | .stb _ d b _ _ | .sth _ d b _ _ | .stw _ d b _ _ | .std _ d b _ _ | .stref _ d b _ _ => { gr := [d, b] }
  | .vld _ d b _ _ m _ => { gr := [b], vw := [d], mr := [m] }
  | .vst _ d b _ _ m _ | .amofaddv _ d b _ _ m _ => { gr := [b], vr := [d], mr := [m] }
  | .vldx _ d b _ x _ m _ => { gr := [b], vr := [x], vw := [d], mr := [m] }
  | .vstx _ d b _ x _ m _ => { gr := [b], vr := [d, x], mr := [m] }
  | .amoadd _ d a b _ _ | .amoand _ d a b _ _ | .amoor _ d a b _ _ | .amoxor _ d a b _ _ | .amomin _ d a b _ _
  | .amomax _ d a b _ _ | .amominu _ d a b _ _ | .amomaxu _ d a b _ _ | .amoswap _ d a b _ _ | .amofadd _ d a b _ =>
    { gr := [a, b], gw := [d] }
  | .amocas _ d a b _ _ => { gr := [d, a, b], gw := [d] }
  | .fence _ d _ => { gw := [d] }
  | .pub _ d a _ => { gr := [a], gw := [d] }
  | .pref _ a _ b | .cln _ a _ b | .inv _ a _ b => { gr := [a, b] }
  | .resq _ d a _ b => { gr := [a, b], gw := [d] }
  | .setc _ a _ | .decc _ a _ => { gr := [a] }
  | .getc _ d _ | .waitc _ d _ => { gw := [d] }
  | .bindc _ d a _ => { gr := [a], gw := [d] }
  | .exit _ | .yield _ | .brk _ _ => {}
  | .launch _ d a | .cancel _ d a _ => { gr := [a], gw := [d] }
  | .bar _ a _ => { gr := [a] }
  | .send _ a b p => { gr := [a, b], vr := [p] }
  | .sendx _ p a b => { gr := [p, a, b] }
  | .qstat _ d _ => { gw := [d] }
  | .qresv _ d a b => { gr := [a, b], gw := [d] }
  | .enq _ d a b _ => { gr := [a, b], gw := [d] }
  | .jobq _ d a | .jobw _ d a | .glean _ d a | .gstat _ d a _ | .ydecl _ d a => { gr := [a], gw := [d] }
  | .plbinv _ d a b _ | .htw _ d a b | .wmap _ d a b _ => { gr := [a, b], gw := [d] }
  | .wunmap _ d b _ => { gr := [b], gw := [d] }
  | .cbld _ a _ | .syw _ a _ | .trap _ a _ => { gr := [a] }
  | .syr _ d _ => { gw := [d] }
  | .waite _ d a _ | .resume _ d a _ => { gr := [a], gw := [d] }
  | .vadd d a b _ _ | .vsub d a b _ _ | .vmul d a b _ _ | .vmin d a b _ | .vmax d a b _ | .viadd d a b _ | .visub d a b _
  | .vimul d a b _ | .vimulh d a b _ | .vand d a b _ | .vor d a b _ | .vxor d a b _ | .vshl d a b _ | .vshr d a b _
  | .vsra d a b _ | .vimin d a b _ | .vimax d a b _ | .vperm d a b _ | .vzip d a b _ _ | .vunzip d a b _ _ | .vpack d a b _
  | .vcompr d a b _ | .vexpnd d a b _ => (destUse d).add ((srcUse a).add (srcUse b))
  | .vfma d a b _ _ | .vfms d a b _ _ | .vfnma d a b _ _ | .vdot4 d a b _ _ | .vdot2 d a b _ _ =>
    Uses.add { vr := [d], vw := [d] } ((srcUse a).add (srcUse b))
  | .vabs d a _ | .vneg d a _ | .vrcp d a _ _ | .vrsq d a _ _ | .vexp2 d a _ _ | .vlog2 d a _ _ | .vbcast d a _ _
  | .vrot d a _ _ | .vunpack d a _ _ | .vcbd d a _ _ _ => (destUse d).add (srcUse a)
  | .vfcmp _ a b _ _ | .vicmp _ a b _ _ => (srcUse a).add (srcUse b)
  | .vsel d a b _ k => Uses.add { mr := [k] } ((destUse d).add ((srcUse a).add (srcUse b)))
  | .mand _ a b | .mor _ a b | .mxor _ a b => (maskUse a).add (maskUse b)
  | .mnot _ a => maskUse a
  | .mpop d a | .mfirst d a => Uses.add { gw := [d] } (maskUse a)
  | .vextr d a _ _ | .vrsum d a _ _ | .vrmax d a _ | .vrmin d a _ | .virsum d a _ => Uses.add { gw := [d] } (srcUse a)
  | .vins d a _ _ | .vslide d a _ _ => (destReadUse d).add (srcUse a)
  | .vcvt d a _ src t _ =>
    (if (Ty.of src).lanes < (Ty.of t).lanes then destReadUse d else destUse d).add (srcUse a)
  | .vqnt d a gs _ _ => (destUse d).add (Uses.add { gr := [BitVec.ofNat 5 (16 + gs.toNat)] } (srcUse a))
  | .vpopx d a b => Uses.add { gw := [d] } ((srcUse a).add (srcUse b))
  | .mmaE4e4 _ g _ _ | .mmaE4e5 _ g _ _ | .mmaE5e4 _ g _ _ | .mmaE5e5 _ g _ _ | .mmaBf16 _ g _ _ | .mmaF16 _ g _ _
  | .mmaE3m2 _ g _ _ | .mmaE2m3 _ g _ _ | .mmaE2m1 _ g _ _ | .mmaCb2e4 _ g _ _ _ | .mmaS8 _ g _ _ | .mmaCb2bf _ g _ _ _
  | .mst _ g _ _ | .mld _ g _ | .bldMemory g _ => { gr := [g] }
  | _ => {}

end Sys2Proof.Machine
end

