-- ==== Sys2Proof/Machine/Ranges.lean ====
section
/-! DEFINITION. Range entries of near caches and home slices: cutting, trimming, joining, filling, making room
(R65, R173 to R182). Offsets are within the 512-byte region. -/

namespace Sys2Proof.Machine

/-- extent_split of R65: the pieces of [base, base + len) cut at 512-byte regions, in address order. -/
def extentSplit (base len : Nat) : List (Nat × Nat) :=
  let rec go : Nat → Nat → List (Nat × Nat)
    | 0, _ => []
    | fuel + 1, lo =>
      if lo < base + len then
        let cut := min (base + len) (lo / 512 * 512 + 512)
        (lo, cut - lo) :: go fuel cut
      else []
  go (len / 512 + 2) base

/-- The same cut at pages of 4 KiB. -/
def pageSplit (base len : Nat) : List (Nat × Nat) :=
  let rec go : Nat → Nat → List (Nat × Nat)
    | 0, _ => []
    | fuel + 1, lo =>
      if lo < base + len then
        let cut := min (base + len) (lo / 4096 * 4096 + 4096)
        (lo, cut - lo) :: go fuel cut
      else []
  go (len / 4096 + 2) base

/-- The region's words that [a, b) touches, as bits (R173). -/
def wordMask (a b : Nat) : BitVec 64 :=
  if a < b then BitVec.ofNat 64 (2 ^ ((b + 7) / 8) - 2 ^ (a / 8)) else 0

/-- The granules of 16 bytes that [a, b) touches, as bits (R174, R194). -/
def granMask (a b : Nat) : BitVec 32 :=
  if a < b then BitVec.ofNat 32 (2 ^ ((b + 15) / 16) - 2 ^ (a / 16)) else 0

def RangeEntry.hi (e : RangeEntry) : Nat := e.lo + e.len

/-- The part of e in [a, b), which lies within its range, with its share of the dirty sub-range (R178). -/
def RangeEntry.sub (e : RangeEntry) (a b : Nat) : RangeEntry :=
  let d0 := max a (e.lo + e.dlo)
  let d1 := min b (e.lo + e.dlo + e.dlen)
  { e with
    lo := a, len := b - a, data := (e.data.drop (a - e.lo)).take (b - a), tags := e.tags &&& wordMask a b, poison := e.poison &&& granMask a b
    dlo := if d0 < d1 then d0 - a else 0, dlen := d1 - d0 }

/-- e without the bytes [a, b): none, one or two pieces (R177, R178). -/
def RangeEntry.trim (e : RangeEntry) (region a b : Nat) : List RangeEntry :=
  if e.region = region ∧ a < e.hi ∧ e.lo < b then
    (if e.lo < a then [e.sub e.lo a] else []) ++ (if b < e.hi then [e.sub b e.hi] else [])
  else [e]

/-- An entry whose bytes [a, b) of the region another store has overwritten: they go, and the words they lie in lose their tags (R177, R216). -/
def RangeEntry.cut (e : RangeEntry) (region a b : Nat) : List RangeEntry :=
  (if e.region = region then { e with tags := e.tags &&& ~~~ wordMask a b } else e).trim region a b

/-- Every entry without the bytes [a, b) of the region. -/
def trimAll (es : List RangeEntry) (region a b : Nat) : List RangeEntry := es.flatMap (fun e => e.trim region a b)

/-- The union of the dirty sub-ranges of two abutting entries is one interval or empty (R179). -/
def dirtyJoins (x y : RangeEntry) : Bool :=
  x.dlen == 0 || y.dlen == 0 || x.lo + x.dlo + x.dlen == y.lo + y.dlo

/-- x ends where y begins and the two are compatible (R179). -/
def RangeEntry.joins (x y : RangeEntry) : Bool :=
  x.region == y.region && x.hi == y.lo && x.cls == y.cls && dirtyJoins x y

/-- One entry of two that abut, x first (R179). -/
def RangeEntry.join (x y : RangeEntry) : RangeEntry :=
  { x with
    len := x.len + y.len, data := x.data ++ y.data, tags := x.tags ||| y.tags, poison := x.poison ||| y.poison
    age := min x.age y.age
    dlo := if x.dlen != 0 then x.dlo else if y.dlen != 0 then x.len + y.dlo else 0
    dlen := if x.dlen != 0 && y.dlen != 0 then x.dlen + y.dlen else if x.dlen != 0 then x.dlen else y.dlen }

/-- f joined with a compatible entry that ends where it begins, then with one that begins where it ends (R179). -/
def coalesce (es : List RangeEntry) (f : RangeEntry) : List RangeEntry :=
  let (f1, es1) := match es.find? (fun e => e.joins f) with
    | some e => (e.join f, removeFirst (fun x => x == e) es)
    | none => (f, es)
  match es1.find? (fun e => f1.joins e) with
  | some e => f1.join e :: removeFirst (fun x => x == e) es1
  | none => f1 :: es1

/-- The tags of the words that [a, b) touches cleared in every entry of the region. -/
def clearTags (es : List RangeEntry) (region a b : Nat) : List RangeEntry :=
  es.map (fun e => if e.region = region then { e with tags := e.tags &&& ~~~ wordMask a b } else e)

/-- private_store of R178, of one piece [a, a + data) of a region; `tags` are set by STREF (R216), and `poison` is what its bytes carry
(R194). -/
def rangeStore (es : List RangeEntry) (region a : Nat) (cls : Cls) (data : List Byte) (tags : BitVec 64) (poison : BitVec 32) : List RangeEntry :=
  let b := a + data.length
  coalesce (trimAll (clearTags es region a b) region a b)
    ⟨region, a, data.length, 0, data.length, cls, data, tags, poison &&& granMask a b, 7⟩

/-- The byte at an offset of a region, where an entry holds it. -/
def heldByte (es : List RangeEntry) (region off : Nat) : Option Byte :=
  match es.find? (fun e => e.region == region && e.lo ≤ off && off < e.hi) with
  | some e => e.data[off - e.lo]?
  | none => none

/-- The tag of word k of a region, where an entry touches the word. -/
def heldTag (es : List RangeEntry) (region k : Nat) : Option Bool :=
  match es.find? (fun e => e.region == region && e.lo < 8 * k + 8 && 8 * k < e.hi) with
  | some e => some (bit e.tags k)
  | none => none

/-- The poisoned granules among the bytes [a, b) of the region that entries hold (R194). -/
def heldPoison (es : List RangeEntry) (region a b : Nat) : BitVec 32 :=
  es.foldl (fun p e => if e.region = region then p ||| (e.poison &&& granMask (max a e.lo) (min b e.hi)) else p) 0

/-- How many bytes of [a, b) of the region the entries hold. -/
def heldCount (es : List RangeEntry) (region a b : Nat) : Nat :=
  (es.filter (fun e => e.region == region)).foldl (fun n e => n + (min b e.hi - max a e.lo)) 0

/-- The bytes of [a, b) that no entry holds, as runs (R176, R180). -/
def missingRuns (es : List RangeEntry) (region a b : Nat) : List (Nat × Nat) :=
  (es.foldl (fun rs e =>
    if e.region = region then
      rs.flatMap (fun r =>
        if e.lo < r.2 ∧ r.1 < e.hi then
          (if r.1 < e.lo then [(r.1, e.lo)] else []) ++ (if e.hi < r.2 then [(e.hi, r.2)] else [])
        else [r])
    else rs) (if a < b then [(a, b)] else []))

/-- The hull of the missing bytes, [first missing, last missing + 1) (R176). -/
def missingHull (es : List RangeEntry) (region a b : Nat) : Option (Nat × Nat) :=
  match missingRuns es region a b with
  | [] => none
  | r :: rs => some (rs.foldl (fun h x => min h x.1) r.1, rs.foldl (fun h x => max h x.2) r.2)

/-- A run cut where the class of its granules changes (R180). -/
def classRuns (cls : Nat → Cls) (a b : Nat) : List (Nat × Nat) :=
  ((List.range (b - a)).filter (fun k => k = 0 || cls (a + k) != cls (a + k - 1))).foldr (fun k rs =>
    (a + k, (rs.head?.map (fun r => r.1)).getD b) :: rs) []

/-- A fill of [a, a + data): resident bytes win, each other run of one class becomes a clean fragment (R180). -/
def rangeFill (es : List RangeEntry) (region a : Nat) (cls : Nat → Cls) (data : List Byte) (tags : BitVec 64) (poison : BitVec 32) :
    List RangeEntry :=
  ((missingRuns es region a (a + data.length)).flatMap (fun r => classRuns cls r.1 r.2)).foldl (fun es r =>
    let held := es.foldl (fun m e => if e.region = region then m ||| wordMask e.lo e.hi else m) (0 : BitVec 64)
    let old := es.foldl (fun m e => if e.region = region then m ||| e.tags else m) (0 : BitVec 64)
    let t := ((tags &&& ~~~ held) ||| (old &&& held)) &&& wordMask r.1 r.2
    coalesce es ⟨region, r.1, r.2 - r.1, 0, 0, cls r.1, (data.drop (r.1 - a)).take (r.2 - r.1), t, poison &&& granMask r.1 r.2, 7⟩) es

/-- The dirty bytes of [a, b) written down: address offset and bytes (R177, R231). -/
def dirtyRuns (es : List RangeEntry) (region a b : Nat) : List (RangeEntry × Nat × Nat) :=
  es.filterMap (fun e =>
    let d0 := max a (e.lo + e.dlo)
    let d1 := min b (e.lo + e.dlo + e.dlen)
    if e.region = region ∧ d0 < d1 then some (e, d0, d1) else none)

/-- e with the bytes [a, b) no longer dirty; a middle cut leaves two entries (R231). -/
def RangeEntry.cleaned (e : RangeEntry) (a b : Nat) : List RangeEntry :=
  let d0 := e.lo + e.dlo
  let d1 := d0 + e.dlen
  if e.dlen = 0 ∨ b ≤ d0 ∨ d1 ≤ a then [e]
  else if a ≤ d0 ∧ d1 ≤ b then [{ e with dlo := 0, dlen := 0 }]
  else if a ≤ d0 then [{ e with dlo := b - e.lo, dlen := d1 - b }]
  else if d1 ≤ b then [{ e with dlen := a - d0 }]
  else [e.sub e.lo a, { e.sub a e.hi with dlo := b - a, dlen := d1 - b }]

/-- CLN's effect on the entries: the dirty bytes of [a, b) of the region become clean (R231). -/
def cleanAll (es : List RangeEntry) (region a b : Nat) : List RangeEntry :=
  es.flatMap (fun e => if e.region = region then e.cleaned a b else [e])

/-- Granules of g bytes that an entry's data takes (R174). -/
def RangeEntry.granules (e : RangeEntry) (g : Nat) : Nat := (e.hi + g - 1) / g - e.lo / g

/-- The near-cache set of a region (R175). -/
def ncSet (region : Nat) : Nat :=
  let a := region * 512
  (a / 2 ^ 9 % 32) ^^^ (a / 2 ^ 14 % 32) ^^^ (a / 2 ^ 19 % 32)

/-- The home-slice set of a region (R175). -/
def homeSet (region : Nat) : Nat :=
  let a := region * 512
  (a / 2 ^ 16 % 128) ^^^ (a / 2 ^ 23 % 128) ^^^ (a / 2 ^ 30 % 128)

/-- An entry holds a byte of [a, b) of the region. -/
def RangeEntry.holds (e : RangeEntry) (region a b : Nat) : Bool := e.region == region && decide (max a e.lo < min b e.hi)

/-- The entries that hold bytes of [a, b) of a region are the newest of their set; the others that were newer than one of them age by one
(R181; log 3). A new entry comes in with the oldest age. -/
def touch (setOf : Nat → Nat) (es : List RangeEntry) (region a b : Nat) : List RangeEntry :=
  let old := es.foldl (fun m e => if e.holds region a b then max m e.age else m) 0
  es.map (fun e =>
    if e.holds region a b then { e with age := 0 }
    else if setOf e.region = setOf region && e.age < old then { e with age := e.age + 1 } else e)

/-- The entry to evict among those that may go: of the oldest age, the first listed (R181). -/
def victim (es : List RangeEntry) (may : RangeEntry → Bool) : Option RangeEntry :=
  (es.filter may).foldl (fun v e => match v with
    | none => some e
    | some x => if x.age < e.age then some e else some x) none

/-- make_room of R181 after an event on the bytes [a, b) of a region: the entries that stay and those evicted. An entry that holds bytes of
the access never goes. -/
def makeRoom (setOf : Nat → Nat) (ways granules g : Nat) (region a b : Nat) (es : List RangeEntry) :
    List RangeEntry × List RangeEntry :=
  let rec go : Nat → List RangeEntry → List RangeEntry → List RangeEntry × List RangeEntry
    | 0, es, out => (es, out)
    | fuel + 1, es, out =>
      let full := ways < (es.filter (fun e => setOf e.region == setOf region)).length
      let short := granules < es.foldl (fun n e => n + e.granules g) 0
      let may (e : RangeEntry) : Bool := !e.holds region a b && (!full || setOf e.region == setOf region)
      if full || short then
        match victim es may with
        | some e => go fuel (removeFirst (fun x => x == e) es) (out ++ [e])
        | none => (es, out)
      else (es, out)
  go (ways + 32) es []

/-- The pairs of compatible abutting entries of a set (R182). -/
def joinPairs (setOf : Nat → Nat) (st : Nat) (es : List RangeEntry) : List (RangeEntry × RangeEntry) :=
  es.filterMap (fun x => if setOf x.region = st then (es.find? (fun y => x.joins y)).map (fun y => (x, y)) else none)

/-- One pair of compatible abutting entries of a set joined, the one that `pick` names (R182). -/
def idleJoin (setOf : Nat → Nat) (st pick : Nat) (es : List RangeEntry) : List RangeEntry :=
  let ps := joinPairs setOf st es
  match ps[pick % ps.length]? with
  | none => es
  | some (x, y) => x.join y :: removeFirst (fun e => e == y) (removeFirst (fun e => e == x) es)

/-- A near cache after an event on bytes [a, b) of a region, ages and room settled. -/
def ncSettle (es : List RangeEntry) (region a b : Nat) : List RangeEntry × List RangeEntry :=
  makeRoom ncSet 8 2048 16 region a b (touch ncSet es region a b)

/-- The same for a home slice (R171). -/
def homeSettle (es : List RangeEntry) (region a b : Nat) : List RangeEntry × List RangeEntry :=
  makeRoom homeSet 8 4096 32 region a b (touch homeSet es region a b)

end Sys2Proof.Machine
end

