-- ==== Sys2Proof/Machine/Xlate.lean ====
section
/-! DEFINITION. Addresses: zones (R4, R203, R286), page tables and walks (R280 to R283), the PLB and its checks (R284 to
R287, R209), homes (R186), the home's translation (R283) and isolation (R345). -/

namespace Sys2Proof.Machine

/-- What part of the address space an address lies in (R4, R196, R203, R286). -/
inductive Zone where
  /-- outside the 57-bit space -/
  | out
  /-- the core-local window, at an offset -/
  | loc (o : Nat)
  /-- the Bolt of a device: byte offset from 0x7F00_0000_0000 -/
  | bolt (o : Nat)
  /-- the peer window: byte offset from 0x7E00_0000_0000 -/
  | peer (o : Nat)
  | mem
  deriving DecidableEq, Repr

def localBase : Nat := 0x00FF000000000000
def boltBase : Nat := 0x7F0000000000
def peerBase : Nat := 0x7E0000000000

/-- The device of an address, bits [56:47], and its device-local part (R4). -/
def devOf (a : Nat) : Nat := a / 2 ^ 47 % 1024
def devLocal (a : Nat) : Nat := a % 2 ^ 47

def zone (a : Nat) : Zone :=
  if 2 ^ 57 ≤ a then .out
  else if localBase ≤ a ∧ a < 0x0100000000000000 then .loc (a - localBase)
  else
    let l := devLocal a
    if boltBase ≤ l ∧ l < boltBase + 0x40000000 then .bolt (l - boltBase)
    else if peerBase ≤ l ∧ l < peerBase + 0x400000000 then .peer (l - peerBase)
    else .mem

/-! ### Page tables -/

/-- A byte of a device's HBM, 0 where no frame lies (log 48); another device's is free (log 6). -/
def State.hbmByte (s : State) (dev a : Nat) : Byte :=
  if dev = s.devnum then (if a < Config.hbmBytes then readByte s.mem a else 0) else Config.outsideByte (2 ^ 60 + dev) a

def State.hbmWord (s : State) (dev a : Nat) : Word :=
  wordOf ((List.range 8).map (fun k => s.hbmByte dev (a + k)))

/-- The table root of a device (R340); another device's is free (log 6). -/
def State.tableRoot (s : State) (dev : Nat) : Nat :=
  (if dev = s.devnum then s.reg 0x300 else wordOf ((List.range 8).map (fun k => Config.outsideByte (2 ^ 59 + dev) k))).toNat
    / 4096 % 2 ^ 40 * 4096

/-- A leaf that a walk finds: the PLB entry that it makes, the page's physical base, and where the leaf stands. -/
structure Leaf where
  plb : PlbEntry
  w0 : Word
  w1 : Word
  phys : Nat
  level : Nat
  ptr : Nat
  group : Bool
  deriving DecidableEq, Repr

/-- The bits of an entry's word 0 that are not reserved. -/
def pteReserved0 (w : Word) : Bool := bf w 52 12 != 0 || bf w 0 5 != 0
def pteReserved1 (w : Word) : Bool := bf w 44 3 != 0 || bf w 0 36 != 0

def pteAddr (w : Word) : Nat := bf w 12 40 * 4096

/-- The PLB entry of a leaf whose page starts at page number p (R281, R284). -/
def plbOf (p size : Nat) (w0 w1 mask : Word) : PlbEntry :=
  { page := p, size := size, domain := BitVec.ofNat 16 (bf w1 48 16), glob := bit w0 8, r := bit w0 7, w := bit w0 6,
    x := bit w0 5, arena := bit w0 9, mask := mask, placeCluster := bit w1 47, die := bf w1 42 2, cluster := bf w1 36 6 }

/-- An address of the Bolt or of the peer window: of its leaf, addr, place, die and cluster are ignored (R286). -/
def unplaced (a : Nat) : Bool := match zone a with
  | .mem => false
  | _ => true

/-- A leaf for an address has no non-zero reserved field; the cluster field is zero for spread (R281), and the arena bit is clear where the
leaf places nothing (R286). -/
def leafOk (w0 w1 : Word) (a : Nat) : Bool :=
  !pteReserved0 w0 && !pteReserved1 w1 && (if unplaced a then !bit w0 9 else bit w1 47 || bf w1 36 6 == 0)

/-- The level-0 entry k of a table, as a leaf (R282). -/
def State.leaf0 (s : State) (dev tbl a : Nat) : Option Leaf :=
  let k := a / 4096 % 512
  let p := tbl + 16 * k
  let w0 := s.hbmWord dev p
  let w1 := s.hbmWord dev (p + 8)
  let ty := bf w0 10 2
  if ty = 2 then
    if leafOk w0 w1 a then
      some ⟨plbOf (a / 4096) 4096 w0 w1 (s.hbmWord dev (tbl + 0x2000 + 8 * k)), w0, w1, pteAddr w0, 0, p, false⟩
    else none
  else if ty = 3 then
    let k0 := k / 16 * 16
    let frame := pteAddr (s.hbmWord dev (tbl + 16 * k0))
    let alike := (List.range 16).all (fun j =>
      let v0 := s.hbmWord dev (tbl + 16 * (k0 + j))
      let v1 := s.hbmWord dev (tbl + 16 * (k0 + j) + 8)
      (v0 &&& 0xFFF0000000000FFF) == (w0 &&& 0xFFF0000000000FFF)
        && (if unplaced a then v1 >>> 48 == w1 >>> 48 && !pteReserved1 v1 else v1 == w1 && pteAddr v0 == frame + 4096 * j))
    if leafOk w0 w1 a && alike && (unplaced a || frame % 65536 = 0) && !bit w0 9 then
      some ⟨plbOf (a / 65536 * 16) 65536 w0 w1 0, w0, w1, frame, 0, tbl + 16 * k0, true⟩
    else none
  else none

/-- A walk of levels 2 and 1 down to a leaf (R280 to R282); `lvl` levels remain above level 0. The frame of a large leaf whose addr is not a multiple of
its page's size is rounded down to one: the spec gives such a leaf no fate (log 66, DESIGN CHOICE). -/
def State.walkFrom (s : State) (dev a : Nat) : Nat → Nat → Option Leaf
  | 0, tbl => s.leaf0 dev tbl a
  | lvl + 1, tbl =>
    let span := 2 ^ (12 + 9 * (lvl + 1))
    let p := tbl + 16 * (a / span % 512)
    let w0 := s.hbmWord dev p
    let w1 := s.hbmWord dev (p + 8)
    match bf w0 10 2 with
    | 1 => if pteReserved0 w0 || bf w0 12 2 != 0 then none else s.walkFrom dev a lvl (pteAddr w0)
    | 2 =>
      if leafOk w0 w1 a && !bit w0 9 then
        some ⟨plbOf (a / span * (span / 4096)) span w0 w1 0, w0, w1, pteAddr w0 / span * span, lvl + 1, p, false⟩
      else none
    | _ => none

/-- The present leaf that maps an address below 2^57, outside the core-local window (R280 to R283). A leaf in the root is
not present (log 10). -/
def State.walkTables (s : State) (a : Nat) : Option Leaf :=
  let dev := devOf a
  let w0 := s.hbmWord dev (s.tableRoot dev + 16 * (devLocal a / 2 ^ 39))
  if bf w0 10 2 = 1 && !pteReserved0 w0 && bf w0 12 2 = 0 then s.walkFrom dev a 2 (pteAddr w0) else none

/-- The leaf of a walk result that a unit holds: its rights and placement as they were, its mask word as memory holds it now (R283,
R288). -/
def State.leafOf (s : State) (r : WalkResult) : Leaf :=
  let dev := devOf (r.page * 4096)
  let mask := if r.size = 4096 then s.hbmWord dev (r.ptr / 8192 * 8192 + 0x2000 + r.ptr % 8192 / 2) else 0
  ⟨plbOf r.page r.size r.w0 r.w1 mask, r.w0, r.w1, r.phys, r.level, r.ptr, r.group⟩

/-- The page-walk unit of a die (R283): its held results first, then the tables. -/
def State.walkUnit (s : State) (d a : Nat) : Option Leaf :=
  match (s.die d).walkCache.find? (fun r => r.page * 4096 ≤ a && a < r.page * 4096 + r.size) with
  | some r => some (s.leafOf r)
  | none => s.walkTables a

/-- The unit of a die holds what a walk found until PLBINV drops it (R283). -/
def State.holdWalk (s : State) (d a : Nat) : State :=
  if (s.die d).walkCache.any (fun r => r.page * 4096 ≤ a && a < r.page * 4096 + r.size) then s
  else match s.walkTables a with
    | some l => s.modDie d (fun x => { x with walkCache := x.walkCache ++ [⟨l.plb.page, l.plb.size, l.w0, l.w1, l.phys, l.level, l.ptr, l.group⟩] })
    | none => s

/-! ### The PLB -/

/-- The entry covers an address (R285). -/
def PlbEntry.covers (e : PlbEntry) (a : Nat) : Bool := e.page * 4096 ≤ a && a < e.page * 4096 + e.size

/-- The entry can match a hart of the domain (R285). -/
def PlbEntry.matches (e : PlbEntry) (domain : BitVec 16) : Bool := e.glob || e.domain == domain || domain == 0

/-- The domain that a hart's accesses carry. -/
def Hart.dom (h : Hart) : BitVec 16 := h.domain.setWidth 16

/-- The entry of the core's PLB that covers an address, if any. -/
def Core.plbAt (c : Core) (a : Nat) : Option PlbEntry := c.plb.find? (fun e => e.covers a)

/-- The set of a page in the PLB (R284, log 3). -/
def plbSet (p : Nat) : Nat := Config.plbSetOf p % 64

/-- An entry filled; replacement is oldest first within the set of four (R287). -/
def plbFill (es : List PlbEntry) (e : PlbEntry) : List PlbEntry :=
  let es := es.filter (fun x => x.page != e.page || x.size != e.size)
  let mine := if es.length < 4 then [] else es.filter (fun x => plbSet x.page == plbSet e.page)
  (if mine.length < 4 then es else removeFirst (fun x => plbSet x.page == plbSet e.page) es) ++ [e]

/-- The kinds of access that plb_check tells apart (R285). -/
inductive Kind where
  | load | store | atomic | fetch
  deriving DecidableEq, Repr

def PlbEntry.allows (e : PlbEntry) (k : Kind) : Bool :=
  match k with
  | .load => e.r
  | .store => e.w
  | .atomic => e.r && e.w
  | .fetch => e.x

/-- What the check of one byte gives. -/
inductive Check where
  | pass
  | fail (c : Cause)
  /-- the PLB holds no entry for the page -/
  | miss
  deriving DecidableEq, Repr

/-- plb_check of the byte at a for hart h (R64, R209, R285 to R287). A page that a walk for this hart found absent gives
page not present. -/
def State.checkByte (s : State) (h : Nat) (k : Kind) (a : Nat) : Check :=
  match zone a with
  | .out => .fail .protection
  | .loc o => if k = .fetch then .fail .protection else if o < 0x20000 then .pass else .fail .protection
  | z =>
    let c := s.core (coreOf h)
    let special := match z with
      | .mem => false
      | _ => true
    match c.plbAt a with
    | some e =>
      if e.matches (s.hart h).dom && e.allows k && !(special && k == .fetch) then .pass else .fail .protection
    | none => if c.absent.contains (h, a / 4096) then .fail .notPresent else .miss

/-- What plb_check over an extent gives (R64): every page is looked up before a cause is decided (R41). -/
inductive ExtCheck where
  | pass
  | fail (c : Cause) (a : Nat)
  /-- pages without a PLB entry -/
  | miss (pages : List Nat)
  deriving DecidableEq, Repr

/-- The lowest byte of the extent base + len in each page that it touches. Addresses run on past 2^64: the bytes there, like
those from 2^57 up, lie outside the space (R209). -/
def probes (base len : Nat) : List Nat := (pageSplit base len).map (fun p => p.1)

/-- The check of a list of probes: misses first, then the lowest failing byte (R209, R287). -/
def State.checkProbes (s : State) (h : Nat) (k : Kind) (ps : List Nat) : ExtCheck :=
  let rs := ps.map (fun a => (a, s.checkByte h k a))
  let missing := (rs.filter (fun r => r.2 == .miss)).map (fun r => r.1)
  if missing != [] then .miss missing
  else
    match rs.foldl (fun (best : Option (Nat × Cause)) r => match r.2 with
      | .fail c => match best with
        | some (a, _) => if r.1 < a then some (r.1, c) else best
        | none => some (r.1, c)
      | _ => best) none with
    | some (a, c) => .fail c a
    | none => .pass

/-- plb_check(base, len, kind) of R64. -/
def State.plbCheck (s : State) (h : Nat) (k : Kind) (base len : Nat) : ExtCheck := s.checkProbes h k (probes base len)

/-- Walks requested for pages that the core's PLB lacks (R287). -/
def State.requestWalks (s : State) (h : Nat) (pages : List Nat) : State :=
  pages.foldl (fun s a =>
    let c := s.core (coreOf h)
    if c.walks.any (fun w => w.hid == h && w.addr / 4096 == a / 4096) then s
    else (s.setCore (coreOf h) { c with walks := c.walks ++ [⟨h, a⟩] }).push (.pageWalkComplete (coreOf h))) s

/-- What a failed or unfinished check makes of a slot (R41, R287). -/
def ExtCheck.eff (c : ExtCheck) (pre : State) (pass : Eff) : Eff :=
  match c with
  | .pass => pass
  | .fail cause a => .trap cause 0 (word a)
  | .miss pages => .walk (pre.requestWalks pre.cur pages)

/-- The class of a byte under the entry of its page (R172). -/
def classBy (e : Option PlbEntry) (a : Nat) : Cls :=
  match zone a with
  | .loc _ => .priv
  | .mem => match e with
    | some e => if e.arena && !bit e.mask (a / 64 % 64) then .priv else .shared
    | none => .shared
  | _ => .shared

/-- The class of a byte that the core's PLB maps (R172). -/
def Core.classOf (c : Core) (a : Nat) : Cls := classBy (c.plbAt a) a

/-- The page of an address: the core's PLB entry, or the entry that its leaf would make. -/
def State.entryOf (s : State) (c : Core) (a : Nat) : Option PlbEntry :=
  match c.plbAt a with
  | some e => some e
  | none => (s.walkTables a).map (fun l => l.plb)

/-! ### Homes -/

/-- home_of(a) of R186 on this device, from the placement of the page's leaf. -/
def homeSlice (e : PlbEntry) (a : Nat) : Nat :=
  let x (lo n : Nat) : Nat := a / 2 ^ lo % 2 ^ n
  if e.placeCluster then 512 * e.die + 8 * e.cluster + (x 9 3 ^^^ x 12 3 ^^^ x 15 3)
  else 512 * e.die + (x 9 9 ^^^ x 18 9 ^^^ x 27 9)

/-- Where the core's PLB places a byte's home; an address without an entry is placed by its leaf in the tables. -/
def State.homeAt (s : State) (c : Core) (a : Nat) : Nat :=
  match s.entryOf c a with
  | some e => homeSlice e a
  | none => 0

/-- The physical address of a byte under a translation that home h holds, or under the tables (R187, R283). -/
def State.physOf (s : State) (h a : Nat) : Option Nat :=
  match (s.home h).xlats.find? (fun x => x.page * 4096 ≤ a && a < x.page * 4096 + x.size) with
  | some x => some (x.phys + (a - x.page * 4096))
  | none => (s.walkUnit (h / 512) a).map (fun l => l.phys + (a - l.plb.page * 4096))

/-- The home holds the page's translation from now on, if there is a leaf. -/
def State.holdXlat (s : State) (h a : Nat) : State :=
  let y := s.home h
  if y.xlats.any (fun x => x.page * 4096 ≤ a && a < x.page * 4096 + x.size) then s
  else match s.walkUnit (h / 512) a with
    | some l => (s.holdWalk (h / 512) a).setHome h { y with xlats := y.xlats ++ [⟨l.plb.page, l.plb.size, l.phys⟩] }
    | none => s

/-- The leaf under which a unit of the device finds an address's home: the tables', or one that some die's walk unit still holds (R187, R283). -/
def State.unitLeaf (s : State) (a : Nat) : Option Leaf :=
  (s.walkTables a).or (s.dies.findSome? (fun d =>
    (d.2.walkCache.find? (fun r => r.page * 4096 ≤ a && a < r.page * 4096 + r.size)).map s.leafOf))

/-- A page meets the extent of a PLBINV (R290); an extent of length 0 meets none. -/
def pageMeets (page size base len : Nat) : Bool := max (page * 4096) base < min (page * 4096 + size) (base + len)

/-- PLBINV's drops on this device (R287, R290): at the cores of the scope (0 core, 1 cluster, 2 device, 3 system), at the homes for 2 and 3, and at
every walk unit. -/
def State.dropPages (s : State) (h base len scope : Nat) : State :=
  let cores := match scope with
    | 0 => [coreOf h]
    | 1 => s.coreIds.filter (fun c => c / 16 == clusterOf h)
    | _ => s.coreIds
  let s := cores.foldl (fun s c => s.modCore c (fun y => { y with
    plb := y.plb.filter (fun e => !pageMeets e.page e.size base len)
    walks := y.walks.filter (fun w => !pageMeets (w.addr / 4096) 4096 base len)
    absent := y.absent.filter (fun p => !pageMeets p.2 4096 base len) })) s
  let s := if 2 ≤ scope then (s.homes.map (fun y => y.1)).foldl (fun s n => s.modHome n (fun y => { y with
      xlats := y.xlats.filter (fun e => !pageMeets e.page e.size base len) })) s else s
  (s.dies.map (fun d => d.1)).foldl (fun s d => s.modDie d (fun x => { x with
    walkCache := x.walkCache.filter (fun r => !pageMeets r.page r.size base len) })) s

/-- Partition p owns an address's range (R345). -/
def State.owns (s : State) (p a : Nat) : Bool :=
  bit (s.partWord p 0) 63 && bf (s.partWord p 2) 0 47 ≤ devLocal a && devLocal a < bf (s.partWord p 3) 0 48

/-- A byte's value in HBM under home h's translation: none where there is no translation (R187) or no frame. -/
def State.hbmAt (s : State) (h a : Nat) : Option Byte :=
  match s.physOf h a with
  | some p => if s.frameOut p then none else some (readByte s.mem p)
  | none => none

/-- The byte's granule of 16 bytes in HBM came poisoned (R194). -/
def State.hbmPoison (s : State) (h a : Nat) : Bool :=
  match s.physOf h a with
  | some p => s.memPoison.contains (p / 16)
  | none => false

/-! ### What a home refuses -/

/-- A home group is ready (R343), and not mapped out (R344). -/
def State.groupReady (s : State) (k : Nat) : Bool := bit (s.reg (0x120 + 8 * (k / 64))) (k % 64)
def State.groupOut (s : State) (k : Nat) : Bool := bit (s.reg (0x220 + 8 * (k / 64))) (k % 64)

/-- The party that a core belongs to, as a home knows it: its cluster, or 256 + d for another device d (R193). -/
def partyOf (cid : Nat) : Nat := if cid < 4096 then cid / 16 else 256 + (cid / 4096 - 1)

/-- Home h refuses a party's request for an address (none: a unit of the device's own): fenced, mapped out, isolation, or a frame that is
gone (R187, R344, R345). -/
def State.homeRefuses (s : State) (h : Nat) (party : Option Nat) (a : Nat) : Bool :=
  s.groupOut (h / 8) || (s.physOf h a).any s.frameOut
    || party.any (fun p => (s.home h).fenced.contains p || (decide (p < 256) && !s.owns (s.partOf p) a))

/-- The reference tag of a byte's 8-byte word in HBM (R216). -/
def State.hbmTag (s : State) (h a : Nat) : Bool :=
  match s.physOf h a with
  | some p => s.memTags.contains (p / 8)
  | none => false

end Sys2Proof.Machine
end

