-- ==== Sys2Proof/Machine/Access.lean ====
section
/-! DEFINITION. Accesses to memory by harts and by the device's units: the near buffer, the near cache, local memory, what is
sent to homes, Bolts, windows and the outside, and what holds an access back (R171 to R189, R203 to R212). -/

namespace Sys2Proof.Machine

/-! ### Local memory -/

/-- Bytes of local memory (R203). -/
def localSize : Nat := 0x18000

def Core.localByte (c : Core) (o : Nat) : Byte := if o < localSize then readByte c.loc o else 0

/-- Bytes written to local memory from offset o up; those out of range are dropped (R205). -/
def Core.localWrite (c : Core) (o : Nat) (bs : List Byte) : Core :=
  { c with loc := writeBytes c.loc o (bs.take (localSize - o)) }

/-- The record of an out-of-range access of hart h, if its flag is clear (R205). -/
def State.outOfRange (s : State) (h o : Nat) (write : Bool) : State :=
  s.modHart h (fun x =>
    if bit x.lmflag 0 then x
    else { x with lmflag := if write then 3 else 1, lmaddr := word (localBase + o) })

/-- The record for an access to [o, o + n) of the window, if some byte of it is out of range. -/
def State.checkRange (s : State) (h o n : Nat) (write : Bool) : State :=
  if localSize < o + n ∧ 0 < n then s.outOfRange h (max o localSize) write else s

/-! ### Home slices and HBM -/

/-- The granules of 16 bytes among [a, b) of a region, as bit numbers. -/
def granulesOf (a b : Nat) : List Nat := (List.range 32).filter (fun k => max a (16 * k) < min b (16 * k + 16))

/-- Bytes, tags and poison of an evicted or cleaned home entry written to HBM under the home's translation; dropped where there is no
translation or no frame (R189, R194). -/
def State.toHbm (s : State) (h : Nat) (e : RangeEntry) (a b : Nat) : State :=
  match s.physOf h (e.region * 512 + a) with
  | none => s
  | some p =>
    if s.frameOut p then s
    else
      let bs := (e.data.drop (a - e.lo)).take (b - a)
      let words := (List.range 64).filter (fun k => max a (8 * k) < min b (8 * k + 8))
      let base := p - a
      { s with
        mem := writeBytes s.mem p bs
        memTags := words.foldl (fun ts k => setTag ts ((base + 8 * k) / 8) (bit e.tags k)) s.memTags
        memPoison := (granulesOf a b).foldl (fun ps k =>
          if bit e.poison k then setTag ps ((base + 16 * k) / 16) true
          else if a ≤ 16 * k && 16 * k + 16 ≤ b then setTag ps ((base + 16 * k) / 16) false else ps) s.memPoison }

/-- A home slice's entries after an event on bytes [a, b) of a region: room made, dirty victims written to HBM (R181, R189). -/
def State.settleHome (s : State) (h region a b : Nat) : State :=
  let (es, out) := homeSettle (s.home h).entries region a b
  out.foldl (fun s e => if e.dlen = 0 then s else s.toHbm h e (e.lo + e.dlo) (e.lo + e.dlo + e.dlen))
    (s.modHome h (fun y => { y with entries := es }))

/-- A home slice's granules have 32 bytes: both halves of one are poisoned together (R174, R194). -/
def pairUp (p : BitVec 32) : BitVec 32 :=
  (List.range 32).foldl (fun m k => if bit p k || bit p (if k % 2 = 0 then k + 1 else k - 1) then m ||| ((1 : BitVec 32) <<< k) else m) 0

/-- The class that a mask of a region's granules of 64 bytes gives an offset (R172). -/
def classIn (shared : BitVec 8) (off : Nat) : Cls := if bit shared (off / 64) then .shared else .priv

/-- Every granule of a region is shared. -/
def allShared : BitVec 8 := 0xFF

/-- The bytes [a, b) of a region that the home's entry lacks fetched from HBM (R189); none where it cannot (R187). -/
def State.homeFetch (s : State) (h region a b : Nat) (shared : BitVec 8) : Option State :=
  let y := s.home h
  let runs := missingRuns y.entries region a b
  let base := region * 512
  if runs.any (fun r => (List.range (r.2 - r.1)).any (fun k => (s.hbmAt h (base + r.1 + k)).isNone)) then none
  else
    let tags : BitVec 64 := (List.range 64).foldl (fun t k =>
      if s.hbmTag h (base + 8 * k) then t ||| ((1 : BitVec 64) <<< k) else t) 0
    let poison : BitVec 32 := (List.range 32).foldl (fun t k =>
      if s.hbmPoison h (base + 16 * k) then t ||| ((1 : BitVec 32) <<< k) else t) 0
    let es := runs.foldl (fun es r =>
      rangeFill es region r.1 (classIn shared) ((List.range (r.2 - r.1)).map (fun k => (s.hbmAt h (base + r.1 + k)).getD 0)) tags (pairUp poison)) y.entries
    some (((if runs.isEmpty then s else s.holdXlat h (base + a)).modHome h (fun y => { y with entries := es })))

/-- Bytes stored at a home: at [a, a + data) of a region, tags of the touched words cleared but for those in `tags` (R178, R189); `poison` is
what the bytes carry (R194). -/
def State.homeMerge (s : State) (h region a : Nat) (cls : Cls) (data : List Byte) (tags : BitVec 64) (poison : BitVec 32) : State :=
  if data.isEmpty then s
  else
    let s1 := s.modHome h (fun y => { y with entries :=
      (rangeStore y.entries region a cls data tags poison).map (fun e =>
        if e.region = region ∧ e.lo ≤ a ∧ a < e.hi then { e with poison := pairUp e.poison &&& granMask e.lo e.hi } else e) })
    s1.settleHome h region a (a + data.length)

/-- The window that a region of this device is registered to: core and window number (R206). -/
def State.windowOf (s : State) (h region : Nat) : Option (Nat × Nat) :=
  ((s.home h).windows.find? (fun w => w.1 == region)).map (fun w => w.2)

/-- Where a window's global byte stands in its core's local memory. -/
def State.windowOffset (s : State) (cid n a : Nat) : Nat :=
  match find n (s.core cid).windows with
  | some w => w.off + (a - w.base)
  | none => 0

/-- The window's global extent holds the address, and serves it (R206, R208). -/
def Window.holds (w : Window) (a : Nat) : Bool := w.valid && w.base != 0 && w.base ≤ a && a < w.base + w.len

/-- The window of a core of this device whose backing memory holds an address of another device: core and window number (R206). -/
def State.farWindow (s : State) (a : Nat) : Option (Nat × Nat) :=
  if devOf a = s.devnum then none
  else s.cores.findSome? (fun c =>
    (c.2.windows.find? (fun w => w.2.holds a && !w.2.away)).map (fun w => (c.1, w.1)))

/-- A byte of another device for a unit of this one: a window's, which stands in local memory here (R206), or a free one (log 6). -/
def State.outsideByte (s : State) (a : Nat) : Byte :=
  match s.farWindow a with
  | some (c, n) => (s.core c).localByte (s.windowOffset c n a)
  | none => Config.outsideByte s.free a

/-! ### The Bolt -/

/-- The words of a Bolt block from its stored bytes and code (R197). -/
def boltWords (code : BitVec 3) (stored : List Byte) : List Word :=
  let x0 := wordOf (stored.take 8)
  let delta (w : Nat) (k : Nat) : Word :=
    BitVec.signExtend 64 (BitVec.ofNat (8 * w) (ofBytes ((stored.drop (8 + w * (k - 1))).take w)))
  (List.range 16).map (fun k => match code.toNat with
    | 0 => 0
    | 1 => x0
    | 2 => if k = 0 then x0 else x0 + delta 1 k
    | 3 => if k = 0 then x0 else x0 + delta 2 k
    | 4 => if k = 0 then x0 else x0 + delta 4 k
    | _ => wordAt stored k)

/-- The first code that represents the words exactly, and its stored bytes (R197, R198). -/
def boltPack (ws : List Word) : BitVec 3 × List Byte :=
  let x0 := ws.headD 0
  let fits (w : Nat) : Bool := ws.all (fun x => BitVec.signExtend 64 ((x - x0).setWidth (8 * w)) == x - x0)
  let enc (w pad : Nat) : List Byte := toBytes x0 8 ++ (ws.drop 1).flatMap (fun x => toBytes (x - x0) w) ++ List.replicate pad 0
  if ws.all (fun x => x == 0) then (0, [])
  else if ws.all (fun x => x == x0) then (1, toBytes x0 8)
  else if fits 1 then (2, enc 1 1)
  else if fits 2 then (3, enc 2 2)
  else if fits 4 then (4, enc 4 4)
  else (5, bytesOf ws)

def BoltBlock.zero : BoltBlock := ⟨0, [], 0, false⟩

/-- The block cannot be read: poisoned, or under a reserved code, which is a soft error (R194, R198). -/
def BoltBlock.bad (x : BoltBlock) : Bool := x.poison || decide (6 ≤ x.code.toNat)

def Bolt.block (b : Bolt) (n : Nat) : BoltBlock := (find n b.blocks).getD BoltBlock.zero

def Bolt.byteAt (b : Bolt) (o : Nat) : Byte :=
  let x := b.block (o / 128)
  (bytesOf (boltWords x.code x.stored)).getD (o % 128) 0

/-- Stored space in use, in bytes; a code's length is a multiple of 8 (R197). -/
def Bolt.used (b : Bolt) : Nat := b.blocks.foldl (fun n x => n + x.2.stored.length) 0

/-- A block expanded and kept; 64 are kept, oldest first out (R200). -/
def Bolt.expand (b : Bolt) (n : Nat) : Bolt :=
  if b.expander.contains n then b else { b with expander := (n :: b.expander).take 64 }

/-- A store to one block: none where it is refused for want of stored space (R199, R201, R202). Compaction leaves no gap, so
what is free is 2 MiB less what is used. -/
def Bolt.store (b : Bolt) (n : Nat) (data : List (Nat × Byte)) (tag : Bool) : Option Bolt :=
  let old := b.block n
  let bytes := bytesOf (boltWords old.code old.stored)
  let bytes := data.foldl (fun bs d => setAt (d.1 % 128) d.2 bs) bytes
  let (code, stored) := boltPack ((List.range 16).map (wordAt bytes))
  let touched : BitVec 16 := data.foldl (fun t d => t ||| ((1 : BitVec 16) <<< (d.1 % 128 / 8))) 0
  let tags := if tag then (old.tags &&& ~~~ touched) ||| touched else old.tags &&& ~~~ touched
  if b.used - old.stored.length + stored.length ≤ 2 * 2 ^ 20 then
    let blk : BoltBlock := ⟨code, stored, tags, old.bad && data.length < 128⟩
    let b := if data.length = 128 then b else b.expand n
    some { b with blocks := if blk = BoltBlock.zero then drop n b.blocks else put n blk b.blocks }
  else none

/-- The tags of a mask of the words of the region at offset `base` set (R202). -/
def Bolt.setTags (b : Bolt) (base : Nat) (tags : BitVec 64) : Bolt :=
  (List.range 4).foldl (fun b j =>
    let t : BitVec 16 := (tags >>> (16 * j)).setWidth 16
    if t = 0 then b else { b with blocks := put (base / 128 + j) { (b.block (base / 128 + j)) with tags := (b.block (base / 128 + j)).tags ||| t } b.blocks }) b

/-! ### Requests and channels -/

/-- [a, a + n) meets [b, b + m). -/
def overlaps (a n b m : Nat) : Bool := max a b < min (a + n) (b + m)

/-- The bytes that a request names: address and length. -/
def Req.bounds : Req → Nat × Nat
  | .store _ _ a data _ => match data with
    | [] => (a, 0)
    | d :: ds =>
      let lo := ds.foldl (fun m x => min m x.1) d.1
      (lo, ds.foldl (fun m x => max m x.1) d.1 + 1 - lo)
  | .fill _ a n _ _ => (a, n)
  | .writeback _ a data _ _ _ _ => (a, data.length)
  | .clean _ _ a n => (a, n)
  | .atomic _ _ a _ z _ _ _ => (a, z)

def Req.region (r : Req) : Nat := r.bounds.1 / 512

def Req.isStore : Req → Bool
  | .store .. => true
  | _ => false

def Req.isFill : Req → Bool
  | .fill .. => true
  | _ => false

def Req.isWriteback : Req → Bool
  | .writeback .. | .clean .. => true
  | _ => false

def Req.isAtomic : Req → Bool
  | .atomic .. => true
  | _ => false

/-- The cores that a request comes from; none for a prefetch that goes no further than its home. -/
def Req.from : Req → List Nat
  | .store h _ _ _ _ | .clean h _ _ _ | .atomic h _ _ _ _ _ _ _ => [coreOf h]
  | .writeback c _ _ _ _ _ _ => [c]
  | .fill ms _ _ _ _ => ms.map (fun m => m.1)

/-- The event that performs a request at home h. -/
def Req.event (r : Req) (h : Nat) : Event :=
  match r with
  | .store .. => .homeStore h
  | .fill .. => .homeFill h
  | .writeback .. | .clean .. => .homeWriteback h
  | .atomic .. => .farAtomic h

/-- A request of one of these cores waits in the egress of cluster k for home h (R185, R270). -/
def Cluster.egressHolds (c : Cluster) (h : Nat) (cores : List Nat) : Bool :=
  c.egress.any (fun e => e.1 == h && e.2.1.from.any cores.contains)

/-- How many requests of an input may come after one that arrives: those behind the last of its own cores (R185, R251). -/
def Req.passable (r : Req) (rs : List Req) : Nat := (rs.reverse.takeWhile (fun q => !q.from.any r.from.contains)).length

/-- An input with a request that has reached it: behind what its own cores sent, in a free place among what others sent, so that a hart's stores
to different homes arrive in either order (R185, R251; log 25). -/
def State.joined (s : State) (r : Req) (rs : List Req) : List Req :=
  if r.passable rs = 0 then rs ++ [r]
  else
    let n := rs.length - Config.arrivalPick s.free % (r.passable rs + 1)
    rs.take n ++ [r] ++ rs.drop n

/-- A free value used, if an arrival had a choice of places. -/
def State.arrived (s : State) (r : Req) (rs : List Req) : State := if r.passable rs = 0 then s else s.drawFree

/-- A request put in a home's input, with the event that performs it. -/
def State.intoHome (s : State) (h : Nat) (r : Req) : State :=
  ((s.arrived r (s.home h).input).modHome h (fun y => { y with input := s.joined r y.input })).push (r.event h)

/-- The same for the Bolt of cluster k (R196). -/
def State.intoBolt (s : State) (k : Nat) (r : Req) : State :=
  ((s.arrived r (s.cluster k).bolt.input).modCluster k (fun c => { c with bolt := { c.bolt with input := s.joined r c.bolt.input } })).push
    (if r.isFill then .boltRead k else .boltStore k)

/-! ### Other devices -/

/-- The plane of a request for an address (R348). -/
def planeOf (a : Nat) : Nat := a / 2 ^ 9 % 2 ^ 27 % 18

/-- How the outside fails a request, by the free choice of this index (log 19). -/
def outsideFailure (n : Nat) : Option Failure :=
  match Config.outsideFails n with
  | 1 => some .refused
  | 2 => some .poison
  | _ => none

/-- The register value that an atomic returns (R220). -/
def amoResult (op : AmoOp) (size x : Nat) : Word :=
  if size = 4 && op != .fadd then sext (BitVec.ofNat 32 x) else word x

/-- What another device answers to a request (log 19): its failure, the bytes of a load and the old value of an atomic are free. -/
def State.outsideAnswer (s : State) (r : Req) : Answer :=
  let f := outsideFailure s.free
  let bytes (a n : Nat) : List Byte := (List.range n).map (fun k => Config.outsideByte s.free (a + k))
  match r with
  | .store h id a _ _ | .clean h id a _ => ackAnswer h id 0 f a
  | .writeback _ a _ _ _ _ ack => match ack with
    | some (h, id) => ackAnswer h id 0 f a
    | none => .nothing
  | .atomic h id a op z _ _ _ => ackAnswer h id (amoResult op z (ofBytes (bytes a z))) f a
  | .fill ms a n shared cache => .fill (devOf a) ms ⟨a, bytes a n, Config.outsideTags s.free &&& wordMask (a % 512) (a % 512 + n), shared, cache, [],
      f == some .refused, if f = some .poison then granMask (a % 512) (a % 512 + n) else 0⟩

/-- A request leaves for another device, with what that answers. -/
def State.leaves (s : State) (r : Req) (x : Answer) : State := s.sendOut (planeOf r.bounds.1) (.remote (planeOf r.bounds.1) (devOf r.bounds.1) r) x

/-- The PCIe address of a byte of this device's peer window: entry n, of 1 GiB, maps to the base that it holds (R339). -/
def State.peerAddr (s : State) (a : Nat) : Nat :=
  let o := devLocal a - peerBase
  ((s.reg (0x3000 + 16 * (o / 2 ^ 30))).toNat + o % 2 ^ 30) % 2 ^ 64

/-- A posted PCIe write to the peer window (R278). -/
def State.peerWrite (s : State) (data : List (Nat × Byte)) : State :=
  { s with out := s.out ++ [.peerWrite (data.map (fun d => (s.peerAddr d.1, d.2)))] }

/-! ### Channels -/

/-- Where a core's request for an address goes (R186, R196): a home by its number, the Bolt of cluster k as 4096 + k, device d as 8192 + d. -/
def State.keyOf (s : State) (c : Core) (a : Nat) : Nat :=
  if devOf a != s.devnum then deviceSender (devOf a)
  else match zone a with
    | .bolt o => boltSender (o / 2 ^ 22)
    | _ => s.homeAt c a

/-- A request leaves for another device: one for a window of a core of this device comes back to that core (R206); what another is answered is
free. -/
def State.sendAway (s : State) (r : Req) : State :=
  match s.farWindow r.bounds.1 with
  | some (c, _) => s.leaves r (.forward c (deviceSender (devOf r.bounds.1)) r)
  | none => s.drawFree.leaves r (s.outsideAnswer r)

/-- A request leaves its cluster for where it goes. -/
def State.route (s : State) (key : Nat) (r : Req) : State :=
  if key < boltSender 0 then s.intoHome key r
  else if key < deviceSender 0 then s.intoBolt (key - boltSender 0) r
  else s.sendAway r

/-- A request of a core sent where `key` says (R185): it goes behind what its core has waiting in the egress for the same. -/
def State.toHome (s : State) (key : Nat) (r : Req) : State :=
  match r.from with
  | c :: _ =>
    if (s.cluster (c / 16)).egressHolds key r.from then
      (s.modCluster (c / 16) (fun cl => { cl with egress := cl.egress ++ [(key, r, s.cycle)] })).push (.egressCombineTimeout (c / 16))
    else s.route key r
  | [] => s.route key r

/-! ### What the device's units read and write: every level at once -/

/-- The address is of memory or of a Bolt, on whatever device. -/
def elsewhere (a : Nat) : Bool :=
  match zone a with
  | .mem | .bolt _ => true
  | _ => false

/-- Isolation keeps partition p from an address of this device (R187, R345). -/
def State.isolates (s : State) (p a : Nat) : Bool := elsewhere a && devOf a == s.devnum && !s.owns p a

/-- The newest byte at an address as its home h would answer a party (log 11): none where it refuses. What the home holds, bytes or a
translation, it answers without a leaf (R187). -/
def State.homeByte (s : State) (h : Nat) (party : Option Nat) (a : Nat) : Option Byte :=
  if s.homeRefuses h party a then none
  else match s.windowOf h (a / 512) with
    | some (c, n) => some ((s.core c).localByte (s.windowOffset c n a))
    | none => (heldByte (s.home h).entries (a / 512) (a % 512)).or (s.hbmAt h a)

/-- The newest byte at an address for a unit of the device, whose isolation is checked elsewhere (log 11). What lies outside the device is free
(log 6). -/
def State.devByte (s : State) (a : Nat) : Option Byte :=
  match zone a with
  | .out | .loc _ => none
  | .peer _ => some (Config.outsideByte s.free a)
  | .bolt o => if devOf a = s.devnum then some ((s.cluster (o / 2 ^ 22)).bolt.byteAt (o % 2 ^ 22)) else some (Config.outsideByte s.free a)
  | .mem =>
    if devOf a != s.devnum then some (s.outsideByte a)
    else (s.unitLeaf a).bind (fun l => s.homeByte (homeSlice l.plb a) none a)

/-- A port that waits for what is under way on it (R348). -/
def PortState.isFailing : PortState → Bool
  | .failing _ => true
  | _ => false

/-- An access to [a, a + n), within one region, waits at home h: its group is not ready (R343), a store that overlaps a read, or one of the region
of a write, is not complete (R187, R189), or a combining group of its bytes is open, which it comes after (R223). -/
def State.homeHeld (s : State) (h : Nat) (write : Bool) (a n : Nat) : Bool :=
  !(s.groupReady (h / 8) || s.groupOut (h / 8))
    || (s.home h).waits.any (fun w => w.region == a / 512 && (write || overlaps w.addr w.len a n))
    || (s.home h).groups.any (fun g => overlaps g.addr g.size a n)

/-- A unit's access to [a, a + n) waits for a home, or for the port of its plane to another device, which is failing (R348). -/
def State.devHeld (s : State) (write : Bool) (a n : Nat) : Bool :=
  (extentSplit a n).any (fun p => elsewhere p.1 && if devOf p.1 != s.devnum then (s.portState (s.planePort (planeOf p.1))).isFailing else match zone p.1 with
    | .mem => (s.unitLeaf p.1).any (fun l => s.homeHeld (homeSlice l.plb p.1) write p.1 p.2)
    | _ => false)

/-- The reference tag of the aligned word at a, as its home h would answer; a window's bytes have none (R203, R206). -/
def State.homeTag (s : State) (h a : Nat) : Bool :=
  (s.windowOf h (a / 512)).isNone && (heldTag (s.home h).entries (a / 512) (a % 512 / 8)).getD (s.hbmTag h a)

/-- The same for a unit of the device. -/
def State.devTag (s : State) (a : Nat) : Bool :=
  match zone a with
  | .bolt o =>
    if devOf a = s.devnum then bit ((s.cluster (o / 2 ^ 22)).bolt.block (o % 2 ^ 22 / 128)).tags (o % 128 / 8)
    else bit (Config.outsideTags s.free) (a % 512 / 8)
  | .mem =>
    if devOf a != s.devnum then bit (Config.outsideTags s.free) (a % 512 / 8)
    else (s.unitLeaf a).any (fun l => s.homeTag (homeSlice l.plb a) a)
  | _ => false

/-- The byte at a is poisoned as its home h would answer it (R194). -/
def State.homePoison (s : State) (h a : Nat) : Bool :=
  (s.windowOf h (a / 512)).isNone &&
    (if (heldByte (s.home h).entries (a / 512) (a % 512)).isSome then heldPoison (s.home h).entries (a / 512) (a % 512) (a % 512 + 1) != 0
    else s.hbmPoison h a)

/-- The same for a unit of the device. -/
def State.devPoison (s : State) (a : Nat) : Bool :=
  match zone a with
  | .bolt o => devOf a == s.devnum && ((s.cluster (o / 2 ^ 22)).bolt.block (o % 2 ^ 22 / 128)).bad
  | .mem => devOf a == s.devnum && (s.unitLeaf a).any (fun l => s.homePoison (homeSlice l.plb a) a)
  | _ => false

/-! ### Near caches -/

/-- The shared bytes that a load has taken of a piece that is not complete are given up where they are overwritten, or leave the near cache, after
which no invalidation would come for them: the piece stays single-copy atomic (R211; log 49). So is a word's tag. -/
def PLoad.giveUp (l : PLoad) (lost : Nat → Bool) : PLoad :=
  let open' (w : Want) : Bool := l.wants.any (fun v => v.piece == w.piece && v.val.isNone)
  let gone (w : Want) : Bool := lost w.addr && open' w
  { l with
    wants := l.wants.map (fun w => if gone w then { w with val := none } else w)
    tag := if l.wants.any gone then none else l.tag }

/-- A load of a task whose context is saved changed. -/
def Task.mapPending (t : Task) (f : PLoad → PLoad) : Task := { t with pending := t.pending.map f }

/-- Every load of the device changed: of harts, of saved tasks, and of tasks whose context is on its way (R168). -/
def State.mapLoads (s : State) (f : PLoad → PLoad) : State :=
  { s with
    harts := s.harts.map (fun h => (h.1, { h.2 with
      loads := h.2.loads.map f
      busy := h.2.busy.map (fun b => match b with
        | .restore t => .restore (t.mapPending f)
        | b => b)
      park := match h.2.park with
        | .restore t => .restore (t.mapPending f)
        | p => p }))
    cores := s.cores.map (fun c => (c.1, { c.2 with
      runq := c.2.runq.map (fun e => (e.1, e.2.mapPending f)), ctxIn := c.2.ctxIn.map (fun m => { m with task := m.task.mapPending f }) })) }

/-- Bytes that a core loses are given up by the loads of its harts, and by those of tasks that have left it with loads under way (R168). -/
def State.giveUpAt (s : State) (cid : Nat) (lost : Nat → Bool) : State :=
  let s := (List.range 4).foldl (fun s k => if (s.hart (4 * cid + k)).loads.isEmpty then s
    else s.modHart (4 * cid + k) (fun x => { x with loads := x.loads.map (fun l => l.giveUp lost) })) s
  let moved := (s.core cid).forwards.flatMap (fun f => f.ids)
  if moved.isEmpty then s else s.mapLoads (fun l => if moved.contains l.id then l.giveUp lost else l)

/-- An address lies in [a, b) of a region. -/
def inRegion (region a b x : Nat) : Bool := x / 512 == region && a ≤ x % 512 && x % 512 < b

/-- The byte at an address stands in a shared entry. -/
def sharedAt (es : List RangeEntry) (x : Nat) : Bool :=
  es.any (fun e => e.region == x / 512 && e.cls == .shared && e.lo ≤ x % 512 && x % 512 < e.hi)

/-- The shared bytes of [a, b) of a region that a core's near cache holds are about to be lost. -/
def State.giveUpShared (s : State) (cid region a b : Nat) : State :=
  let es := (s.core cid).nc
  s.giveUpAt cid (fun x => inRegion region a b x && sharedAt es x)

/-- What a load wants is the hull of a waiting store or atomic. -/
def PLoad.isHull (l : PLoad) : Bool := l.dest == .hull false

/-- Bytes [a, b) of a region have been stored to in a core's near cache, or dropped from it: older ones that a fill brings later do not take their place
(R180, R212, R231), and a hart whose store waits for its hull asks for them again (R214). -/
def State.staleAt (s : State) (cid region a b : Nat) : State :=
  let lo := region * 512 + a
  let hi := region * 512 + b
  let s := if (s.core cid).fills.any (fun f => overlaps f.addr f.len lo (hi - lo)) then s.modCore cid (fun c => { c with
      fills := c.fills.map (fun f => if overlaps f.addr f.len lo (hi - lo) then { f with gone := f.gone ++ [(lo, hi)] } else f) }) else s
  (List.range 4).foldl (fun s k => if (s.hart (4 * cid + k)).reads.isEmpty then s
    else s.modHart (4 * cid + k) (fun x => { x with reads := x.reads.map (fun l =>
      if l.isHull then { l with wants := l.wants.filter (fun w => w.val.isNone || !inRegion region a b w.addr) } else l) })) s

/-- Near-cache entries settled after an event on bytes [a, b) of a region; dirty victims go to their homes (R181, R185). -/
def State.settleNear (s : State) (cid region a b : Nat) : State :=
  let c := s.core cid
  let (es, out) := ncSettle c.nc region a b
  let s1 := s.setCore cid { c with nc := es }
  out.foldl (fun s e =>
    let s := if e.cls = .shared then s.giveUpAt cid (inRegion e.region e.lo e.hi) else s
    if e.dlen = 0 then s
    else
      let a := e.region * 512 + e.lo + e.dlo
      let x := e.sub (e.lo + e.dlo) (e.lo + e.dlo + e.dlen)
      s.toHome (s.keyOf c a) (.writeback cid a x.data x.tags x.cls x.poison none)) s1

/-- The class of an offset of a reply's region: what the core's PLB says of its page, or what it said when the fill was asked for (R180). -/
def Core.replyClass (c : Core) (r : Reply) (off : Nat) : Cls :=
  let a := r.addr / 512 * 512 + off
  match c.plbAt a with
  | some e => classBy (some e) a
  | none => classIn r.shared off

/-- The runs of a reply's bytes that the core keeps: those of the granules whose bytes have not become shared since their home was asked for them
as private ones, for no directory names this core for such bytes (R190, R227). -/
def Core.freshRuns (c : Core) (r : Reply) : List (Nat × Nat) :=
  let off := r.addr % 512
  ((List.range 8).map (fun k => (max off (64 * k), min (off + r.data.length) (64 * k + 64)))).filter (fun x =>
    x.1 < x.2 && !(classIn r.shared x.1 == .priv && c.replyClass r x.1 == .shared))

/-- Runs of offsets of a region without the bytes of some extents. -/
def runsWithout (region : Nat) (gone : List (Nat × Nat)) (runs : List (Nat × Nat)) : List (Nat × Nat) :=
  gone.foldl (fun rs g =>
    let lo := g.1 - region * 512
    let hi := g.2 - region * 512
    (rs.flatMap (fun r => [(r.1, min r.2 lo), (max r.1 hi, r.2)])).filter (fun r => r.1 < r.2)) runs

/-- A fill that reaches a near cache, but for the bytes of it that are `gone` (R180). One whose bytes are all discarded changes nothing. -/
def State.fillNear (s : State) (cid : Nat) (r : Reply) (gone : List (Nat × Nat)) : State :=
  let c := s.core cid
  let region := r.addr / 512
  let off := r.addr % 512
  let runs := (runsWithout region gone (c.freshRuns r)).filter (fun x => !(missingRuns c.nc region x.1 x.2).isEmpty)
  if r.cache && !r.refused && !runs.isEmpty then
    (s.setCore cid { c with nc := runs.foldl (fun es x =>
      rangeFill es region x.1 (c.replyClass r) ((r.data.drop (x.1 - off)).take (x.2 - x.1)) r.tags r.poison) c.nc }).settleNear
        cid region off (off + r.data.length)
  else s

/-! ### Sharers -/

/-- The set of a region in a directory and in a cluster filter (log 3). -/
def dirSet (region : Nat) : Nat := Config.dirSetOf region % 512
def filterSet (region : Nat) : Nat := Config.filterSetOf region % 1024
def remoteSet (region : Nat) : Nat := Config.remoteSetOf region % 2048

/-- The cores that a cluster's filter names for a region (R190). -/
def Cluster.sharers (c : Cluster) (region : Nat) : List Nat :=
  match c.filter.find? (fun e => e.region == region) with
  | some e => (List.range 16).filter (fun n => bit e.cores n)
  | none => []

/-- The shared bytes [a, b) of a region, which a store has overwritten, trimmed from a core's near cache (R192). -/
def State.trimCore (s : State) (cid region a b : Nat) : State :=
  let s := s.giveUpShared cid region a b
  let c := s.core cid
  (s.setCore cid { c with nc := c.nc.flatMap (fun e => if e.cls = .shared then e.cut region a b else [e]) }).settleNear cid region a b

/-- A cluster's cores trimmed as its filter names them (R192). -/
def State.trimCluster (s : State) (k region lo hi : Nat) : State :=
  ((s.cluster k).sharers region).foldl (fun s n => s.trimCore (16 * k + n) region lo hi) s

/-- A reply for bytes of the region is on its way to the core. -/
def Down.fillsCore (d : Down) (cid region : Nat) : Bool :=
  match d with
  | .reply c r => c == cid && r.cache && r.addr / 512 == region
  | .inval _ => false

/-- Some core of the cluster holds a shared byte of the region, or is being sent one (R190, R192). -/
def State.clusterHolds (s : State) (k region : Nat) : Bool :=
  ((s.cluster k).sharers region).any (fun n => (s.core (16 * k + n)).nc.any (fun e => e.region == region && e.cls == .shared))
    || (s.cluster k).down.any (fun d => match d.2 with
      | .reply _ r => r.cache && r.addr / 512 == region
      | .inval _ => false)

/-- A core enters its cluster's filter for a region as a shared fill passes it; the oldest entry of a full set goes, its cores trimmed first
(R190). -/
def State.enterFilter (s : State) (cid region : Nat) : State :=
  let k := cid / 16
  let b : BitVec 16 := 1 <<< (cid % 16)
  let f := (s.cluster k).filter
  if f.any (fun e => e.region == region) then
    s.modCluster k (fun c => { c with filter := c.filter.map (fun e => if e.region = region then { e with cores := e.cores ||| b } else e) })
  else
    let mine := if f.length < 8 then [] else f.filter (fun e => filterSet e.region == filterSet region)
    let s := match mine with
      | old :: _ => if mine.length < 8 then s else
          (s.trimCluster k old.region 0 512).modCluster k (fun c => { c with filter := c.filter.filter (fun e => e.region != old.region) })
      | [] => s
    s.modCluster k (fun c => { c with filter := c.filter ++ [⟨region, b⟩] })

/-- A cluster gives up every shared byte of a region, and takes none of those that are on their way to it. -/
def State.forgetRegion (s : State) (k region : Nat) : State :=
  (List.range 16).foldl (fun s n => s.staleAt (16 * k + n) region 0 512) (s.trimCluster k region 0 512)

/-- A cluster enters this device's remote filter for a region of another device, before its request leaves; the oldest entry of a full set
goes, its clusters trimmed first, so that none holds a byte of it that the filter does not name (R191). -/
def State.enterRemote (s : State) (k region : Nat) : State :=
  let b : BitVec 256 := 1 <<< k
  match find region s.remoteFilter with
  | some v => { s with remoteFilter := s.remoteFilter.map (fun e => if e.1 = region then (region, v ||| b) else e) }
  | none =>
    let mine := if s.remoteFilter.length < 8 then [] else s.remoteFilter.filter (fun e => remoteSet e.1 == remoteSet region)
    let s := match mine with
      | old :: _ => if mine.length < 8 then s else
          let t : State := ((List.range 256).filter (fun j => bit old.2 j)).foldl (fun s j => s.forgetRegion j old.1) s
          { t with remoteFilter := t.remoteFilter.filter (fun e => e.1 != old.1) }
      | [] => s
    { s with remoteFilter := s.remoteFilter ++ [(region, b)] }

/-! ### Loads are bound -/

/-- A register or bank written by a load that is bound. -/
def Hart.bindDest (x : Hart) (d : Dest) (bytes : List (Nat × Byte)) (tag : Bool) : Hart :=
  match d with
  | .g r size sg =>
    let n := ofBytes ((List.range size).map (fun k => (find k bytes).getD 0))
    x.setG r (if sg then BitVec.signExtend 64 (BitVec.ofNat (8 * size) n) else word n)
  | .v r => x.setV r (BitVec.ofNat 512 (ofBytes ((List.range 64).map (fun k => (find k bytes).getD 0))))
  | .tag r => x.setG r (if tag then 1 else 0)
  | .bank _ | .hull _ | .buf => x

/-- The extents that a load's near-buffer entries hold once it is bound; four are kept (R183). -/
def Hart.keepNear (x : Hart) (nb : List (Nat × Nat)) (wants : List Want) : Hart :=
  nb.foldl (fun x e =>
    let data := (List.range e.2).map (fun k => ((wants.find? (fun w => w.addr == e.1 + k)).bind (fun w => w.val)).getD 0)
    let near := x.near ++ [⟨e.1, data⟩]
    { x with near := near.drop (near.length - 4) }) x

/-- A bank is loading, or no longer (R142). -/
def Core.setLoading (c : Core) (b on : Bool) : Core := if b then { c with loading1 := on } else { c with loading0 := on }

/-- A bank filled by a CBLD: it is no longer loading (R142). -/
def Core.fillBank (c : Core) (b : Bool) (bytes : List Byte) : Core :=
  let x : Bank := BitVec.ofNat 8192 (ofBytes bytes)
  (if b then { c with cb1 := x } else { c with cb0 := x } : Core).setLoading b false

/-- A CBLD whose bundle waits for its bank: its rows are not written before the bundle issues (R41, R146). -/
def State.keepsLoad (s : State) (h : Nat) (l : PLoad) : Bool :=
  match l.dest with
  | .bank b => (s.hart h).wait == .bank b
  | _ => false

/-- A machine check of hart h for an address (R151). -/
def State.checkAt (s : State) (h a : Nat) : State :=
  (s.modHart h (fun x => { x with mchecks := x.mchecks ++ [a] })).push (.machineCheck h)

/-- An outstanding load of hart h that has got bytes. -/
def Hart.keepLoad (x : Hart) (l : PLoad) : Hart := { x with loads := x.loads.map (fun y => if y.id = l.id then l else y) }

/-- The load is bound: it leaves the list, its destination is written, an acquire clears the near buffer again. A CBLD whose bundle waits keeps its
rows: the bank is no longer loading, and is written as the bundle issues (R41, R142). -/
def State.bindLoad (s : State) (h : Nat) (l : PLoad) : State :=
  if s.keepsLoad h l then (s.modHart h (fun x => x.keepLoad l)).modCore (coreOf h) (fun c => c.setLoading (l.dest == .bank true) false) else
  let got : List Byte := l.wants.map (fun w => w.val.getD 0)
  let s := match l.dest with
    | .bank b => s.modCore (coreOf h) (fun c => c.fillBank b got)
    | _ => s
  s.modHart h (fun x =>
    let x := { x with loads := x.loads.filter (fun y => y.id != l.id) }
    let bytes := l.wants.map (fun w => (w.pos, w.val.getD 0))
    let x := x.bindDest l.dest (bytes.foldr (fun p m => put p.1 p.2 m) []) (l.tag.getD false)
    if l.acq then x.clearNear else x.keepNear l.nb l.wants)

/-! ### Fill requests -/

/-- A fill that leaves cluster k: one of shared bytes of another device passes the remote filter first (R191). -/
def State.routeFrom (s : State) (k key : Nat) (r : Req) : State :=
  (match r with
    | .fill _ a _ shared cache => if deviceSender 0 ≤ key && cache && shared != 0 then s.enterRemote k (a / 512) else s
    | _ => s).route key r

/-- The home that `key` names lies in cluster k. -/
def homeIn (k key : Nat) : Bool := key / 8 == k || key == boltSender k

/-- A load's fill request, combined in the cluster's egress where R270 allows: no later request of its core for the same home is overtaken
(R185). -/
def State.sendFill (s : State) (cid hm addr len : Nat) (shared : BitVec 8) (cache : Bool) (who : Option Asker) : State :=
  let k := cid / 16
  let req : Req := .fill [(cid, who)] addr len shared cache
  let cl := s.cluster k
  let off := addr % 512
  let anyPriv := (List.range len).any (fun j => classIn shared (off + j) == .priv)
  if anyPriv || homeIn k hm || (s.windowOf hm (addr / 512)).isSome then
    if cl.egressHolds hm [cid] then s.toHome hm req else s.routeFrom k hm req
  else
    let opens (e : Nat × Req × Nat) : Bool := e.1 == hm && s.cycle ≤ e.2.2 + 64 && match e.2.1 with
      | .fill ms a n c b => a == addr && n == len && c == shared && b == cache && ms.length < 16
      | _ => false
    -- the group that it may join is followed by nothing of its core
    let after (es : List (Nat × Req × Nat)) : Bool := es.any (fun e => e.1 == hm && e.2.1.from.contains cid)
    let ix := ((List.range cl.egress.length).find? (fun n =>
      (cl.egress[n]?).any opens && !after (cl.egress.drop (n + 1))))
    match ix with
    | some n => s.setCluster k { cl with egress := cl.egress.mapIdx (fun m e => if m = n then
        (e.1, (match e.2.1 with
          | .fill ms a n c b => .fill (ms ++ [(cid, who)]) a n c b
          | r => r), e.2.2) else e) }
    | none => (s.setCluster k { cl with egress := cl.egress ++ [(hm, req, s.cycle)] }).push (.egressCombineTimeout k)

/-- The granules of [a, a + n), within one region, that the core takes for shared (R172). -/
def State.sharedMask (s : State) (c : Core) (a n : Nat) : BitVec 8 :=
  let e := s.entryOf c a
  (List.range 8).foldl (fun m k =>
    let g := a / 512 * 512 + 64 * k
    if overlaps g 64 a n && classBy e g == .shared then m ||| ((1 : BitVec 8) <<< k) else m) 0

/-- One fill request for [a, a + n), within one region, made for a piece of a load of hart h or for none (R176). -/
def State.requestHull (s : State) (h : Nat) (who : Option Asker) (a n : Nat) : State :=
  let cid := coreOf h
  let c := s.core cid
  match zone a with
  | .mem => (s.modCore cid (fun c => { c with fills := c.fills ++ [⟨a, n, []⟩] })).sendFill cid (s.keyOf c a) a n (s.sharedMask c a n) true who
  | .bolt _ => s.sendFill cid (s.keyOf c a) a n allShared false who
  | .peer _ => match who with
    | some w => if devOf a != s.devnum then s.toHome (s.keyOf c a) (.fill [(cid, who)] a n allShared false)
      else { s with out := s.out ++ [.peerRead w a (s.peerAddr a) n] }
    | none => s
  | _ => s

/-- The least range that holds every address of a list. -/
def hullOf : List Nat → Option (Nat × Nat)
  | [] => none
  | a :: as => some (as.foldl min a, as.foldl max a + 1)

/-- The bytes that a piece of a load still lacks asked for, in one request for their hull (R176). -/
def State.requestPiece (s : State) (h : Nat) (l : PLoad) (piece : Nat) : State :=
  match hullOf ((l.wants.filter (fun w => w.piece == piece && w.val.isNone)).map (fun w => w.addr)) with
  | some (lo, hi) => s.requestHull h (some ⟨h, l.id, piece⟩) lo (hi - lo)
  | none => s

/-- A fill of what a near cache lacks of [a, a + n) within a region, for no load (R176, R230). -/
def State.requestMissing (s : State) (h a n : Nat) : State :=
  match missingHull (s.core (coreOf h)).nc (a / 512) (a % 512) (a % 512 + n) with
  | some (x, y) => s.requestHull h none (a / 512 * 512 + x) (y - x)
  | none => s

/-! ### Stores and atomics of harts, and the fills that private ones wait for -/

/-- The number of the piece of an access that an address lies in (R176). -/
def pieceOf (acc a : Nat) : Nat := acc * 2 ^ 64 + a / 512

/-- The granules of 16 bytes of [a, a + n) some byte of which a store does not write (R194). -/
def keptGranules (a n : Nat) (data : List (Nat × Byte)) : BitVec 32 :=
  (granulesOf (a % 512) (a % 512 + n)).foldl (fun m k =>
    if (List.range 16).any (fun j =>
        let at' := a / 512 * 512 + 16 * k + j
        a ≤ at' && at' < a + n && !data.any (fun d => d.1 == at')) then m ||| ((1 : BitVec 32) <<< k) else m) 0

/-- The words of [a, a + n) that a store touches no byte of. -/
def keptWords (a n : Nat) (data : List (Nat × Byte)) : BitVec 64 :=
  (List.range 64).foldl (fun m k =>
    if a % 512 < 8 * k + 8 ∧ 8 * k < a % 512 + n ∧ !data.any (fun d => d.1 % 512 / 8 == k) then m ||| ((1 : BitVec 64) <<< k) else m) 0

/-- Bytes from address a up, as a store's data. -/
def cellsAt (a : Nat) (bs : List Byte) : List (Nat × Byte) := bs.mapIdx (fun k b => (a + k, b))

/-- The bytes of the hull [a, a + len) of a private store or atomic that neither its data, nor what has come for it, nor the near cache's entries
hold. -/
def lacksOf (es : List RangeEntry) (a len : Nat) (data got : List (Nat × Byte)) : List Nat :=
  ((List.range len).map (fun k => a + k)).filter (fun b =>
    !data.any (fun d => d.1 == b) && !got.any (fun d => d.1 == b) && (heldByte es (b / 512) (b % 512)).isNone)

/-- The byte of a hull as a private store or atomic finds it: the near cache's, or what has come. -/
def filledByte (es : List RangeEntry) (got : List (Nat × Byte)) (b : Nat) : Byte :=
  ((heldByte es (b / 512) (b % 512)).or ((got.find? (fun d => d.1 == b)).map (fun d => d.2))).getD 0

/-- The words of a region whose tags entries hold set. -/
def heldTags (es : List RangeEntry) (region : Nat) : BitVec 64 :=
  (List.range 64).foldl (fun m k => if (heldTag es region k).getD false then m ||| ((1 : BitVec 64) <<< k) else m) 0

/-- private_store of R178 of one piece [a, a + len) whose bytes are all there (R214): what it does not write keeps its bytes, tags and poison, as the
near cache's entries `es` had them when the instruction issued, or as they have come (R194, R216); `taint` is the poison that it writes. -/
def State.mergeNow (s : State) (cid : Nat) (es : List RangeEntry) (a len : Nat) (data got : List (Nat × Byte)) (ref : Bool) (taint : BitVec 32) :
    State :=
  let region := a / 512
  let off := a % 512
  let own : BitVec 64 := if ref then (1 : BitVec 64) <<< (off / 8) else 0
  let words := keptWords a len data
  let tags := if words = 0 then own else own ||| (heldTags es region &&& words)
  let poison := heldPoison es region off (off + len) &&& keptGranules a len data
  let full := (List.range len).map (fun k => ((data.find? (fun d => d.1 == a + k)).map (fun d => d.2)).getD (filledByte es got (a + k)))
  ((s.modCore cid (fun c => { c with nc := rangeStore c.nc region off .priv full tags (poison ||| taint) })).settleNear cid region off (off + len)).staleAt
    cid region off (off + len)

/-! ### The hulls of private stores and atomics, which are there before the instruction issues (R214, R221, R359; log 69) -/

/-- What has come for the hulls of hart h's waiting bundle. -/
def Hart.hullGot (x : Hart) : List (Nat × Byte) :=
  (x.reads.filter PLoad.isHull).flatMap (fun l => l.wants.filterMap (fun w => w.val.map (fun b => (w.addr, b))))

/-- A fill of some of these bytes, which hart h's bundle needs, has been refused. -/
def Hart.hullRefused (x : Hart) (bs : List Nat) : Bool :=
  x.reads.any (fun l => l.dest == .hull true && l.wants.any (fun w => bs.contains w.addr))

/-- What the piece p of a store or atomic of hart h lacks of its hull, where its bytes are private. -/
def State.hullLacks (s : State) (h : Nat) (p : Nat × Nat) (data : List (Nat × Byte)) : List Nat :=
  let c := s.core (coreOf h)
  if zone p.1 == .mem && c.classOf p.1 == .priv then lacksOf c.nc p.1 p.2 data (s.hart h).hullGot else []

/-- One fill request for bytes of a piece's hull, unless it is under way (R176). -/
def State.askHull (s : State) (h : Nat) (bs : List Nat) : State :=
  if (s.hart h).reads.any (fun l => l.isHull && l.wants.any (fun w => w.val.isNone && bs.contains w.addr)) then s
  else match hullOf bs with
    | none => s
    | some (lo, hi) =>
      let s := s.fresh
      let l : PLoad := ⟨s.serial, .hull false, false, bs.map (fun a => ⟨a, 0, 0, none⟩), none, [], false⟩
      (s.modHart h (fun x => { x with reads := x.reads ++ [l] })).requestHull h (some ⟨h, l.id, 0⟩) lo (hi - lo)

/-- The hulls of these pieces asked for, while some byte of them is neither there nor refused: the state in which the bundle waits. -/
def State.awaitHulls (s : State) (h : Nat) (ps : List (Nat × Nat)) (data : List (Nat × Byte)) : Option State :=
  match (ps.map (fun p => s.hullLacks h p data)).filter (fun bs => !bs.isEmpty && !(s.hart h).hullRefused bs) with
  | [] => none
  | open' => some (open'.foldl (fun s bs => s.askHull h bs) s)

/-! ### Stores that fail (R36, R187, R194) -/

/-- What a store that has failed, in one piece or more, adds to the status of the next FENCE (R36): one failed store, in recovery mode. -/
def FenceAcc.add (f : FenceAcc) (recovery : Bool) (fails : List (Failure × Nat)) : FenceAcc :=
  let some' (x : Failure) : Bool := fails.any (fun y => y.1 == x)
  if !recovery || fails.isEmpty then f
  else ⟨f.count + 1, f.poison || some' .poison, f.refused || some' .refused, f.lost || some' .lost⟩

/-- The address of the machine check that a failed store raises: in normal service where it is lost or refused (R36, R187), and anywhere for an
atomic that returns poison (R194). -/
def checkOf (recovery returns : Bool) (fails : List (Failure × Nat)) : List Nat :=
  ((fails.find? (fun f => if f.1 = .poison then returns else !recovery)).map (fun f => f.2)).toList

/-- A store or atomic of hart h is complete and has failed so, if it has (R36); `returns`: it returns a value. -/
def State.failStore (s : State) (h : Nat) (returns : Bool) (fails : List (Failure × Nat)) : State :=
  if fails.isEmpty then s
  else
    let rec' := s.recovery (clusterOf h)
    let checks := checkOf rec' returns fails
    let s := s.modHart h (fun x => { x with fenceAcc := x.fenceAcc.add rec' fails, mchecks := x.mchecks ++ checks })
    if checks.isEmpty then s else s.push (.machineCheck h)

/-- A piece of store `id` sent for hart h: what zone and class ask for; true where an acknowledgement will come. `es` are the near cache's entries as
the store issues. -/
def State.storePiece (s : State) (h id a len : Nat) (es : List RangeEntry) (data : List (Nat × Byte)) (ref : Bool) : State × Bool :=
  let cid := coreOf h
  let r : Req := .store h id a data ref
  match zone a with
  | .loc o =>
    let c := data.foldl (fun (c : Core) d => if d.1 - localBase < localSize then { c with loc := writeByte c.loc (d.1 - localBase) d.2 } else c) (s.core cid)
    let s := s.setCore cid c
    (match (data.filterMap (fun d => if localSize ≤ d.1 - localBase then some (d.1 - localBase) else none)).min? with
      | some o' => s.outOfRange h (max o o') true
      | none => s, false)
  | .out => (s, false)
  | .peer _ => if devOf a != s.devnum then (s.toHome (s.keyOf (s.core cid) a) r, true) else (s.peerWrite data, false)
  | .bolt _ => (s.toHome (s.keyOf (s.core cid) a) r, true)
  | .mem =>
    let c := s.core cid
    if c.classOf a = .priv then (s.mergeNow cid es a len data (s.hart h).hullGot ref 0, false)
    else
      let s := ((s.giveUpShared cid (a / 512) (a % 512) (a % 512 + len)).modCore cid (fun c => { c with nc := c.nc.flatMap (fun e => e.cut (a / 512) (a % 512) (a % 512 + len)) })).settleNear cid
        (a / 512) (a % 512) (a % 512 + len)
      (s.toHome (s.keyOf c a) r, true)

/-- The pieces of [a, a + len): cut at regions, and where the class changes (R176, R209). -/
def State.storePieces (s : State) (h a len : Nat) : List (Nat × Nat) :=
  let c := s.core (coreOf h)
  (extentSplit a len).flatMap (fun p => (classRuns (fun k => c.classOf k) p.1 (p.1 + p.2)).map (fun r => (r.1, r.2 - r.1)))

/-- The pieces of a store of hart h, of the hull [a, a + len), that have some of its bytes. -/
def State.dataPieces (s : State) (h a len : Nat) (data : List (Nat × Byte)) : List (Nat × Nat) :=
  (s.storePieces h a len).filter (fun p => data.any (fun d => p.1 ≤ d.1 && d.1 < p.1 + p.2))

/-- These pieces of store `id` of hart h sent: the state, and how many acknowledgements will come. -/
def State.storeRuns (s : State) (h id : Nat) (ps : List (Nat × Nat)) (data : List (Nat × Byte)) (ref : Bool) : State × Nat :=
  let es := (s.core (coreOf h)).nc
  ps.foldl (fun r p =>
    let x := r.1.storePiece h id p.1 p.2 es (data.filter (fun d => p.1 ≤ d.1 && d.1 < p.1 + p.2)) ref
    (x.1, if x.2 then r.2 + 1 else r.2)) (s, 0)

/-- The new value of an atomic (R220); x and b are the low 8 * size bits. -/
def amoNew (op : AmoOp) (size x b old : Nat) : Nat :=
  let w := 8 * size
  let sgn (v : Nat) : Int := if 2 ^ (w - 1) ≤ v then (v : Int) - 2 ^ w else v
  match op with
  | .add => (x + b) % 2 ^ w
  | .and => x &&& b
  | .or => x ||| b
  | .xor => x ^^^ b
  | .min => if sgn b < sgn x then b else x
  | .max => if sgn x < sgn b then b else x
  | .minu => min x b
  | .maxu => max x b
  | .swap => b
  | .cas => if x = old % 2 ^ w then b else x
  | .fadd =>
    let u := fdecode .f32 x
    let v := fdecode .f32 b
    (arith .f32 0 0 [u, v] (sumVals 0 [u, v])).1

/-- An acknowledgement sent to a hart (R184), of this device or of another, or to the unit that its number stands for. -/
def State.ackHart (s : State) (hid id : Nat) (value : Word) (failed : Option Failure) (faddr : Nat) : State :=
  let a : Ack := ⟨id, value, failed, faddr, none⟩
  if 2 ^ 26 ≤ hid then s.tellUnit (hid - 2 ^ 26) ⟨none, failed, []⟩
  else if hid < 16384 then (s.modHart hid (fun x => { x with acks := x.acks ++ [a] })).push (.ackReceived hid)
  else s.sendOut (planeOf faddr) (.storeAck (hid / 16384 - 1) (hid % 16384) a) .nothing

/-! ### Replies -/

/-- The bytes of a reply, from its first to the one after its last. -/
def Reply.extent (r : Reply) : Nat × Nat := (r.addr, r.addr + r.data.length)

/-- The wants of a piece of a load that a reply's bytes satisfy. -/
def PLoad.take (l : PLoad) (piece : Nat) (r : Reply) : PLoad :=
  let within (a : Nat) : Bool := r.addr ≤ a && a < r.addr + r.data.length
  { l with
    wants := l.wants.map (fun w => if w.piece = piece && w.val.isNone && within w.addr then { w with val := r.data[w.addr - r.addr]? } else w)
    -- the tag of a word that the near cache holds a byte of stands (R180)
    tag := match l.dest with
      | .tag _ => if l.wants.any (fun w => within w.addr) then l.tag.or (some (bit r.tags ((l.wants.headD ⟨0, 0, 0, none⟩).addr % 512 / 8))) else l.tag
      | _ => l.tag }

/-- A load that makes no near-buffer entry of bytes that may not stand in one: of a window (R206), refused or poisoned ones (R194; log 23). -/
def PLoad.without (l : PLoad) (bad : Nat → Bool) : PLoad :=
  { l with nb := l.nb.filter (fun e => !(List.range e.2).any (fun k => bad (e.1 + k))) }

/-- A load that takes a reply's bytes, free ones where it is refused. -/
def State.replyTo (s : State) (l : PLoad) (q : Asker) (r : Reply) : PLoad :=
  let within (a : Nat) : Bool := r.addr ≤ a && a < r.addr + r.data.length
  let bytes := if r.refused then (List.range r.data.length).map (Config.outsideByte s.free) else r.data
  (l.without (fun a => within a && (r.refused || (!r.cache && zone a == .mem) || bit r.poison (a % 512 / 16)))).take q.piece { r with data := bytes }

/-- A piece that still lacks bytes after its reply, since some that it had taken were given up meanwhile, gives up the reply's shared bytes too, and those
that have changed since they were asked for, and is asked for once more (R211; log 49). -/
def PLoad.again (l : PLoad) (q : Asker) (r : Reply) (gone : List (Nat × Nat)) : PLoad :=
  let within (a : Nat) : Bool := r.addr ≤ a && a < r.addr + r.data.length
  if l.wants.all (fun w => w.piece != q.piece || w.val.isSome) then l
  else { l with
    wants := l.wants.map (fun w => if w.piece = q.piece && within w.addr
        && (classIn r.shared (w.addr % 512) == .shared || gone.any (fun g => g.1 ≤ w.addr && w.addr < g.2)) then { w with val := none } else w)
    tag := match l.dest with
      | .tag _ => none
      | _ => l.tag }

/-- The piece of the load that a reply answers has taken a poisoned byte of it. -/
def PLoad.poisonedBy (l : PLoad) (q : Asker) (r : Reply) : Bool :=
  l.wants.any (fun w => w.piece == q.piece && w.val.isSome && r.addr ≤ w.addr && w.addr < r.addr + r.data.length && bit r.poison (w.addr % 512 / 16))

/-- The hull of a waiting store or atomic takes a reply's bytes, but for those that are gone, which are asked for again, and those of tagged words or
poisoned granules, which it takes from the near cache (R194, R216); or it is refused. -/
def PLoad.hullReply (l : PLoad) (r : Reply) (gone : List (Nat × Nat)) : PLoad :=
  if r.refused then { l with dest := .hull true, wants := l.wants.map (fun w => { w with val := some 0 }) }
  else { l with wants := (l.wants.filter (fun w => !gone.any (fun g => g.1 ≤ w.addr && w.addr < g.2) && !bit r.tags (w.addr % 512 / 8) && !bit r.poison (w.addr % 512 / 16))).map (fun w =>
    { w with val := some (r.data.getD (w.addr - r.addr) 0) }) }

/-- A reply given to the piece of a load that asked for it: bound when nothing is missing, and asked for again where bytes that it had taken were
given up meanwhile (R211); a refusal or poison is a machine check (R187, R194). What a waiting bundle reads takes it likewise; a refused hull fails the
store or atomic as that issues (R36; log 57). -/
def State.giveReply (s : State) (q : Asker) (r : Reply) (gone : List (Nat × Nat) := []) : State :=
  let drawn := if r.refused then s.drawFree else s
  match (s.hart q.hid).loads.find? (fun l => l.id == q.id) with
  | some l =>
    let l := (s.replyTo l q r).again q r gone
    let s := if r.refused || l.poisonedBy q r then drawn.checkAt q.hid r.addr else drawn
    if l.wants.all (fun w => w.val.isSome) then s.bindLoad q.hid l
    else (s.modHart q.hid (fun x => x.keepLoad l)).requestPiece q.hid l q.piece
  | none => match (s.hart q.hid).reads.find? (fun l => l.id == q.id) with
    | some l =>
      let put' (s : State) (l : PLoad) : State :=
        s.modHart q.hid (fun x => { x with reads := x.reads.map (fun y => if y.id = q.id then l else y) })
      match l.dest with
      | .hull _ => put' s (l.hullReply r gone)
      | _ => put' (if r.refused || (s.replyTo l q r).poisonedBy q r then drawn.checkAt q.hid r.addr else drawn) (s.replyTo l q r)
    | none => s

/-- The hart has an access that waits for this fill. -/
def Hart.asked (x : Hart) (id : Nat) : Bool := x.loads.any (fun l => l.id == id) || x.reads.any (fun l => l.id == id)

/-- A reply lands at its core: it passes the cluster filter if it has shared bytes, the near cache is filled, then the loads take their bytes
(R180, R190). -/
def State.landReply (s : State) (cid : Nat) (r : Reply) : State :=
  let mine (f : FillAsk) : Bool := f.addr == r.addr && f.len == r.data.length
  let gone := (((s.core cid).fills.find? mine).map (fun f => f.gone)).getD []
  let s := if (s.core cid).fills.any mine then s.modCore cid (fun c => { c with fills := removeFirst mine c.fills }) else s
  let s := if r.cache && !r.refused && r.shared != 0 then s.enterFilter cid (r.addr / 512) else s
  r.asks.foldl (fun s q =>
    if (s.hart q.hid).asked q.id then s.giveReply q r gone
    else (s.modCore cid (fun c => { c with lateReplies := c.lateReplies ++ [(q.id, { r with asks := [q] })] })).push (.loadReplyForwarded cid))
    (s.fillNear cid r gone)

/-! ### What arrives at a cluster -/

/-- A remote home's invalidation has been acted on by cluster k (R191): the filter answers once every cluster has. -/
def State.remoteTrimmed (s : State) (k region : Nat) (left : Bool) : State :=
  match s.remoteWaits.find? (fun w => w.2.1 == region && w.2.2.1.contains k) with
  | none => s
  | some w =>
    let ks := w.2.2.1.filter (· != k)
    let others := removeFirst (fun x => x == w) s.remoteWaits
    if ks.isEmpty then
      let any := w.2.2.2 || left
      ({ s with
        remoteWaits := others
        remoteFilter := if any then s.remoteFilter else drop region s.remoteFilter } : State).sendOut (planeOf (region * 512)) (.remoteAck w.1 region any) .nothing
    else { s with remoteWaits := others ++ [(w.1, region, ks, w.2.2.2 || left)] }

/-- An invalidation acted on by cluster k (R192): its sharing cores trim the bytes, and it is acknowledged. -/
def State.actOnInval (s : State) (k : Nat) (v : Inval) : State :=
  let s := s.trimCluster k v.region v.lo v.hi
  let left := s.clusterHolds k v.region
  let s := if left then s else s.modCluster k (fun c => { c with filter := c.filter.filter (fun e => e.region != v.region) })
  match v.home with
  | some h => (s.modHome h (fun y => { y with acks := y.acks ++ [(v.region, k, !left)] })).push (.invalidateAck h)
  | none => s.remoteTrimmed k v.region left

/-- An item of a cluster's channels delivered. -/
def State.deliverDown (s : State) (k : Nat) (d : Down) : State :=
  match d with
  | .reply c r => s.landReply c r
  | .inval v => s.actOnInval k v

/-- The first item of a kind that is the oldest of its sender's channel, and the rest (R188). -/
def takeDown (want : Down → Bool) (ds : List (Nat × Down)) : Option (Down × List (Nat × Down)) :=
  let rec go : List (Nat × Down) → List (Nat × Down) → Option (Down × List (Nat × Down))
    | _, [] => none
    | before, d :: rest =>
      if want d.2 && !before.any (fun e => e.1 == d.1) then some (d.2, before ++ rest) else go (before ++ [d]) rest
  go [] ds

/-- Every item of a core's cluster up to the last fill of the region for the core, delivered in order: a unit's store, capture or drop comes
after what was sent before it (R188). -/
def State.landFor (s : State) (cid region : Nat) : State :=
  let k := cid / 16
  let ds := (s.cluster k).down
  let n := ds.length - (ds.reverse.takeWhile (fun d => !d.2.fillsCore cid region)).length
  (ds.take n).foldl (fun s d => s.deliverDown k d.2) (s.modCluster k (fun c => { c with down := c.down.drop n }))

/-- Every near cache of the device trimmed at once, as when a unit's store is performed with its invalidations (log 11). -/
def State.trimAllCores (s : State) (region a b : Nat) : State :=
  s.coreIds.foldl (fun s c => (s.landFor c region).trimCore c region a b) s

/-- The devices that an invalidation of a region goes to: those of its remote field, or every other one of the domain (R191). -/
def DirEntry.devices (e : DirEntry) (own : Nat) : List Nat :=
  if e.overflow then (List.range 576).filter (· != own) else e.remote

/-- Home h waits for a region's sharers: they are told (R189, R191). What another device answers is the outside's (log 19); after an invalidation
of the whole region it holds no byte. -/
def State.startWait (s : State) (h : Nat) (w : HomeWait) : State :=
  let lo := w.addr % 512
  let s := s.modHome h (fun y => { y with waits := y.waits ++ [w] })
  let s := w.clusters.foldl (fun (s : State) k => s.sendDown k h (.inval ⟨some h, w.region, lo, lo + w.len⟩)) s
  w.remotes.foldl (fun (s : State) dev => s.drawFree.sendOut (planeOf w.addr) (.invalidate dev w.region lo (lo + w.len))
    (.trimmed h dev w.region (w.len != 512 && !Config.outsideNone s.free))) s

/-! ### Stores of the device's units -/

/-- The runs of a unit's bytes that carry one tag throughout: address, bytes, tagged. -/
def tagRuns (a : Nat) (data : List Byte) (tags : BitVec 64) : List (Nat × List Byte × Bool) :=
  let starts := (List.range data.length).filter (fun k => k = 0 || ((a + k) % 8 = 0 && (bit tags ((a + k) % 512 / 8) || bit tags ((a + k - 1) % 512 / 8))))
  starts.map (fun k =>
    let n := ((starts.find? (fun j => k < j)).getD data.length) - k
    (a + k, (data.drop k).take n, bit tags ((a + k) % 512 / 8) && (a + k) % 8 == 0 && n == 8))

/-- A store for another device leaves: unit u waits for its acknowledgement, if it is some. One for a window of this device is performed there
(R206): at once where nothing waits for it. -/
def State.postStore (s : State) (u : Option Nat) (r : Nat × List Byte × Bool) : State :=
  let data := r.2.1.mapIdx (fun k b => (r.1 + k, b))
  match u with
  | some u => (s.owe u 1).sendAway (.store (unitHart u) 0 r.1 data r.2.2)
  | none =>
    let s := s.leaves (.store 0 0 r.1 data r.2.2) .nothing
    match s.farWindow r.1 with
    | some (c, n) => s.modCore c (fun x => x.localWrite (s.windowOffset c n r.1) r.2.1)
    | none => s

/-- A unit's store to another device: a word with a tag goes as STREF would send it, the others as plain stores (R265, R275). -/
def State.postStores (s : State) (u : Option Nat) (a : Nat) (data : List Byte) (tags : BitVec 64) : State :=
  (tagRuns a data tags).foldl (fun s r => s.postStore u r) s

/-- Bytes [a, a + n) of a region that home h has stored for a unit: the sharing devices are told, and the store is complete once they have answered
(R189, R191); unit u waits for that, if it is some. -/
def State.tellDevices (s : State) (u : Option Nat) (h a n : Nat) : State :=
  match ((s.home h).dir.find? (fun e => e.region == a / 512)).map (fun e => e.devices s.devnum) with
  | none | some [] => s
  | some ds =>
    let s := match u with
      | some u => s.owe u 1
      | none => s
    let w : HomeWait := ⟨u.toList.map (fun u => (unitHart u, 0)), a, n, a / 512, [], ds, false, [], 0, none⟩
    s.startWait h w

/-- Bytes of one region stored for a unit of the device: performed at the window's owner, the Bolt or the home, sharers invalidated. False where it
is refused. Unit u, if it is some, waits for what does not answer at once. -/
def State.devStorePiece (s : State) (u : Option Nat) (a : Nat) (data : List Byte) (tags : BitVec 64) : State × Bool :=
  match zone a with
  | .bolt o =>
    if devOf a != s.devnum then (s.postStores u a data tags, true)
    else
      let k := o / 2 ^ 22
      let o := o % 2 ^ 22
      -- a piece lies in one region, so in at most four blocks
      let r := (List.range 5).foldl (fun (acc : Option Bolt) j =>
        let blk := o / 128 + j
        let d := (data.mapIdx (fun i b => (o + i, b))).filter (fun x => x.1 / 128 == blk)
        match acc with
        | some b => if d.isEmpty then some b else b.store blk d false
        | none => none) (some (s.cluster k).bolt)
      match r with
      | some b => (s.modCluster k (fun c => { c with bolt := b.setTags (o / 512 * 512) tags }), true)
      | none => (s, false)
  | .peer _ =>
    if devOf a != s.devnum then (s.postStores u a data 0, true)
    else (s.peerWrite (data.mapIdx (fun k b => (a + k, b))), true)
  | .mem =>
    if devOf a != s.devnum then (s.postStores u a data tags, true)
    else match s.unitLeaf a with
      | none => (s, false)
      | some l =>
        let h := homeSlice l.plb a
        let region := a / 512
        if s.homeRefuses h none a then (s, false)
        else match s.windowOf h region with
          | some (c, n) => (s.modCore c (fun x => x.localWrite (s.windowOffset c n a) data), true)
          | none => (((s.homeMerge h region (a % 512) .shared data tags 0).trimAllCores region (a % 512) (a % 512 + data.length)).tellDevices u h a
              data.length, true)
  | _ => (s, false)

/-- Bytes stored for a unit of the device at [a, a + data): piece by piece in address order (R65). -/
def State.devStoreFor (s : State) (u : Option Nat) (a : Nat) (data : List Byte) : State × Bool :=
  (extentSplit a data.length).foldl (fun r p =>
    let (s, ok) := r
    let (s', ok') := s.devStorePiece u p.1 ((data.drop (p.1 - a)).take p.2) 0
    (s', ok && ok')) (s, true)

/-- The same where nothing waits for it. -/
def State.devStore (s : State) (a : Nat) (data : List Byte) : State × Bool := s.devStoreFor none a data

/-- The bytes of [a, a + n) as the homes would answer; none where one refuses. -/
def State.devLoad (s : State) (a n : Nat) : Option (List Byte) :=
  (List.range n).foldr (fun k r => match s.devByte (a + k), r with
    | some b, some bs => some (b :: bs)
    | _, _ => none) (some [])

/-! ### What holds a hart's access back (R212, R224) -/

/-- Some later access must wait for an acquire or an acquire-release atomic that is not bound. -/
def Hart.acquiring (x : Hart) : Bool := x.loads.any (fun l => l.acq) || x.stores.any (fun p => p.acq)

/-- A load of these extents must wait. -/
def Hart.loadHeld (x : Hart) (runs : List (Nat × Nat)) : Bool :=
  x.acquiring || x.fence.any (fun f => f.sc)
    || runs.any (fun r => x.stores.any (fun p => overlaps p.addr p.len r.1 r.2)
      || x.loads.any (fun l => l.wants.any (fun w => r.1 ≤ w.addr && w.addr < r.1 + r.2)))

/-- A store or atomic must wait; a release also for every earlier acknowledgement. -/
def Hart.storeHeld (x : Hart) (rel : Bool) : Bool :=
  x.loads != [] || x.acquiring || x.fence.isSome || (rel && x.stores != [])

/-! ### Loads -/

/-- A contiguous run of bytes that a load reads: address, length, place of its first byte in the destination, and the access of the
instruction that it belongs to. -/
structure Run where
  addr : Nat
  len : Nat
  pos : Nat
  acc : Nat
  deriving DecidableEq, Repr

/-- The byte at an address that a load of the core can take at once: from local memory or from its near cache. -/
def Core.nearByte (c : Core) (a : Nat) : Option Byte :=
  match zone a with
  | .loc o => some (c.localByte o)
  | .mem => heldByte c.nc (a / 512) (a % 512)
  | _ => none

/-- The near-buffer entries that hold every run of an access (R183). -/
def Hart.nearFor (x : Hart) (rs : List Run) : List NearBuf :=
  x.near.filter (fun e => rs.all (fun r => e.addr ≤ r.addr && r.addr + r.len ≤ e.addr + e.data.length))

/-- Bytes of these zones may stand in a near buffer: memory and the Bolt (R183, R196, R203, R278). -/
def nearZone (a : Nat) : Bool :=
  match zone a with
  | .mem | .bolt _ => true
  | _ => false

/-- Where a weak load takes its accesses from: for each access with candidates, an entry of the near buffer, freely chosen (R235). -/
def State.nearServes (s : State) (h : Nat) (runs : List Run) : State × List (Nat × NearBuf) :=
  ((runs.map (fun r => r.acc)).eraseDups).foldl (fun (p : State × List (Nat × NearBuf)) k =>
    let es := (p.1.hart h).nearFor (runs.filter (fun r => r.acc == k))
    match es[Config.nearPick p.1.free % es.length]? with
    | some e => (if es.length = 1 then p.1 else p.1.drawFree, p.2 ++ [(k, e)])
    | none => p) (s, [])

/-- A load of runs performed for hart h (R176, R183, R212): bound at once where no byte is missing. `keep`: it makes near-buffer entries. -/
def State.loadNow (s : State) (h : Nat) (dest : Dest) (weak acq keep : Bool) (runs : List Run) : State :=
  let s := if acq then s.modHart h Hart.clearNear else s
  let useNear := weak && (match dest with
    | .tag _ => false
    | _ => true)
  let (s, served) := if useNear then s.nearServes h runs else (s, [])
  let c := s.core (coreOf h)
  let wants := runs.flatMap (fun r => (List.range r.len).map (fun k =>
    let a := r.addr + k
    (⟨a, r.pos + k, pieceOf r.acc a, match find r.acc served with
      | some e => e.data[a - e.addr]?
      | none => c.nearByte a⟩ : Want)))
  let asked := runs.filter (fun r => (find r.acc served).isNone)
  let s := s.fresh
  let id := s.serial
  -- no entry is made of poisoned bytes (R194; log 23)
  let clean (r : Run) : Bool := zone r.addr != .mem || (extentSplit r.addr r.len).all (fun q =>
    heldPoison c.nc (q.1 / 512) (q.1 % 512) (q.1 % 512 + q.2) == 0)
  let nb := if useNear && keep then (asked.filter (fun r => nearZone r.addr && clean r)).map (fun r => (r.addr, r.len)) else []
  let tag := match dest with
    | .tag _ => (wants.head?).bind (fun w => match zone w.addr with
      | .loc _ => some false
      | .mem => heldTag c.nc (w.addr / 512) (w.addr % 512 / 8)
      | _ => none)
    | _ => none
  let l : PLoad := ⟨id, dest, acq, wants, tag, nb, false⟩
  -- local bytes out of range are recorded once, at the lowest
  let s := match (wants.filterMap (fun w => match zone w.addr with
      | .loc o => if localSize ≤ o then some o else none
      | _ => none)).min? with
    | some o => s.outOfRange h o false
    | none => s
  let pieces := (asked.filter (fun r => zone r.addr == .mem)).flatMap (fun r => extentSplit r.addr r.len)
  let s := if pieces.any (fun q => heldPoison c.nc (q.1 / 512) (q.1 % 512) (q.1 % 512 + q.2) != 0) then
      s.checkAt h (runs.headD ⟨0, 0, 0, 0⟩).addr else s
  -- the entries that were used renew their ages
  let s := pieces.foldl (fun s q =>
    s.modCore (coreOf h) (fun c => { c with nc := touch ncSet c.nc (q.1 / 512) (q.1 % 512) (q.1 % 512 + q.2) })) s
  if wants.all (fun w => w.val.isSome) then s.bindLoad h l
  else
    let s := s.modHart h (fun x => { x with loads := x.loads ++ [l] })
    (((l.wants.filter (fun w => w.val.isNone)).map (fun w => w.piece)).eraseDups).foldl (fun s p => s.requestPiece h l p) s

/-- A load of runs for hart h: none where it must wait (R212). -/
def State.load (s : State) (h : Nat) (dest : Dest) (weak acq keep : Bool) (runs : List Run) : Option State :=
  if (s.hart h).loadHeld (runs.map (fun r => (r.addr, r.len))) then none else some (s.loadNow h dest weak acq keep runs)

/-! ### Reads at issue -/

/-- A byte is answered outside the device (R191, R278). -/
def State.reachesOut (s : State) (a : Nat) : Bool :=
  match zone a with
  | .peer _ => true
  | .bolt _ | .mem => devOf a != s.devnum
  | _ => false

/-- A byte that the hart's waiting bundle has read from outside the device. -/
def Hart.readByte? (x : Hart) (a : Nat) : Option Byte :=
  x.reads.findSome? (fun l => (l.wants.find? (fun w => w.addr == a)).bind (fun w => w.val))

/-- A byte of a core's write-back that is still under way to home hm (R185), its word's tag, and whether it is poisoned. -/
def State.underWay (s : State) (cid hm a : Nat) : Option (Byte × Bool × Bool) :=
  (((s.home hm).input ++ ((s.cluster (cid / 16)).egress.filter (fun e => e.1 == hm)).map (fun e => e.2.1)).filterMap (fun r => match r with
    | .writeback c addr data tags _ poison _ => if c = cid ∧ addr ≤ a ∧ a < addr + data.length then
        (data[a - addr]?).map (fun b => (b, bit tags (a % 512 / 8), bit poison (a % 512 / 16))) else none
    | _ => none)).getLast?

/-- The newest byte that hart h can read at once (log 11): its near cache, its core's write-backs under way, then the home; what lies outside the
device, as its bundle has read it, and free (log 6) where that has not been asked. -/
def State.peekByte (s : State) (h a : Nat) : Option Byte :=
  let c := s.core (coreOf h)
  match zone a with
  | .loc o => some (c.localByte o)
  | .mem =>
    match heldByte c.nc (a / 512) (a % 512) with
    | some b => some b
    | none =>
      if devOf a != s.devnum then ((s.hart h).readByte? a).or (s.devByte a)
      else (s.entryOf c a).bind (fun e => ((s.underWay (coreOf h) (homeSlice e a) a).map (fun x => x.1)).or
        (s.homeByte (homeSlice e a) (some (clusterOf h)) a))
  | _ => if s.reachesOut a then ((s.hart h).readByte? a).or (s.devByte a) else s.devByte a

/-- A byte from outside the device that hart h's bundle has still to read. -/
def State.mustAsk (s : State) (h a : Nat) : Bool :=
  s.reachesOut a && (heldByte (s.core (coreOf h)).nc (a / 512) (a % 512)).isNone && ((s.hart h).readByte? a).isNone

/-- A read at issue of [a, a + n) waits for a home (R187, R189), or for what lies outside the device (R278). -/
def State.peekHeld (s : State) (h a n : Nat) : Bool :=
  let c := s.core (coreOf h)
  (List.range n).any (fun k => s.mustAsk h (a + k)
    || (zone (a + k) == .mem && devOf (a + k) == s.devnum && (heldByte c.nc ((a + k) / 512) ((a + k) % 512)).isNone
      && (s.entryOf c (a + k)).any (fun e => s.homeHeld (homeSlice e (a + k)) false (a + k) 1)))

/-- What hart h's bundle reads of [a, a + n) from outside the device asked for, piece by piece, once (R278); what it has is kept until the bundle
issues or is left. -/
def State.askAtIssue (s : State) (h a n : Nat) : State :=
  (extentSplit a n).foldl (fun (s : State) p =>
    if (List.range p.2).any (fun k => s.mustAsk h (p.1 + k)) && !(s.hart h).reads.any (fun l => l.wants.any (fun w => p.1 ≤ w.addr && w.addr < p.1 + p.2)) then
      let s := s.fresh
      let l : PLoad := ⟨s.serial, .buf, false, (List.range p.2).map (fun k => ⟨p.1 + k, k, pieceOf 0 p.1, none⟩), none, [], false⟩
      (s.modHart h (fun x => { x with reads := x.reads ++ [l] })).requestHull h (some ⟨h, l.id, pieceOf 0 p.1⟩) p.1 p.2
    else s) s

/-- A descriptor, command or payload read by hart h at issue (weak, R293, R307, R314): none where a home refuses. -/
def State.peek (s : State) (h a n : Nat) : Option (List Byte) :=
  (List.range n).foldr (fun k r => match s.peekByte h (a + k), r with
    | some b, some bs => some (b :: bs)
    | _, _ => none) (some [])

/-- The tag of a word as hart h's core sees it. -/
def State.peekTag (s : State) (h a : Nat) : Bool :=
  let c := s.core (coreOf h)
  match zone a with
  | .loc _ => false
  | .mem => match heldTag c.nc (a / 512) (a % 512 / 8) with
    | some t => t
    | none =>
      if devOf a != s.devnum then s.devTag a
      else (s.entryOf c a).any (fun e => match (List.range 8).findSome? (fun k => s.underWay (coreOf h) (homeSlice e a) (a / 8 * 8 + k)) with
        | some x => x.2.1
        | none => s.homeTag (homeSlice e a) a)
  | _ => s.devTag a

/-- A byte is poisoned as hart h's core sees it (R194). -/
def State.peekBad (s : State) (h a : Nat) : Bool :=
  let c := s.core (coreOf h)
  match zone a with
  | .mem =>
    if (heldByte c.nc (a / 512) (a % 512)).isSome then heldPoison c.nc (a / 512) (a % 512) (a % 512 + 1) != 0
    else devOf a == s.devnum && (s.entryOf c a).any (fun e => match s.underWay (coreOf h) (homeSlice e a) a with
      | some x => x.2.2
      | none => s.homePoison (homeSlice e a) a)
  | _ => s.devPoison a

/-! ### Stores and atomics -/

/-- A store of the hull [a, a + len), bytes `data` of it, issued by hart h: its order allows it, and its private hulls are there, or refused (R184,
R214). A piece whose hull was refused fails (log 57). -/
def State.store (s : State) (h a len : Nat) (data : List (Nat × Byte)) (ref : Bool) : State :=
  let s := s.fresh
  let id := s.serial
  let s := s.modHart h (fun x => { x with near := x.near.filter (fun e => !overlaps e.addr e.data.length a len) })
  let ps := s.dataPieces h a len data
  let bad := ps.filter (fun p => !(s.hullLacks h p data).isEmpty)
  let fails := bad.map (fun p => (Failure.refused, p.1))
  let r := s.storeRuns h id (ps.filter (fun p => !bad.contains p)) data ref
  if r.2 = 0 then r.1.failStore h false fails
  else r.1.modHart h (fun x => { x with stores := x.stores ++ [⟨id, a, len, r.2, false, none, fails⟩] })

/-- An atomic issued by hart h on [a, a + size), aligned (R221): where it is performed, and its register pending until the old value returns. `es` are
the entries of the near cache as the instruction issues; private bytes are there, or their fill was refused, and the atomic fails (log 57). -/
def State.atomicOn (s : State) (es : List RangeEntry) (h a : Nat) (op : AmoOp) (size : Nat) (b old : Word) (rd : Option (BitVec 5))
    (acq posted : Bool) : State :=
  let cid := coreOf h
  let s := s.modHart h (fun x => if acq then x.clearNear else { x with near := x.near.filter (fun e => !overlaps e.addr e.data.length a size) })
  let give (s : State) (x : Nat) : State := match rd with
    | some r => s.modHart h (fun y => y.setG r (amoResult op size x))
    | none => s
  let free := ofBytes ((List.range size).map (fun k => Config.outsideByte s.free (a + k)))
  let new (x : Nat) : List Byte := toBytes (word (amoNew op size x (b.toNat % 2 ^ (8 * size)) old.toNat)) size
  let send (s : State) : State :=
    let s := s.fresh
    (s.toHome (s.keyOf (s.core cid) a) (.atomic h s.serial a op size b old posted)).modHart h (fun x => { x with
      stores := x.stores ++ [⟨s.serial, a, size, 1, acq, rd.map (fun r => (r, size, op != .fadd)), []⟩] })
  match zone a with
  | .loc o =>
    if localSize ≤ o then give (s.outOfRange h o true) 0
    else
      let x := ofBytes ((List.range size).map (fun k => (s.core cid).localByte (o + k)))
      give (s.modCore cid (fun c => c.localWrite o (new x))) x
  | .out => s
  | .peer _ =>
    if devOf a != s.devnum then send s
    -- the host interface requests no atomic (R337): nothing is written, and what the register holds is free (log 12)
    else give s.drawFree free
  | .bolt _ => send s
  | .mem =>
    let got := (s.hart h).hullGot
    if (s.core cid).classOf a = .shared then send s
    else if !(lacksOf es a size [] got).isEmpty then give (s.drawFree.failStore h rd.isSome [(.refused, a)]) free
    else
      let x := ofBytes ((List.range size).map (fun k => filledByte es got (a + k)))
      let bad := heldPoison es (a / 512) (a % 512) (a % 512 + size)
      let s := s.mergeNow cid es a size (cellsAt a (new x)) [] false bad
      give (s.failStore h rd.isSome (if bad = 0 then [] else [(.poison, a)])) x

/-- An atomic of an instruction that makes one. -/
def State.atomic (s : State) (h a : Nat) (op : AmoOp) (size : Nat) (b old : Word) (rd : Option (BitVec 5)) (acq posted : Bool) : State :=
  s.atomicOn (s.core (coreOf h)).nc h a op size b old rd acq posted

/-! ### What units read from outside the device -/

/-- A byte from outside the device that unit u has read. -/
def State.unitRead (s : State) (u a : Nat) : Option Byte := find a (s.postedOf u).bytes

/-- The newest byte at an address for unit u: one from outside the device as it has come. -/
def State.unitByte (s : State) (u a : Nat) : Option Byte := if s.reachesOut a then s.unitRead u a else s.devByte a

/-- The bytes of [a, a + n) for unit u; none where one is refused or has not come. -/
def State.unitLoad (s : State) (u a n : Nat) : Option (List Byte) :=
  (List.range n).foldr (fun k r => match s.unitByte u (a + k), r with
    | some b, some bs => some (b :: bs)
    | _, _ => none) (some [])

/-- A read of [a, a + n), within one region, sent outside the device for unit u: through the peer window as a PCIe read (R278), or to another
device, what that answers being free (log 19) but for a window of this device (R206). -/
def State.askOutside (s : State) (u a n : Nat) : State :=
  let s := s.owe u 1
  if devOf a = s.devnum then { s with out := s.out ++ [.peerRead ⟨unitHart u, 0, 0⟩ a (s.peerAddr a) n] }
  else
    let bytes := (List.range n).map (fun k => (a + k, s.outsideByte (a + k)))
    let x : UnitAck := if (s.farWindow a).isNone && outsideFailure s.free = some .refused then ⟨none, some .refused, []⟩ else ⟨none, none, bytes⟩
    s.drawFree.leaves (.fill [] a n allShared false) (.unit u x)

/-- What unit u reads of these pieces from outside the device, asked for: the state in which it waits for it, or none where nothing is missing or
a read has failed. -/
def State.gather (s : State) (u : Nat) (ps : List (Nat × Nat)) : Option State :=
  let x := s.postedOf u
  let lacks := ps.filter (fun p => s.reachesOut p.1 && (List.range p.2).any (fun k => (s.unitRead u (p.1 + k)).isNone))
  if x.left != 0 then some s
  else if x.failed.isSome || lacks.isEmpty then none
  else some (lacks.foldl (fun s p => s.askOutside u p.1 p.2) s)

/-- Instruction bytes at an address for hart h (R84): the newest bytes that its core can see. -/
def State.fetch (s : State) (h a : Nat) : Option (BitVec 32 × BitVec 32) :=
  (s.peek h a 8).map (fun bs => (BitVec.ofNat 32 (ofBytes (bs.take 4)), BitVec.ofNat 32 (ofBytes ((bs.drop 4).take 4))))

end Sys2Proof.Machine
end

