-- ==== Sys2Proof/Machine/Requests.lean ====
section
/-! DEFINITION. How a home answers and refuses a request, and what it does with write-backs, which other units also have it perform (R185 to R187,
R189, R206, R231). -/

namespace Sys2Proof.Machine

/-- A reply sent to a core on its sender's channel, or to another device's core. -/
def State.reply (s : State) (sender cid : Nat) (r : Reply) : State :=
  if cid < 4096 then s.sendDown (cid / 16) sender (.reply cid r)
  else s.sendOut (planeOf r.addr) (.fillReply (cid / 4096 - 1) (cid % 4096) r) .nothing

/-- The reply of a fill, sent to each member (R189, R270). -/
def State.replyAll (s : State) (sender : Nat) (ms : List (Nat × Option Asker)) (r : Reply) : State :=
  ms.foldl (fun s m => s.reply sender m.1 { r with asks := m.2.toList }) s

/-- A request that a home or a Bolt refuses (R187). -/
def State.refuseReq (s : State) (sender : Nat) (r : Req) : State :=
  match r with
  | .store hid id a _ _ => s.ackHart hid id 0 (some .refused) a
  | .fill ms a n shared cache => s.replyAll sender ms ⟨a, List.replicate n 0, 0, shared, cache, [], true, 0⟩
  | .writeback _ a _ _ _ _ ack => match ack with
    | some (h, id) => s.ackHart h id 0 (some .refused) a
    | none => s
  | .clean h id a _ => s.ackHart h id 0 (some .refused) a
  | .atomic hid id a _ _ _ _ _ => s.ackHart hid id 0 (some .refused) a

/-- Home h refuses the request of one of its parties (R187, R193, R345). -/
def State.refusesReq (s : State) (h : Nat) (r : Req) : Bool :=
  match r.from with
  | [] => s.homeRefuses h none r.bounds.1
  | cs => cs.any (fun c => s.homeRefuses h (some (partyOf c)) r.bounds.1)

/-- A request at home h: refused, forwarded to its region's window, or performed by f. -/
def State.serveReq (s : State) (h : Nat) (r : Req) (f : State → Req → State) : State :=
  if s.refusesReq h r then s.refuseReq h r
  else match s.windowOf h r.region with
    | some (c, _) => if r.from.isEmpty then s else s.forwardReq c h r
    | none => f s r

/-- The dirty bytes of [a, a + n), within one region, that home h holds are written to HBM, and stay as clean ones (R231). -/
def State.cleanHome (s : State) (h a n : Nat) : State :=
  let region := a / 512
  let lo := a % 512
  let s := (dirtyRuns (s.home h).entries region lo (lo + n)).foldl (fun s d => s.toHbm h d.1 d.2.1 d.2.2) s
  (s.modHome h (fun y => { y with entries := cleanAll y.entries region lo (lo + n) })).settleHome h region lo (lo + n)

/-- A write-back merged into its home, or dropped where no translation is left (R185, R189); or a CLN at system scope, whose dirty bytes
go on to HBM (R231). -/
def State.homeWriteback (s : State) (h : Nat) (r : Req) : State :=
  match r with
  | .writeback _ a data tags cls poison ack =>
    let s := if (s.physOf h a).isNone then s else s.homeMerge h (a / 512) (a % 512) cls data tags poison
    match ack with
    | some (hid, id) => s.ackHart hid id 0 (if poison = 0 then none else some .poison) a
    | none => s
  | .clean hid id a n => (s.cleanHome h a n).ackHart hid id 0 none a
  | _ => s

/-- Write-backs of a region that wait at its home, or in the egress of some clusters for it, are performed, in order: what the Sower reads and captures, or
an INV drops at the home, comes after them (R185, R226, R227, R231). Those for another device leave. -/
def State.drainWritebacks (s : State) (ks : List Nat) (key region : Nat) : State :=
  let mine (r : Req) : Bool := r.region == region && (match r with
    | .writeback .. => true
    | _ => false)
  let waits (e : Nat × Req × Nat) : Bool := e.1 == key && mine e.2.1
  let waiting := ks.flatMap (fun k => ((s.cluster k).egress.filter waits).map (fun e => e.2.1))
  let s := ks.foldl (fun s k => if (s.cluster k).egress.any waits then s.modCluster k (fun c => { c with egress := c.egress.filter (fun e => !waits e) }) else s) s
  if key < boltSender 0 then
    ((s.home key).input.filter mine ++ waiting).foldl (fun s r => s.serveReq key r (fun s r => s.homeWriteback key r))
      (s.modHome key (fun y => { y with input := y.input.filter (fun r => !mine r) }))
  else waiting.foldl (fun s r => s.route key r) s

end Sys2Proof.Machine
end

