-- ==== Sys2Proof/Machine/Errors.lean ====
section
/-! DEFINITION. Soft errors of register words, their mirrors, SECDED and the scrubber (R72 to R74). -/

namespace Sys2Proof.Machine

/-- A word of the register files xored with flips: file 0 g, 1 v, 2 m (R73). -/
def Hart.flip (x : Hart) (file index w : Nat) (flips : BitVec 32) : Hart :=
  match file with
  | 0 => if h : index < 32 then { x with g := x.g.set index (x.g[index] ^^^ (zext flips <<< (32 * w))) h } else x
  | 1 => if h : index < 32 then { x with v := x.v.set index (x.v[index] ^^^ (flips.setWidth 512 <<< (32 * w))) h } else x
  | _ => if h : index < 8 then { x with m := x.m.set index (x.m[index] ^^^ (zext flips <<< (32 * w))) h } else x

/-- The word's storage has a twin: the mirror of a register, or the register that it mirrors (R72). -/
def Hart.twinned (x : Hart) (file index : Nat) : Bool := x.mirrored file index || x.mirrored file (index ^^^ 16)

/-- A g or v register that the task may name; m registers always are (R71). -/
def Hart.holdsWord (x : Hart) (file index : Nat) : Bool :=
  match file with
  | 0 => bit x.regmask index
  | 1 => bit x.regmask (32 + index)
  | _ => true

/-- The record of a word in error. -/
def Hart.errAt (x : Hart) (file index w : Nat) : Option RegErr := x.errs.find? (fun e => e.file == file && e.index == index && e.word == w)

/-- The register id of R73. -/
def regId (file index w : Nat) : Nat := file * 512 + index * 16 + w

/-- The flips of a word's data, of the bits that its parity covers, and of those that its SECDED code covers (R72). -/
def RegErr.data (e : RegErr) : BitVec 32 := e.flips.setWidth 32
def RegErr.parityBits (e : RegErr) : Nat := popcount (e.flips &&& 0x1FFFFFFFF)
def RegErr.secdedBits (e : RegErr) : Nat := popcount (e.flips &&& 0xFEFFFFFFFF)

/-- What the check of one word with a recorded error gives. -/
inductive WordCheck where
  /-- used as it stands (its parity is good) -/
  | good
  /-- corrected: the data flips that are taken back, and the word written with its check bits -/
  | fixed (flips : BitVec 32)
  | lost
  deriving DecidableEq, Repr

/-- The data flips of the word's mirror, where it has one that is good: by its parity for a read, without any error for the scrubber (R73,
R74; log 51). -/
def Hart.goodTwin (x : Hart) (e : RegErr) (scrub : Bool) : Option (BitVec 32) :=
  if x.twinned e.file e.index then
    match x.errAt e.file (e.index ^^^ 16) e.word with
    | none => some 0
    | some t => if !t.poisoned && (if scrub then t.flips == 0 else t.parityBits % 2 == 0) then some t.data else none
  else none

/-- The checks of R73 on a word in error e, from its parity on; `scrub`: SECDED looks at it whatever its parity (R74). SECDED corrects one
flip. Two points are the model's choice, for the spec is silent on them (log 51, DESIGN CHOICE): SECDED never miscorrects three or more flips, and a
flip of the parity bit alone, with no good mirror, is a correction as any other, counted in sy.regerr.fixed. -/
def Hart.checkWord (x : Hart) (e : RegErr) (scrub : Bool) : WordCheck :=
  if e.poisoned then .lost
  else if e.parityBits % 2 = 0 && (!scrub || e.secdedBits == 0) then .good
  else match x.goodTwin e scrub with
    | some m => .fixed (e.data ^^^ m)
    | none => if e.secdedBits ≤ 1 then .fixed e.data else .lost

/-- A word corrected: data and check bits are written back (R73), to the mirror too where the register has one, as every write is (R72): the
records of both go. -/
def Hart.mend (x : Hart) (e : RegErr) (fl : BitVec 32) : Hart :=
  let held := x.holdsWord e.file e.index
  let y := if held then x.flip e.file e.index e.word fl else x
  { y with errs := y.errs.filter (fun r => !(r.file == e.file && r.word == e.word
      && (r.index == e.index || (held && x.mirrored e.file e.index && r.index == e.index ^^^ 16)))) }

/-- Errors of the register words that an access reads: the hart with what can be corrected corrected, how many were, and the id of the
word that cannot (R73): the lowest of several, which is the model's choice, for the spec names no order (log 51). -/
def Hart.readWords (x : Hart) (reads : Nat → Nat → Bool) : Hart × Nat × Option Nat :=
  x.errs.foldl (fun (r : Hart × Nat × Option Nat) e =>
    let (h, n, lost) := r
    if !reads e.file e.index then r
    else match x.checkWord e false with
      | .good => r
      | .fixed fl => (h.mend e fl, n + 1, lost)
      | .lost =>
        let id := regId e.file e.index e.word
        (h, n, some (match lost with
          | some i => min i id
          | none => id))) (x, 0, none)

/-- The registers that an instruction reads. -/
def Uses.reads (u : Uses) (file index : Nat) : Bool :=
  match file with
  | 0 => (u.gr ++ u.extra).any (fun r => r.toNat == index)
  | 1 => u.vr.any (fun r => r.toNat == index)
  | _ => u.mr.any (fun r => r.toNat == index)

/-- sy.regerr.fixed rises by n, saturating; lost is set (R68, R73, R74). -/
def regerrAdd (w : Word) (n : Nat) (lost : Bool) : Word :=
  word (min (bf w 0 32 + n) (2 ^ 32 - 1) + (if lost || bit w 32 then 2 ^ 32 else 0))

end Sys2Proof.Machine
end

