-- ==== Sys2Proof/Machine/Tasks.lean ====
section
/-! DEFINITION. Trigger counters and their bindings (R300 to R303), the tasks that they make (R262, R313), the Drill's counters
(R314 to R316), the end of a task (R317, R318) and what a Gleaner point's end does (R326). -/

namespace Sys2Proof.Machine

/-! ### Run queues and handler tasks -/

/-- The core's run queue has room for one more task (R310); places reserved for contexts that travel count as taken (R167). -/
def Core.room (c : Core) : Bool := c.runq.length + c.reservedRunq < 64

/-- A ready task entered at the tail of a core's run queue, and the harts of the core told. -/
def State.enqueue (s : State) (cid : Nat) (t : Task) : State :=
  (List.range 4).foldl (fun s k => if (s.hart (4 * cid + k)).run = .free then s.push (.taskDispatch (4 * cid + k)) else s)
    (s.modCore cid (fun c => { c with runq := c.runq ++ [(s.cycle, t)] }))

/-- The valid handler entry of a core that binds counter x (R292, R301). -/
def Core.handlerOf (c : Core) (x : Nat) : Option Nat :=
  (c.handlers.find? (fun e => bit e.2.w0 63 && bit e.2.w0 60 && bf e.2.w0 54 6 == x)).map (fun e => e.1)

/-- The allocation mask of a handler entry's word 1 or a descriptor's mask word (R292): bit 0 reads one. -/
def expandMask (w : Word) : Word :=
  let g := bf w 17 31
  let v := (List.range 32).foldl (fun n k => if bit w (9 + k / 4) then n + 2 ^ k else n) 0
  word (1 + 2 * g + 2 ^ 32 * v)

/-- Entry e of core cid is a handler of its partition's primary fault service (R154). -/
def State.isService (s : State) (cid e : Nat) : Bool :=
  let c := bf (s.partWord (s.partOf (cid / 16)) 1) 0 32
  c / 2 ^ 31 == 0 && c / 256 % 2 ^ 22 == s.devnum * 4096 + cid && c % 256 == e

/-- A task that holds nothing yet. -/
def Task.blank : Task where
  kind := .launch
  entry := 0
  g3 := 0
  args := []
  corr := 0
  index := 0
  domain := 0
  prio := 0
  regmask := 1
  join := none
  launch := none
  service := false
  barDefault := 1
  power := 0
  pinned := false
  saved := none
  boundTo := none
  walks := []
  pending := []
  stores := []
  fenceAcc := ⟨0, false, false, false⟩
  mchecks := []

/-- The ready task of handler entry e of core cid (R262): what it finds in g3, g8, g9 and g10, and its ring charge. -/
def State.handlerTask (s : State) (cid e : Nat) (corr : BitVec 32) (g3 g8 g9 g10 : Word) (charge : Option Nat) : Task :=
  match find e (s.core cid).handlers with
  | none => Task.blank
  | some h =>
    { Task.blank with
      kind := .handler cid e h.gen charge
      entry := word (s.devnum * 2 ^ 47 + bf h.w0 0 44 * 8)
      g3 := g3, args := [g8, g9, g10], corr := corr, domain := BitVec.ofNat 16 (bf h.w1 48 16), prio := BitVec.ofNat 2 (bf h.w0 61 2)
      regmask := expandMask h.w1, service := s.isService cid e }

/-- The location word of a core, as sy.hart [23:2] at bits [27:6] (R264). -/
def State.coreLoc (s : State) (cid : Nat) : Nat := s.devnum * 4096 + cid

/-! ### The Drill -/

/-- Word i of a descriptor. -/
def dw (d : List Word) (i : Nat) : Word := d.getD i 0

/-- The eligible clusters of a descriptor on die d for partition p, by their number within the die, rising (R313). -/
def State.eligible (s : State) (d p : Nat) (desc : List Word) : List Nat :=
  (List.range 64).filter (fun k =>
    let kid := 64 * d + k
    bit (s.partWord p 0) (kid / 16) && !s.mappedOut kid && (dw desc 4 == 0 || bit (dw desc 4) k))

/-- A launch descriptor is malformed on die d for partition p (R313). -/
def State.malformed (s : State) (d p : Nat) (desc : List Word) : Bool :=
  let w3 := dw desc 3
  let aft (n : Nat) : Nat := bf (dw desc 5) (16 * n) 16
  bf w3 0 25 != 0
    || (List.range 4).any (fun n => aft n / 256 % 128 != 0)
    || bf (dw desc 6) 48 16 != 0 || bf (dw desc 6) 0 9 != 0
    || dw desc 7 != 0
    || bf (dw desc 0) 0 3 != 0
    || bf w3 25 2 == 3
    || (bf w3 25 2 == 2 && (dw desc 4 == 0 || (List.range 64).any (fun k => bit (dw desc 4) k &&
        (!bit (s.partWord p 0) ((64 * d + k) / 16) || s.mappedOut (64 * d + k)))))
    || (List.range 4).any (fun n => aft n / 2 ^ 15 == 1 && aft n % 256 == bf w3 44 8)
    || (s.eligible d p desc).isEmpty

def Die.launchCtr (x : Die) (n : Nat) : DCtr := (find n x.launches).getD DCtr.zero
def Die.graphCtr (x : Die) (n : Nat) : DCtr := (find n x.graphs).getD DCtr.zero
def Die.phaseCtr (x : Die) (n : Nat) : DCtr := (find n x.phases).getD DCtr.zero
def State.jobCtr (s : State) (n : Nat) : DCtr := (find n s.jobs).getD DCtr.zero

/-- Where open and close act: a launch, graph or phase counter of a die, or a job counter (R314). -/
inductive Level where
  | launch | graph | phase | job
  deriving DecidableEq, Repr

def State.dctr (s : State) (d : Nat) (l : Level) (n : Nat) : DCtr :=
  match l with
  | .launch => (s.die d).launchCtr n
  | .graph => (s.die d).graphCtr n
  | .phase => (s.die d).phaseCtr n
  | .job => s.jobCtr n

def State.setDctr (s : State) (d : Nat) (l : Level) (n : Nat) (x : DCtr) : State :=
  match l with
  | .launch => s.modDie d (fun y => { y with launches := put n x y.launches })
  | .graph => s.modDie d (fun y => { y with graphs := put n x y.graphs })
  | .phase => s.modDie d (fun y => { y with phases := put n x y.phases })
  | .job => { s with jobs := put n x s.jobs }

def Level.up : Level → Level
  | .launch => .graph
  | .graph => .phase
  | .phase => .job
  | .job => .job

/-- open(counter, k) of R314: from the job down, a counter that was at zero opens its parent by one. `path` names the counter and
those above it. -/
def State.openCtr (s : State) (d : Nat) (owner : BitVec 4) (k : Nat) : Level → List Nat → State
  | _, [] => s
  | l, n :: above =>
    let x := s.dctr d l n
    let par := above.headD 0
    let s1 := if x.count = 0 then s.openCtr d owner 1 l.up above else s
    let x' : DCtr := if x.count = 0 then ⟨k, false, owner, par, 0⟩ else { x with count := x.count + k }
    s1.setDctr d l n x'

/-- A counter falls by k; at zero its parent falls by one, and takes the cancelled bit (R315). Fuel: the four levels. -/
def State.closeCtr (s : State) (d : Nat) : Nat → Level → Nat → Nat → Bool → State
  | 0, _, _, _, _ => s
  | fuel + 1, l, n, k, cancelled =>
    let x := s.dctr d l n
    if x.count = 0 then s
    else
      let x' := { x with count := x.count - k, cancelled := x.cancelled || cancelled }
      let s1 := s.setDctr d l n x'
      if x'.count = 0 && l != .job then s1.closeCtr d fuel l.up x.parent 1 x'.cancelled else s1

/-- Clocks that ramp violations hold at 1.2 GHz are released once every violating launch's counter reads zero (R334). -/
def State.releaseClocks (s : State) : State :=
  let closed (r : LaunchRef) : Bool := ((s.die r.die).launchCtr r.lctr).count == 0
  (s.coreIds.filter (fun c => (s.core c).clamped.any closed)).foldl (fun s c => s.modCore c (fun x =>
    let left := x.clamped.filter (fun r => !closed r)
    { x with clamped := left, clockMHz := if left.isEmpty then 1700 else x.clockMHz })) s

/-- A launch counter falls by k (R315). -/
def State.closeLaunch (s : State) (d n k : Nat) (cancelled : Bool) : State := (s.closeCtr d 4 .launch n k cancelled).releaseClocks

/-- The launch counter of a task falls by one (R315). -/
def State.leaveLaunch (s : State) (l : Option LaunchRef) (cancelled : Bool) : State :=
  match l with
  | none => s
  | some r => s.closeLaunch r.die r.lctr 1 cancelled

/-- A counter that has been open rises by one; one at zero opens again, and with it the counters above it (R314, R315). Fuel: the four
levels. -/
def State.reopen (s : State) (d : Nat) : Nat → Level → Nat → State
  | 0, _, _ => s
  | fuel + 1, l, n =>
    let x := s.dctr d l n
    if x.count = 0 then
      (if l = .job then s else s.reopen d fuel l.up x.parent).setDctr d l n { x with count := 1, cancelled := false }
    else s.setDctr d l n { x with count := x.count + 1 }

/-- The launch counter of a task rises by one (R315). -/
def State.joinLaunch (s : State) (l : Option LaunchRef) : State :=
  match l with
  | none => s
  | some r => s.reopen r.die 4 .launch r.lctr

/-- Submission of a descriptor to die d's Drill (R314): the status, and the state. -/
def State.submit (s : State) (d : Nat) (desc : List Word) (domain : BitVec 16) (p : Nat) : State × Nat :=
  let w3 := dw desc 3
  let lctr := bf w3 52 12
  if bit (s.partWord p 0) 61 then (s, 1)
  else if s.malformed d p desc then (s, 2)
  else if ((s.die d).launchCtr lctr).count != 0 then (s, 3)
  else if bf w3 34 4 != p then (s, 4)
  else
    let owner := BitVec.ofNat 4 p
    let s1 := s.openCtr d owner (bf (dw desc 2) 0 32 + 1) .launch [lctr, bf w3 44 8, bf w3 38 6, p]
    ((s1.modDie d (fun x => { x with
        admission := x.admission ++ [⟨desc, 0, owner, domain⟩]
        launches := put lctr { x.launchCtr lctr with corr := BitVec.ofNat 32 (bf (dw desc 2) 32 32) } x.launches
        slopes := drop lctr x.slopes, violated := x.violated.filter (· != lctr)
        pinned := (if bit w3 27 then [lctr] else []) ++ x.pinned.filter (· != lctr) })).push (.drillCycle d), 0)

/-- Placement of task j (R313): cluster within the die, and core. -/
def placement (e : List Nat) (place j : Nat) : Nat × Nat :=
  let n := max e.length 1
  if place = 0 then (e.getD (j % n) 0, j / n % 16) else (e.getD (j / 16 % n) 0, j % 16)

/-- The launch's barrier count on cluster k of the die: its tasks that are placed there (R313). -/
def barrierCount (e : List Nat) (place tasks k : Nat) : Nat :=
  let n := max e.length 1
  let i := (e.takeWhile (· != k)).length
  if place = 0 then (tasks + n - 1 - i) / n
  else
    let rounds := tasks / (16 * n)
    let rest := tasks - 16 * n * rounds
    16 * rounds + min 16 (rest - 16 * i)

/-- Task j of a launch (R313). The eligible clusters, and with them the placement and the barrier's count, are those of the moment at which the task is
admitted: the spec does not say what a cluster that is mapped out between submission and admission changes (log 64, DESIGN CHOICE). -/
def State.launchTask (s : State) (d : Nat) (l : Launch) (j : Nat) : Task :=
  let w2 := dw l.desc 2
  let w3 := dw l.desc 3
  let e := s.eligible d l.part.toNat l.desc
  { Task.blank with
    entry := dw l.desc 0, g3 := dw l.desc 1, args := [word j, word (bf w2 0 32 + 1)]
    corr := BitVec.ofNat 32 (bf w2 32 32), index := BitVec.ofNat 32 j, domain := l.domain, prio := BitVec.ofNat 2 (bf w3 32 2)
    regmask := expandMask (dw l.desc 6), launch := some ⟨d, bf w3 52 12⟩
    barDefault := barrierCount e (bf w3 25 2) (bf w2 0 32 + 1) (placement e (bf w3 25 2) j).1
    power := BitVec.ofNat 4 (bf w3 28 4), pinned := bit w3 27 }

/-- yoke_grant (R331): the die's budget for the slot holds the amount, and gives it up. -/
def State.grant (s : State) (d amount : Nat) : Option State :=
  let x := s.die d
  if amount ≤ x.budget then some (s.setDie d { x with budget := x.budget - amount }) else none

/-- drill_cycle of R316. -/
def State.drillCycle (s : State) (d : Nat) : State :=
  let rec go : List Launch → List Launch → Option (State × Launch × List Launch × List Launch)
    | [], _ => none
    | l :: rest, before =>
      let w3 := dw l.desc 3
      let held := (List.range 4).any (fun n =>
        let a := bf (dw l.desc 5) (16 * n) 16
        a / 2 ^ 15 == 1 && ((s.die d).graphCtr (a % 256)).count != 0)
      let e := s.eligible d l.part.toNat l.desc
      let (k, c) := placement e (bf w3 25 2) l.next
      let cid := (64 * d + k) * 16 + c
      let ready := s.isReady (64 * d + k) && (s.core cid).room
      match (if held || !ready || e.isEmpty then none
          else if bit w3 27 then some s else s.grant d (Config.classPower (bf w3 28 4))) with
      | some s' => some (s'.enqueue cid (s.launchTask d l l.next), l, before, rest)
      | none => go rest (before ++ [l])
  -- highest prio first, then in entry order
  let prio (l : Launch) : Nat := bf (dw l.desc 3) 32 2
  let all := (s.die d).admission
  let order := all.filter (fun l => prio l == 3) ++ all.filter (fun l => prio l == 2) ++ all.filter (fun l => prio l == 1)
    ++ all.filter (fun l => prio l == 0)
  match go order [] with
  | none => s
  | some (s1, l, _, _) =>
    -- the record of an admitted launch stands at its first task's core (R357)
    let (k, c) := placement (s.eligible d l.part.toNat l.desc) (bf (dw l.desc 3) 25 2) l.next
    let s1 := if l.next = 0 then s1.trace (64 * d + k) 1 (BitVec.ofNat 32 (bf (dw l.desc 2) 32 32)) (s1.coreLoc ((64 * d + k) * 16 + c) * 4) else s1
    let last := l.next == bf (dw l.desc 2) 0 32
    let list := (s1.die d).admission
    let list := if last then removeFirst (fun y => y == l) list else list.map (fun y => if y == l then { y with next := y.next + 1 } else y)
    s1.modDie d (fun x => { x with admission := list })

/-! ### Decrements -/

/-- What hart h's bundle waited for has come: the bundle issues before anything else befalls the hart (R303, R309, R321). -/
def Hart.release (x : Hart) : Hart := { x with wait := .released, run := if x.run = .blocked then .running else x.run }

/-- Every hart of the core that waits on counter x, in WAITC or WAITE, becomes ready (R91, R301, R303). -/
def State.wakeCtr (s : State) (cid x : Nat) : State :=
  (List.range 4).foldl (fun s k => s.modHart (4 * cid + k) (fun h => match h.wait with
    | .ctr y => if y = x then h.release else h
    | .event _ ev _ => if ev.toNat / 256 = 2 && ev.toNat % 64 = x then h.release else h
    | _ => h)) s

/-- A counter that reads zero after a decrement by its binding (R301): handler task or launch submission. -/
def State.fire (s : State) (cid x : Nat) (corr : BitVec 32) (g3 g8 g9 g10 : Word) (charge : Option Nat) : State :=
  let s := s.wakeCtr cid x
  match (s.core cid).handlerOf x with
  | some e => s.enqueue cid (s.handlerTask cid e corr g3 g8 g9 g10 charge)
  | none =>
    match find x (s.core cid).bind with
    | none => s
    | some b =>
      let d := cid / 1024
      let s := s.modCore cid (fun c => { c with bind := drop x c.bind })
      let (s, st) := s.submit d b.desc b.domain b.part.toNat
      if st = 0 then s else s.unitTrap (some d) b.part.toNat .queue (word st) b.corr

/-- A decrement that would make a handler task ready while the run queue is full (R302). -/
def State.mustWait (s : State) (cid x d : Nat) : Bool :=
  let c := s.core cid
  0 < d && (c.ctr.toList.getD x 0).toNat == d && (c.handlerOf x).isSome && !c.room

/-- Counter x of core cid (R300). -/
def Core.count (c : Core) (x : Nat) : Nat := (c.ctr.toList.getD x 0).toNat

def Core.setCount (c : Core) (x n : Nat) : Core :=
  if h : x < 64 then { c with ctr := c.ctr.set x (BitVec.ofNat 40 n) h } else c

/-- Counter x falls by d ≤ its value, and fires at zero (R301). -/
def State.decrement (s : State) (cid x d : Nat) (corr : BitVec 32) (g3 g8 g9 g10 : Word) (charge : Option Nat) : State :=
  if d = 0 then s
  else
    let n := (s.core cid).count x
    let s := s.modCore cid (fun c => c.setCount x (n - d))
    if n = d then s.fire cid x corr g3 g8 g9 g10 charge else s

/-- A decrement by one that no instruction could trap for (R264), at its core: not applied at zero, and reported. -/
def State.countDown (s : State) (cid x source : Nat) (corr : BitVec 32) : State :=
  if (s.core cid).count x = 0 then
    s.reportTrap cid (s.partOf (cid / 16)) .counter (word (source * 2 ^ 60 + s.coreLoc cid * 64 + x)) corr
  else s.decrement cid x 1 corr 0 0 0 0 none

/-- The same through the core's port (R264). -/
def State.countAt (s : State) (cid x source : Nat) (corr : BitVec 32) : State :=
  (s.modCore cid (fun c => { c with port := c.port ++ [.count x source corr] })).push (.countModeArrival cid)

/-! ### The end of a task -/

/-- Ring bytes charged up to charge n return (R266). -/
def Handler.giveBack (h : Handler) (n : Nat) : Handler :=
  let back := (h.charges.filter (fun c => c.1 ≤ n)).foldl (fun t c => t + c.2) 0
  let size := (bf h.w0 47 7 + 1) * 256
  let free := h.free + back
  { h with free := free, charges := h.charges.filter (fun c => n < c.1)
           off := if free + h.reserved = size then bf h.w1 0 9 * 256 else h.off }

/-- A page's rights for a domain, whatever core asks (R329): the leaf in the tables matches and allows. -/
def State.allowed (s : State) (domain : BitVec 16) (k : Kind) (a : Nat) : Option Cause :=
  match zone a with
  | .out => some .protection
  | .loc o => if o < 0x20000 then none else some .protection
  | z =>
    match s.walkTables a with
    | none => some .notPresent
    | some l =>
      let special := match z with
        | .mem => false
        | _ => true
      if l.plb.matches domain && l.plb.allows k && !(special && l.plb.arena) then none else some .protection

/-- The first failing byte of an extent under a domain. -/
def State.allowedExt (s : State) (domain : BitVec 16) (k : Kind) (a n : Nat) : Option (Cause × Nat) :=
  (probes a n).foldl (fun r p => match r with
    | some x => some x
    | none => (s.allowed domain k p).map (fun c => (c, p))) none

/-- A walk aborted with a reason, if it runs (R328). Points that wait to be issued again leave their launch as cancelled tasks do, whatever the reason:
their tasks have ended and never come back, and the spec does not say how they leave it (log 67, DESIGN CHOICE). -/
def State.abortWalk (s : State) (kid slot reason : Nat) : State :=
  match find slot (s.cluster kid).glean with
  | none => s
  | some w =>
    if w.state = 0 then
      let s := s.modCluster kid (fun c => { c with glean := put slot { w with state := 2, reason := reason, reissue := [], issuing := none, live := w.outstanding != w.reissue.length, outstanding := w.outstanding - w.reissue.length } c.glean })
      w.reissue.foldl (fun s _ => s.leaveLaunch w.launch true) s
    else s

/-- A walk with nothing left to issue and no task out is complete, and its slot free (R329). -/
def GleanWalk.finish (w : GleanWalk) : GleanWalk :=
  let idle := w.outstanding == 0
  let w := if w.state = 0 && w.todo.isEmpty && w.deferred.isEmpty && w.reissue.isEmpty && idle then { w with state := 1 } else w
  if w.state != 0 && idle then { w with live := false } else w

/-- The aligned word of a walk's stubble map that holds a point's bit (R326). -/
def GleanWalk.mapWord (w : GleanWalk) (point : Nat) : Nat := ((dw w.desc 7).toNat + point / 8) % 2 ^ 64 / 4 * 4

/-- The AMOOR of R326 that sets a point's bit of its walk's stubble map, and whether it succeeds: it fails where the domain that GLEAN copied lacks the
right, where isolation or the home refuses it (R187, R345) and where it meets poison (R194). The core-local window is the GLEAN core's (log 11). On a map
in this device's peer window it writes nothing, as any atomic there, and does not fail (R337; log 12). -/
def State.setStubble (s : State) (w : GleanWalk) (point : Nat) : State × Bool :=
  let a := ((dw w.desc 7).toNat + point / 8) % 2 ^ 64
  let al := w.mapWord point
  let b := 2 ^ (8 * (a % 4) + point % 8)
  let orIn (bs : List Byte) : List Byte := toBytes (BitVec.ofNat 32 (ofBytes bs ||| b)) 4
  let atCore (s : State) (cid o : Nat) : State :=
    s.modCore cid (fun c => c.localWrite o (orIn ((List.range 4).map (fun k => c.localByte (o + k)))))
  let away (s : State) : State := s.leaves (.atomic 0 0 al .or 4 (word b) 0 true) .nothing
  if (s.allowedExt w.domain .atomic al 4).isSome || s.isolates w.part.toNat al || s.devPoison al then (s, false)
  else match zone al with
    | .loc o => (atCore s w.cid o, true)
    | .out => (s, false)
    | z =>
      if devOf al != s.devnum then
        -- the map's own home performs it (log 19), or, for a window of this device, its core (R206)
        match s.farWindow al with
        | some (c, n) => (atCore (away s) c (s.windowOffset c n al), true)
        | none => (away s.drawFree, (outsideFailure s.free).isNone)
      else match z, s.devLoad al 4 with
        | .peer _, _ => (s, true)
        | _, some bs => s.devStore al (orIn bs)
        | _, none => (s, false)

/-- Steps 1 and 2 of R326 for a point's task that ends on core cid: the map bit, then the counter. -/
def State.pointDone (s : State) (cid kid slot gen point : Nat) (corr : BitVec 32) (cancelled : Bool) : State :=
  match find slot (s.cluster kid).glean with
  | none => s
  | some w =>
    if w.gen != gen then s
    else
      let s := if cancelled then s else
        let (s, ok) := s.setStubble w point
        if ok then s else s.abortWalk kid slot 4
      let x := bf (dw w.desc 0) 40 6
      let s := if cid = w.cid then s.countDown cid x 5 corr else s.countAt w.cid x 5 corr
      s.modCluster kid (fun c => { c with glean := match find slot c.glean with
        | some w => put slot ({ w with retired := w.retired + 1, outstanding := w.outstanding - 1 } : GleanWalk).finish c.glean
        | none => c.glean })

/-- The end of a task waits: a decrement on its own core for run-queue room (R302), or a point's map bit for its home (R189, R343). -/
def State.endWaits (s : State) (cid : Nat) (t : Task) : Bool :=
  (match t.join with
    | some j => j.cid == cid && s.mustWait cid j.ctr 1
    | none => false)
  || (match t.kind with
    | .glean kid slot gen point => match find slot (s.cluster kid).glean with
      | some w => w.gen == gen && ((w.cid == cid && s.mustWait cid (bf (dw w.desc 0) 40 6) 1) || s.devHeld true (w.mapWord point) 4)
      | none => false
    | _ => false)

/-- The decrements and returns of R317, for a task that ends on core cid. -/
def State.taskEnds (s : State) (cid : Nat) (t : Task) (cancelled : Bool) : State :=
  let s := match t.join with
    | none => s
    | some j => if j.cid = cid then s.countDown cid j.ctr 4 t.corr else s.countAt j.cid j.ctr 4 t.corr
  let s := match t.kind with
    | .handler own e gen (some n) =>
      s.modCore own (fun c => match find e c.handlers with
        | some h => if h.gen = gen then { c with handlers := put e (h.giveBack n) c.handlers } else c
        | none => c)
    | .glean kid slot gen point => s.pointDone cid kid slot gen point t.corr cancelled
    | _ => s
  s.leaveLaunch t.launch cancelled

/-- A suspended publication walk abandoned: its slots are freed (R226). -/
def State.dropWalks (s : State) (t : Task) : State :=
  t.walks.foldl (fun s w =>
    s.modCluster w.1 (fun c => match find w.2.1 c.walks, find w.2.1 c.slotGen with
      | some x, some g => if g = w.2.2 && x.suspended then { c with walks := drop w.2.1 c.walks } else c
      | _, _ => c)) s

/-- A PLBINV at system scope leaves for the other devices of the domain, with what comes back for it (R290). -/
def State.dropFar (s : State) (base len : Nat) (x : Answer) : State := s.sendOut (planeOf base) (.plbDrop base len) x

/-- A publication walk that hart h waits for goes on without it, a drop that it waits for is made, and a WMAP that it waits in completes (R299,
R318). -/
def State.leaveBusy (s : State) (h : Nat) : State :=
  match (s.hart h).busy with
  | some (.pub _) => s.modCluster (clusterOf h) (fun c => { c with walks := c.walks.filterMap (fun w =>
      if w.2.hid = h && !w.2.suspended then
        if w.2.result.isSome && w.2.waiting.isEmpty then none else some (w.1, { w.2 with hid := 16384 })
      else some w) })
  | some (.plbinv _ base len scope none _ _) =>
    let s := s.dropPages h base len scope
    if scope = 3 then s.dropFar base len .nothing else s
  | _ => match (s.hart h).wait with
    | .wmap n w => (s.modCore (coreOf h) (fun c => { c with wmaps := c.wmaps ++ [(n, w, (s.hart h).dom)] })).push (.wunmapDrainComplete (coreOf h) n)
    | _ => s

def Core.latch (c : Core) (l : Bool) : Latch := if l then c.bl[1] else c.bl[0]
def Core.setLatch (c : Core) (l : Bool) (x : Latch) : Core :=
  { c with bl := if l then c.bl.set 1 x else c.bl.set 0 x }

/-- The matrix claim of hart h released (R147): latches closed, hand-offs not begun withdrawn; what has begun drains. -/
def State.releaseClaim (s : State) (h : Nat) : State :=
  s.modCore (coreOf h) (fun c =>
    if c.claim = some h then
      { c with claim := none, bl := c.bl.map (fun l => { l with st := .closed, pass := false }) }
    else c)

/-- A latch that hart h's waiting bundle has opened is closed again where no tile has come to it and none is coming, and with it the claim goes that the
wait has taken: the bundle has made no effect (R41, R146). A tile that has come, or is coming, stays, and the claim with it (log 52). -/
def State.closeOpened (s : State) (h : Nat) : State :=
  match (s.hart h).opened with
  | none => s
  | some (took, l) =>
    let s := s.modHart h (fun x => { x with opened := none })
    let c := s.core (coreOf h)
    let y := c.latch l
    if c.claim = some h && y.st = .opened && y.landing.isNone then
      if took then s.releaseClaim h else s.setCore (coreOf h) (c.setLatch l { y with st := .closed })
    else s

/-- What hart h's unissued bundle has recorded elsewhere withdrawn: a latch that it has opened (R133), its arrival at a barrier (R321), a CBLD that its
A slot waits for, which has made no effect (R146). -/
def State.withdraw (s : State) (h : Nat) : State :=
  let s := s.closeOpened h
  match (s.hart h).wait with
  | .bar b => s.modCluster (clusterOf h) (fun c => match find b c.barriers with
    | some g =>
      let left := g.arrived.filter (· != h)
      { c with barriers := if left.isEmpty then drop b c.barriers else put b { g with arrived := left } c.barriers }
    | none => c)
  | .bank b =>
    -- a bank whose rows have all come is not loading for this hart any more
    let coming := (s.hart h).loads.any (fun l => l.dest == .bank b && l.wants.any (fun w => w.val.isNone))
    let s := s.modHart h (fun x => { x with loads := x.loads.filter (fun l => l.dest != .bank b) })
    if coming then s.modCore (coreOf h) (fun c => c.setLoading b false) else s
  | _ => s

/-- A save slot freed (R161, R164). -/
def State.freeSlotOf (s : State) (r : SaveRef) : State :=
  s.modHart r.hid (fun x => { x with slots := x.slots &&& ~~~ ((1 : BitVec 8) <<< r.slot) })

def State.takeSlotOf (s : State) (r : SaveRef) : State :=
  s.modHart r.hid (fun x => { x with slots := x.slots ||| ((1 : BitVec 8) <<< r.slot) })

/-- A reservation for a context that will not travel released (R167). -/
def State.releaseReservation (s : State) (r : SaveRef) : State :=
  (s.freeSlotOf r).modCore (coreOf r.hid) (fun c => { c with reservedRunq := c.reservedRunq - 1 })

/-- The place that was reserved for hart h's task elsewhere is given back (R167). -/
def State.stayHere (s : State) (h : Nat) : State :=
  match (s.hart h).migrate with
  | some r => (s.releaseReservation r).modHart h (fun x => { x with migrate := none })
  | none => s

/-- What a task leaves behind on hart h, whatever becomes of it: its arrival at a barrier, boosts for it, a place reserved for it, pages
found absent for it (R167, R287, R321, R333). -/
def State.quit (s : State) (h : Nat) : State := (((s.withdraw h).unboost h).stayHere h).forgetAbsentOf h

/-- The hart is free (R317): nothing of its task is left in it, and it looks for work. -/
def State.freeHart (s : State) (h : Nat) : State :=
  let s := s.quit h
  (s.modHart h (fun x => { x with
    run := .free, job := none, preempt := none, migrate := none, wait := .none, busy := none, safeAt := none, cancelled := false
    opened := none, reads := [], lostWord := none, near := [] })).push (.taskDispatch h)

/-- A cancelled task of hart h may end now: what it issued is done, and its last decrements need not wait (R302, R318). -/
def State.mayEnd (s : State) (h : Nat) : Bool :=
  let x := s.hart h
  x.stores.isEmpty && x.loads.isEmpty && x.fence.isNone && !x.job.any (fun t => s.endWaits (coreOf h) t)

/-- The task of hart h ends, its earlier accesses being done (R317, R318); a slot that it was to be restored from is freed (R164). -/
def State.endTask (s : State) (h : Nat) (cancelled : Bool) : State :=
  match (s.hart h).job with
  | none => s.freeHart h
  | some t =>
    let s := match t.saved with
      | some r => s.freeSlotOf r
      | none => s
    (((((s.leaveBusy h).releaseClaim h).dropWalks t).taskEnds (coreOf h) t cancelled).trace (clusterOf h) 3 t.corr
    (s.location h).toNat).freeHart h

end Sys2Proof.Machine
end

