-- ==== Sys2Proof/Machine/Context.lean ====
section
/-! DEFINITION. Starting, saving, restoring and moving a task's context (R67, R68, R144, R145, R160 to R170). -/

namespace Sys2Proof.Machine

/-! ### The matrix unit's drain -/

/-- The MMA under way on core c writes its accumulator, and its flags reach its hart; discarded if the claim is gone (R135, R147). -/
def State.finishMma (s : State) (c : Nat) : State :=
  match (s.core c).mma with
  | none => s
  | some j =>
    let s1 := s.modCore c (fun x => { x with mma := none, acc := if x.claim = some j.hid then x.acc.set j.acc.toNat j.result j.acc.isLt else x.acc })
    if (s.core c).claim = some j.hid then s1.modHart j.hid (fun h => h.raise j.flags) else s1

def latchIx (l : Bool) : Nat := if l then 1 else 0

/-- The neighbours of a core on its cluster's Seam (R134). -/
def seamNext (c : Nat) : Nat := c / 16 * 16 + (c + 1) % 16
def seamPrev (c : Nat) : Nat := c / 16 * 16 + (c + 15) % 16

/-- The outgoing read of core c's latch l starts, and the tile is on its way to the successor (R134). -/
def State.sendTile (s : State) (c : Nat) (l : Bool) : State :=
  let tile := ((s.core c).latch l).data
  let s := s.modCore c (fun x => x.setLatch l { (x.latch l) with pass := false, out := true })
  (s.modCore (seamNext c) (fun x => x.setLatch l { (x.latch l) with landing := some tile })).push (.seamArrivalLanded (seamNext c) l)

/-- A hand-off of core c's latch l begins (R134), and with it those of the successors whose beginning it rests on (R133): a latch that a tile is
landing at has none of its own to begin. Fuel: the ring's sixteen. -/
def State.beginHandoff (s : State) (l : Bool) : Nat → Nat → State
  | 0, _ => s
  | fuel + 1, c =>
    let s := s.sendTile c l
    if ((s.core (seamNext c)).latch l).pass then s.beginHandoff l fuel (seamNext c) else s

/-- Core c's latch l takes the tile that its predecessor sends (R133): it is OPEN, or SENDING with its own hand-off begun, or beginning with it
because its successor takes that one; around a ring of sixteen that all send, all do. `start` is the asker. -/
def State.takesTile (s : State) (start : Nat) (l : Bool) : Nat → Nat → Bool
  | 0, _ => false
  | fuel + 1, c =>
    let x := (s.core c).latch l
    if x.landing.isSome then false
    else match x.st with
      | .opened => true
      | .sending => if x.out then !x.pass else (x.pass && !(s.core c).mma.any (fun j => j.latch == l) && (seamNext c == start || s.takesTile start l fuel (seamNext c)))
      | _ => false

/-- The hand-off of core c's latch l may begin (R134). -/
def State.handoffReady (s : State) (c : Nat) (l : Bool) : Bool :=
  let x := (s.core c).latch l
  x.st == .sending && x.pass && !x.out && !(s.core c).mma.any (fun j => j.latch == l) && s.takesTile c l 16 (seamNext c)

/-- The last beat of a tile lands at core c's latch l (R133, R134), behind the latch's own outgoing tile: it becomes FULL, unless no one
holds the unit (R145); the sender's hand-off is over. -/
def State.landTile (s : State) (c : Nat) (l : Bool) : State :=
  match ((s.core c).latch l).landing with
  | none => s
  | some t =>
    let s := s.modCore c (fun x =>
      let y := x.latch l
      x.setLatch l (if x.claim.isSome then { y with st := .full, data := t, landing := none } else { y with landing := none }))
    s.modCore (seamPrev c) (fun x =>
      let y := x.latch l
      x.setLatch l { y with out := false, st := if y.st = .sending && !y.pass && y.landing.isNone then .opened else y.st })

/-- What R144 completes before the context of a claim holder is saved: the MMA, the start of a hand-off that this releases and that the
successor takes, and each landing that has begun. -/
def State.drainMatrix (s : State) (c : Nat) : State :=
  let start (s : State) (l : Bool) : State := if s.handoffReady c l then s.beginHandoff l 16 c else s
  ((start (start (s.finishMma c) false) true).landTile c false).landTile c true

/-- The drain of an earlier holder is done (R145, R147). -/
def Core.drained (c : Core) : Bool :=
  c.mma.isNone && !c.bl[0].out && !c.bl[1].out && c.bl[0].landing.isNone && c.bl[1].landing.isNone

/-! ### Starting a task -/

/-- The registers of a task's start (R67, R68). -/
def Hart.start (x : Hart) (t : Task) : Hart :=
  let g := (List.range t.args.length).foldl (fun (g : Vector Word 32) k =>
    if h : 8 + k < 32 then g.set (8 + k) (t.args.getD k 0) h else g) (Vector.replicate 32 0)
  { x with
    g := (g.set 2 x.stktop).set 3 t.g3
    v := Vector.replicate 32 0, m := Vector.replicate 8 0, pc := t.entry
    task := word (t.index.toNat * 2 ^ 32 + t.corr.toNat), domain := zext t.domain, prio := zext t.prio
    cause := 0, faddr := 0, trappc := 0, regmask := t.regmask, fflags := 0, opened := none, rng := 0x9E3779B97F4A7C15, lmflag := 0, lmaddr := 0
    run := .running, job := some t, preempt := none, wait := .none, busy := none, safeAt := none, near := [], errs := []
    fenceAcc := ⟨0, false, false, false⟩, mchecks := [], lostWord := none, cancelled := false }

/-! ### Saving -/

/-- A latch state's code in the slot (R163). -/
def latchCode (l : Latch) : Nat :=
  match l.st with
  | .closed => 0
  | .opened => 1
  | .full => 2
  | .sending => if l.pass then 2 else 1

/-- A word of the register files (R73). -/
def Hart.word32 (x : Hart) (file index w : Nat) : BitVec 32 :=
  match file with
  | 0 => if q : index < 32 then (x.g[index] >>> (32 * w)).setWidth 32 else 0
  | 1 => if q : index < 32 then (x.v[index] >>> (32 * w)).setWidth 32 else 0
  | _ => if q : index < 8 then (x.m[index] >>> (32 * w)).setWidth 32 else 0

/-- The registers that a save reads. -/
def Hart.saves (x : Hart) (glive vlive : BitVec 32) (file i : Nat) : Bool :=
  match file with
  | 0 => bit glive i && bit x.regmask i
  | 1 => bit vlive i && bit x.regmask (32 + i)
  | _ => true

/-- The words of a hart that a save writes, zero where they cannot be read, and the id of the first such one (R162): of the save before, whose
poison no bundle has met yet, if there is one (R164). -/
def Hart.saveWords (x : Hart) (glive vlive : BitVec 32) : Hart × Option Nat :=
  let (_, _, lost) := x.readWords (x.saves glive vlive)
  (x.errs.foldl (fun y e =>
    if x.saves glive vlive e.file e.index && x.checkWord e false == .lost then y.flip e.file e.index e.word (y.word32 e.file e.index e.word) else y) x,
    x.lostWord.or lost)

/-- The words that a save of hart h reads corrected, written back and counted (R73). -/
def State.saveReads (s : State) (h : Nat) (glive vlive : BitVec 32) : State :=
  if (s.hart h).errs.isEmpty then s
  else
    let (x, n, _) := (s.hart h).readWords ((s.hart h).saves glive vlive)
    (s.setHart h x).modCore (coreOf h) (fun c => { c with regerr := regerrAdd c.regerr n false })

/-- The image of R163: pieces by offset. -/
def State.saveImage (s : State) (h : Nat) (pc : Word) (glive vlive : BitVec 32) (forced migration : Bool) : List (Nat × List Byte) :=
  let (x, lost) := (s.hart h).saveWords glive vlive
  let c := s.core (coreOf h)
  let claim := c.claim == some h
  let b0 := c.bl[0]
  let b1 := c.bl[1]
  let w10 := (lost.getD 0) * 2 ^ 16
    + (if claim && b1.pass then 2 ^ 15 else 0) + (if claim && b0.pass then 2 ^ 14 else 0)
    + (if lost.isSome then 2 ^ 13 else 0) + (if claim then 2 ^ 12 + latchCode b1 * 2 ^ 10 + latchCode b0 * 2 ^ 8 else 0)
    + (if migration then 2 else 0) + (if forced then 1 else 0)
  let join := match x.job with
    | some t => match t.join with
      | some j => 2 ^ 28 + s.coreLoc j.cid * 64 + j.ctr
      | none => 0
    | none => 0
  let head := bytesOf [pc, word (vlive.toNat * 2 ^ 32 + glive.toNat), word w10, x.task, x.domain, x.prio, x.regmask, x.fflags, x.rng,
    x.lmflag, x.lmaddr, x.cause, x.faddr, x.trappc, word join]
  let gs := (List.range 32).filterMap (fun i =>
    if i != 0 && bit glive i && bit x.regmask i then some (0x100 + 8 * i, toBytes (x.getG (BitVec.ofNat 5 i)) 8) else none)
  let ms := (List.range 7).map (fun i => (0x208 + 8 * i, toBytes (x.getM (BitVec.ofNat 3 (i + 1))) 8))
  let vs := (List.range 32).filterMap (fun i =>
    if bit vlive i && bit x.regmask (32 + i) then some (0x400 + 64 * i, toBytes (x.getV (BitVec.ofNat 5 i)) 64) else none)
  let bs := if claim then [(0xC00, toBytes b0.data 2048), (0x1400, toBytes b1.data 2048)] else []
  let as := if claim && bit glive 0 then (List.range 4).map (fun n => (0x2000 + 0x1000 * n, toBytes (c.acc.toList.getD n 0) 4096)) else []
  (0, head) :: gs ++ ms ++ vs ++ bs ++ as

/-- The first failing byte of the image's extents at an address, under a domain (R162, R164). -/
def State.imageFault (s : State) (domain : BitVec 16) (k : Kind) (base : Nat) (pieces : List (Nat × Nat)) : Option Nat :=
  (pieces.filterMap (fun p => (s.allowedExt domain k (base + p.1) p.2).map (fun f => f.2))).min?

/-- A save's write: a private store of the core, whatever the page's class (R161). -/
def State.slotWrite (s : State) (cid a : Nat) (bs : List Byte) : State :=
  match zone a with
  | .loc o => s.modCore cid (fun c => c.localWrite o bs)
  | .mem =>
    (extentSplit a bs.length).foldl (fun s p =>
      ((s.modCore cid (fun c => { c with nc := rangeStore c.nc (p.1 / 512) (p.1 % 512) .priv ((bs.drop (p.1 - a)).take p.2) 0 0 })).settleNear
        cid (p.1 / 512) (p.1 % 512) (p.1 % 512 + p.2)).staleAt cid (p.1 / 512) (p.1 % 512) (p.1 % 512 + p.2)) s
  | _ => (s.devStore a bs).1

def State.writeImage (s : State) (cid base : Nat) (img : List (Nat × List Byte)) : State :=
  img.foldl (fun s p => s.slotWrite cid (base + p.1) p.2) s

/-- The lowest free save slot of a hart (R161). -/
def Hart.freeSlot (x : Hart) : Option Nat :=
  if x.ctxbase = 0 then none else (List.range 8).find? (fun n => !bit x.slots n)

/-- The effective priority of a run-queue entry (R310). -/
def effPrio (now : Nat) (e : Nat × Task) : Nat := min 3 (e.2.prio.toNat + (now - e.1) / 4096)

/-- The task that a free hart takes from the run queue (R310); a channel-bound task only on its hart (R256). -/
def State.nextReady (s : State) (h : Nat) : Option (Nat × Task) :=
  ((s.core (coreOf h)).runq.filter (fun e => match e.2.boundTo with
    | some b => e.2.saved.isNone || b == h
    | none => true)).foldl (fun best e => match best with
      | none => some e
      | some b => if effPrio s.cycle b < effPrio s.cycle e then some e else best) none

/-! ### Restoring -/

/-- A word, and a run of bytes, of a slot as hart h's core reads it. A byte that its home refuses though the page checks pass, as of a stack that has been
mapped out, reads 0, and no machine check follows: R164 speaks of failing page checks alone (log 65, DESIGN CHOICE). -/
def State.slotBytes (s : State) (h base off n : Nat) : List Byte :=
  (List.range n).map (fun k => (s.peekByte h (base + off + k)).getD 0)
def State.slotWord (s : State) (h base off : Nat) : Word := wordOf (s.slotBytes h base off 8)

/-- The extents that a restore reads, from the slot's header (R163, R164). -/
def State.restoreExtents (s : State) (h base : Nat) : List (Nat × Nat) :=
  let live := s.slotWord h base 8
  let mask := s.slotWord h base 0x30
  let claim := bit (s.slotWord h base 0x10) 12
  [(0, 0x78), (0x208, 56)]
    ++ (List.range 32).filterMap (fun i => if i != 0 && bit live i && bit mask i then some (0x100 + 8 * i, 8) else none)
    ++ (List.range 32).filterMap (fun i => if bit live (32 + i) && bit mask (32 + i) then some (0x400 + 64 * i, 64) else none)
    ++ (if claim then [(0xC00, 4096)] else []) ++ (if claim && bit live 0 then [(0x2000, 0x4000)] else [])

/-- A latch restored (R145). -/
def latchFrom (code : Nat) (pass : Bool) (data : List Byte) : Latch :=
  { st := if pass then .sending else match code with
      | 0 => .closed
      | 1 => .opened
      | _ => .full
    data := BitVec.ofNat 16384 (ofBytes data), pass := pass, out := false, landing := none }

/-- A slot's extents hold a poisoned byte (R194). -/
def State.slotPoisoned (s : State) (h base : Nat) (pieces : List (Nat × Nat)) : Bool :=
  pieces.any (fun p => zone (base + p.1) == .mem && (List.range p.2).any (fun k => s.peekBad h (base + p.1 + k)))

/-- The pre-empted task t restored on hart h from its slot (R164); the hart parks where the slot cannot be read. Reserved bits of what the
slot holds are not taken up (R7). -/
def State.restore (s : State) (h : Nat) (t : Task) (r : SaveRef) : State :=
  let fault := match s.imageFault t.domain .load r.addr [(0, 0x78)] with
    | some a => some a
    | none => s.imageFault t.domain .load r.addr (s.restoreExtents h r.addr)
  match fault with
  | some a =>
    let s1 := s.modHart h (fun x => { x with
      job := some t, task := word (t.index.toNat * 2 ^ 32 + t.corr.toNat), domain := zext t.domain, wait := .none, busy := none })
    s1.parkAs h false .machineCheck 0 (word a) r.pc 0 (.restore t)
  | none =>
    let w (off : Nat) : Word := s.slotWord h r.addr off
    let sys (n off : Nat) : Word := w off &&& sysBits n
    let live := w 8
    let w10 := w 0x10
    let mask := w 0x30 ||| 1
    let g := (List.range 32).foldl (fun (v : Vector Word 32) i =>
      if q : i < 32 then (if i != 0 && bit live i && bit mask i then v.set i (w (0x100 + 8 * i)) q else v) else v) (Vector.replicate 32 0)
    let v := (List.range 32).foldl (fun (v : Vector Vec 32) i =>
      if q : i < 32 then (if bit live (32 + i) && bit mask (32 + i) then
        v.set i (BitVec.ofNat 512 (ofBytes (s.slotBytes h r.addr (0x400 + 64 * i) 64))) q else v) else v) (Vector.replicate 32 0)
    let m := (List.range 8).foldl (fun (v : Vector Word 8) i =>
      if q : i < 8 then (if i != 0 then v.set i (w (0x200 + 8 * i)) q else v) else v) (Vector.replicate 8 0)
    let jw := w 0x70
    let t' := { t with
      saved := none, pending := [], stores := [], fenceAcc := ⟨0, false, false, false⟩, mchecks := []
      join := if bit jw 28 then some ⟨bf jw 6 22 % 4096, bf jw 0 6⟩ else none
      domain := (w 0x20).setWidth 16, prio := (w 0x28).setWidth 2, regmask := mask }
    let s1 := s.modHart h (fun x => { x with
      g := g, v := v, m := m, pc := w 0 &&& ~~~ 7, task := w 0x18, domain := sys 0x002 0x20, prio := sys 0x004 0x28, regmask := mask
      fflags := sys 0x010 0x38, rng := w 0x40, lmflag := sys 0x012 0x48, lmaddr := w 0x50, cause := sys 0x008 0x58, faddr := w 0x60
      trappc := w 0x68
      run := .running, job := some t', preempt := none, wait := .none, busy := none, safeAt := none, near := [], errs := [], cancelled := false
      opened := none
      lostWord := if bit w10 13 then some (bf w10 16 11) else none
      loads := x.loads ++ t.pending })
    let s1 := if (s.hart h).mchecks.isEmpty then s1 else s1.push (.machineCheck h)
    let s1 := if s.slotPoisoned h r.addr ((0, 0x78) :: s.restoreExtents h r.addr) then s1.checkAt h r.addr else s1
    let s1 := t.pending.foldl (fun s l => if l.wants.all (fun y => y.val.isSome) then s.bindLoad h l else s) s1
    let s1 := if bit w10 12 then
        s1.modCore (coreOf h) (fun c => { c with
          claim := some h
          bl := (c.bl.set 0 (latchFrom (bf w10 8 2) (bit w10 14) (s.slotBytes h r.addr 0xC00 2048))).set 1
            (latchFrom (bf w10 10 2) (bit w10 15) (s.slotBytes h r.addr 0x1400 2048))
          acc := (List.range 4).foldl (fun (a : Vector AccWords 4) n => if q : n < 4 then
            a.set n (if bit live 0 then BitVec.ofNat 32768 (ofBytes (s.slotBytes h r.addr (0x2000 + 0x1000 * n) 4096)) else 0) q else a)
            (Vector.replicate 4 0) })
      else s1
    let s1 := if bit w10 14 then s1.push (.seamHandoffBegin (coreOf h) false) else s1
    let s1 := if bit w10 15 then s1.push (.seamHandoffBegin (coreOf h) true) else s1
    s1.freeSlotOf r

/-- A saved context with a claim waits until the unit is free and drained (R145). -/
def State.restoreWaits (s : State) (h : Nat) (t : Task) : Bool :=
  match t.saved with
  | none => false
  | some r => bit (s.slotWord h r.addr 0x10) 12 && !((s.core (coreOf h)).claim.isNone && (s.core (coreOf h)).drained)

/-- The saved context of a task comes back on hart h, which holds the task and waits while the matrix unit is another's or drains (R145). -/
def State.bringBack (s : State) (h : Nat) (t : Task) (r : SaveRef) : State :=
  if s.restoreWaits h t then s.modHart h (fun x => { x with run := .running, job := some t, wait := .none, busy := some (.restore t) })
  else s.restore h t r

/-- What a saved task's stores still owe it, which its hart takes over before the context comes back: their acknowledgements find them there
(R151, R162, R165). -/
def Hart.adopt (x : Hart) (t : Task) : Hart := { x with stores := t.stores, fenceAcc := t.fenceAcc, mchecks := t.mchecks }

/-- Task t taken up by the free hart h (R310). A core that runs a pinned task is not boosted (R333). -/
def State.takeUp (s : State) (h : Nat) (t : Task) : State :=
  let s := if t.pinned && !(s.core (coreOf h)).boosts.isEmpty then s.modCore (coreOf h) (fun x => x.unboost (fun _ => true)) else s
  match t.saved with
  | none => (s.modHart h (fun x => x.start t)).trace (clusterOf h) 2 t.corr (s.location h).toNat
  | some r => (s.modHart h (fun x => x.adopt t)).bringBack h t r

/-- The hart holds no task any more: its task is saved or travels. -/
def State.leaveHart (s : State) (h : Nat) : State :=
  s.modHart h (fun x => { x.clearNear with
    run := .free, job := none, preempt := none, migrate := none, wait := .none, busy := none, safeAt := none, stores := [], reads := []
    opened := none, lostWord := none })

/-- The hart leaves its task, which enters the core's run queue as pre-empted; where that is full, the hart takes a task from it in the
same step (R162, step 4). -/
def State.vacate (s : State) (h : Nat) (t : Task) : State :=
  let cid := coreOf h
  let s := (s.quit h).leaveHart h
  if (s.core cid).room then (s.enqueue cid t).push (.taskDispatch h)
  else match s.nextReady h with
    | some e =>
      let s := s.modCore cid (fun c => { c with runq := removeFirst (fun x => x == e) c.runq ++ [(s.cycle, t)] })
      s.takeUp h e.2
    | none => (s.modCore cid (fun c => { c with runq := c.runq ++ [(s.cycle, t)] })).push (.taskDispatch h)

/-- The record of a hart's task at a save, with its stores that are not acknowledged (R162) and what no FENCE has reported (R36). -/
def Hart.record (x : Hart) (t : Task) : Task :=
  { t with
    prio := x.prio.setWidth 2, domain := x.domain.setWidth 16, regmask := x.regmask, index := BitVec.ofNat 32 (bf x.task 32 32)
    corr := x.task.setWidth 32, stores := x.stores, fenceAcc := x.fenceAcc, mchecks := x.mchecks }

/-- The task may travel (R167). -/
def State.mayMigrate (s : State) (h : Nat) (t : Task) : Bool :=
  (s.core (coreOf h)).claim != some h && t.boundTo.isNone && (s.hart h).loads.all (fun l => match l.dest with
    | .bank _ => false
    | _ => true) && (match t.join with
    | some j => j.cid != coreOf h
    | none => true)

/-- The S bit of the bundle at an address, as hart h fetches it. -/
def State.sBitAt (s : State) (h : Nat) (pc : Word) : Bool :=
  match s.fetch h pc.toNat with
  | some (w0, _) => bit w0 30
  | none => false

/-- The save of hart h's task, to resume at pc, carried out as far as it can be (R162, R167): the hart stays busy with it while what it
has issued is not done. Stores that are not acknowledged are waited for only by a task that travels (R168). -/
def State.save (s : State) (h : Nat) (pc : Word) (glive vlive : BitVec 32) (forced : Bool) : State :=
  let x := s.hart h
  match x.job with
  | none => s
  | some t =>
    let waiting := s.modHart h (fun y => { y with busy := some (.save pc glive vlive forced), wait := .none })
    let owes := x.fence.isSome || x.stores.any (fun p => p.ret.isSome)
    let travels := x.migrate.isSome && s.mayMigrate h t
    let going := travels && !owes && x.stores.isEmpty && (x.loads.isEmpty || decide ((s.core (coreOf h)).forwards.length < 16))
    if !x.mchecks.isEmpty then
      -- a machine check is taken at this boundary, before the save (R151)
      (s.modHart h (fun y => { y with busy := none, wait := .none, pc := pc })).push (.machineCheck h)
    else if travels && !going then waiting
    else if !travels && (owes || x.loads != []) then waiting
    else if travels then
      match x.migrate with
      | none => s
      | some r =>
        let s := s.saveReads h glive vlive
        let img := s.saveImage h pc glive vlive forced true
        let t' := { x.record t with saved := some { r with pc := pc }, pending := x.loads.map (fun l => { l with forwarded := true, nb := [] }) }
        let s := ((s.modHart h (fun y => { y with migrate := none })).quit h).leaveHart h
        let s := s.modHart h (fun y => { y with loads := [] })
        let s := if x.loads.isEmpty then s
          else s.modCore (coreOf h) (fun c => { c with forwards := c.forwards ++ [⟨coreOf r.hid, x.loads.map (fun l => l.id)⟩] })
        ((s.modCore (coreOf r.hid) (fun c => { c with ctxIn := c.ctxIn ++ [⟨img, { r with pc := pc }, t'⟩] })).push
          (.registerContextArrival (coreOf r.hid))).push (.taskDispatch h)
    else
      let s := s.stayHere h
      match x.freeSlot with
      | none => s.modHart h (fun y => { y with busy := none, wait := .none })
      | some n =>
        let s := s.saveReads h glive vlive
        let s := if (s.core (coreOf h)).claim = some h then s.drainMatrix (coreOf h) else s
        let base := x.ctxbase.toNat + 0x6000 * n
        let img := s.saveImage h pc glive vlive forced false
        match s.imageFault x.dom .store base (img.map (fun p => (p.1, p.2.length))) with
        | some a =>
          (s.modHart h (fun y => { y with busy := none, pc := pc })).parkAs h false .machineCheck 0 (word a) pc 0 (.bundle (s.sBitAt h pc))
        | none =>
          let s := s.writeImage (coreOf h) base img
          let r : SaveRef := ⟨h, n, base, pc⟩
          let s := ((s.takeSlotOf r).releaseClaim h)
          s.vacate h { x.record t with saved := some r }

end Sys2Proof.Machine
end

