-- ==== Sys2Proof/Machine/Issue.lean ====
section
/-! DEFINITION. Issuing an instruction (R40, R41, R71, R73, R75, R379): what must be ready, what it comes to, and retirement with
pre-emption at a safe point (R33). -/

namespace Sys2Proof.Machine

/-- What a step or an instruction answers. -/
abbrev Result := Host.Outcome State Fault Refusal

/-- The hart that issues may issue: its task runs, nothing that it issued holds it, and neither a halt nor a fatal error stops it
(R353, R354). -/
def State.mayIssue (s : State) : Bool :=
  let x := s.me
  !s.fatal && (x.run == .running || x.run == .blocked) && x.busy.isNone && !(s.cluster (clusterOf s.cur)).dbg.halted

/-- Every g and v register that the instruction names is allocated (R71). -/
def Hart.allocated (x : Hart) (u : Uses) : Bool :=
  (u.gr ++ u.gw).all x.allocG && (u.vr ++ u.vw).all x.allocV

/-- g registers and v registers that outstanding accesses will write (R75). -/
def Hart.pendingG (x : Hart) : List (BitVec 5) :=
  x.loads.filterMap (fun l => match l.dest with
    | .g r _ _ | .tag r => some r
    | _ => none)
  ++ x.stores.filterMap (fun p => p.ret.map (fun r => r.1))
  ++ (match x.fence with
    | some f => [f.rd]
    | none => [])

def Hart.pendingV (x : Hart) : List (BitVec 5) :=
  x.loads.filterMap (fun l => match l.dest with
    | .v r => some r
    | _ => none)

/-- A source is not ready or a destination is not free (R75); g0 always is. -/
def Hart.awaits (x : Hart) (u : Uses) : Bool :=
  (u.gr ++ u.gw ++ u.extra).any (fun r => r != 0 && x.pendingG.contains r) || (u.vr ++ u.vw).any (fun r => x.pendingV.contains r)

/-- The two words of the bundle at the hart's pc, as a trap message carries them (R153). -/
def State.bundleAt (s : State) (h : Nat) : Word :=
  match s.fetch h (s.hart h).pc.toNat with
  | some (w0, w1) => word (w1.toNat * 2 ^ 32 + w0.toNat)
  | none => 0

/-- The hart that issues parks on a precise trap of its bundle (R152), of which nothing is left elsewhere: neither slot has an effect (R41). -/
def State.trapHere (s : State) (slotA sp : Bool) (c : Cause) (code : BitVec 10) (faddr : Word) : State :=
  (s.withdraw s.cur).parkAs s.cur slotA c code faddr s.me.pc (s.bundleAt s.cur) (.bundle sp)

/-- The bundle waits: it has not issued (R41). -/
def State.block (s : State) : State := s.modMe (fun x => { x with run := .blocked })

/-- The words of the mask bundle that follows the bundle at pc (R39): live g and v registers. One that cannot be read, its page not being present
or its home refusing, names none: the spec does not say what is saved then (log 56, DESIGN CHOICE). -/
def State.maskAfter (s : State) (h : Nat) (pc : Word) : BitVec 32 × BitVec 32 :=
  (s.fetch h (pc + 8).toNat).getD (0, 0)

/-- Control goes to the target of a taken transfer, or to the fall-through successor (R41); where the bundle's instruction is not done, its safe
point is still to come. -/
def State.moveOn (s : State) (jump : Option Word) (sp : Bool) : State :=
  let x := s.me
  s.setMe { x with
    pc := jump.getD (successor x.pc sp), run := .running, wait := .none, opened := none,
    reads := if sp && x.busy.isSome then x.reads else [], safeAt := if sp && x.busy.isSome then some x.pc else none }

/-- Hart h's bundle at pc, with S = 1, has retired, which makes t of the state: a pending pre-emption is taken (R33, R160), but not of a task that is to
end as cancelled (R309, R318). -/
def State.safePointAt (s : State) (h : Nat) (pc : Word) (t : State) : State :=
  if (s.hart h).preempt.isSome && !(t.hart h).cancelled then
    let (gl, vl) := s.maskAfter h pc
    t.save h (t.hart h).pc gl vl false
  else t

/-- The bundle retires (R41): at a safe point a pending pre-emption is taken (R33, R160), unless its instruction is not done. -/
def State.retire (s : State) (jump : Option Word) (sp : Bool) : State :=
  if sp && s.me.busy.isNone then s.safePointAt s.cur s.me.pc (s.moveOn jump sp) else s.moveOn jump sp

/-- What held hart h since its bundle issued is done, and with it the bundle's safe point comes (R33). -/
def State.unbusy (s : State) (h : Nat) : State :=
  let x := s.hart h
  let t := s.setHart h { x with busy := none, safeAt := none, reads := [] }
  match x.safeAt with
  | some pc => s.safePointAt h pc t
  | none => t

/-- The instruction reads no register. -/
def Uses.readsNone (u : Uses) : Bool := u.gr.isEmpty && u.vr.isEmpty && u.mr.isEmpty && u.extra.isEmpty

/-- The state with the read errors of the named registers corrected, how many were, and the id of a word that cannot be (R73). -/
def State.readRegs (s : State) (u : Uses) : State × Nat × Option Nat :=
  if s.me.errs.isEmpty || u.readsNone then (s, 0, none)
  else
    let r := s.me.readWords u.reads
    (s.setMe r.1, r.2)

/-- A bundle's n corrections counted (R73), after it: its own SYR of sy.regerr excludes them (R88). -/
def State.countFixed (s : State) (n : Nat) : State :=
  if n = 0 then s else s.modCore (coreOf s.cur) (fun c => { c with regerr := regerrAdd c.regerr n false })

/-- An effect with a word that cannot be read: illegal instruction and privileged prevail, any other effect is a trap (R379). -/
def Eff.orLost (e : Eff) (lost : Option Nat) : Eff :=
  match lost with
  | none => e
  | some id => match e with
    | .trap c _ _ => if c.rank ≤ 4 then e else .trap .regUncorrectable 0 (word id)
    | _ => .trap .regUncorrectable 0 (word id)

/-- The same for the hart that issues. -/
def State.forgetAbsent (s : State) : State := s.forgetAbsentOf s.cur

/-- What an effect makes of the state in which its bundle was about to issue. -/
def State.settle (s : State) (slotA sp : Bool) : Eff → State
  | .ok s' jump => s'.forgetAbsent.retire jump sp
  | .trap c code faddr => s.forgetAbsent.trapHere slotA sp c code faddr
  | .walk s' => s'.block
  | .wait s' => s'.block
  | .leave s' => s'

/-- One instruction issued with an empty other slot: `slotA` names its slot, `sp` is the bundle's S bit, `f` its effect on the
state before the bundle and the state written so far. -/
def issue (i : Instr) (slotA sp : Bool) (f : State → State → Eff) (s : State) : Result :=
  if !s.mayIssue then .next s
  else if !(wellFormed i && s.me.allocated (uses i)) then .next (s.forgetAbsent.trapHere slotA sp .illegal 0 0)
  else if s.me.awaits (uses i) then .next s.block
  else
    let r := s.readRegs (uses i)
    .next ((r.1.settle slotA sp ((f r.1 r.1).orLost (s.me.lostWord.or r.2.2))).countFixed r.2.1)

/-- Writing one g register, and no transfer. -/
def okG (cur : State) (rd : BitVec 5) (x : Word) : Eff := .ok (cur.modMe (fun h => h.setG rd x)) none

end Sys2Proof.Machine
end

