-- ==== Sys2Proof/Machine/System.lean ====
section
/-! DEFINITION. System registers, TRAP, BRK, WAITE and RESUME (R68 to R70, R76, R77, R87 to R93, R157 to R159). -/

namespace Sys2Proof.Machine

/-! ### SYR and SYW -/

/-- What SYR reads (R68, R88). -/
def readSys (s : State) (n : Nat) : Word :=
  let x := s.me
  let c := s.core (coreOf s.cur)
  match n with
  | 0x000 => s.location s.cur
  | 0x001 => x.task
  | 0x002 => x.domain
  | 0x003 => word (s.partOf (clusterOf s.cur))
  | 0x004 => x.prio
  | 0x008 => x.cause
  | 0x009 => x.faddr
  | 0x00A => x.trappc
  | 0x00B => x.regmask
  | 0x010 => x.fflags
  | 0x011 => x.rng
  | 0x012 => x.lmflag
  | 0x013 => x.lmaddr
  | 0x018 => s.time
  | 0x019 => c.ballast
  | 0x01A => x.unacked
  | 0x020 => word (c.qminShared.toNat * 2 ^ 32 + x.qmin.toNat)
  | 0x021 => word (c.qcapShared.toNat * 2 ^ 32 + x.qcap.toNat)
  | 0x022 => x.stktop
  | 0x023 => x.ctxbase
  | _ => c.regerr

/-- SYR (R87, R88): of sy.fflags it waits until every earlier MMA of the hart has completed (R135). -/
def slotSyr (rd : BitVec 5) (num : BitVec 10) (pre cur : State) : Eff :=
  if num = 0x010 && (pre.core (coreOf pre.cur)).mma.any (fun j => j.hid == pre.cur) then .wait pre
  else okG cur rd (readSys pre num.toNat)

/-- SYR issued alone. -/
def execSyr (sp : Bool) (rd : BitVec 5) (num : BitVec 10) (s : State) : Result :=
  issue (.syr sp rd num) false sp (slotSyr rd num) s

/-- Registers that only a privileged hart writes (R68). -/
def sysPrivileged (n : Nat) : Bool := [0x002, 0x008, 0x009, 0x00A, 0x020, 0x021, 0x022, 0x023, 0x024].contains n

/-- A system register of hart h written, and its core's where the register is the core's (R68, R70, R76). -/
def State.writeSys (s : State) (h n : Nat) (v : Word) : State :=
  let c := coreOf h
  match n with
  | 0x002 => s.modHart h (fun x => { x with domain := v })
  | 0x004 => s.modHart h (fun x => { x with prio := v })
  | 0x008 => s.modHart h (fun x => { x with cause := v })
  | 0x009 => s.modHart h (fun x => { x with faddr := v })
  | 0x00A => s.modHart h (fun x => { x with trappc := v })
  | 0x010 => s.modHart h (fun x => { x with fflags := v })
  | 0x011 => s.modHart h (fun x => { x with rng := if v = 0 then 0x9E3779B97F4A7C15 else v })
  | 0x012 => s.modHart h (fun x => { x with lmflag := v })
  | 0x013 => s.modHart h (fun x => { x with lmaddr := v })
  | 0x020 => (s.modHart h (fun x => { x with qmin := v.setWidth 32 })).modCore c (fun y => { y with qminShared := (v >>> 32).setWidth 32 })
  | 0x021 => (s.modHart h (fun x => { x with qcap := v.setWidth 32 })).modCore c (fun y => { y with qcapShared := (v >>> 32).setWidth 32 })
  | 0x022 => s.modHart h (fun x => { x with stktop := v })
  | 0x023 => s.modHart h (fun x => { x with ctxbase := v })
  | 0x024 => s.modCore c (fun y => { y with regerr := v })
  | _ => s

/-- The guaranteed minima of a core's 20 queues added up (R70). -/
def State.minima (s : State) (cid : Nat) : Nat := (List.range 20).foldl (fun t k => t + queueMin s cid k) 0

/-- SYW (R70, R77, R87, R88). -/
def slotSyw (ra : BitVec 5) (num : BitVec 10) (pre cur : State) : Eff :=
  let v := pre.me.getG ra
  let n := num.toNat
  if v &&& ~~~ sysBits n != 0 then .trap .illegal 0 0
  else if sysPrivileged n && !pre.me.privileged then .trap .privileged 0 0
  else if n = 0x004 && !pre.me.privileged && pre.me.prio.ult v then .trap .privileged 0 0
  else if n = 0x020 && 256 < (pre.writeSys pre.cur n v).minima (coreOf pre.cur) then .trap .queue 0 0
  else .ok (cur.writeSys pre.cur n v) none

/-- SYW issued alone. -/
def execSyw (sp : Bool) (ra : BitVec 5) (num : BitVec 10) (s : State) : Result :=
  issue (.syw sp ra num) false sp (slotSyw ra num) s

/-! ### TRAP and BRK -/

/-- The forced-save intervals of a cluster's harts that are not parked suspended, or going on (R354). -/
def State.flipCluster (s : State) (k : Nat) : State :=
  (List.range 64).foldl (fun s j => if (s.hart (64 * k + j)).preempt.isSome && (s.hart (64 * k + j)).run != .parked then s.flipInterval (64 * k + j) else s) s

/-- One cluster halts. -/
def State.haltOne (s : State) (k : Nat) : State :=
  if (s.cluster k).dbg.halted then s
  else (s.flipCluster k).modCluster k (fun c => { c with dbg := { c.dbg with halted := true } })

/-- The cluster halts, and those that its cross-trigger names (R354). -/
def State.haltCluster (s : State) (k : Nat) : State :=
  (k :: (s.cluster k).dbg.cross).foldl (fun s j => s.haltOne j) s

/-- TRAP (R89). -/
def slotTrap (ra : BitVec 5) (code : BitVec 10) (pre _cur : State) : Eff := .trap .trapInstr code (pre.me.getG ra)

/-- TRAP issued alone. -/
def execTrap (sp : Bool) (ra : BitVec 5) (code : BitVec 10) (s : State) : Result :=
  issue (.trap sp ra code) false sp (slotTrap ra code) s

/-- BRK (R89): it halts the cluster where the debug module has breakpoint halt enabled. -/
def slotBrk (code : BitVec 10) (pre _cur : State) : Eff :=
  if (pre.cluster (clusterOf pre.cur)).dbg.haltOnBp then .wait (pre.haltCluster (clusterOf pre.cur))
  else .trap .breakpoint code 0

/-- BRK issued alone. -/
def execBrk (sp : Bool) (code : BitVec 10) (s : State) : Result :=
  issue (.brk sp code) false sp (slotBrk code) s

/-! ### WAITE -/

/-- The condition of a WAITE event for hart h (R91). -/
def State.eventHolds (s : State) (h : Nat) (ev : BitVec 10) (deadline : Word) : Bool :=
  let arg := ev.toNat % 256
  match ev.toNat / 256 with
  | 0 => deadline.ule s.time
  | 1 => (List.range 8).any (fun n => arg / 2 ^ n % 2 == 1 && !((s.core (coreOf h)).queue (queueAt h n)).isEmpty)
  | _ => (s.core (coreOf h)).count (arg % 64) == 0

/-- WAITE (R91, R92): in a safe-point bundle a requested pre-emption ends the wait with 2. -/
def slotWaite (sp : Bool) (rd ra : BitVec 5) (event : BitVec 10) (pre cur : State) : Eff :=
  let d := pre.me.getG ra
  let fired := match pre.me.wait with
    | .released => event.toNat / 256 == 2
    | _ => false
  if pre.eventHolds pre.cur event d || fired then okG cur rd 1
  else if d != 0 && d.ule pre.time then okG cur rd 0
  else if sp && pre.me.preempt.isSome then okG cur rd 2
  else
    let s := pre.modMe (fun x => { x with wait := .event rd event d })
    .wait (if d != 0 && pre.me.wait != .event rd event d then s.push (.waiteDeadline pre.cur) else s)

/-- WAITE issued alone. -/
def execWaite (sp : Bool) (rd : BitVec 5) (ra : BitVec 5) (event : BitVec 10) (s : State) : Result :=
  issue (.waite sp rd ra event) false sp (slotWaite sp rd ra event) s

/-! ### RESUME -/

/-- What a task that ends without waiting has under way is no longer its hart's: late replies and acknowledgements find nobody. A bank that
loads is the core's, and goes on. -/
def Hart.disown (x : Hart) : Hart :=
  { x with
    loads := x.loads.filter (fun l => match l.dest with
      | .bank _ => true
      | _ => false)
    stores := [], fence := none, fenceAcc := ⟨0, false, false, false⟩, mchecks := [] }

/-- The accesses that hart h's task leaves under way as it ends, by what is still to come for each (R290). -/
def Hart.orphans (x : Hart) : List Orphan :=
  let load (l : PLoad) : List Orphan :=
    let open' := l.wants.filter (fun w => w.val.isNone)
    match l.dest, hullOf (open'.map (fun w => w.addr)) with
    | .bank _, _ | _, none => []
    | _, some (lo, hi) => [⟨l.id, lo, hi - lo, ((open'.map (fun w => w.piece)).eraseDups).length⟩]
  x.loads.flatMap load ++ x.stores.map (fun p => ⟨p.id, p.addr, p.len, p.pieces⟩)

/-- Something has come for an access that its task has left under way. -/
def State.heardOrphan (s : State) (id : Nat) : State :=
  (s.usedCores.filter (fun c => (s.core c).left.any (fun o => o.id == id))).foldl (fun s c => s.modCore c (fun x => { x with
    left := (x.left.map (fun o => if o.id = id then { o with left := o.left - 1 } else o)).filter (fun o => o.left != 0) })) s

/-- The point of a parked Gleaner task is to be issued again, and its task ends without any decrement (R327); its suspended publications are
abandoned (R226), and what it has under way goes on without it. -/
def State.reissuePoint (s : State) (h kid slot point : Nat) : State :=
  let s := match (s.hart h).job with
    | some t => (s.releaseClaim h).dropWalks t
    | none => s.releaseClaim h
  let s := s.modCluster kid (fun c => { c with glean := match find slot c.glean with
    | some w => put slot { w with reissue := w.reissue ++ [point] } c.glean
    | none => c.glean })
  let s := s.modCore (coreOf h) (fun c => { c with left := c.left ++ (s.hart h).orphans })
  ((s.modHart h Hart.disown).freeHart h).push (.gleanerVisit kid slot)

/-- The task of a parked hart ends as cancelled (R158, R318): at once where its accesses are done, else once they are. -/
def State.cancelParked (s : State) (h : Nat) : State :=
  if s.mayEnd h then s.endTask h true
  else s.modHart h (fun x => { x with cancelled := true, run := .blocked, wait := .none })

/-- The walk of a Gleaner task still issues points (R327). -/
def State.walkRuns (s : State) (kid slot gen : Nat) : Bool :=
  match find slot (s.cluster kid).glean with
  | some w => w.gen == gen && w.state == 0
  | none => false

/-- An action of RESUME on hart h of this device with a park sequence (R158): the state and the value that RESUME writes. A retry of a task that a
failed restore parked repeats the restore (R164), a Gleaner point's task too, whose point is not issued again then (log 56, DESIGN CHOICE: R327
speaks of its bundle's retry only). -/
def State.resumeHart (s : State) (h seq action : Nat) : State × Nat :=
  let x := s.hart h
  if x.run != .parked || x.parkSeq.toNat != seq then (s, 1)
  else if action = 2 then (s.cancelParked h, 0)
  else match x.park with
    | .restore t => match t.saved with
      | some r => ((s.bringBack h t r), 0)
      | none => (s, 0)
    | .bundle sBit =>
      if action = 1 then (s.unparkSkip h sBit, 0)
      else match x.job with
        | some t => match t.kind with
          | .glean kid slot gen point => if s.walkRuns kid slot gen then (s.reissuePoint h kid slot point, 0) else (s.unparkRetry h, 0)
          | _ => (s.unparkRetry h, 0)
        | none => (s.unparkRetry h, 0)

/-- The copy hart that shares a location with a core's hart (log 14): copy harts 0 and 1 of a cluster answer at harts 0 and 1 of its core 0. -/
def copyHartAt (h : Nat) : Option Nat := if h % 64 < 2 then some (4 * (h / 64) + h % 64) else none

/-- An action of RESUME on a parked copy hart (R277). -/
def State.resumeEngine (s : State) (e action : Nat) : State :=
  let going := s.modEngine e (fun x => { x with parked := false })
  if action = 0 then going.push (.copyChunk e)
  else (going.modEngine e (fun x => { x with job := x.job.map (fun j => { j with status := if action = 1 then 1 else 3, ended := true }) })).push (.jobComplete e)

/-- An action of RESUME on whatever is parked at a location with a park sequence (R158, R277). -/
def State.resumeAt (s : State) (h seq action : Nat) : State × Nat :=
  match copyHartAt h with
  | some e =>
    if (s.hart h).run == .parked && (s.hart h).parkSeq.toNat == seq then s.resumeHart h seq action
    else if (s.engine e).parked && (s.engine e).parkSeq.toNat == seq then (s.resumeEngine e action, 0)
    else (s, 1)
  | none => s.resumeHart h seq action

/-- Reserved fields of a handle (R153). -/
def handleBad (v : Word) : Bool := bf v 48 16 != 0 || bf v 24 8 != 0

/-- RESUME (R157, R158): a target on another device is reached over Jareb Link, and its answer is free (log 6). -/
def slotResume (rd ra : BitVec 5) (action : BitVec 10) (pre cur : State) : Eff :=
  let v := pre.me.getG ra
  let dev := bf v 14 10
  let h := bf v 0 14
  if handleBad v then .trap .illegal 0 0
  else if !pre.me.privileged then .trap .privileged 0 0
  else if pre.me.storeHeld true then .wait pre
  else if 576 ≤ dev then okG cur rd 2
  else if dev != pre.devnum then
    okG (cur.drawFree.sendOut (h / 4 % 18) (.resume (h / 4 % 18) dev v action.toNat) .nothing) rd
      (word ((Config.outsideByte pre.free 0).toNat % 3))
  else if pre.partOf (clusterOf h) != pre.partOf (clusterOf pre.cur) then okG cur rd 2
  else
    let (s, r) := cur.resumeAt h (bf v 32 16) action.toNat
    okG s rd (word r)

/-- RESUME issued alone. -/
def execResume (sp : Bool) (rd : BitVec 5) (ra : BitVec 5) (action : BitVec 10) (s : State) : Result :=
  issue (.resume sp rd ra action) false sp (slotResume rd ra action) s

end Sys2Proof.Machine
end

