-- ==== Sys2Proof/Machine/MemAccess.lean ====
section
/-! DEFINITION. Loads, stores, references, atomics and the memory group (R183, R213 to R232). -/

namespace Sys2Proof.Machine

/-! ### Checks and orders -/

/-- An access of this kind is watched by a watch extent (R354). -/
def Watch.sees (w : Watch) (k : Kind) : Bool :=
  match k with
  | .load => w.onLoad
  | .store => w.onStore
  | .atomic => w.onLoad || w.onStore
  | .fetch => false

/-- The lowest watched byte that an access of hart h to these runs touches (R149, R354). -/
def State.watchHit (s : State) (h : Nat) (k : Kind) (runs : List (Nat × Nat)) : Option Nat :=
  ((s.cluster (clusterOf h)).dbg.watches.flatMap (fun w =>
    if w.sees k then runs.filterMap (fun r => if overlaps w.base w.len r.1 r.2 then some (max w.base r.1) else none) else [])).min?

/-- A watch match traps, or halts the cluster where watch halt is enabled (R354); without one the access goes on. -/
def watched (pre : State) (k : Kind) (runs : List (Nat × Nat)) (pass : Eff) : Eff :=
  match pre.watchHit pre.cur k runs with
  | none => pass
  | some a =>
    if (pre.cluster (clusterOf pre.cur)).dbg.haltOnWatch then .wait (pre.haltCluster (clusterOf pre.cur))
    else .trap .watch 0 (word a)

/-- The checks of an access over its runs (R209, R287), and what it does once they pass. -/
def checked (pre : State) (k : Kind) (runs : List (Nat × Nat)) (pass : Eff) : Eff :=
  (pre.checkProbes pre.cur k (runs.flatMap (fun r => probes r.1 r.2))).eff pre (watched pre k runs pass)

/-- The access kind of an ord field (R45). -/
def ordKind (o : BitVec 4) : Nat := o.toNat / 4

/-- Kind 2 of a load is acquire and of a store is release; kind 3 of an atomic is both (R45). -/
def isAcq (o : BitVec 4) : Bool := ordKind o == 2
def isRel (o : BitVec 4) : Bool := ordKind o == 2
def isAr (o : BitVec 4) : Bool := ordKind o == 3

/-- An outcome that is either an effect without a transfer, or a wait. -/
def okOrWait (pre : State) (r : Option State) : Eff :=
  match r with
  | some s => .ok s none
  | none => .wait pre

/-! ### Scalar loads and stores -/

/-- a of R213. -/
def scalarAddr (s : State) (base : BitVec 5) (imm : Imm 10) : Nat := (s.me.getG base + immWord imm).toNat

/-- A scalar load of `size` bytes (R213). -/
def loadScalar (rd base : BitVec 5) (o : BitVec 4) (imm : Imm 10) (size : Nat) (signed : Bool) (pre cur : State) : Eff :=
  let a := scalarAddr pre base imm
  checked pre .load [(a, size)]
    (okOrWait pre (cur.load pre.cur (.g rd size signed) (ordKind o == 0) (isAcq o) true [⟨a, size, 0, 0⟩]))

/-- A scalar store of the low `size` bytes of g[rd] (R213). -/
def storeScalar (rd base : BitVec 5) (o : BitVec 4) (imm : Imm 10) (size : Nat) (pre cur : State) : Eff :=
  let a := scalarAddr pre base imm
  checked pre .store [(a, size)]
    (if pre.me.storeHeld (isRel o) then .wait pre
    else .ok (cur.store pre.cur a size (cellsAt a (toBytes (pre.me.getG rd) size)) false) none)

/-- LDB (R213). -/
def slotLdb (rd base : BitVec 5) (ord : BitVec 4) (imm : Imm 10) (pre cur : State) : Eff := loadScalar rd base ord imm 1 true pre cur

/-- LDB issued alone. -/
def execLdb (sp : Bool) (rd : BitVec 5) (base : BitVec 5) (ord : BitVec 4) (imm : Imm 10) (s : State) : Result :=
  issue (.ldb sp rd base ord imm) false sp (slotLdb rd base ord imm) s

/-- LDBU (R213). -/
def slotLdbu (rd base : BitVec 5) (ord : BitVec 4) (imm : Imm 10) (pre cur : State) : Eff := loadScalar rd base ord imm 1 false pre cur

/-- LDBU issued alone. -/
def execLdbu (sp : Bool) (rd : BitVec 5) (base : BitVec 5) (ord : BitVec 4) (imm : Imm 10) (s : State) : Result :=
  issue (.ldbu sp rd base ord imm) false sp (slotLdbu rd base ord imm) s

/-- LDH (R213). -/
def slotLdh (rd base : BitVec 5) (ord : BitVec 4) (imm : Imm 10) (pre cur : State) : Eff := loadScalar rd base ord imm 2 true pre cur

/-- LDH issued alone. -/
def execLdh (sp : Bool) (rd : BitVec 5) (base : BitVec 5) (ord : BitVec 4) (imm : Imm 10) (s : State) : Result :=
  issue (.ldh sp rd base ord imm) false sp (slotLdh rd base ord imm) s

/-- LDHU (R213). -/
def slotLdhu (rd base : BitVec 5) (ord : BitVec 4) (imm : Imm 10) (pre cur : State) : Eff := loadScalar rd base ord imm 2 false pre cur

/-- LDHU issued alone. -/
def execLdhu (sp : Bool) (rd : BitVec 5) (base : BitVec 5) (ord : BitVec 4) (imm : Imm 10) (s : State) : Result :=
  issue (.ldhu sp rd base ord imm) false sp (slotLdhu rd base ord imm) s

/-- LDW (R213). -/
def slotLdw (rd base : BitVec 5) (ord : BitVec 4) (imm : Imm 10) (pre cur : State) : Eff := loadScalar rd base ord imm 4 true pre cur

/-- LDW issued alone. -/
def execLdw (sp : Bool) (rd : BitVec 5) (base : BitVec 5) (ord : BitVec 4) (imm : Imm 10) (s : State) : Result :=
  issue (.ldw sp rd base ord imm) false sp (slotLdw rd base ord imm) s

/-- LDWU (R213). -/
def slotLdwu (rd base : BitVec 5) (ord : BitVec 4) (imm : Imm 10) (pre cur : State) : Eff := loadScalar rd base ord imm 4 false pre cur

/-- LDWU issued alone. -/
def execLdwu (sp : Bool) (rd : BitVec 5) (base : BitVec 5) (ord : BitVec 4) (imm : Imm 10) (s : State) : Result :=
  issue (.ldwu sp rd base ord imm) false sp (slotLdwu rd base ord imm) s

/-- LDD (R213). -/
def slotLdd (rd base : BitVec 5) (ord : BitVec 4) (imm : Imm 10) (pre cur : State) : Eff := loadScalar rd base ord imm 8 false pre cur

/-- LDD issued alone. -/
def execLdd (sp : Bool) (rd : BitVec 5) (base : BitVec 5) (ord : BitVec 4) (imm : Imm 10) (s : State) : Result :=
  issue (.ldd sp rd base ord imm) false sp (slotLdd rd base ord imm) s

/-- STB (R213). -/
def slotStb (rd base : BitVec 5) (ord : BitVec 4) (imm : Imm 10) (pre cur : State) : Eff := storeScalar rd base ord imm 1 pre cur

/-- STB issued alone. -/
def execStb (sp : Bool) (rd : BitVec 5) (base : BitVec 5) (ord : BitVec 4) (imm : Imm 10) (s : State) : Result :=
  issue (.stb sp rd base ord imm) false sp (slotStb rd base ord imm) s

/-- STH (R213). -/
def slotSth (rd base : BitVec 5) (ord : BitVec 4) (imm : Imm 10) (pre cur : State) : Eff := storeScalar rd base ord imm 2 pre cur

/-- STH issued alone. -/
def execSth (sp : Bool) (rd : BitVec 5) (base : BitVec 5) (ord : BitVec 4) (imm : Imm 10) (s : State) : Result :=
  issue (.sth sp rd base ord imm) false sp (slotSth rd base ord imm) s

/-- STW (R213). -/
def slotStw (rd base : BitVec 5) (ord : BitVec 4) (imm : Imm 10) (pre cur : State) : Eff := storeScalar rd base ord imm 4 pre cur

/-- STW issued alone. -/
def execStw (sp : Bool) (rd : BitVec 5) (base : BitVec 5) (ord : BitVec 4) (imm : Imm 10) (s : State) : Result :=
  issue (.stw sp rd base ord imm) false sp (slotStw rd base ord imm) s

/-- STD (R213). -/
def slotStd (rd base : BitVec 5) (ord : BitVec 4) (imm : Imm 10) (pre cur : State) : Eff := storeScalar rd base ord imm 8 pre cur

/-- STD issued alone. -/
def execStd (sp : Bool) (rd : BitVec 5) (base : BitVec 5) (ord : BitVec 4) (imm : Imm 10) (s : State) : Result :=
  issue (.std sp rd base ord imm) false sp (slotStd rd base ord imm) s

/-! ### References -/

/-- What the core knows of the granule at v: none where the PLB must walk first; else whether it lies in an object arena page, and its
publication bit (R216, R217). -/
def State.arenaBit (s : State) (h v : Nat) : Option (Option Bool) :=
  let c := s.core (coreOf h)
  match zone v with
  | .mem => match c.plbAt v with
    | some e => some (if e.arena then some (bit e.mask (v / 64 % 64)) else none)
    | none => if c.absent.contains (h, v / 4096) then some none else none
  | _ => some none

/-- STREF (R218): the escape check of an aligned store into shared memory, after the page checks. -/
def slotStref (rd base : BitVec 5) (ord : BitVec 4) (imm : Imm 10) (pre cur : State) : Eff :=
  let a := scalarAddr pre base imm
  let v := (pre.me.getG rd).toNat
  let go : Eff := watched pre .store [(a, 8)]
    (if pre.me.storeHeld (isRel ord) then .wait pre
    else .ok (cur.store pre.cur a 8 (cellsAt a (toBytes (pre.me.getG rd) 8)) (a % 8 == 0)) none)
  (pre.plbCheck pre.cur .store a 8).eff pre
    (if a % 8 = 0 && (pre.core (coreOf pre.cur)).classOf a = .shared then
      match pre.arenaBit pre.cur v with
      | none => .walk (pre.requestWalks pre.cur [v])
      | some (some false) => .trap .escape 0 (word a)
      | some _ => go
    else go)

/-- STREF issued alone. -/
def execStref (sp : Bool) (rd : BitVec 5) (base : BitVec 5) (ord : BitVec 4) (imm : Imm 10) (s : State) : Result :=
  issue (.stref sp rd base ord imm) false sp (slotStref rd base ord imm) s

/-- LDT (R219): ordered and checked as an 8-byte load of the aligned word. -/
def slotLdt (rd base : BitVec 5) (ord : BitVec 4) (imm : Imm 10) (pre cur : State) : Eff :=
  let a := scalarAddr pre base imm / 8 * 8
  checked pre .load [(a, 8)]
    (okOrWait pre (cur.load pre.cur (.tag rd) false (isAcq ord) false [⟨a, 8, 0, 0⟩]))

/-- LDT issued alone. -/
def execLdt (sp : Bool) (rd : BitVec 5) (base : BitVec 5) (ord : BitVec 4) (imm : Imm 10) (s : State) : Result :=
  issue (.ldt sp rd base ord imm) false sp (slotLdt rd base ord imm) s

/-! ### Vector loads and stores -/

/-- The contiguous runs of the selected indices below n, each as (first, count). -/
def maskRuns (mask : Word) (n : Nat) : List (Nat × Nat) :=
  (List.range n).foldr (fun i rs =>
    if bit mask i then match rs with
      | (j, k) :: r => if j = i + 1 then (i, k + 1) :: r else (i, 1) :: (j, k) :: r
      | [] => [(i, 1)]
    else rs) []

/-- a of R214. -/
def vectorAddr (s : State) (base : BitVec 5) (disp : Option (BitVec 32)) : Nat := (s.me.getG base + dispWord disp).toNat

/-- VLD (R183, R214): only the selected bytes are checked and read; a single run makes a near-buffer entry. -/
def slotVld (vd base : BitVec 5) (ord : BitVec 4) (len : BitVec 6) (mk : BitVec 3) (disp : Option (BitVec 32)) (pre cur : State) : Eff :=
  let a := vectorAddr pre base disp
  let runs := maskRuns (pre.me.getM mk) (len.toNat + 1)
  checked pre .load (runs.map (fun r => (a + r.1, r.2)))
    (okOrWait pre (cur.load pre.cur (.v vd) (ordKind ord == 0) (isAcq ord) (runs.length == 1)
      (runs.map (fun r => ⟨a + r.1, r.2, r.1, 0⟩))))

/-- VLD issued alone. -/
def execVld (sp : Bool) (vd : BitVec 5) (base : BitVec 5) (ord : BitVec 4) (len : BitVec 6) (mk : BitVec 3) (disp : Option (BitVec 32)) (s : State) : Result :=
  issue (.vld sp vd base ord len mk disp) false sp (slotVld vd base ord len mk disp) s

/-- The selected bytes of v[vd] from address a up (R214). -/
def selectedCells (a : Nat) (v : Vec) (runs : List (Nat × Nat)) : List (Nat × Byte) :=
  runs.flatMap (fun r => (List.range r.2).map (fun k => (a + r.1 + k, lane v (r.1 + k) 8)))

/-- VST (R214, R232): one store whose extent is the hull of the selected bytes; with none selected, no access and no check. Where the hull's private bytes
are not in the near cache, the bundle waits for them, so that its set is updated as it issues (R359; log 57). -/
def slotVst (vd base : BitVec 5) (ord : BitVec 4) (len : BitVec 6) (mk : BitVec 3) (disp : Option (BitVec 32)) (pre cur : State) : Eff :=
  let a := vectorAddr pre base disp
  let runs := maskRuns (pre.me.getM mk) (len.toNat + 1)
  match runs with
  | [] => .ok cur none
  | first :: _ =>
    let last := runs.getLast?.getD first
    checked pre .store (runs.map (fun r => (a + r.1, r.2)))
      (if pre.me.storeHeld (isRel ord) then .wait pre
      else
        let lo := a + first.1
        let n := last.1 + last.2 - first.1
        let cells := selectedCells a (pre.me.getV vd) runs
        match pre.awaitHulls pre.cur (pre.dataPieces pre.cur lo n cells) cells with
        | some s => .wait s
        | none => .ok (cur.store pre.cur lo n cells false) none)

/-- VST issued alone. -/
def execVst (sp : Bool) (vd : BitVec 5) (base : BitVec 5) (ord : BitVec 4) (len : BitVec 6) (mk : BitVec 3) (disp : Option (BitVec 32)) (s : State) : Result :=
  issue (.vst sp vd base ord len mk disp) false sp (slotVst vd base ord len mk disp) s

/-- The selected elements of R215: element and address. -/
def elemAddrs (s : State) (base : BitVec 5) (disp : Option (BitVec 32)) (vi : BitVec 5) (e8 : BitVec 1) (mk : BitVec 3) : List (Nat × Nat) :=
  let n := if e8 = 0 then 16 else 8
  let index (k : Nat) : Word := if e8 = 0 then sext (lane (s.me.getV vi) k 32) else lane (s.me.getV vi) k 64
  ((List.range n).filter (fun k => bit (s.me.getM mk) k)).map (fun k => (k, (s.me.getG base + dispWord disp + index k).toNat))

/-- Bytes of an element of R215. -/
def elemSize (e8 : BitVec 1) : Nat := if e8 = 0 then 4 else 8

/-- VLDX (R215): each selected element is its own extent; all are checked together. -/
def slotVldx (vd base : BitVec 5) (ord : BitVec 4) (vi : BitVec 5) (e8 : BitVec 1) (mk : BitVec 3) (disp : Option (BitVec 32))
    (pre cur : State) : Eff :=
  let z := elemSize e8
  let es := elemAddrs pre base disp vi e8 mk
  checked pre .load (es.map (fun e => (e.2, z)))
    (okOrWait pre (cur.load pre.cur (.v vd) (ordKind ord == 0) (isAcq ord) true (es.map (fun e => ⟨e.2, z, z * e.1, e.1⟩))))

/-- VLDX issued alone. -/
def execVldx (sp : Bool) (vd : BitVec 5) (base : BitVec 5) (ord : BitVec 4) (vi : BitVec 5) (e8 : BitVec 1) (mk : BitVec 3) (disp : Option (BitVec 32)) (s : State) : Result :=
  issue (.vldx sp vd base ord vi e8 mk disp) false sp (slotVldx vd base ord vi e8 mk disp) s

/-- The lowest out-of-range byte of a store's extents recorded (R205). -/
def State.rangeOfAll (s : State) (h : Nat) (extents : List (Nat × Nat)) : State :=
  match (extents.filterMap (fun e => match zone e.1 with
    | .loc o => if localSize < o + e.2 then some (max o localSize) else none
    | _ => none)).min? with
  | some o => s.outOfRange h o true
  | none => s

/-- VSTX (R215): in ascending order. -/
def slotVstx (vd base : BitVec 5) (ord : BitVec 4) (vi : BitVec 5) (e8 : BitVec 1) (mk : BitVec 3) (disp : Option (BitVec 32))
    (pre cur : State) : Eff :=
  let z := elemSize e8
  let es := elemAddrs pre base disp vi e8 mk
  if es.isEmpty then .ok cur none
  else
    checked pre .store (es.map (fun e => (e.2, z)))
      (if pre.me.storeHeld (isRel ord) then .wait pre
      else .ok (es.foldl (fun s e =>
        s.store pre.cur e.2 z (cellsAt e.2 (toBytes (lane (pre.me.getV vd) e.1 (8 * z)) z)) false) (cur.rangeOfAll pre.cur (es.map (fun e => (e.2, z))))) none)

/-- VSTX issued alone. -/
def execVstx (sp : Bool) (vd : BitVec 5) (base : BitVec 5) (ord : BitVec 4) (vi : BitVec 5) (e8 : BitVec 1) (mk : BitVec 3) (disp : Option (BitVec 32)) (s : State) : Result :=
  issue (.vstx sp vd base ord vi e8 mk disp) false sp (slotVstx vd base ord vi e8 mk disp) s

/-! ### Atomics -/

/-- An instruction of the AMO group (R220, R221, R223): a posted add is an AMOADD or AMOFADD to g0 that is not acquire-release. Private bytes that are not
in the near cache are waited for (R221; log 57). -/
def amo (op : AmoOp) (rd ra rb : BitVec 5) (o : BitVec 4) (size : Nat) (pre cur : State) : Eff :=
  let a := (pre.me.getG ra).toNat
  if a % size != 0 then .trap .misaligned 0 (word a)
  else
    let posted := (op == .add || op == .fadd) && rd == 0 && !isAr o
    checked pre .atomic [(a, size)]
      (if pre.me.storeHeld (isAr o) then .wait pre
      else match pre.awaitHulls pre.cur [(a, size)] [] with
        | some s => .wait s
        | none => .ok (cur.atomic pre.cur a op size (pre.me.getG rb) (pre.me.getG rd) (if posted then none else some rd) (isAr o) posted) none)

/-- The width that w selects (R220). -/
def amoSize (w : BitVec 1) : Nat := if w = 0 then 4 else 8

/-- AMOADD (R220). -/
def slotAmoadd (rd ra rb : BitVec 5) (ord : BitVec 4) (w : BitVec 1) (pre cur : State) : Eff := amo .add rd ra rb ord (amoSize w) pre cur

/-- AMOADD issued alone. -/
def execAmoadd (sp : Bool) (rd : BitVec 5) (ra : BitVec 5) (rb : BitVec 5) (ord : BitVec 4) (w : BitVec 1) (s : State) : Result :=
  issue (.amoadd sp rd ra rb ord w) false sp (slotAmoadd rd ra rb ord w) s

/-- AMOAND (R220). -/
def slotAmoand (rd ra rb : BitVec 5) (ord : BitVec 4) (w : BitVec 1) (pre cur : State) : Eff := amo .and rd ra rb ord (amoSize w) pre cur

/-- AMOAND issued alone. -/
def execAmoand (sp : Bool) (rd : BitVec 5) (ra : BitVec 5) (rb : BitVec 5) (ord : BitVec 4) (w : BitVec 1) (s : State) : Result :=
  issue (.amoand sp rd ra rb ord w) false sp (slotAmoand rd ra rb ord w) s

/-- AMOOR (R220). -/
def slotAmoor (rd ra rb : BitVec 5) (ord : BitVec 4) (w : BitVec 1) (pre cur : State) : Eff := amo .or rd ra rb ord (amoSize w) pre cur

/-- AMOOR issued alone. -/
def execAmoor (sp : Bool) (rd : BitVec 5) (ra : BitVec 5) (rb : BitVec 5) (ord : BitVec 4) (w : BitVec 1) (s : State) : Result :=
  issue (.amoor sp rd ra rb ord w) false sp (slotAmoor rd ra rb ord w) s

/-- AMOXOR (R220). -/
def slotAmoxor (rd ra rb : BitVec 5) (ord : BitVec 4) (w : BitVec 1) (pre cur : State) : Eff := amo .xor rd ra rb ord (amoSize w) pre cur

/-- AMOXOR issued alone. -/
def execAmoxor (sp : Bool) (rd : BitVec 5) (ra : BitVec 5) (rb : BitVec 5) (ord : BitVec 4) (w : BitVec 1) (s : State) : Result :=
  issue (.amoxor sp rd ra rb ord w) false sp (slotAmoxor rd ra rb ord w) s

/-- AMOMIN (R220). -/
def slotAmomin (rd ra rb : BitVec 5) (ord : BitVec 4) (w : BitVec 1) (pre cur : State) : Eff := amo .min rd ra rb ord (amoSize w) pre cur

/-- AMOMIN issued alone. -/
def execAmomin (sp : Bool) (rd : BitVec 5) (ra : BitVec 5) (rb : BitVec 5) (ord : BitVec 4) (w : BitVec 1) (s : State) : Result :=
  issue (.amomin sp rd ra rb ord w) false sp (slotAmomin rd ra rb ord w) s

/-- AMOMAX (R220). -/
def slotAmomax (rd ra rb : BitVec 5) (ord : BitVec 4) (w : BitVec 1) (pre cur : State) : Eff := amo .max rd ra rb ord (amoSize w) pre cur

/-- AMOMAX issued alone. -/
def execAmomax (sp : Bool) (rd : BitVec 5) (ra : BitVec 5) (rb : BitVec 5) (ord : BitVec 4) (w : BitVec 1) (s : State) : Result :=
  issue (.amomax sp rd ra rb ord w) false sp (slotAmomax rd ra rb ord w) s

/-- AMOMINU (R220). -/
def slotAmominu (rd ra rb : BitVec 5) (ord : BitVec 4) (w : BitVec 1) (pre cur : State) : Eff := amo .minu rd ra rb ord (amoSize w) pre cur

/-- AMOMINU issued alone. -/
def execAmominu (sp : Bool) (rd : BitVec 5) (ra : BitVec 5) (rb : BitVec 5) (ord : BitVec 4) (w : BitVec 1) (s : State) : Result :=
  issue (.amominu sp rd ra rb ord w) false sp (slotAmominu rd ra rb ord w) s

/-- AMOMAXU (R220). -/
def slotAmomaxu (rd ra rb : BitVec 5) (ord : BitVec 4) (w : BitVec 1) (pre cur : State) : Eff := amo .maxu rd ra rb ord (amoSize w) pre cur

/-- AMOMAXU issued alone. -/
def execAmomaxu (sp : Bool) (rd : BitVec 5) (ra : BitVec 5) (rb : BitVec 5) (ord : BitVec 4) (w : BitVec 1) (s : State) : Result :=
  issue (.amomaxu sp rd ra rb ord w) false sp (slotAmomaxu rd ra rb ord w) s

/-- AMOSWAP (R220). -/
def slotAmoswap (rd ra rb : BitVec 5) (ord : BitVec 4) (w : BitVec 1) (pre cur : State) : Eff := amo .swap rd ra rb ord (amoSize w) pre cur

/-- AMOSWAP issued alone. -/
def execAmoswap (sp : Bool) (rd : BitVec 5) (ra : BitVec 5) (rb : BitVec 5) (ord : BitVec 4) (w : BitVec 1) (s : State) : Result :=
  issue (.amoswap sp rd ra rb ord w) false sp (slotAmoswap rd ra rb ord w) s

/-- AMOCAS (R220): the old g[rd] is the expected value. -/
def slotAmocas (rd ra rb : BitVec 5) (ord : BitVec 4) (w : BitVec 1) (pre cur : State) : Eff := amo .cas rd ra rb ord (amoSize w) pre cur

/-- AMOCAS issued alone. -/
def execAmocas (sp : Bool) (rd : BitVec 5) (ra : BitVec 5) (rb : BitVec 5) (ord : BitVec 4) (w : BitVec 1) (s : State) : Result :=
  issue (.amocas sp rd ra rb ord w) false sp (slotAmocas rd ra rb ord w) s

/-- AMOFADD (R220). -/
def slotAmofadd (rd ra rb : BitVec 5) (ord : BitVec 4) (pre cur : State) : Eff := amo .fadd rd ra rb ord 4 pre cur

/-- AMOFADD issued alone. -/
def execAmofadd (sp : Bool) (rd : BitVec 5) (ra : BitVec 5) (rb : BitVec 5) (ord : BitVec 4) (s : State) : Result :=
  issue (.amofadd sp rd ra rb ord) false sp (slotAmofadd rd ra rb ord) s

/-- AMOFADDV (R222, R232): each selected element is one atomic that returns nothing; with none selected, no access, and no check of what it would
access. A length that is no multiple of 4 traps whatever the mask (log 21). -/
def slotAmofaddv (vd base : BitVec 5) (ord : BitVec 4) (len : BitVec 6) (mk : BitVec 3) (disp : Option (BitVec 32)) (pre cur : State) : Eff :=
  let a := vectorAddr pre base disp
  let n := len.toNat + 1
  let es := (List.range (n / 4)).filter (fun k => bit (pre.me.getM mk) k)
  if n % 4 != 0 then .trap .misaligned 0 (word a)
  else if es.isEmpty then .ok cur none
  else if a % 4 != 0 then .trap .misaligned 0 (word a)
  else
      checked pre .atomic (es.map (fun k => (a + 4 * k, 4)))
        (if pre.me.storeHeld (isAr ord) then .wait pre
        else match pre.awaitHulls pre.cur (es.map (fun k => (a + 4 * k, 4))) [] with
          | some s => .wait s
          | none =>
            let nc := (pre.core (coreOf pre.cur)).nc
            .ok (es.foldl (fun s k =>
              s.atomicOn nc pre.cur (a + 4 * k) .fadd 4 (zext (lane (pre.me.getV vd) k 32)) 0 none (isAr ord) (!isAr ord)) cur) none)

/-- AMOFADDV issued alone. -/
def execAmofaddv (sp : Bool) (vd : BitVec 5) (base : BitVec 5) (ord : BitVec 4) (len : BitVec 6) (mk : BitVec 3) (disp : Option (BitVec 32)) (s : State) : Result :=
  issue (.amofaddv sp vd base ord len mk disp) false sp (slotAmofaddv vd base ord len mk disp) s

/-! ### FENCE -/

/-- The status word of R36: zero in normal service. -/
def FenceAcc.status (f : FenceAcc) (recovery : Bool) : Word :=
  if recovery then word (min f.count 255 * 256 + (if f.poison then 4 else 0) + (if f.refused then 2 else 0) + (if f.lost then 1 else 0)) else 0

/-- A FENCE of hart h whose earlier stores and atomics are all acknowledged writes its status (R224). -/
def State.fenceDone (s : State) (h : Nat) : State :=
  let x := s.hart h
  match x.fence with
  | some f =>
    if x.stores.isEmpty then
      s.setHart h { (x.setG f.rd (x.fenceAcc.status (s.recovery (clusterOf h)))) with fence := none, fenceAcc := ⟨0, false, false, false⟩ }
    else s
  | none => s

/-- FENCE (R212, R224): it issues once every earlier load is bound. -/
def slotFence (rd : BitVec 5) (ord : BitVec 4) (pre cur : State) : Eff :=
  if pre.me.loads != [] || pre.me.fence.isSome then .wait pre
  else .ok ((cur.modMe (fun x => { x.clearNear with fence := some ⟨rd, isAr ord⟩ })).fenceDone pre.cur) none

/-- FENCE issued alone. -/
def execFence (sp : Bool) (rd : BitVec 5) (ord : BitVec 4) (s : State) : Result :=
  issue (.fence sp rd ord) false sp (slotFence rd ord) s

/-! ### PUB -/

/-- A cookie: bits [63:60] = 0xF, [59:20] zero (R225). -/
def isCookie (v : Word) : Bool := bf v 60 4 == 15 && bf v 20 40 == 0

def cookie (slot gen : Nat) : Word := word (15 * 2 ^ 60 + gen % 65536 * 16 + slot)

/-- What PUB writes for an abandoned walk (R225). -/
def pubAbandoned : Word := word (14 * 2 ^ 60)

/-- The walk slots that a cluster's walks hold (R226). -/
def Cluster.heldSlots (c : Cluster) : List Nat := c.walks.flatMap (fun w => w.2.frames.map (fun x => x.1))

/-- A free slot taken: its number, and the cluster with the slot's generation advanced (R226). -/
def Cluster.takeSlot (c : Cluster) : Option (Nat × Cluster) :=
  ((List.range 16).find? (fun n => !c.heldSlots.contains n)).map (fun n =>
    (n, { c with slotGen := put n (((find n c.slotGen).getD 0 + 1) % 65536) c.slotGen }))

/-- PUB (R225, R226): the walk starts or resumes, and the hart issues no later bundle until the result is written. -/
def slotPub (rd ra : BitVec 5) (scope : BitVec 2) (pre cur : State) : Eff :=
  let v := pre.me.getG ra
  let k := clusterOf pre.cur
  let cl := cur.cluster k
  let held (s : State) : State := (s.modMe (fun x => { x with busy := some (.pub rd) })).push (.sowerWalkStep k)
  if isCookie v then
    let n := bf v 0 4
    match find n cl.walks with
    | some w =>
      if w.suspended && (find n cl.slotGen).getD 0 == bf v 4 16 then
        let s := cur.modHart w.hid (fun x => { x with job := x.job.map (fun t => { t with
          walks := t.walks.filter (fun y => !(y.1 == k && y.2.1 == n)) }) })
        .ok (held ((s.modCluster k (fun c => { c with walks := put n { w with
          hid := pre.cur, corr := pre.me.task.setWidth 32, scope := scope, arrived := pre.serial, suspended := false, counted := 0 } c.walks })).fresh)) none
      else okG cur rd pubAbandoned
    | none => okG cur rd pubAbandoned
  else
    match pre.arenaBit pre.cur v.toNat with
    | none => .walk (pre.requestWalks pre.cur [v.toNat])
    | some none => .trap .protection 0 v
    | some (some _) =>
      match cl.takeSlot with
      | none => .wait pre
      | some (n, cl) =>
        let w : SowerWalk := ⟨pre.cur, pre.me.task.setWidth 32, scope, pre.serial, [(n, [(v.toNat / 64 * 64, 8)])], 0, [], [], false, none, []⟩
        .ok (held ((cur.setCluster k { cl with walks := put n w cl.walks }).fresh)) none

/-- PUB issued alone. -/
def execPub (sp : Bool) (rd : BitVec 5) (ra : BitVec 5) (scope : BitVec 2) (s : State) : Result :=
  issue (.pub sp rd ra scope) false sp (slotPub rd ra scope) s

/-! ### PREF and RESQ -/

/-- The extent of PREF, RESQ, CLN and INV: g[ra] + bits(g[rb], 31, 0) (R229, R231). -/
def lineExtent (s : State) (ra rb : BitVec 5) : Nat × Nat := ((s.me.getG ra).toNat, bf (s.me.getG rb) 0 32)

/-- Pieces of an extent within one region and one page whose page is present for the hart: PREF and RESQ need no right (R230, R285). -/
def State.presentPieces (s : State) (h a n : Nat) (anyDomain : Bool) : List (Nat × Nat) :=
  ((extentSplit a n).flatMap (fun p => pageSplit p.1 p.2)).filter (fun p => match zone p.1 with
    | .mem | .bolt _ => match s.entryOf (s.core (coreOf h)) p.1 with
      | some e => anyDomain || e.matches (s.hart h).dom
      | none => false
    | _ => false)

/-- A fill that brings bytes to their home and goes no further (R229). -/
def State.prefHome (s : State) (hm a n : Nat) (shared : BitVec 8) : State := s.toHome hm (.fill [] a n shared false)

/-- The bytes of a region stand in a window's local memory, and in no cache (R206). -/
def State.inWindow (s : State) (hm a : Nat) : Bool :=
  if devOf a = s.devnum then (s.windowOf hm (a / 512)).isSome else (s.farWindow a).isSome

/-- PREF of an extent for hart h at a level (R229, R230). -/
def State.prefetch (s : State) (h a n level : Nat) : State :=
  (s.presentPieces h a n false).foldl (fun s p =>
    let c := s.core (coreOf h)
    let hm := s.homeAt c p.1
    match zone p.1 with
    | .mem =>
      if s.inWindow hm p.1 then s
      else if level = 1 then s.requestMissing h p.1 p.2
      else if level = 2 && (devOf p.1 != s.devnum || hm / 8 != clusterOf h) then s
      else s.prefHome (s.keyOf c p.1) p.1 p.2 (s.sharedMask c p.1 p.2)
    | _ => s) s

/-- PREF (R229, R230). -/
def slotPref (ra : BitVec 5) (lvl : BitVec 4) (rb : BitVec 5) (pre cur : State) : Eff :=
  let e := lineExtent pre ra rb
  .ok (cur.prefetch pre.cur e.1 e.2 lvl.toNat) none

/-- PREF issued alone. -/
def execPref (sp : Bool) (ra : BitVec 5) (lvl : BitVec 4) (rb : BitVec 5) (s : State) : Result :=
  issue (.pref sp ra lvl rb) false sp (slotPref ra lvl rb) s

/-- How many bytes of a piece are held at a level for hart h (R229). -/
def State.heldAt (s : State) (h level : Nat) (p : Nat × Nat) : Nat :=
  let c := s.core (coreOf h)
  let hm := s.homeAt c p.1
  let lo := p.1 % 512
  match level with
  | 0 => ((List.range p.2).filter (fun k => (s.hart h).near.any (fun e => e.addr ≤ p.1 + k && p.1 + k < e.addr + e.data.length))).length
  | 1 => heldCount c.nc (p.1 / 512) lo (lo + p.2)
  | l => match zone p.1 with
    | .bolt o => if l = 2 && devOf p.1 = s.devnum && o / 2 ^ 22 = clusterOf h then p.2 else 0
    | .mem =>
      if devOf p.1 != s.devnum then (if l = 2 || s.inWindow hm p.1 then 0 else ofBytes ((List.range 2).map (fun k => Config.outsideByte s.free (p.1 + k))) % (p.2 + 1))
      else if l = 2 && hm / 8 != clusterOf h then 0
      else heldCount (s.home hm).entries (p.1 / 512) lo (lo + p.2)
    | _ => 0

/-- RESQ's count over an extent (R229, R230). -/
def State.resq (s : State) (h a n level : Nat) : Nat :=
  (s.presentPieces h a n true).foldl (fun t p => t + s.heldAt h level p) 0

/-- RESQ (R229, R230). -/
def slotResq (rd ra : BitVec 5) (lvl : BitVec 4) (rb : BitVec 5) (pre cur : State) : Eff :=
  let e := lineExtent pre ra rb
  okG cur rd (word (pre.resq pre.cur e.1 e.2 lvl.toNat))

/-- RESQ issued alone. -/
def execResq (sp : Bool) (rd : BitVec 5) (ra : BitVec 5) (lvl : BitVec 4) (rb : BitVec 5) (s : State) : Result :=
  issue (.resq sp rd ra lvl rb) false sp (slotResq rd ra lvl rb) s

/-! ### CLN and INV -/

/-- The scope of an ord field (R45): 0 core, 1 cluster, 2 device, 3 system. -/
def ordScope (o : BitVec 4) : Nat := o.toNat % 4

/-- A core's dirty bytes of one piece of a region written back to their homes (R231): the state, and the ids that the hart waits for
when `ack` holds. -/
def State.cleanPiece (s : State) (h region a b : Nat) (ack : Bool) : State × List Nat :=
  let cid := coreOf h
  let c := s.core cid
  let r := (dirtyRuns c.nc region a b).foldl (fun (r : State × List Nat) d =>
    let (s, ids) := r
    let x := d.1.sub d.2.1 d.2.2
    let addr := region * 512 + d.2.1
    let s := s.fresh
    let w : Req := .writeback cid addr x.data x.tags x.cls x.poison (if ack then some (h, s.serial) else none)
    (s.toHome (s.keyOf c addr) w, if ack then ids ++ [s.serial] else ids)) (s, [])
  (((r.1.modCore cid (fun c => { c with nc := cleanAll c.nc region a b })).settleNear cid region a b), r.2)

/-- CLN of an extent for hart h (R231): the state, and the acknowledgements that it waits for. -/
def State.clean (s : State) (h a n : Nat) (strong sys : Bool) : State × List Nat :=
  (extentSplit a n).foldl (fun r p =>
    let (s, ids) := r
    match zone p.1 with
    | .mem =>
      let (s, more) := s.cleanPiece h (p.1 / 512) (p.1 % 512) (p.1 % 512 + p.2) strong
      if strong && sys then
        let s := s.fresh
        (s.toHome (s.keyOf (s.core (coreOf h)) p.1) (.clean h s.serial p.1 p.2), ids ++ more ++ [s.serial])
      else (s, ids ++ more)
    | _ => (s, ids)) (s, [])

/-- CLN (R231, R232). -/
def slotCln (ra : BitVec 5) (ord : BitVec 4) (rb : BitVec 5) (pre cur : State) : Eff :=
  let e := lineExtent pre ra rb
  if e.2 = 0 then .ok cur none
  else
    checked pre .store [e]
      (let r := cur.clean pre.cur e.1 e.2 (ordKind ord == 1) (ordScope ord == 3)
      .ok (if r.2.isEmpty then r.1 else r.1.modMe (fun x => { x with busy := some (.clean r.2) })) none)

/-- CLN issued alone. -/
def execCln (sp : Bool) (ra : BitVec 5) (ord : BitVec 4) (rb : BitVec 5) (s : State) : Result :=
  issue (.cln sp ra ord rb) false sp (slotCln ra ord rb) s

/-- Every byte [a, b) of a region dropped from a core's near cache, after what was on its way to the core for it has landed (R231). -/
def State.dropNear (s : State) (cid region a b : Nat) : State :=
  let s := (s.landFor cid region).giveUpShared cid region a b
  ((s.modCore cid (fun c => { c with nc := trimAll c.nc region a b })).settleNear cid region a b).staleAt cid region a b

/-- The private-class bytes [a, b) of a region dropped from its home (R231). -/
def State.dropHome (s : State) (hm region a b : Nat) : State :=
  (s.modHome hm (fun y => { y with entries := y.entries.flatMap (fun e => if e.cls = .priv then e.trim region a b else [e]) })).settleHome hm region a b

/-- A drop that other devices make for hart h (R231): what they are told, and the number of the acknowledgement that it waits for. -/
def State.dropOutside (s : State) (h a : Nat) (m : OutMsg) : State × Nat :=
  let s := s.fresh
  (s.sendOut (planeOf a) m (.ack h ⟨s.serial, 0, none, a, none⟩), s.serial)

/-- INV of an extent for hart h at a scope, 0 for weak (R231): the state, and the acknowledgements of other devices that it waits for. Write-backs that are
under way to a home reach it before its bytes are dropped. -/
def State.invalidate (s : State) (h a n scope : Nat) : State × List Nat :=
  let cid := coreOf h
  let cores := match scope with
    | 0 => [cid]
    | 1 => (List.range 16).map (fun c => cid / 16 * 16 + c)
    | _ => s.coreIds
  let r := (extentSplit a n).foldl (fun (r : State × List Nat) p =>
    match zone p.1 with
    | .mem =>
      let region := p.1 / 512
      let lo := p.1 % 512
      let key := r.1.keyOf (r.1.core cid) p.1
      let s := cores.foldl (fun s c => s.dropNear c region lo (lo + p.2)) r.1
      if scope < 2 then (s, r.2)
      else
        let s := s.drainWritebacks ((cores.map (fun c => c / 16)).eraseDups) key region
        if devOf p.1 = s.devnum then (s.dropHome key region lo (lo + p.2), r.2)
        else
        let x := s.dropOutside h p.1 (.dropHome (devOf p.1) p.1 p.2)
        (x.1, r.2 ++ [x.2])
    | _ => r) (s, [])
  let r := (r.1.modHart h (fun x => { x with near := x.near.filter (fun e => !overlaps e.addr e.data.length a n) }), r.2)
  if scope = 3 then
    let x := r.1.dropOutside h a (.dropExtent a n)
    (x.1, r.2 ++ [x.2])
  else r

/-- INV (R231, R232): the hart waits until the drops are done. -/
def slotInv (ra : BitVec 5) (ord : BitVec 4) (rb : BitVec 5) (pre cur : State) : Eff :=
  let e := lineExtent pre ra rb
  if e.2 = 0 then .ok cur none
  else
    checked pre .store [e]
      (let r := cur.invalidate pre.cur e.1 e.2 (if ordKind ord = 0 then 0 else ordScope ord)
      .ok (if r.2.isEmpty then r.1 else r.1.modMe (fun x => { x with busy := some (.inv r.2) })) none)

/-- INV issued alone. -/
def execInv (sp : Bool) (ra : BitVec 5) (ord : BitVec 4) (rb : BitVec 5) (s : State) : Result :=
  issue (.inv sp ra ord rb) false sp (slotInv ra ord rb) s

end Sys2Proof.Machine
end

