-- ==== Sys2Proof/Machine/Queues.lean ====
section
/-! DEFINITION. Messages, queue state, landing-ring reservations and engine commands (R257 to R260, R263, R267, R269, R271 to R274). -/

namespace Sys2Proof.Machine

/-! ### Memory read at issue -/

/-- The bytes [a, a + n) that an instruction of hart h reads as it issues (log 11): where a home refuses them they are free, and the
hart takes a machine check (R187), as it does for poisoned ones (R194). Local bytes out of range are recorded (R205). -/
def State.readAtIssue (s : State) (h a n : Nat) : List Byte × State :=
  let s' := if s.reachesOut a then s.drawFree else s
  let s' := match zone a with
    | .loc o => s'.checkRange h o n false
    | _ => s'
  match s.peek h a n with
  | some bs => (bs, if (List.range n).any (fun k => s.peekBad h (a + k)) then s'.checkAt h a else s')
  | none => ((List.range n).map (Config.outsideByte s.free), s'.drawFree.checkAt h a)

/-- An instruction that reads [a, a + n) as it issues waits until it can (R187, R189, R278). -/
def readable (pre : State) (a n : Nat) (pass : Eff) : Eff :=
  if pre.peekHeld pre.cur a n then .wait (pre.askAtIssue pre.cur a n) else pass

/-- Eight words of a descriptor or command. -/
def wordsOf (bs : List Byte) : List Word := (List.range (bs.length / 8)).map (wordAt bs)

/-! ### Headers -/

/-- Fields of header word 0 (R257). -/
def hdrLen16 (h0 : Word) : Nat := bf h0 24 5
def hdrXform (h0 : Word) : Nat := bf h0 29 3
def hdrDmode (h0 : Word) : Nat := bf h0 22 2
def hdrCtr (h0 : Word) : Nat := bf h0 16 6
def hdrHandler (h0 : Word) : Nat := bf h0 8 8
def hdrRoute (h0 : Word) : Nat := bf h0 0 8
def hdrChannel (h0 : Word) : Bool := bit h0 7
def hdrCorr (h0 : Word) : BitVec 32 := BitVec.ofNat 32 (bf h0 32 32)
/-- Fields of header word 1 (R257). -/
def hdrDest (h1 : Word) : Nat := bf h1 2 22
def hdrSource (h1 : Word) : Nat := bf h1 24 24
def hdrPart (h1 : Word) : Nat := bf h1 48 4

/-- The decrement that dmode asks for (R257, R261). -/
def hdrDecrement (h0 : Word) : Nat :=
  match hdrDmode h0 with
  | 0 => 1
  | 1 => 16 * hdrLen16 h0
  | _ => 0

/-- The header checks of R258. -/
def headerBad (h0 h1 : Word) : Bool :=
  16 < hdrLen16 h0 || hdrDmode h0 == 3
    || (if hdrChannel h0 then bf h0 4 3 != 0 || hdrHandler h0 != 0 else hdrRoute h0 != 0)
    || bf h1 0 2 != 0
    || hdrDest h1 / 4096 == 510 || hdrDest h1 / 4096 == 511

/-- The event of an arrival. -/
def arrivalEvent (c : Nat) : Arrival → Event
  | .msg h0 .. => if hdrChannel h0 then .channelPacketArrival c else .messageArrival c
  | .count .. => .countModeArrival c

/-- An arrival reaches the tail of a core's port. -/
def State.toPort (s : State) (c : Nat) (a : Arrival) : State :=
  (s.modCore c (fun x => { x with port := x.port ++ [a] })).push (arrivalEvent c a)

/-- A bounce of the message with this header (R263), sent from core c to the core of its sender. Of its own header, which the spec does not give,
ctr, xform and dmode are 0, and part and source are those of core c (log 61, DESIGN CHOICE). -/
def State.bounce (s : State) (c : Nat) (h0 h1 : Word) (code : Nat) : State :=
  let src := hdrSource h1
  let b0 := word ((hdrCorr h0).toNat * 2 ^ 32 + 2 * 2 ^ 24 + 255 * 256)
  let b1 := header1 (s.partOf (c / 16)) (s.coreLoc c * 4) (src / 4)
  let a : Arrival := .msg b0 b1 (bytesOf [h0, h1, word code, 0]) [] .bounce none 0
  if src / 16384 = s.devnum then s.toPort (src / 4 % 4096) a
  else s.sendOut (src / 4 % 18) (.message (src / 4 % 18) (src / 16384) a) .nothing

/-- A message of hart h sent towards its destination (R260): it counts in sy.unacked until it lands or is bounced. One for another device
leaves by its plane, and a dead link loses it (R348; log 19); one for a device outside the load-store domain, or for a core that is mapped
out, is bounced at once (R258, R263). -/
def State.deliver (s : State) (h : Nat) (h0 h1 : Word) (payload : List Byte) (tags : List Bool) : State :=
  let dest := hdrDest h1
  let c := dest % 4096
  let h1' := header1 (s.partOf (clusterOf h)) (s.location h).toNat dest
  let dom := (s.hart h).dom
  let s' := s.fresh
  let counted := s'.modHart h (fun x => { x with stores := x.stores ++ [⟨s'.serial, 0, 0, 1, false, none, []⟩] })
  if dest / 4096 = s.devnum then
    if s.mappedOut (c / 16) then s.bounce c h0 h1' 6
    else counted.toPort c (.msg h0 h1' payload tags .plain (some (h, s'.serial)) dom)
  else if 576 ≤ dest / 4096 then s.bounce (coreOf h) h0 h1' 6
  else counted.sendOut (dest % 18) (.message (dest % 18) (dest / 4096) (.msg h0 h1' payload tags .plain none dom)) (.ack h ⟨s'.serial, 0, none, 0, none⟩)

/-- SEND (R259, R260). -/
def slotSend (ra rb vp : BitVec 5) (pre cur : State) : Eff :=
  let h0 := pre.me.getG ra
  let h1 := pre.me.getG rb
  if headerBad h0 h1 || 4 < hdrLen16 h0 then .trap .queue 0 0
  else if pre.me.storeHeld true then .wait pre
  else .ok (cur.deliver pre.cur h0 h1 (toBytes (pre.me.getV vp) (16 * hdrLen16 h0)) []) none

/-- SEND issued alone. -/
def execSend (sp : Bool) (ra : BitVec 5) (rb : BitVec 5) (vp : BitVec 5) (s : State) : Result :=
  issue (.send sp ra rb vp) false sp (slotSend ra rb vp) s

/-- SENDX (R259, R260, R279). -/
def slotSendx (rp ra rb : BitVec 5) (pre cur : State) : Eff :=
  let h0 := pre.me.getG ra
  let h1 := pre.me.getG rb
  let a := (pre.me.getG rp).toNat
  let n := 16 * hdrLen16 h0
  if headerBad h0 h1 then .trap .queue 0 0
  else
    checked pre .load (if n = 0 then [] else [(a, n)])
      (if pre.me.storeHeld true then .wait pre
      else readable pre a n
        (let (bs, s) := cur.readAtIssue pre.cur a n
        let tags := if hdrXform h0 = 6 then (List.range (n / 8)).map (fun k => a % 8 == 0 && pre.peekTag pre.cur (a + 8 * k)) else []
        .ok (s.deliver pre.cur h0 h1 bs tags) none))

/-- SENDX issued alone. -/
def execSendx (sp : Bool) (rp : BitVec 5) (ra : BitVec 5) (rb : BitVec 5) (s : State) : Result :=
  issue (.sendx sp rp ra rb) false sp (slotSendx rp ra rb) s

/-! ### QSTAT and QRESV -/

/-- What QSTAT writes (R269). -/
def State.qstat (s : State) (h n : Nat) : Word :=
  let cid := coreOf h
  let c := s.core cid
  let k := queueAt h n
  let used := c.queues.foldl (fun t e => t + e.2.length) 0
  word ((if c.port.isEmpty then 0 else 2 ^ 32) + min 255 (256 - used) * 2 ^ 24 + min 255 (queueCap s cid k) * 2 ^ 16
    + min 255 (queueMin s cid k) * 2 ^ 8 + min 255 (c.queue k).length)

/-- QSTAT (R269). -/
def slotQstat (rd q : BitVec 5) (pre cur : State) : Eff := okG cur rd (pre.qstat pre.cur q.toNat)

/-- QSTAT issued alone. -/
def execQstat (sp : Bool) (rd : BitVec 5) (q : BitVec 5) (s : State) : Result :=
  issue (.qstat sp rd q) false sp (slotQstat rd q) s

/-- A valid handler entry of a core. -/
def Core.handler? (c : Core) (e : Nat) : Option Handler :=
  match find e c.handlers with
  | some h => if bit h.w0 63 then some h else none
  | none => none

/-- QRESV (R267). -/
def slotQresv (rd ra rb : BitVec 5) (pre cur : State) : Eff :=
  let cid := coreOf pre.cur
  let r := pre.me.getG ra
  let n := (pre.me.getG rb).toInt
  match (pre.core cid).handler? (bf r 0 8) with
  | none => okG cur rd 2
  | some h =>
    if bf r 8 56 != 0 then okG cur rd 2
    else
      let write (h : Handler) : State := cur.modCore cid (fun c => { c with handlers := put (bf r 0 8) h c.handlers })
      if 0 ≤ n then
        if n ≤ h.free then okG (write { h with free := h.free - n.toNat, reserved := h.reserved + n.toNat }) rd 0
        else okG cur rd 1
      else
        let k := min (-n).toNat h.reserved
        okG (write { h with reserved := h.reserved - k, free := h.free + k }) rd 0

/-- QRESV issued alone. -/
def execQresv (sp : Bool) (rd : BitVec 5) (ra : BitVec 5) (rb : BitVec 5) (s : State) : Result :=
  issue (.qresv sp rd ra rb) false sp (slotQresv rd ra rb) s

/-! ### Engines -/

/-- The fields that every command has, zero where R272 says so, and a mailbox that is 8-aligned. -/
def commonOk (w : List Word) : Bool :=
  bf (dw w 0) 23 9 == 0 && bf (dw w 0) 12 4 == 0 && bf (dw w 3) 40 24 == 0 && bf (dw w 5) 22 42 == 0 && bf (dw w 4) 0 3 == 0

/-- A copy command that a copy hart accepts (R272). -/
def copyOk (w : List Word) : Bool :=
  let xf := bf (dw w 0) 9 3
  commonOk w && bf (dw w 0) 0 8 == 1 && xf < 6 && (if xf = 4 then bf (dw w 6) 32 32 == 0 else dw w 6 == 0) && dw w 7 == 0

/-- A collective command that the collective hart accepts (R350). -/
def collectiveOk (w : List Word) : Bool :=
  commonOk w && bf (dw w 0) 8 4 == 0 && 1 ≤ bf (dw w 0) 0 8 && bf (dw w 0) 0 8 ≤ 4 && bf (dw w 6) 24 24 == 0
    && bf (dw w 6) 20 4 < 3 && bf (dw w 6) 16 4 < 4 && bf (dw w 6) 0 16 < 64 && dw w 7 == 0

/-- A command that a media block accepts (R351). -/
def mediaOk (w : List Word) : Bool :=
  commonOk w && bf (dw w 0) 8 4 == 0 && bf (dw w 0) 0 8 == 1 && bf (dw w 6) 19 45 == 0 && bf (dw w 6) 15 2 != 3
    && bf (dw w 6) 13 2 != 3 && bf (dw w 6) 10 2 < 2 && bf (dw w 6) 8 2 < 2
    && bf (dw w 7) 32 32 == 0 && 1 ≤ bf (dw w 7) 16 16 && bf (dw w 7) 16 16 ≤ 4352 && 1 ≤ bf (dw w 7) 0 16 && bf (dw w 7) 0 16 ≤ 8192

/-- The event that takes up a command at engine n (R272, R273, R350, R351). -/
def commandEvent (n : Nat) (w : List Word) : Event :=
  if 1024 ≤ n then (if mediaOk w then .mediaDecode n else .malformedCommand n)
  else if n % 4 = 2 then
    if collectiveOk w then match bf (dw w 0) 0 8 with
      | 1 => .allReduce n []
      | 2 => .reduceScatter n []
      | 3 => .allGather n []
      | _ => .broadcast n []
    else .malformedCommand n
  else if copyOk w then .copy n else .malformedCommand n

/-- The engine that ENQ names: its number and its place in a handle; none where the cluster lies outside the hart's partition. -/
def State.engineOf (s : State) (h : Nat) (eng rb : BitVec 5) : Option (Nat × Nat) :=
  if 8 ≤ eng.toNat then some (1024 + (eng.toNat - 8), s.devnum * 2 ^ 29)
  else
    let c18 := if rb = 0 then s.devnum * 256 + clusterOf h else bf (s.me.getG rb) 0 18
    let k := c18 % 256
    if c18 / 256 = s.devnum && s.partOf? k == s.partOf? (clusterOf h) then some (4 * k + eng.toNat, c18 * 2 ^ 21) else none

/-- A sender's place in an engine's round-robin (R271): over the clusters from the successor of the last one accepted, over the cores of each
likewise; harts of one core in their order (log 14). -/
def Engine.rank (x : Engine) (h : Nat) : Nat :=
  (clusterOf h + 255 - x.lastCluster) % 256 * 64 + (coreOf h % 16 + 15 - (find (clusterOf h) x.lastCores).getD 15) % 16 * 4 + h % 4

/-- No hart that waits for engine n goes before hart h (R271). -/
def State.enqTurn (s : State) (n h : Nat) : Bool :=
  s.harts.all (fun g => !(g.2.wait == .enq n && g.2.run == .blocked && !(s.cluster (clusterOf g.1)).dbg.halted)
    || (s.engine n).rank h ≤ (s.engine n).rank g.1)

/-- ENQ (R29, R271, R344): it waits while the queue is full, and while another sender's turn comes first. -/
def slotEnq (rd ra rb eng : BitVec 5) (pre cur : State) : Eff :=
  let a := (pre.me.getG ra).toNat
  if eng.toNat < 8 && rb != 0 && bf (pre.me.getG rb) 18 46 != 0 then .trap .illegal 0 0
  else if a % 64 != 0 then .trap .queue 0 (word a)
  else
    match pre.plbCheck pre.cur .load a 64, pre.engineOf pre.cur eng rb with
    | .fail c b, none =>
      if (pre.me.getG rb).toNat < b then .trap .protection 0 (pre.me.getG rb) else .trap c 0 (word b)
    | .fail c b, _ => .trap c 0 (word b)
    | .miss pages, _ => .walk (pre.requestWalks pre.cur pages)
    | .pass, none => .trap .protection 0 (pre.me.getG rb)
    | .pass, some (n, place) =>
      watched pre .load [(a, 64)]
        (if 1024 ≤ n && bit (pre.reg 0x240) (30 + (n - 1024)) then .trap .queue 0 0
        else if pre.me.storeHeld true then .wait pre
        else readable pre a 64
          (if 64 ≤ (pre.engine n).queue.length || !pre.enqTurn n pre.cur then .wait (pre.modMe (fun x => { x with wait := .enq n }))
          else
          let (bs, s) := cur.readAtIssue pre.cur a 64
          let x := s.engine n
          let cmd : Cmd := ⟨wordsOf bs, pre.me.dom, BitVec.ofNat 4 (pre.partOf (clusterOf pre.cur)), BitVec.ofNat 16 (x.nextId.toNat), clusterOf pre.cur⟩
          let s := s.setEngine n { x with
            queue := x.queue ++ [cmd], nextId := x.nextId + 1, states := put x.nextId.toNat 0 x.states,
            lastCluster := clusterOf pre.cur, lastCores := put (clusterOf pre.cur) (coreOf pre.cur % 16) x.lastCores }
          okG (s.push (commandEvent n cmd.words)) rd (word (place + eng.toNat * 2 ^ 16 + x.nextId.toNat))))

/-- ENQ issued alone. -/
def execEnq (sp : Bool) (rd : BitVec 5) (ra : BitVec 5) (rb : BitVec 5) (eng : BitVec 5) (s : State) : Result :=
  issue (.enq sp rd ra rb eng) false sp (slotEnq rd ra rb eng) s

/-! ### JOBQ and JOBW -/

/-- What a handle names: an engine of this device and a job id (R271); none for a handle that R274 rejects. The engine is none where it is
another device's. -/
def State.jobOf (s : State) (v : Word) : Option (Option Nat × Nat) :=
  let e := bf v 16 5
  let c18 := bf v 21 18
  if bf v 39 25 != 0 then none
  else if e < 3 then some (if c18 / 256 = s.devnum then some (4 * (c18 % 256) + e) else none, bf v 0 16)
  else if 8 ≤ e && e < 16 then
    if c18 % 256 != 0 then none else some (if c18 / 256 = s.devnum then some (1024 + (e - 8)) else none, bf v 0 16)
  else none

/-- state(job) of R274; another device's answer is free (log 6). -/
def State.jobState (s : State) (n : Option Nat) (id : Nat) : Nat :=
  match n with
  | some n => (find id (s.engine n).states).getD 0
  | none => (Config.outsideByte s.free id).toNat % 4

/-- The acquire of JOBQ and JOBW (R29, R183). -/
def State.acquireMe (s : State) : State := s.modMe Hart.clearNear

/-- JOBQ (R274). -/
def slotJobq (rd ra : BitVec 5) (pre cur : State) : Eff :=
  match pre.jobOf (pre.me.getG ra) with
  | none => .trap .queue 0 0
  | some (n, id) =>
    let st := pre.jobState n id
    let s := if n.isNone then cur.drawFree else cur
    okG (if 2 ≤ st then s.acquireMe else s) rd (word st)

/-- JOBQ issued alone. -/
def execJobq (sp : Bool) (rd : BitVec 5) (ra : BitVec 5) (s : State) : Result :=
  issue (.jobq sp rd ra) false sp (slotJobq rd ra) s

/-- JOBW (R274): in a safe-point bundle a requested pre-emption ends the wait with 1. -/
def slotJobw (sp : Bool) (rd ra : BitVec 5) (pre cur : State) : Eff :=
  match pre.jobOf (pre.me.getG ra) with
  | none => .trap .queue 0 0
  | some (n, id) =>
    let st := pre.jobState n id
    let s := if n.isNone then cur.drawFree else cur
    if 2 ≤ st then okG s.acquireMe rd (word st)
    else if sp && pre.me.preempt.isSome then okG cur rd 1
    else .wait (if n.isNone then pre.drawFree else pre)

/-- JOBW issued alone. -/
def execJobw (sp : Bool) (rd : BitVec 5) (ra : BitVec 5) (s : State) : Result :=
  issue (.jobw sp rd ra) false sp (slotJobw sp rd ra) s

end Sys2Proof.Machine
end

