-- ==== Sys2Proof/Machine/TableOps.lean ====
section
/-! DEFINITION. PLBINV and the splinter, handler entries, windows (R289 to R296). -/

namespace Sys2Proof.Machine

/-! ### PLBINV -/

/-- An 8-byte word of HBM written by physical address, if a frame stands there; reference tags there are cleared. -/
def State.writeHbmWord (s : State) (p : Nat) (w : Word) : State :=
  if s.frameOut p then s else { s with mem := writeBytes s.mem p (toBytes w 8), memTags := setTag s.memTags (p / 8) false }

/-- The entry of a 2 MiB or 1 GiB leaf's lower table (R291): the leaf's word 0 with frame + k × the lower page size. -/
def splinterWord (w0 : Word) (frame lower k : Nat) : Word :=
  word (bf w0 0 12 + (frame + k * lower) % 2 ^ 52 / 4096 * 4096 + bf w0 52 12 * 2 ^ 52)

/-- A large leaf becomes a pointer to a table of 512 leaves one level lower (R291). -/
def State.splinterLarge (s : State) (l : Leaf) (table : Nat) : State :=
  let lower := 2 ^ (12 + 9 * (l.level - 1))
  let s := (List.range 512).foldl (fun s k =>
    (s.writeHbmWord (table + 16 * k) (splinterWord l.w0 l.phys lower k)).writeHbmWord (table + 16 * k + 8) l.w1) s
  let s := (List.range 512).foldl (fun s k => s.writeHbmWord (table + 0x2000 + 8 * k) 0) s
  s.writeHbmWord l.ptr (word (table % 2 ^ 52 / 16384 * 16384 + 2 ^ 10))

/-- The sixteen entries of a 64 KiB group become 4 KiB leaves (R291). -/
def State.splinterGroup (s : State) (ptr : Nat) : State :=
  (List.range 16).foldl (fun s k =>
    let w := wordOf (readBytes s.mem (ptr + 16 * k) 8)
    s.writeHbmWord (ptr + 16 * k) (w &&& ~~~ ((1 : Word) <<< 10))) s

/-- splinter(a) of R291: the status, and the state. The pool is an array of 8-byte physical addresses, taken from the top. -/
def State.splinter (s : State) (a : Nat) : State × Nat :=
  match zone a with
  | .out | .loc _ => (s, 1)
  | _ =>
    if devOf a != s.devnum then (s.drawFree, (Config.outsideByte s.free a).toNat % 3)
    else match s.walkTables a with
    | none => (s, 1)
    | some l =>
      if l.group then (s.splinterGroup l.ptr, 0)
      else if l.level = 0 then (s, 1)
      else
        let n := (s.reg 0x310).toNat
        let top := (s.reg 0x308).toNat + 8 * (n - 1)
        -- a pool past the last frame holds no table (R15; log 48)
        if n = 0 || s.frameOut top then (s, 2)
        else
          let table := (wordOf (readBytes s.mem top 8)).toNat
          ((s.setReg 0x310 (word (n - 1))).splinterLarge l table, 0)

/-- PLBINV (R289, R290): the drop reaches its parties, and g[rd] is written once no access under a dropped entry is left. -/
def slotPlbinv (rd ra rb f : BitVec 5) (pre cur : State) : Eff :=
  let base := (pre.me.getG ra).toNat
  let len := bf (pre.me.getG rb) 0 40
  if !pre.me.privileged then .trap .privileged 0 0
  else if pre.me.storeHeld true then .wait pre
  else if bf (pre.me.getG rb) 40 24 != 0 then okG cur rd 3
  else
    let (s, st) := if f.toNat / 4 % 2 = 1 then cur.splinter base else (cur, 0)
    if st != 0 then okG s rd (word st)
    else .ok ((s.modMe (fun x => { x with busy := some (.plbinv rd base len (f.toNat % 4) none [] []) })).push (.plbinvDrop (.own pre.cur))) none

/-- PLBINV issued alone. -/
def execPlbinv (sp : Bool) (rd : BitVec 5) (ra : BitVec 5) (rb : BitVec 5) (f : BitVec 5) (s : State) : Result :=
  issue (.plbinv sp rd ra rb f) false sp (slotPlbinv rd ra rb f) s

/-! ### HTW -/

/-- Another valid entry of the core binds counter x (R293). -/
def Core.boundElsewhere (c : Core) (e x : Nat) : Bool :=
  c.handlers.any (fun h => h.1 != e && bit h.2.w0 63 && bit h.2.w0 60 && bf h.2.w0 54 6 == x)

/-- The ring of an entry: its size and base (R292). -/
def ringSize (w0 : Word) : Nat := (bf w0 47 7 + 1) * 256
def ringBase (w1 : Word) : Nat := bf w1 0 9 * 256

/-- HTW (R293). -/
def slotHtw (rd ra rb : BitVec 5) (pre cur : State) : Eff :=
  let cid := coreOf pre.cur
  let a := (pre.me.getG ra).toNat
  let e := bf (pre.me.getG rb) 0 8
  let run : Eff :=
    watched pre .load [(a, 16)]
      (if pre.me.loadHeld [(a, 16)] then .wait pre
      else readable pre a 16
        (let (bs, s) := cur.readAtIssue pre.cur a 16
        let w0 := wordAt bs 0
        let w1 := wordAt bs 1
        let c := pre.core cid
        let valid := bit w0 63
        let x := bf w0 54 6
        if bf (pre.me.getG rb) 8 56 != 0 then okG s rd 3
        else if valid && (bf w0 44 3 != 0 || 0x18000 < ringBase w1 + ringSize w0) then okG s rd 2
        else if valid && bit w0 60 && c.boundElsewhere e x then okG s rd 1
        else
          let gen := match find e c.handlers with
            | some h => h.gen + 1
            | none => 1
          okG (s.modCore cid (fun c => { c with
            handlers := put e ⟨w0, w1, ringSize w0, 0, ringBase w1, gen, []⟩ c.handlers
            bind := if valid && bit w0 60 then drop x c.bind else c.bind })) rd 0))
  if !pre.me.privileged then .trap .privileged 0 0
  else match pre.plbCheck pre.cur .load a 16 with
    | .miss pages => .walk (pre.requestWalks pre.cur pages)
    | .fail c b => if a % 16 != 0 && !(c == .notPresent && b == a) then .trap .protection 0 (word a) else .trap c 0 (word b)
    | .pass => if a % 16 != 0 then .trap .protection 0 (word a) else run

/-- HTW issued alone. -/
def execHtw (sp : Bool) (rd : BitVec 5) (ra : BitVec 5) (rb : BitVec 5) (s : State) : Result :=
  issue (.htw sp rd ra rb) false sp (slotHtw rd ra rb) s

/-! ### Windows -/

/-- A request for the region waits at its home, or a store there is not complete (R295: the registration takes its place in home order). -/
def Home.regionBusy (y : Home) (region : Nat) : Bool :=
  y.waits.any (fun w => w.region == region)
    || y.input.any (fun r => r.region == region)
    || y.groups.any (fun g => g.addr / 512 == region)

/-- The regions of [base, base + len), len a multiple of 512. -/
def regionsOf (base len : Nat) : List Nat := (List.range (len / 512)).map (fun k => base / 512 + k)

/-- The bytes of a window's region stand in no near buffer of the device from now on (R206), and no load under way makes an entry of them. R183 has no
home remove one; R206 is followed (log 60, DESIGN CHOICE). -/
def State.dropNearBufs (s : State) (region : Nat) : State :=
  { s with harts := s.harts.map (fun h => (h.1, { h.2 with
      near := h.2.near.filter (fun e => !overlaps e.addr e.data.length (region * 512) 512)
      loads := h.2.loads.map (fun l => l.without (inRegion region 0 512)) })) }

/-- One region of this device registered at its home to window n of core c (R295): dirty bytes to HBM, the entry dropped, sharers trimmed; what is
forwarded waits until other devices have answered (R189). -/
def State.registerRegion (s : State) (c n region : Nat) : State :=
  let hm := s.homeAt (s.core c) (region * 512)
  let y := s.home hm
  let s := (y.entries.filter (fun e => e.region == region && e.dlen != 0)).foldl (fun s e =>
    s.toHbm hm e (e.lo + e.dlo) (e.lo + e.dlo + e.dlen)) s
  let s := ((s.trimAllCores region 0 512).dropNearBufs region).tellDevices none hm (region * 512) 512
  s.modHome hm (fun y => { y with
    entries := y.entries.filter (fun e => e.region != region)
    dir := y.dir.filter (fun d => d.region != region)
    windows := y.windows ++ [(region, c, n)] })

/-- What other devices are told of a window over [base, base + len): each the part that is its own. -/
def State.tellWindow (s : State) (base len : Nat) (on : Bool) : State :=
  let far := (regionsOf base len).filter (fun r => devOf (r * 512) != s.devnum)
  ((far.map (fun r => devOf (r * 512))).eraseDups).foldl (fun (s : State) d =>
    let rs := far.filter (fun r => devOf (r * 512) == d)
    s.sendOut (planeOf (rs.headD 0 * 512)) (.window (rs.headD 0 * 512) (512 * rs.length) on) .nothing) s

/-- A window entry installed, whole. -/
def State.installWindow (s : State) (c n : Nat) (w : Window) : State := s.modCore c (fun x => { x with windows := put n w x.windows })

/-- What WMAP answers before it looks at the pages of G (R295); none where it goes on. -/
def State.mapRefused (s : State) (c n : Nat) (w : Window) (reserved : Bool) : Option Nat :=
  let ws := (s.core c).windows
  if (find n ws).any (fun x => x.valid) || reserved || w.len = 0 || decide (0x18000 < w.off + w.len) then some 1
  else if ws.any (fun x => x.2.valid && overlaps x.2.off x.2.len w.off w.len) then some 2
  else none

/-- WMAP once the pages of G have passed their check, or without G (R295): what it answers; none while a home of this device is busy with a region.
Regions of other devices are registered there, which they refuse or not: one free answer for all of them (log 19). -/
def State.mapWindow (s : State) (c n : Nat) (w : Window) (arena : Bool) : Option (State × Word) :=
  let far := (regionsOf w.base w.len).filter (fun r => devOf (r * 512) != s.devnum)
  let rs := (regionsOf w.base w.len).filter (fun r => devOf (r * 512) == s.devnum)
  if w.base = 0 then some (s.installWindow c n w, 0)
  else if w.base % 512 != 0 || arena then some (s, 3)
  else if (regionsOf w.base w.len).any (fun r => zone (r * 512) != .mem) then some (s, 4)
  else if rs.any (fun r => (s.home (s.homeAt (s.core c) (r * 512))).regionBusy r) then none
  else if rs.any (fun r => (s.windowOf (s.homeAt (s.core c) (r * 512)) r).isSome) then some (s, 4)
  else
    let st := if far.isEmpty then 0 else (Config.outsideByte s.free w.base).toNat % 2 * 4
    let s := if far.isEmpty then s else s.drawFree.tellWindow w.base w.len true
    if st != 0 then some (s, word st)
    else
      let s := rs.foldl (fun s r => s.registerRegion c n r) s
      some ((far.foldl (fun s r => (s.trimAllCores r 0 512).dropNearBufs r) s).installWindow c n w, 0)

/-- The window entry that WMAP's operands describe (R294, R295). -/
def windowFrom (base : Nat) (v : Word) : Window := ⟨true, false, base, bf v 0 8 * 512, bf v 8 8 * 512, bit v 16, none, false⟩

/-- WMAP (R295). While entry n drains it waits, and a CANCEL then lets it complete, unless its operands are such that it will answer 1 (R299). -/
def slotWmap (rd ra rb n : BitVec 5) (pre cur : State) : Eff :=
  let cid := coreOf pre.cur
  let base := (pre.me.getG ra).toNat
  let v := pre.me.getG rb
  let w := windowFrom base v
  let wait : Eff := .wait (if bf v 17 47 = 0 then pre.modMe (fun x => { x with wait := .wmap n.toNat w }) else pre)
  if (find n.toNat (pre.core cid).windows).any (fun x => x.draining) then wait
  else match pre.mapRefused cid n.toNat w (bf v 17 47 != 0) with
    | some code => okG cur rd (word code)
    | none =>
      let go (arena : Bool) : Eff :=
        match cur.mapWindow cid n.toNat w arena with
        | some (s, code) => okG s rd code
        | none => wait
      if base = 0 then go false
      else checked pre .store [(base, w.len)] (go (((pre.core cid).plbAt base).any (fun e => e.arena && zone base == .mem)))

/-- A WMAP of core c whose task was cancelled in its wait goes on (R299): none while it still waits. What it would have trapped on, or
answered, no one sees. -/
def State.finishWmap (s : State) (c n : Nat) (w : Window) (dom : BitVec 16) : Option State :=
  if (find n (s.core c).windows).any (fun x => x.draining) then none
  else if (s.mapRefused c n w false).isSome || (w.base != 0 && (s.allowedExt dom .store w.base w.len).isSome) then some s
  else (s.mapWindow c n w ((s.entryOf (s.core c) w.base).any (fun e => e.arena && zone w.base == .mem))).map (fun r => r.1)

/-- Every WMAP that core c has still to complete is tried (R299); while one waits, they are tried again. -/
def State.finishWmaps (s : State) (c : Nat) : State :=
  let s := (s.core c).wmaps.foldl (fun s e =>
    match s.finishWmap c e.1 e.2.1 e.2.2 with
    | some s' => s'.modCore c (fun x => { x with wmaps := removeFirst (fun y => y == e) x.wmaps })
    | none => s) s
  match (s.core c).wmaps with
  | [] => s
  | e :: _ => s.push (.wunmapDrainComplete c e.1)

/-- WMAP issued alone. -/
def execWmap (sp : Bool) (rd : BitVec 5) (ra : BitVec 5) (rb : BitVec 5) (n : BitVec 5) (s : State) : Result :=
  issue (.wmap sp rd ra rb n) false sp (slotWmap rd ra rb n) s

/-- WUNMAP (R296): the entry drains, and the write-back goes on by itself. -/
def slotWunmap (rd rb n : BitVec 5) (pre cur : State) : Eff :=
  let cid := coreOf pre.cur
  let v := pre.me.getG rb
  if !(v == 0 || (bit v 6 && bf v 7 57 == 0)) then .trap .illegal 0 0
  else match find n.toNat (pre.core cid).windows with
    | some w =>
      if w.valid && !w.draining then
        okG ((cur.installWindow cid n.toNat { w with draining := true, ctr := if v = 0 then none else some (bf v 0 6) }).push
          (.wunmapDrainComplete cid n.toNat)) rd 0
      else okG cur rd 1
    | none => okG cur rd 1

/-- WUNMAP issued alone. -/
def execWunmap (sp : Bool) (rd : BitVec 5) (rb : BitVec 5) (n : BitVec 5) (s : State) : Result :=
  issue (.wunmap sp rd rb n) false sp (slotWunmap rd rb n) s

end Sys2Proof.Machine
end

