-- ==== Sys2Proof/Machine/TaskOps.lean ====
section
/-! DEFINITION. The task group: counters, EXIT, YIELD, LAUNCH, CANCEL, BAR (R304 to R322, R166). -/

namespace Sys2Proof.Machine

/-! ### Counter instructions -/

/-- SETC (R305): it fires nothing, and a zero wakes the counter's waiters (R322). -/
def slotSetc (ra : BitVec 5) (ctr : BitVec 6) (pre cur : State) : Eff :=
  let v := pre.me.getG ra
  let cid := coreOf pre.cur
  if pre.me.storeHeld true then .wait pre
  else if 2 ^ 40 ≤ v.toNat then .trap .counter 0 (zext ctr)
  else
    let s := cur.modCore cid (fun c => c.setCount ctr.toNat v.toNat)
    .ok (if v = 0 then s.wakeCtr cid ctr.toNat else s) none

/-- SETC issued alone. -/
def execSetc (sp : Bool) (ra : BitVec 5) (ctr : BitVec 6) (s : State) : Result :=
  issue (.setc sp ra ctr) false sp (slotSetc ra ctr) s

/-- DECC (R302, R305). -/
def slotDecc (ra : BitVec 5) (ctr : BitVec 6) (pre cur : State) : Eff :=
  let d := pre.me.getG ra
  let cid := coreOf pre.cur
  if pre.me.storeHeld true then .wait pre
  else if (pre.core cid).count ctr.toNat < d.toNat then .trap .counter 0 (zext ctr)
  else if pre.mustWait cid ctr.toNat d.toNat then .wait pre
  else .ok (cur.decrement cid ctr.toNat d.toNat (pre.me.task.setWidth 32) 0 0 0 0 none) none

/-- DECC issued alone. -/
def execDecc (sp : Bool) (ra : BitVec 5) (ctr : BitVec 6) (s : State) : Result :=
  issue (.decc sp ra ctr) false sp (slotDecc ra ctr) s

/-- GETC (R306). -/
def slotGetc (rd : BitVec 5) (ctr : BitVec 6) (pre cur : State) : Eff :=
  okG cur rd (word ((pre.core (coreOf pre.cur)).count ctr.toNat))

/-- GETC issued alone. -/
def execGetc (sp : Bool) (rd : BitVec 5) (ctr : BitVec 6) (s : State) : Result :=
  issue (.getc sp rd ctr) false sp (slotGetc rd ctr) s

/-- WAITC (R308): a safe-point bundle's wait ends with 2 when pre-emption is requested; completion acquires. -/
def slotWaitc (sp : Bool) (rd : BitVec 5) (ctr : BitVec 6) (pre cur : State) : Eff :=
  let zero := (pre.core (coreOf pre.cur)).count ctr.toNat == 0
  if zero || pre.me.wait == .released then okG cur.acquireMe rd 1
  else if sp && pre.me.preempt.isSome then okG cur rd 2
  else .wait (pre.modMe (fun x => { x with wait := .ctr ctr.toNat }))

/-- WAITC issued alone. -/
def execWaitc (sp : Bool) (rd : BitVec 5) (ctr : BitVec 6) (s : State) : Result :=
  issue (.waitc sp rd ctr) false sp (slotWaitc sp rd ctr) s

/-- BINDC (R301, R307). -/
def slotBindc (rd ra : BitVec 5) (ctr : BitVec 6) (pre cur : State) : Eff :=
  let cid := coreOf pre.cur
  let x := ctr.toNat
  let a := (pre.me.getG ra).toNat
  let c := pre.core cid
  if a = 0 then okG (cur.modCore cid (fun c => { c with bind := drop x c.bind })) rd 0
  else if a % 64 != 0 then .trap .queue 0 (word a)
  else
    checked pre .load [(a, 64)]
      (if (c.handlerOf x).isSome || (find x c.bind).isSome then okG cur rd 1
      else if pre.me.loadHeld [(a, 64)] then .wait pre
      else readable pre a 64
        (let (bs, s) := cur.readAtIssue pre.cur a 64
        let d := wordsOf bs
        let p := pre.partOf (clusterOf pre.cur)
        if pre.malformed (dieOf pre.cur) p d then okG s rd 2
        else okG (s.modCore cid (fun c => { c with bind := put x ⟨d, pre.me.dom, BitVec.ofNat 4 p, pre.me.task.setWidth 32⟩ c.bind })) rd 0))

/-- BINDC issued alone. -/
def execBindc (sp : Bool) (rd : BitVec 5) (ra : BitVec 5) (ctr : BitVec 6) (s : State) : Result :=
  issue (.bindc sp rd ra ctr) false sp (slotBindc rd ra ctr) s

/-! ### EXIT and YIELD -/

/-- EXIT (R302, R317): it issues under the release rule, and where its decrements on its own core would wait, the hart stays. -/
def slotExit (pre cur : State) : Eff :=
  if pre.me.storeHeld true then .wait pre
  else match pre.me.job with
    | none => .leave (cur.freeHart pre.cur)
    | some t => if pre.endWaits (coreOf pre.cur) t then .wait pre else .leave (cur.endTask pre.cur false)

/-- EXIT issued alone. -/
def execExit (sp : Bool) (s : State) : Result :=
  issue (.exit sp) false sp slotExit s

/-- YIELD (R166, R320): with a ready task waiting and a save slot free, the task is saved; the mask is the following bundle's when the YIELD
bundle has S = 1. One that does not save meets no requested pre-emption, with S = 1 either. -/
def slotYield (sp : Bool) (pre cur : State) : Eff :=
  let x := pre.me
  if !(pre.core (coreOf pre.cur)).runq.isEmpty && x.freeSlot.isSome then
    let pc := successor x.pc sp
    let s := cur.forgetAbsent.moveOn none sp
    let (gl, vl) := if sp then pre.maskAfter pre.cur x.pc else (BitVec.allOnes 32, BitVec.allOnes 32)
    .leave (s.save pre.cur pc gl vl false)
  else .leave (cur.forgetAbsent.moveOn none sp)

/-- YIELD issued alone. -/
def execYield (sp : Bool) (s : State) : Result :=
  issue (.yield sp) false sp (slotYield sp) s

/-! ### LAUNCH -/

/-- LAUNCH (R314). -/
def slotLaunch (rd ra : BitVec 5) (pre cur : State) : Eff :=
  let a := (pre.me.getG ra).toNat
  if a % 64 != 0 then .trap .queue 0 (word a)
  else
    checked pre .load [(a, 64)]
      (if pre.me.storeHeld true then .wait pre
      else readable pre a 64
        (let (bs, s) := cur.readAtIssue pre.cur a 64
        let d := wordsOf bs
        let (s, st) := s.submit (dieOf pre.cur) d pre.me.dom (pre.partOf (clusterOf pre.cur))
        okG s rd (word st)))

/-- LAUNCH issued alone. -/
def execLaunch (sp : Bool) (rd : BitVec 5) (ra : BitVec 5) (s : State) : Result :=
  issue (.launch sp rd ra) false sp (slotLaunch rd ra) s

/-! ### CANCEL -/

/-- A cancelled task that held no hart retires on core cid (R318): at once, or once its stores are acknowledged and the run queue has room for
what it fires (R302). -/
def State.retireQueued (s : State) (cid : Nat) (t : Task) : State :=
  let s := match t.saved with
    | some r => s.freeSlotOf r
    | none => s
  if s.endWaits cid t || !t.stores.isEmpty then
    (s.modCore cid (fun c => { c with ending := c.ending ++ [(noHart, t, true)] })).push (.taskDispatch (4 * cid))
  else ((s.dropWalks t).taskEnds cid t true).trace (cid / 16) 3 t.corr (s.coreLoc cid * 4)

/-- A task that holds a hart is cancelled (R159, R318): it ends at its next boundary, and one that is parked or waits, in a bundle or for the
result of an operation, ends at once where its accesses are done; in a halted cluster, when the cluster resumes (R354). -/
def State.cancelHart (s : State) (h : Nat) : State :=
  let x := s.hart h
  let flag (s : State) : State := s.modHart h (fun y => { y with cancelled := true })
  if (s.cluster (clusterOf h)).dbg.halted then flag s
  else match x.run with
    | .parked => s.cancelParked h
    | .free => s
    | r =>
      if r = .blocked || x.busy.isSome then
        -- its waiting bundle never issues, whatever it waits for comes to; but a WMAP completes (R299)
        let s := match x.wait with
          | .wmap .. => s
          | _ => (s.withdraw h).modHart h (fun y => { y with wait := .none })
        if s.mayEnd h then s.endTask h true else flag s
      else flag s

/-- Every task that satisfies p is cancelled, but not those that hold a hart outside the table. A handler task that is only created, its arrival or
decrement waiting in a port for run-queue room (R309), is not reached and becomes ready later: the spec does not say whether a teardown reaches it
(log 64, DESIGN CHOICE). -/
def State.cancelTasks (s : State) (p : Task → Bool) : State :=
  let s := s.coreIds.foldl (fun s cid =>
    let c := s.core cid
    let gone := (c.runq.map (fun e => e.2) ++ c.deque.map (fun e => e.2)).filter p
    let away := c.ctxIn.filter (fun m => p m.task)
    let s := s.modCore cid (fun c => { c with
      runq := c.runq.filter (fun e => !p e.2), deque := c.deque.filter (fun e => !p e.2), ctxIn := c.ctxIn.filter (fun m => !p m.task) })
    let s := away.foldl (fun s m => (s.releaseReservation m.dest).retireQueued cid { m.task with saved := none }) s
    gone.foldl (fun s t => s.retireQueued cid t) s) s
  (s.harts.map (fun h => h.1)).foldl (fun s h => match (s.hart h).job with
    | some t => if p t then s.cancelHart h else s
    | none => s) s

/-- The launches beneath a counter (R314, R318), as (die, launch counter): those with a live task. -/
def State.launchesUnder (s : State) (d : Nat) (level id : Nat) : List (Nat × Nat) :=
  let up (l : Nat) (dc : List (Nat × DCtr)) (par : Nat) : List Nat := (dc.filter (fun x => x.2.count != 0 && (l == 0 || x.2.parent == par))).map (fun x => x.1)
  let ofGraph (d g : Nat) : List (Nat × Nat) := (up 1 (s.die d).launches g).map (fun n => (d, n))
  let ofPhase (d p : Nat) : List (Nat × Nat) := (up 1 (s.die d).graphs p).flatMap (ofGraph d)
  let ofJob (j : Nat) : List (Nat × Nat) :=
    (s.dies.map (fun x => x.1)).flatMap (fun d => (up 1 (s.die d).phases j).flatMap (ofPhase d))
  match level with
  | 0 => if ((s.die d).launchCtr id).count = 0 then [] else [(d, id)]
  | 1 => ofGraph d id
  | 2 => ofPhase d id
  | _ => ofJob id

/-- One launch cancelled (R318, R328): its tasks not yet admitted leave it, its walks are aborted, its tasks end. -/
def State.cancelLaunch (s : State) (d n : Nat) : State :=
  let mine (l : Launch) : Bool := bf (dw l.desc 3) 52 12 == n
  let waiting := ((s.die d).admission.filter mine).foldl (fun k l => k + (bf (dw l.desc 2) 0 32 + 1 - l.next)) 0
  let s := s.modDie d (fun x => { x with admission := x.admission.filter (fun l => !mine l) })
  let s := if waiting = 0 then s else s.closeLaunch d n waiting true
  let s := (s.clusters.map (fun k => k.1)).foldl (fun s k =>
    ((s.cluster k).glean.filter (fun w => w.2.launch == some ⟨d, n⟩)).foldl (fun s w => s.abortWalk k w.1 1) s) s
  s.cancelTasks (fun t => t.launch == some ⟨d, n⟩)

/-- A handler task of a core of partition p. -/
def State.handlerOfPart (s : State) (p : Nat) (t : Task) : Bool :=
  match t.kind with
  | .handler c .. => s.partOf? (c / 16) == some p
  | _ => false

/-- Teardown of job p after its cancellation (R319): the partition's handler tasks end, its Drill counters read zero, the job is torn
down. -/
def State.tearDown (s : State) (p : Nat) : State :=
  let s := s.cancelTasks (s.handlerOfPart p)
  let clear (m : List (Nat × DCtr)) : List (Nat × DCtr) := m.map (fun x => if x.2.owner.toNat = p then (x.1, { x.2 with count := 0 }) else x)
  let s := (s.dies.map (fun d => d.1)).foldl (fun s d => s.modDie d (fun x => { x with
    launches := clear x.launches, graphs := clear x.graphs, phases := clear x.phases })) s
  let s := State.releaseClocks { s with jobs := clear s.jobs }
  s.setReg (0x1000 + 32 * p) (s.partWord p 0 ||| ((1 : Word) <<< 61))

/-- How many counters a level has (R314). -/
def levelCount : Nat → Nat
  | 0 => 4096
  | 1 => 256
  | 2 => 64
  | _ => 16

def levelOf : Nat → Level
  | 0 => .launch
  | 1 => .graph
  | 2 => .phase
  | _ => .job

/-- CANCEL (R318, R319). The hart that issues it runs, whatever it waited for before; a task that cancels itself ends at its next bundle
boundary. A teardown of a job whose counter reads zero is made for the hart's own job only (log 54). -/
def slotCancel (rd ra : BitVec 5) (op : BitVec 4) (pre cur : State) : Eff :=
  let v := pre.me.getG ra
  let level := op.toNat % 4
  let id := bf v 0 12
  let d := bf v 12 2
  let p := pre.partOf (clusterOf pre.cur)
  let x := pre.dctr d (levelOf level) id
  let job := if level = 3 then id else p
  if bf v 14 50 != 0 || levelCount level ≤ id then .trap .illegal 0 0
  else if bit op 3 && !pre.me.privileged then .trap .privileged 0 0
  else if x.owner.toNat != p && x.count != 0 then okG cur rd (2 <<< 62)
  else if bit (pre.partWord job 0) 61 then okG cur rd (3 <<< 62)
  else if bit op 2 then okG cur rd (word ((if x.cancelled then 2 ^ 40 else 0) + x.count))
  else if x.count = 0 && !(bit op 3 && job = p) then okG cur rd (1 <<< 62)
  else
    let s := cur.modMe (fun y => { y with run := .running })
    let s := (pre.launchesUnder d level id).foldl (fun s l => s.cancelLaunch l.1 l.2) s
    let s := if bit op 3 then s.tearDown job else s
    okG s rd (if x.count = 0 then 1 <<< 62 else 0)

/-- CANCEL issued alone. -/
def execCancel (sp : Bool) (rd : BitVec 5) (ra : BitVec 5) (op : BitVec 4) (s : State) : Result :=
  issue (.cancel sp rd ra op) false sp (slotCancel rd ra op) s

/-! ### BAR -/

/-- The default count of the hart's task (R321). -/
def Hart.barCount (x : Hart) : Nat :=
  match x.job with
  | some t => t.barDefault
  | none => 1

/-- Every hart that has arrived is released (R321), and the generation's boosts end (R333). -/
def State.releaseBarrier (s : State) (k b : Nat) (arrived : List Nat) : State :=
  let s := s.modCluster k (fun c => { c with barriers := drop b c.barriers })
  let s := arrived.foldl (fun s h => s.modHart h Hart.release) s
  ((List.range 16).filter (fun c => !(s.core (16 * k + c)).boosts.isEmpty)).foldl (fun s c =>
    s.modCore (16 * k + c) (fun x => x.unboost (fun e => e.1 == b))) s

/-- The hart that issues arrives at barrier b of its cluster and waits (R321); a boost for it ends (R333). -/
def State.arrive (s : State) (b : Nat) (g : Barrier) : State :=
  ((s.modCluster (clusterOf s.cur) (fun c => { c with barriers := put b { g with arrived := g.arrived ++ [s.cur] } c.barriers })).modMe
    (fun x => { x with wait := .bar b })).modCore (coreOf s.cur) (fun x => x.unboost (fun e => e == (b, s.cur)))

/-- BAR (R321): the last arrival releases all; a released bundle retires, and acquires. Its checks are made before it waits for the release
(R41). -/
def slotBar (ra : BitVec 5) (bar : BitVec 3) (pre cur : State) : Eff :=
  let x := pre.me
  let k := clusterOf pre.cur
  let b := bar.toNat
  let q := if ra != 0 && x.getG ra != 0 then (x.getG ra).toNat else x.barCount
  let g := (find b (pre.cluster k).barriers).getD ⟨q, []⟩
  if x.wait == .released then .ok cur.acquireMe none
  else if x.wait == .bar b then .wait pre
  else if 64 < q || g.count != q then .trap .counter 0 (word (64 + b))
  else if x.storeHeld true then .wait pre
  else if q ≤ g.arrived.length + 1 then .ok ((cur.releaseBarrier k b g.arrived).acquireMe) none
  else .wait (pre.arrive b g)

/-- BAR issued alone. -/
def execBar (sp : Bool) (ra : BitVec 5) (bar : BitVec 3) (s : State) : Result :=
  issue (.bar sp ra bar) false sp (slotBar ra bar) s

end Sys2Proof.Machine
end

