-- ==== Sys2Proof/Machine/GleanOps.lean ====
section
/-! DEFINITION. GLEAN, GSTAT and YDECL, and what a Gleaner does with a walk (R323 to R330, R335). -/

namespace Sys2Proof.Machine

/-! ### The iteration-set descriptor -/

/-- An iteration-set descriptor is malformed (R323); the cores of a cluster are mapped out together (R344). -/
def gleanBad (d : List Word) (out : Bool) : Bool :=
  bf (dw d 0) 46 2 != 0 || bf (dw d 0) 35 5 != 0 || bf (dw d 2) 32 32 != 0 || bf (dw d 4) 45 19 != 0 || bf (dw d 6) 45 19 != 0
    || bf (dw d 0) 24 8 == 255 || 4096 < bf (dw d 4) 32 13 || 4096 < bf (dw d 6) 32 13 || bf (dw d 1) 0 2 != 0 || out

/-- Operand extent k of a point with index value idx (R323). -/
def gleanOperand (d : List Word) (k idx : Nat) : Nat × Nat :=
  (((dw d (3 + 2 * k)).toNat + idx * bf (dw d (4 + 2 * k)) 0 32) % 2 ^ 64, bf (dw d (4 + 2 * k)) 32 13)

/-- The deferral bound and the age bound (R323). -/
def gleanDefer (d : List Word) : Nat := if bf (dw d 0) 32 3 = 0 then 3 else bf (dw d 0) 32 3
def gleanAge (d : List Word) : Nat := if bf (dw d 2) 0 32 = 0 then 4096 else bf (dw d 2) 0 32

/-- A core of the cluster is named by the descriptor. -/
def gleanNames (d : List Word) (c : Nat) : Bool := bf (dw d 0) 48 16 == 0 || bit (dw d 0) (48 + c)

/-! ### GLEAN and GSTAT -/

/-- The address lies on an arena page (R329). -/
def State.onArena (s : State) (h a : Nat) : Bool :=
  zone a == .mem && (s.entryOf (s.core (coreOf h)) a).any (fun e => e.arena)

/-- A slot of the cluster's Gleaner that no live walk holds (R329). -/
def Cluster.freeGlean (c : Cluster) : Option Nat :=
  (List.range 4).find? (fun n => !((find n c.glean).any (fun w => w.live)))

/-- The walk that GLEAN starts (R329), pass 1 open. Its points' power class is the one that the GLEAN task has now: a later YDECL of that task does not
change the class of points issued after it, on which R324 and R335 are silent (log 67, DESIGN CHOICE). -/
def State.newWalk (s : State) (h gen a : Nat) (d : List Word) (e : Handler) : GleanWalk :=
  let x := s.hart h
  { gen := gen, live := true, desc := d, descAddr := word a, w0 := e.w0, w1 := e.w1, domain := x.dom
    launch := x.job.bind (fun t => t.launch), cid := coreOf h, corr := x.task.setWidth 32
    power := (x.job.map (fun t => t.power)).getD 0, pinned := x.job.any (fun t => t.pinned), service := x.job.any (fun t => t.service)
    barDefault := x.barCount, part := BitVec.ofNat 4 (s.partOf (clusterOf h)), state := 0, reason := 0, pass := 1
    passStart := s.cycle, passOpen := true, todo := List.range (bf (dw d 0) 0 24 + 1), deferred := [], reissue := [], marks := []
    issued := 0, retired := 0, starved := 0, outstanding := 0, lastCore := none, issuing := none }

/-- The handle of a walk (R329). -/
def State.gleanHandle (s : State) (k gen slot : Nat) : Word := word ((s.devnum * 256 + k) * 4096 + gen * 16 + slot)

/-- GLEAN's refusals (R329). -/
def gleanRefused (n : Nat) : Word := word (2 ^ 63 + n)

/-- GLEAN once its descriptor is read and found good (R329): while no slot is free the bundle waits with it; the handler entry is read as it
stands then. -/
def gleanStart (rd : BitVec 5) (a : Nat) (d : List Word) (pre s : State) : Eff :=
  let k := clusterOf pre.cur
  match (pre.cluster k).freeGlean with
  | none => .wait (s.modMe (fun x => { x with wait := .glean d }))
  | some n =>
    match (pre.core (coreOf pre.cur)).handler? (bf (dw d 0) 24 8) with
    | none => okG s rd (gleanRefused 2)
    | some e =>
      let gen := ((((pre.cluster k).glean.find? (fun w => w.1 == n)).map (fun w => w.2.gen)).getD 0 + 1) % 256
      let s := (s.modCluster k (fun c => { c with glean := put n (pre.newWalk pre.cur gen a d e) c.glean })).push (.gleanerVisit k n)
      okG s rd (pre.gleanHandle k gen n)

/-- GLEAN (R329): the descriptor is read and checked once, before the wait for a slot. -/
def slotGlean (rd ra : BitVec 5) (pre cur : State) : Eff :=
  let a := (pre.me.getG ra).toNat
  match pre.me.wait with
  | .glean d => gleanStart rd a d pre cur
  | _ =>
    if a % 64 != 0 then .trap .queue 0 (word a)
    else
      checked pre .load [(a, 64)]
        (if pre.me.storeHeld true then .wait pre
        else readable pre a 64
          (let (bs, s) := cur.readAtIssue pre.cur a 64
          let d := wordsOf bs
          if gleanBad d (pre.mappedOut (clusterOf pre.cur)) then okG s rd (gleanRefused 1)
          else if pre.onArena pre.cur (dw d 7).toNat then okG s rd (gleanRefused 3)
          else gleanStart rd a d pre s))

/-- GLEAN issued alone. -/
def execGlean (sp : Bool) (rd : BitVec 5) (ra : BitVec 5) (s : State) : Result :=
  issue (.glean sp rd ra) false sp (slotGlean rd ra) s

/-- What GSTAT reports (R330): op 0 and 1, or op 2. -/
def GleanWalk.report (w : GleanWalk) (op : Nat) : Word :=
  if op = 2 then word (w.deferred.length % 2 ^ 24 * 2 ^ 24 + w.starved % 2 ^ 24)
  else word (w.state * 2 ^ 62 + w.reason * 2 ^ 59 + min w.pass 127 * 2 ^ 52 + w.issued % 2 ^ 24 * 2 ^ 24 + w.retired % 2 ^ 24)

/-- GSTAT (R330). A word that is no handle of R329's form is stale. -/
def slotGstat (rd ra op : BitVec 5) (pre cur : State) : Eff :=
  let v := pre.me.getG ra
  let k := clusterOf pre.cur
  let n := bf v 0 2
  let stale := okG cur rd (3 <<< 62)
  match find n (pre.cluster k).glean with
  | none => stale
  | some w =>
    if v != pre.gleanHandle k w.gen n then stale
    else
      let s := if op = 1 then cur.abortWalk k n 2 else cur
      match find n (s.cluster k).glean with
      | some w => okG s rd (w.report op.toNat)
      | none => stale

/-- GSTAT issued alone. -/
def execGstat (sp : Bool) (rd : BitVec 5) (ra : BitVec 5) (op : BitVec 5) (s : State) : Result :=
  issue (.gstat sp rd ra op) false sp (slotGstat rd ra op) s

/-! ### YDECL -/

/-- YDECL (R335): a rise of the class waits for the Yoke's grant unless the launch is pinned. Bits 7:5 of its operand have no effect (log 37). -/
def slotYdecl (rd ra : BitVec 5) (pre cur : State) : Eff :=
  let p := pre.me.getG ra
  let slope := bf p 8 12
  let cls := bf p 0 4
  let keep := bit p 4
  let job := pre.me.job
  let launch := job.bind (fun t => t.launch)
  let old := (job.map (fun t => t.power.toNat)).getD 0
  if bf p 20 44 != 0 then .trap .illegal 0 0
  else if 250 < slope then okG cur rd 1
  else if slope != 0 && launch.isNone then okG cur rd 2
  else
    let rise := Config.classPower cls - Config.classPower old
    match (if keep || rise = 0 || job.any (fun t => t.pinned) then some cur else cur.grant (dieOf pre.cur) rise) with
    | none => .wait pre
    | some s =>
      let s := if keep then s else s.modMe (fun x => { x with job := x.job.map (fun t => { t with power := BitVec.ofNat 4 cls }) })
      let s := match launch with
        | some l => if slope = 0 then s else s.modDie l.die (fun x => { x with slopes := put l.lctr slope x.slopes })
        | none => s
      okG s rd 0

/-- YDECL issued alone. -/
def execYdecl (sp : Bool) (rd : BitVec 5) (ra : BitVec 5) (s : State) : Result :=
  issue (.ydecl sp rd ra) false sp (slotYdecl rd ra) s

/-! ### A Gleaner's visits -/

/-- The Gleaner's read of [a, a + n) for a walk that waits as unit u; none where it fails (R328, R329): its domain may not read the bytes, isolation or a
home refuses them (R187, R345), they are poisoned (R194), or they have not come from outside the device. The core-local window is the GLEAN core's
(log 11). -/
def State.gleanRead (s : State) (u : Nat) (w : GleanWalk) (a n : Nat) : Option Nat :=
  if (s.allowedExt w.domain .load a n).isSome || (List.range n).any (fun k => s.isolates w.part.toNat (a + k) || s.devPoison (a + k)) then none
  else (match zone a with
    | .loc o => some ((List.range n).map (fun k => (s.core w.cid).localByte (o + k)))
    | _ => s.unitLoad u a n).map ofBytes

/-- A visit that needs such a read: it is made again while a home holds the bytes (R189, R343) or they are still to come from outside the device (R278);
a read that fails aborts the walk (R328); else f goes on with what was read. -/
def State.gleanWith (s : State) (k slot : Nat) (w : GleanWalk) (a n reason : Nat) (f : State → Nat → State) : State :=
  let u := gleanUnit k slot w.gen
  if s.devHeld false a n then s.push (.gleanerVisit k slot)
  else match (if (s.allowedExt w.domain .load a n).isSome then none else s.gather u [(a, n)]) with
    | some s => s.push (.gleanerVisit k slot)
    | none => match s.gleanRead u w a n with
      | none => (s.setPosted u Posted.none).abortWalk k slot reason
      | some x => f s x

/-- The core that takes the next point: round-robin over the named cores whose run queue has room (R325). -/
def State.gleanCore (s : State) (k : Nat) (w : GleanWalk) : Option Nat :=
  let start := match w.lastCore with
    | some c => c + 1
    | none => 0
  ((List.range 16).map (fun j => (start + j) % 16)).find? (fun c => gleanNames w.desc c && (s.core (16 * k + c)).room)

/-- The task of point i (R324). -/
def State.pointTask (s : State) (k slot : Nat) (w : GleanWalk) (i idx : Nat) : Task :=
  let start (n : Nat) : Word := if (gleanOperand w.desc n idx).2 = 0 then 0 else word (gleanOperand w.desc n idx).1
  { Task.blank with
    kind := .glean k slot w.gen i
    entry := word (s.devnum * 2 ^ 47 + bf w.w0 0 44 * 8)
    g3 := w.descAddr, args := [word i, word idx, start 0, start 1], corr := w.corr, index := BitVec.ofNat 32 i
    domain := BitVec.ofNat 16 (bf w.w1 48 16), prio := BitVec.ofNat 2 (bf w.w0 61 2), regmask := expandMask w.w1, launch := w.launch
    service := w.service, barDefault := w.barDefault, power := w.power, pinned := w.pinned }

/-- The operand extent's bytes are all held at level 2 (R229, R325). -/
def State.gleanResident (s : State) (w : GleanWalk) (e : Nat × Nat) : Bool := e.2 == 0 || s.resq (4 * w.cid) e.1 e.2 2 == e.2

/-- PREF of an operand extent at level 2 under the walk's domain (R230, R329). -/
def State.gleanPrefetch (s : State) (k : Nat) (w : GleanWalk) (e : Nat × Nat) : State :=
  (s.presentPieces (4 * w.cid) e.1 e.2 true).foldl (fun s p =>
    let c := s.core w.cid
    let page := s.entryOf c p.1
    let hm := s.homeAt c p.1
    if zone p.1 != .mem || devOf p.1 != s.devnum || !(page.any (fun x => x.matches w.domain)) || hm / 8 != k
      || (s.windowOf hm (p.1 / 512)).isSome then s
    else s.prefHome hm p.1 p.2 (s.sharedMask c p.1 p.2)) s

/-- The point leaves the lists of the pass. -/
def GleanWalk.visited (w : GleanWalk) (i : Nat) (deferAgain : Bool) : GleanWalk :=
  { w with
    todo := w.todo.drop 1
    deferred := if deferAgain then (if w.deferred.contains i then w.deferred else w.deferred ++ [i]) else w.deferred.filter (· != i) }

/-- After a visit: the walk goes on with the pass, waits for the next one, or has nothing left to visit (R325). -/
def State.gleanNext (s : State) (k slot : Nat) (w : GleanWalk) : State :=
  let w' := if w.todo.isEmpty && w.passOpen then { w with passOpen := false } else w
  let s := s.modCluster k (fun c => { c with glean := put slot w'.finish c.glean })
  if !w'.reissue.isEmpty || !w'.todo.isEmpty then s.push (.gleanerVisit k slot)
  else if !w'.deferred.isEmpty then s.push (.gleanerPassStart k slot)
  else s

/-- issue(i) of R325: it waits for the Yoke's grant, and then for a named core with room; what the visit has decided stands meanwhile. A
re-issue keeps the old task's place in the launch count and among those outstanding (R327). -/
def State.gleanIssue (s : State) (k slot : Nat) (w : GleanWalk) (p : Issuing) : State :=
  let waits (s : State) (p : Issuing) : State :=
    (s.modCluster k (fun c => { c with glean := put slot { w with issuing := some p } c.glean })).push (.gleanerVisit k slot)
  match (if p.granted then some s else s.grant (k / 64) (Config.classPower w.power.toNat)) with
  | none => waits s p
  | some s => match s.gleanCore k w with
    | none => waits s { p with granted := true }
    | some c =>
      let s := (if p.again then s else s.joinLaunch w.launch).enqueue (16 * k + c) (s.pointTask k slot w p.point p.idx)
      let w := { w with issued := w.issued + 1, lastCore := some c, issuing := none }
      if p.again then s.gleanNext k slot { w with reissue := w.reissue.drop 1 }
      else s.gleanNext k slot { w.visited p.point false with
        outstanding := w.outstanding + 1, starved := if p.resident then w.starved else w.starved + 1 }

/-- The address of point i's index in the index table (R323). -/
def gleanIndexAt (d : List Word) (i : Nat) : Nat := ((dw d 1).toNat + 4 * i) % 2 ^ 64

/-- A point whose stubble bit is clear is visited, its index value read (R325). -/
def State.gleanPoint (s : State) (k slot : Nat) (w : GleanWalk) (i idx : Nat) : State :=
  let e0 := gleanOperand w.desc 0 idx
  let e1 := gleanOperand w.desc 1 idx
  let mark := (find i w.marks).getD (0, s.cycle)
  let resident := s.gleanResident w e0 && s.gleanResident w e1
  if resident || mark.1 = gleanDefer w.desc || (0 < mark.1 && gleanAge w.desc ≤ s.cycle - mark.2) || 1024 ≤ w.deferred.length then
    s.gleanIssue k slot w ⟨i, idx, resident, false, w.pinned⟩
  else
    ((s.gleanPrefetch k w e0).gleanPrefetch k w e1).gleanNext k slot
      { w.visited i true with marks := put i (mark.1 + 1, mark.2) w.marks }

/-- visit(i) of R325, or the re-issue of a point (R327); a read of the walk's tables waits for their home (R189, R343). -/
def State.gleanVisit (s : State) (k slot : Nat) : State :=
  match find slot (s.cluster k).glean with
  | none => s
  | some w =>
    -- what has come from outside the device is not kept beyond the visit
    let seen (s : State) : State := s.setPosted (gleanUnit k slot w.gen) Posted.none
    if w.state != 0 then seen s
    else match w.issuing, w.reissue, w.todo with
      | some p, _, _ => s.gleanIssue k slot w p
      | none, i :: _, _ =>
        s.gleanWith k slot w (gleanIndexAt w.desc i) 4 3 (fun s idx => (seen s).gleanIssue k slot w ⟨i, idx, true, true, w.pinned⟩)
      | none, [], i :: _ =>
        let ctr := bf (dw w.desc 0) 40 6
        s.gleanWith k slot w (((dw w.desc 7).toNat + i / 8) % 2 ^ 64) 1 4 (fun s b =>
          if b / 2 ^ (i % 8) % 2 = 1 then
            if s.mustWait w.cid ctr 1 then s.push (.gleanerVisit k slot)
            else ((seen s).countDown w.cid ctr 5 w.corr).gleanNext k slot { w.visited i false with retired := w.retired + 1 }
          else s.gleanWith k slot w (gleanIndexAt w.desc i) 4 3 (fun s idx => (seen s).gleanPoint k slot w i idx))
      | none, [], [] => s

/-- A later pass begins (R325): the last one has made its last visit, and 512 cycles have passed since it began. -/
def State.gleanPass (s : State) (k slot : Nat) : State :=
  match find slot (s.cluster k).glean with
  | none => s
  | some w =>
    if w.state != 0 || w.passOpen || w.deferred.isEmpty then s
    else if s.cycle < w.passStart + 512 then s.push (.gleanerPassStart k slot)
    else (s.modCluster k (fun c => { c with glean := put slot { w with
        pass := w.pass + 1, passStart := s.cycle, passOpen := true, todo := w.deferred } c.glean })).push (.gleanerVisit k slot)

/-- GLEANER_VISIT (R325). -/
def execGleanerVisit (k slot : Nat) (s : State) : Result := .next (s.gleanVisit k slot)

/-- GLEANER_PASS_START (R325). -/
def execGleanerPassStart (k slot : Nat) (s : State) : Result := .next (s.gleanPass k slot)

end Sys2Proof.Machine
end

