-- ==== Sys2Proof/Machine/HomeEvents.lean ====
section
/-! DEFINITION. What a home slice does with its requests, and how sharers are invalidated (R185 to R194, R206, R221, R223, R270). -/

namespace Sys2Proof.Machine

/-! ### Requests -/

/-- A request waits at home h (R187, R189): behind an earlier one of its region, or of a core of its own, whose channel is held back (R185);
for a store that is not complete; or for the group to be ready (R343). Two fills of a region may pass each other, and a fill passes a store
that it does not overlap. -/
def State.homeBlocked (s : State) (h : Nat) (earlier : List Req) (r : Req) : Bool :=
  !(s.groupReady (h / 8) || s.groupOut (h / 8))
    || earlier.any (fun q => (q.region == r.region && !(q.isFill && r.isFill)) || q.from.any r.from.contains)
    || (s.home h).waits.any (fun w => w.region == r.region && !(r.isFill && !overlaps w.addr w.len r.bounds.1 r.bounds.2))

/-- The first request of a kind that home h can perform, and the input without it. -/
def State.nextReq (s : State) (h : Nat) (kind : Req → Bool) : Option (Req × List Req) :=
  let rec go : List Req → List Req → Option (Req × List Req)
    | _, [] => none
    | before, r :: rest => if kind r && !s.homeBlocked h before r then some (r, before ++ rest) else go (before ++ [r]) rest
  go [] (s.home h).input

/-! ### Acknowledgements and replies -/

def State.ackAll (s : State) (ws : List (Nat × Nat)) (value : Word) (failed : Option Failure) (faddr : Nat) : State :=
  ws.foldl (fun s w => s.ackHart w.1 w.2 value failed faddr) s

/-! ### Sharers -/

/-- The sharers of an entry with the core that a fill goes to: its cluster, or its device (R189, R191). -/
def DirEntry.enter (e : DirEntry) (cid : Nat) : DirEntry :=
  if cid < 4096 then { e with clusters := e.clusters ||| ((1 : BitVec 256) <<< (cid / 16)) }
  else
    let d := cid / 4096 - 1
    if e.remote.contains d then e else if e.remote.length < 4 then { e with remote := e.remote ++ [d] } else { e with overflow := true }

/-- The sharers of an entry without a party: a cluster, or 256 + a device. -/
def DirEntry.leave (e : DirEntry) (p : Nat) : DirEntry :=
  if p < 256 then { e with clusters := e.clusters &&& ~~~ ((1 : BitVec 256) <<< p) } else { e with remote := e.remote.filter (· != p - 256) }

/-- A cluster gives up every shared byte of a region, what is on its way to it included (R188, R190). -/
def State.purgeCluster (s : State) (k region : Nat) : State :=
  ((List.range 16).foldl (fun (s : State) n => s.landFor (16 * k + n) region) s).trimCluster k region 0 512

/-- The directory entries of home h that go where regions are to be recorded: the oldest of each set that is full then (R190). -/
def State.dirVictims (s : State) (h : Nat) (regions : List Nat) : List DirEntry :=
  let d := (s.home h).dir
  let new := (regions.filter (fun r => !d.any (fun e => e.region == r))).eraseDups
  if d.length + new.length ≤ 8 then []
  else ((new.map dirSet).eraseDups).flatMap (fun st =>
    let mine := d.filter (fun e => dirSet e.region == st)
    mine.take (mine.length + (new.filter (fun r => dirSet r == st)).length - 8))

/-- While an entry that goes for some regions has devices, they are told to give its bytes up, and their answers are waited for (R190, R191): what
home h does meanwhile; none where it can record the regions. -/
def State.awaitDir (s : State) (h : Nat) (regions : List Nat) : Option State :=
  (s.dirVictims h regions).findSome? (fun e => match e.devices s.devnum with
    | [] => none
    | ds =>
      if (s.home h).waits.any (fun w => w.region == e.region) then some s
      else some (s.startWait h ⟨[], e.region * 512, 512, e.region, [], ds, false, [], 0, none⟩))

/-- A region recorded in the directory of home h, and its sharers changed; the oldest entry of a full set goes, its clusters trimmed first, and
its devices before that (R190). -/
def State.recordDir (s : State) (h region : Nat) (f : DirEntry → DirEntry) : State :=
  let d := (s.home h).dir
  if d.any (fun e => e.region == region) then
    s.modHome h (fun y => { y with dir := y.dir.map (fun e => if e.region = region then f e else e) })
  else
    let s := match (s.dirVictims h [region]).head? with
      | some old =>
        let s : State := ((List.range 256).filter (fun j => bit old.clusters j)).foldl (fun (s : State) j => s.purgeCluster j old.region) s
        s.modHome h (fun y => { y with dir := y.dir.filter (fun e => e.region != old.region) })
      | none => s
    s.modHome h (fun y => { y with dir := y.dir ++ [f ⟨region, 0, [], false⟩] })

/-- A core that is sent shared bytes enters the directory of home h (R189, R191). -/
def State.enterDir (s : State) (h region cid : Nat) : State :=
  let s := if cid < 4096 then s else s.modHome h (fun y => { y with waits := y.waits.map (fun w =>
    if w.region = region then { w with joined := w.joined ++ [cid / 4096 - 1] } else w) })
  s.recordDir h region (fun e => e.enter cid)

/-- A store of [addr, addr + len) that home h has performed is acknowledged once every sharer has answered (R189, R191). -/
def State.finishStore (s : State) (h : Nat) (ws : List (Nat × Nat)) (addr len : Nat) (value : Word) (failed : Option Failure) : State :=
  let region := addr / 512
  match (s.home h).dir.find? (fun e => e.region == region) with
  | none => s.ackAll ws value failed addr
  | some e =>
    let ks := (List.range 256).filter (fun k => bit e.clusters k)
    let ds := e.devices s.devnum
    if ks.isEmpty && ds.isEmpty then s.ackAll ws value failed addr
    else s.startWait h ⟨ws, addr, len, region, ks, ds, false, [], value, failed⟩

/-! ### Combining groups -/

/-- A posted add that the group takes as a member (R223). -/
def Group.takes (g : Group) (r : Req) : Bool :=
  match r with
  | .atomic _ _ a op z _ _ posted => posted && g.addr == a && g.size == z && g.float == (op == .fadd) && g.members.length < 64
  | _ => false

/-- The request closes the group (R223). -/
def Group.closedBy (g : Group) (r : Req) : Bool :=
  !g.takes r && (overlaps g.addr g.size r.bounds.1 r.bounds.2
    || (g.addr / 512 == r.region && r.from.any (fun c => g.members.any (fun m => coreOf m.1 == c))))

/-- A binary tree over f32 values whose shape is free (R223): two picked values become their rounded sum until one is left. -/
def treeSum (serial : Nat) : Nat → Nat → List Nat → Nat
  | 0, _, xs => xs.headD 0
  | fuel + 1, step, xs =>
    if xs.length < 2 then xs.headD 0
    else
      let i := Config.treePick serial (2 * step) % xs.length
      let rest := xs.eraseIdx i
      let j := Config.treePick serial (2 * step + 1) % rest.length
      treeSum serial fuel (step + 1) (rest.eraseIdx j ++ [amoNew .fadd 4 (xs.getD i 0) (rest.getD j 0) 0])

/-- Where a far atomic is performed: the memory bytes read, the new ones stored, the sharers told (R189, R221, R223). -/
def State.farApply (s : State) (h addr size : Nat) (ws : List (Nat × Nat)) (value : Nat → Word) (f : Nat → Nat) : State :=
  let region := addr / 512
  let lo := addr % 512
  match s.homeFetch h region lo (lo + size) allShared with
  | none => s.ackAll ws 0 (some .refused) addr
  | some s =>
    let es := (s.home h).entries
    let x := ofBytes ((List.range size).map (fun k => (heldByte es region (lo + k)).getD 0))
    let bad := heldPoison es region lo (lo + size)
    let s := s.homeMerge h region lo .shared (toBytes (word (f x)) size) 0 bad
    s.finishStore h ws addr size (value x) (if bad = 0 then none else some .poison)

/-- A group is performed as one operation (R223). -/
def State.performGroup (s : State) (h : Nat) (g : Group) : State :=
  let s := s.modHome h (fun y => { y with groups := y.groups.filter (fun x => x != g) })
  let ops := g.members.map (fun m => m.2.2.toNat % 2 ^ (8 * g.size))
  let n := s.free
  let s := if g.float then s.drawFree else s
  s.farApply h g.addr g.size (g.members.map (fun m => (m.1, m.2.1))) (fun _ => 0) (fun x =>
    if g.float then treeSum n 65 0 (x :: ops) else (x + ops.foldl (· + ·) 0) % 2 ^ (8 * g.size))

/-! ### A home's events -/

/-- A fill that enters its cores in the directory (R189). -/
def Req.recorded : Req → Bool
  | .fill _ _ _ shared cache => shared != 0 && cache
  | _ => false

/-- One request of a kind taken by home h: refused, forwarded to a window, or performed by f once the groups that it closes are, and the
directory has room for it. The event goes on while requests of its kind wait. -/
def State.homeEvent (s : State) (h : Nat) (e : Event) (kind : Req → Bool) (f : State → Req → State) : State :=
  match s.nextReq h kind with
  | none => if (s.home h).input.any kind then s.push e else s
  | some (r, rest) =>
    match (s.home h).groups.find? (fun g => g.closedBy r) with
    | some g =>
      if (s.home h).waits.any (fun w => w.region == g.addr / 512) then s.push e else (s.performGroup h g).push e
    | none => match (if r.recorded && !s.refusesReq h r && (s.windowOf h r.region).isNone then s.awaitDir h [r.region] else none) with
      | some s => s.push e
      | none => (s.modHome h (fun y => { y with input := rest })).serveReq h r f

/-- home_store of R189; a byte mask with gaps fetches its hull first (R214). -/
def State.homeStore (s : State) (h : Nat) (r : Req) : State :=
  match r with
  | .store hid id _ data ref =>
    let (lo, n) := r.bounds
    let region := lo / 512
    let off := lo % 512
    match (if data.length = n then some s else s.homeFetch h region off (off + n) allShared) with
    | none => s.refuseReq h r
    | some s =>
      let es := (s.home h).entries
      let bytes := (List.range n).map (fun k =>
        ((data.find? (fun d => d.1 == lo + k)).map (fun d => d.2)).getD ((heldByte es region (off + k)).getD 0))
      let keep : BitVec 64 := (List.range 64).foldl (fun m k =>
        if off < 8 * k + 8 ∧ 8 * k < off + n ∧ !data.any (fun d => d.1 % 512 / 8 == k) ∧ (heldTag es region k).getD false then
          m ||| ((1 : BitVec 64) <<< k) else m) 0
      let tags : BitVec 64 := if ref then (1 : BitVec 64) <<< (off / 8) else 0
      let old := heldPoison es region off (off + n) &&& keptGranules lo n data
      (s.homeMerge h region off .shared bytes (tags ||| keep) old).finishStore h [(hid, id)] lo n 0 none
  | _ => s

/-- home_fill of R189; a prefetch that names no core leaves the bytes at the home (R229). -/
def State.homeFill (s : State) (h : Nat) (r : Req) : State :=
  match r with
  | .fill ms a n shared cache =>
    let region := a / 512
    let lo := a % 512
    match s.homeFetch h region lo (lo + n) shared with
    | none => s.refuseReq h r
    | some s =>
      let es := (s.home h).entries
      let data := (List.range n).map (fun k => (heldByte es region (lo + k)).getD 0)
      let tags : BitVec 64 := (List.range 64).foldl (fun m k =>
        if (heldTag es region k).getD false then m ||| ((1 : BitVec 64) <<< k) else m) 0
      let s := s.settleHome h region lo (lo + n)
      let s := if shared != 0 && cache then ms.foldl (fun s m => s.enterDir h region m.1) s else s
      s.replyAll h ms ⟨a, data, tags &&& wordMask lo (lo + n), shared, cache, [], false, heldPoison es region lo (lo + n)⟩
  | _ => s

/-- A far atomic: a posted add joins a group, or opens one; any other is performed (R221, R223). -/
def State.farAtomic (s : State) (h : Nat) (r : Req) : State :=
  match r with
  | .atomic hid id a op z b old posted =>
    if posted then
      match (s.home h).groups.find? (fun g => g.takes r) with
      | some g =>
        let g' := { g with members := g.members ++ [(hid, id, b)] }
        let s := s.modHome h (fun y => { y with groups := y.groups.map (fun x => if x = g then g' else x) })
        if g'.members.length = 64 then s.performGroup h g' else s
      | none => (s.modHome h (fun y => { y with groups := y.groups ++ [⟨a, z, op == .fadd, s.cycle, [(hid, id, b)]⟩] })).push (.amoGroupTimeout h)
    else s.farApply h a z [(hid, id)] (amoResult op z) (fun x => amoNew op z x (b.toNat % 2 ^ (8 * z)) old.toNat)
  | _ => s

/-- HOME_STORE (R189). -/
def execHomeStore (h : Nat) (s : State) : Result := .next (s.homeEvent h (.homeStore h) Req.isStore (fun s r => s.homeStore h r))

/-- HOME_FILL (R189). -/
def execHomeFill (h : Nat) (s : State) : Result := .next (s.homeEvent h (.homeFill h) Req.isFill (fun s r => s.homeFill h r))

/-- HOME_WRITEBACK (R185, R189, R231). -/
def execHomeWriteback (h : Nat) (s : State) : Result :=
  .next (s.homeEvent h (.homeWriteback h) Req.isWriteback (fun s r => s.homeWriteback h r))

/-- FAR_ATOMIC (R221, R223). -/
def execFarAtomic (h : Nat) (s : State) : Result := .next (s.homeEvent h (.farAtomic h) Req.isAtomic (fun s r => s.farAtomic h r))

/-- AMO_GROUP_TIMEOUT (R223): a group that is 64 cycles old is performed; the model counts both clocks in its
steps (log 4). -/
def State.groupTimeout (s : State) (h : Nat) : State :=
  let y := s.home h
  match y.groups.find? (fun g => g.since + 64 ≤ s.cycle && !y.waits.any (fun w => w.region == g.addr / 512)) with
  | some g => s.performGroup h g
  | none => if y.groups.isEmpty then s else s.push (.amoGroupTimeout h)

/-- AMO_GROUP_TIMEOUT (R223). -/
def execAmoGroupTimeout (h : Nat) (s : State) : Result := .next (s.groupTimeout h)

/-! ### Invalidations and acknowledgements -/

/-- The oldest item of a kind that is first on its sender's channel to cluster k delivered (R188); `again` is its event. -/
def State.nextDown (s : State) (k : Nat) (want : Down → Bool) (again : Event) : State :=
  match takeDown want (s.cluster k).down with
  | some (d, rest) => (s.modCluster k (fun c => { c with down := rest })).deliverDown k d
  | none => if (s.cluster k).down.any (fun d => want d.2) then s.push again else s

/-- The item is an invalidation, or a reply to core c. -/
def Down.isInval : Down → Bool
  | .inval _ => true
  | .reply .. => false
def Down.isReplyTo (c : Nat) : Down → Bool
  | .inval _ => false
  | .reply c' _ => c' == c

/-- INVALIDATE at cluster k (R192): the oldest invalidation on its channels. -/
def execInvalidate (k : Nat) (s : State) : Result := .next (s.nextDown k Down.isInval (.invalidate k))

/-- The clusters that this device's remote filter names for a region (R191). -/
def State.remoteSharers (s : State) (region : Nat) : List Nat :=
  match find region s.remoteFilter with
  | none => []
  | some v => (List.range 256).filter (fun k => bit v k)

/-- REMOTE_INVALIDATE (R191): device dev's home invalidates bytes of a region; this device's remote filter forwards it to its clusters, or
answers at once. -/
def execRemoteInvalidate (dev region lo hi : Nat) (s : State) : Result :=
  .next (match s.remoteSharers region with
    | [] => s.sendOut (planeOf (region * 512)) (.remoteAck dev region false) .nothing
    | ks => ks.foldl (fun (s : State) k => s.sendDown k (deviceSender dev) (.inval ⟨none, region, lo, hi⟩))
        { s with remoteWaits := s.remoteWaits ++ [(dev, region, ks, false)] })

/-- A wait with no party left is over (R189): its writers are told, and the overflow bit is cleared where every device has answered "none left"
(R191). -/
def State.endWait (s : State) (h : Nat) (w : HomeWait) : State :=
  if w.clusters.isEmpty && w.remotes.isEmpty then
    let s := if w.someLeft || !w.joined.isEmpty then s
      else s.modHome h (fun y => { y with dir := y.dir.map (fun e => if e.region = w.region then { e with overflow := false } else e) })
    s.ackAll w.writers w.value w.failed w.addr
  else s.modHome h (fun y => { y with waits := y.waits ++ [w] })

/-- The wait still wants party p's answer: a cluster, or 256 + a device. -/
def HomeWait.wants (w : HomeWait) (p : Nat) : Bool := if p < 256 then w.clusters.contains p else w.remotes.contains (p - 256)

/-- Party p has answered, or never will: what is left of the wait. -/
def HomeWait.heard (w : HomeWait) (p : Nat) (left : Bool) : HomeWait :=
  if p < 256 then { w with clusters := w.clusters.filter (· != p) }
  else { w with remotes := w.remotes.filter (· != p - 256), someLeft := w.someLeft || left }

/-- INVALIDATE_ACK at home h (R189, R191): the oldest acknowledgement. A party leaves the directory only while it holds no byte of the region
and is being sent none (R190). -/
def State.invalidateAck (s : State) (h : Nat) : State :=
  match (s.home h).acks with
  | [] => s
  | (region, p, none?) :: rest =>
    let wait := (s.home h).waits.find? (fun w => w.region == region && w.wants p)
    let clear := none? && (if p < 256 then !s.clusterHolds p region else wait.any (fun w => !w.joined.contains (p - 256)))
    let s := s.modHome h (fun y => { y with
      acks := rest
      dir := y.dir.map (fun e => if e.region = region && clear then e.leave p else e) })
    match wait with
    | none => s
    | some w => (s.modHome h (fun y => { y with waits := removeFirst (fun x => x == w) y.waits })).endWait h (w.heard p (!none?))

/-- INVALIDATE_ACK (R189). -/
def execInvalidateAck (h : Nat) (s : State) : Result := .next (s.invalidateAck h)

/-- INVALIDATE_TIMEOUT (R193): home h has tried party p, a cluster or 256 + a device, three times without success: it is fenced, its copies are
deemed invalid, and the stores that waited for it are lost to it; they are complete once nobody else's answer is wanted. -/
def State.invalidateTimeout (s : State) (h p : Nat) : State :=
  let y := s.home h
  if !y.waits.any (fun w => w.wants p) then s
  else
    let s := s.modHome h (fun y => { y with
      fenced := if y.fenced.contains p then y.fenced else y.fenced ++ [p]
      waits := y.waits.filter (fun w => !w.wants p)
      dir := y.dir.map (fun e => e.leave p) })
    let s := if p < 256 then s.modCluster p (fun c => { c with down := c.down.filter (fun d => !(d.1 == h && d.2.isInval)) }) else s
    (y.waits.filter (fun w => w.wants p)).foldl (fun s w => s.endWait h { w.heard p false with failed := some .lost }) s

/-- INVALIDATE_TIMEOUT (R193). -/
def execInvalidateTimeout (h party : Nat) (s : State) : Result := .next (s.invalidateTimeout h party)

/-! ### Acknowledgements at a hart -/

/-- An acknowledgement of a piece entered in a list of stores: the list, and the store that it completes. None where no store is its. -/
def takeAck (ps : List PStore) (a : Ack) : Option (List PStore × Option PStore) :=
  (ps.find? (fun p => p.id == a.id)).map (fun p =>
    let p := { p with pieces := p.pieces - 1, fails := match a.failed with
      | some f => p.fails ++ [(f, a.faddr)]
      | none => p.fails }
    if 0 < p.pieces then (ps.map (fun q => if q.id = a.id then p else q), none) else (ps.filter (fun q => q.id != a.id), some p))

/-- A store of hart h is complete (R36, R184, R212, R220). -/
def State.storeDone (s : State) (h : Nat) (p : PStore) (value : Word) : State :=
  let s := s.failStore h p.ret.isSome p.fails
  -- what a refused or lost atomic returns is free
  let gone := p.fails.any (fun f => f.1 != .poison)
  let (v, s) := match p.ret with
    | some (_, n, _) => if gone then (wordOf ((List.range n).map (Config.outsideByte s.free)), s.drawFree) else (value, s)
    | none => (value, s)
  (s.modHart h (fun x =>
    let x := match p.ret with
      | some (r, _, _) => x.setG r v
      | none => x
    if p.acq then x.clearNear else x)).fenceDone h

/-- An acknowledgement for a store of hart h, if it has one. -/
def State.ackStore (s : State) (h : Nat) (a : Ack) : Option State :=
  (takeAck (s.hart h).stores a).map (fun r =>
    let s := s.modHart h (fun x => { x with stores := r.1 })
    match r.2 with
    | some p => s.storeDone h p a.value
    | none => s)

/-- An acknowledgement for a store of a task that waits in a run queue (R162): what it fails in is the task's to report. -/
def Task.ackStore (t : Task) (recovery : Bool) (a : Ack) : Task :=
  match takeAck t.stores a with
  | none => t
  | some (ps, none) => { t with stores := ps }
  | some (ps, some p) =>
    { t with stores := ps, fenceAcc := t.fenceAcc.add recovery p.fails, mchecks := t.mchecks ++ checkOf recovery p.ret.isSome p.fails }

/-- A CLN.st's write-back acknowledged (R231); the last one ends the wait. One that is refused, lost or poisoned counts as a failed store does, in
the status of the next FENCE or as a machine check: R36 and R231 do not say (log 57, DESIGN CHOICE). -/
def State.ackClean (s : State) (h : Nat) (ids : List Nat) (a : Ack) : State :=
  let left := ids.filter (· != a.id)
  let s := (s.modHart h (fun x => { x with busy := some (.clean left) })).failStore h false (match a.failed with
    | some f => [(f, a.faddr)]
    | none => [])
  if left.isEmpty then s.unbusy h else s

/-- An acknowledgement that hart h's CLN, INV or PLBINV waits for, if it is one (R231, R290). -/
def State.ackBusy (s : State) (h : Nat) (a : Ack) : Option State :=
  match (s.hart h).busy with
  | some (.clean ids) => if ids.contains a.id then some (s.ackClean h ids a) else none
  | some (.inv ids) =>
    if ids.contains a.id then
      some (if ids.all (· == a.id) then s.unbusy h else s.modHart h (fun x => { x with busy := some (.inv (ids.filter (· != a.id))) }))
    else none
  | some (.plbinv rd base len scope gone ids far) =>
    if far.contains a.id then some (s.modHart h (fun x => { x with busy := some (.plbinv rd base len scope gone ids (far.filter (· != a.id))) })) else none
  | _ => none

/-- ACK_RECEIVED at hart h (R184, R220, R224, R231): the oldest acknowledgement, for what the hart waits for, for a store of the hart, or of its task
where that has moved within the core meanwhile (R162). -/
def State.ackReceived (s : State) (h : Nat) : State :=
  match (s.hart h).acks with
  | [] => s
  | a :: rest =>
    let s := s.modHart h (fun x => { x with acks := rest })
    match s.ackBusy h a with
    | some s => s
    | none => match s.ackStore h a with
      | some s => s
      | none => match (List.range 4).find? (fun k => (s.hart (4 * coreOf h + k)).stores.any (fun p => p.id == a.id)) with
        | some k => (s.ackStore (4 * coreOf h + k) a).getD s
        | none => (s.heardOrphan a.id).modCore (coreOf h) (fun c =>
          let told (t : Task) : Task := t.ackStore (s.recovery (clusterOf h)) a
          { c with runq := c.runq.map (fun e => (e.1, told e.2)), ending := c.ending.map (fun e => (e.1, told e.2.1, e.2.2)) })

/-- ACK_RECEIVED (R184), at a hart or at a unit. -/
def execAckReceived (h : Nat) (s : State) : Result := .next (if 2 ^ 26 ≤ h then s.unitAck (h - 2 ^ 26) else s.ackReceived h)

/-- A request that waits in an egress may go out (R185, R270): nothing of its cores for its home waits before it, and it is not a request that
others may still join. -/
def mayLeave (cycle : Nat) (before : List (Nat × Req × Nat)) (e : Nat × Req × Nat) : Bool :=
  !before.any (fun q => q.1 == e.1 && q.2.1.from.any e.2.1.from.contains)
    && (e.2.2 + 64 ≤ cycle || (match e.2.1 with
      | .fill ms _ _ _ _ => 16 ≤ ms.length
      | _ => true))

/-- The first request of an egress that may go out, and the others. -/
def nextOut (cycle : Nat) : List (Nat × Req × Nat) → List (Nat × Req × Nat) → Option ((Nat × Req × Nat) × List (Nat × Req × Nat))
  | _, [] => none
  | before, e :: rest => if mayLeave cycle before e then some (e, before ++ rest) else nextOut cycle (before ++ [e]) rest

/-- EGRESS_COMBINE_TIMEOUT (R270): a combined request goes out when it has 16 members, or 64 cycles after its first; what its cores sent to its
home after it follows in order (R185). -/
def State.egressTimeout (s : State) (k : Nat) : State :=
  match nextOut s.cycle [] (s.cluster k).egress with
  | some (e, rest) => (s.modCluster k (fun c => { c with egress := rest })).routeFrom k e.1 e.2.1
  | none => if (s.cluster k).egress.isEmpty then s else s.push (.egressCombineTimeout k)

/-- EGRESS_COMBINE_TIMEOUT (R270). -/
def execEgressCombineTimeout (k : Nat) (s : State) : Result := .next (s.egressTimeout k)

/-- FILL_ARRIVES (R180, R188): the oldest reply to the core on the channels of its cluster. -/
def execFillArrives (c : Nat) (s : State) : Result := .next (s.nextDown (c / 16) (Down.isReplyTo c) (.fillArrives c))

/-- IDLE_COALESCE (R182): a set of a near cache, or of home slice c - 4096; which pair is joined is free. -/
def execIdleCoalesce (c st : Nat) (s : State) : Result :=
  .next (if c < 4096 then (s.modCore c (fun x => { x with nc := idleJoin ncSet st (Config.joinPick s.free) x.nc })).drawFree
    else (s.modHome (c - 4096) (fun y => { y with entries := idleJoin homeSet st (Config.joinPick s.free) y.entries })).drawFree)

/-- PAGE_WALK_COMPLETE (R283, R287): the oldest walk of the core returns a leaf, or finds none for the hart that waits. -/
def State.pageWalkComplete (s : State) (c : Nat) : State :=
  match (s.core c).walks with
  | [] => s
  | w :: rest =>
    let s := s.modCore c (fun x => { x with walks := rest })
    match s.walkUnit (c / 1024) w.addr with
    | some l => (s.holdWalk (c / 1024) w.addr).modCore c (fun x => { x with plb := plbFill x.plb l.plb })
    | none => if w.hid = noHart then s else
      s.modCore c (fun x => { x with absent := if x.absent.contains (w.hid, w.addr / 4096) then x.absent else x.absent ++ [(w.hid, w.addr / 4096)] })

/-- PAGE_WALK_COMPLETE (R287). -/
def execPageWalkComplete (c : Nat) (s : State) : Result := .next (s.pageWalkComplete c)

/-! ### The Bolt -/

/-- One request of a kind taken by cluster k's Bolt, in arrival order (R196). -/
def State.boltEvent (s : State) (k : Nat) (e : Event) (kind : Req → Bool) (f : State → Req → State) : State :=
  match (s.cluster k).bolt.input with
  | [] => s
  | r :: rest =>
    if kind r then
      let s := s.modCluster k (fun c => { c with bolt := { c.bolt with input := rest } })
      if r.from.all (fun c => decide (4096 ≤ c) || s.owns (s.partOf (c / 16)) r.bounds.1) then f s r else s.refuseReq (boltSender k) r
    else if (s.cluster k).bolt.input.any kind then s.push e else s

/-- A store's bytes performed block by block (R199, R201): none where a block is refused. -/
def Bolt.storeAll (b : Bolt) (base : Nat) (data : List (Nat × Byte)) (ref : Bool) : Option Bolt :=
  let cells := data.map (fun d => (d.1 - base, d.2))
  let blocks := (cells.map (fun d => d.1 / 128)).eraseDups
  blocks.foldl (fun acc n => acc.bind (fun b => b.store n (cells.filter (fun d => d.1 / 128 == n)) ref)) (some b)

/-- Where the Bolt window of cluster k begins on this device (R196). -/
def State.boltBaseOf (s : State) (k : Nat) : Nat := s.devnum * 2 ^ 47 + boltBase + k * 2 ^ 22

/-- A store or an atomic at the Bolt (R199, R201, R202, R221). -/
def State.boltStore (s : State) (k : Nat) (r : Req) : State :=
  let base := s.boltBaseOf k
  match r with
  | .store hid id a data ref =>
    match (s.cluster k).bolt.storeAll base data ref with
    | some b => (s.modCluster k (fun c => { c with bolt := b })).ackHart hid id 0 none a
    | none => s.refuseReq (boltSender k) r
  | .atomic hid id a op z b old _ =>
    let bolt := (s.cluster k).bolt
    let x := ofBytes ((List.range z).map (fun j => bolt.byteAt (a - base + j)))
    let bad := (bolt.block ((a - base) / 128)).bad
    match bolt.storeAll base (cellsAt a (toBytes (word (amoNew op z x (b.toNat % 2 ^ (8 * z)) old.toNat)) z)) false with
    | some bolt => (s.modCluster k (fun c => { c with bolt := bolt })).ackHart hid id (amoResult op z x) (if bad then some .poison else none) a
    | none => s.refuseReq (boltSender k) r
  | _ => s

/-- A read at the Bolt (R197, R200): the block is expanded and kept. -/
def State.boltRead (s : State) (k : Nat) (r : Req) : State :=
  let base := s.boltBaseOf k
  match r with
  | .fill ms a n _ _ =>
    let o := a - base
    let bolt := (s.cluster k).bolt
    let data := (List.range n).map (fun j => bolt.byteAt (o + j))
    let tags : BitVec 64 := (List.range 64).foldl (fun m j =>
      let w := a / 512 * 64 + j
      if bit (bolt.block ((8 * w - base) / 128)).tags (w % 16) then m ||| ((1 : BitVec 64) <<< j) else m) 0
    let poison : BitVec 32 := (List.range 32).foldl (fun m j =>
      if (bolt.block ((a / 512 * 512 + 16 * j - base) / 128)).bad then m ||| ((1 : BitVec 32) <<< j) else m) 0
    let blocks := ((List.range n).map (fun j => (o + j) / 128)).eraseDups
    let s := s.modCluster k (fun c => { c with bolt := blocks.foldl (fun b n => b.expand n) c.bolt })
    s.replyAll (boltSender k) ms ⟨a, data, tags &&& wordMask (a % 512) (a % 512 + n), allShared, false, [], false, poison &&& granMask (a % 512) (a % 512 + n)⟩
  | _ => s

/-- BOLT_STORE (R199). -/
def execBoltStore (k : Nat) (s : State) : Result :=
  .next (s.boltEvent k (.boltStore k) (fun r => r.isStore || r.isAtomic) (fun s r => s.boltStore k r))

/-- BOLT_READ (R200). -/
def execBoltRead (k : Nat) (s : State) : Result := .next (s.boltEvent k (.boltRead k) Req.isFill (fun s r => s.boltRead k r))

/-! ### Windows -/

/-- FORWARDED_WINDOW_ACCESS (R206, R207): the oldest forwarded request is performed in the owning core's local memory. -/
def State.windowAccess (s : State) (c : Nat) : State :=
  match (s.core c).fwd with
  | [] => s
  | (h, r) :: rest =>
    let s := s.modCore c (fun x => { x with fwd := rest })
    let far := deviceSender 0 ≤ h
    let n := (if far then ((s.core c).windows.find? (fun w => w.2.holds r.bounds.1 && !w.2.away)).map (fun w => w.1)
      else (s.windowOf h r.region).map (fun w => w.2))
    let at' (a : Nat) : Nat := s.windowOffset c (n.getD 0) a
    -- a window of another device's bytes that has gone back to it meanwhile: that device answers
    if far && n.isNone then s.drawFree.answer (s.planePort (planeOf r.bounds.1)) (s.outsideAnswer r)
    else match r with
    | .store hid id a data _ =>
      (s.modCore c (fun x => data.foldl (fun x d => x.localWrite (at' d.1) [d.2]) x)).ackHart hid id 0 none a
    | .fill ms a len _ _ =>
      s.replyAll h ms ⟨a, (List.range len).map (fun k => (s.core c).localByte (at' (a + k))), 0, allShared, false, [], false, 0⟩
    | .writeback _ a data _ _ _ ack =>
      let s := s.modCore c (fun x => x.localWrite (at' a) data)
      match ack with
      | some (hid, id) => s.ackHart hid id 0 none a
      | none => s
    | .clean hid id a _ => s.ackHart hid id 0 none a
    | .atomic hid id a op z b old _ =>
      let x := ofBytes ((List.range z).map (fun k => (s.core c).localByte (at' a + k)))
      (s.modCore c (fun y => y.localWrite (at' a) (toBytes (word (amoNew op z x (b.toNat % 2 ^ (8 * z)) old.toNat)) z))).ackHart hid id
        (amoResult op z x) none a

/-- FORWARDED_WINDOW_ACCESS (R206). -/
def execForwardedWindowAccess (c : Nat) (s : State) : Result := .next (s.windowAccess c)

/-- Requests for the window's regions are still on their way to the core. -/
def State.windowBusy (s : State) (c n : Nat) (w : Window) : Bool :=
  (s.core c).fwd.any (fun q => if q.1 < deviceSender 0 then s.windowOf q.1 q.2.region == some (c, n) && w.base ≤ q.2.bounds.1
    else w.holds q.2.bounds.1)

/-- One region of a draining window written to its backing memory, and released at the home that registered it (R208, R296). -/
def State.releaseRegion (s : State) (c n : Nat) (w : Window) (region : Nat) : State :=
  let data := (List.range 512).map (fun k => (s.core c).localByte (w.off + (region * 512 + k - w.base)))
  ((s.homes.filter (fun y => y.2.windows.contains (region, c, n))).map (fun y => y.1)).foldl (fun s hm =>
    let s := s.modHome hm (fun y => { y with windows := y.windows.filter (fun x => x != (region, c, n)) })
    if (s.physOf hm (region * 512)).isNone then s else s.homeMerge hm region 0 .shared data 0 0) s

/-- The drain of an entry waits for requests that are on their way to it (R208). -/
def State.drainHeld (s : State) (c n : Nat) : Bool := (find n (s.core c).windows).any (fun w => w.draining && s.windowBusy c n w)

/-- Some bytes of the window have their backing memory on another device. -/
def State.spansOut (s : State) (w : Window) : Bool := w.base != 0 && (regionsOf w.base w.len).any (fun r => devOf (r * 512) != s.devnum)

/-- The bytes of a window whose backing memory is another device's written there, and its regions released there (R208, R296); it serves them no
more. -/
def State.drainOutside (s : State) (c n : Nat) (w : Window) : State :=
  let s := s.modCore c (fun x => { x with windows := put n { w with away := true } x.windows })
  (((extentSplit w.base w.len).filter (fun p => devOf p.1 != s.devnum)).foldl (fun (s : State) p =>
    s.postStores (some (windowUnit c)) p.1 ((List.range p.2).map (fun k => (s.core c).localByte (w.off + (p.1 - w.base) + k))) 0) s).tellWindow
    w.base w.len false

/-- Steps 3 to 5 of R296: the window's bytes written to their backing memory, its regions released, the entry free, the counter told; the entry is
not free before other devices have acknowledged what they were sent. -/
def State.drainWindow (s : State) (c n : Nat) : State :=
  match find n (s.core c).windows with
  | none => s
  | some w =>
    if !w.draining then s
    else if s.spansOut w && !w.away then (s.drainOutside c n w).push (.wunmapDrainComplete c n)
    else if !s.settled (windowUnit c) then s.push (.wunmapDrainComplete c n)
    else
      let s := if w.base = 0 then s else (regionsOf w.base w.len).foldl (fun s r => s.releaseRegion c n w r) s
      let s := s.modCore c (fun x => { x with windows := drop n x.windows })
      match w.ctr with
      | some x => s.countAt c x 2 0
      | none => s

/-- WUNMAP_DRAIN_COMPLETE (R296); the WMAPs that cancelled tasks have left to complete are tried then (R299). -/
def execWunmapDrainComplete (c n : Nat) (s : State) : Result :=
  .next (if s.drainHeld c n then s.push (.wunmapDrainComplete c n) else (s.drainWindow c n).finishWmaps c)

end Sys2Proof.Machine
end

