-- ==== Sys2Proof/Machine/SowerEvents.lean ====
section
/-! DEFINITION. The Sower: walk steps, captures, publication notices and the end of PUB (R217, R225 to R228). -/

namespace Sys2Proof.Machine

/-- The page of an address as cluster k knows it: of this device, under the die's walk unit; of another, an entry that some core's PLB holds, or
what a walk finds. -/
def State.pageAt (s : State) (k a : Nat) : Option PlbEntry :=
  let walked := (s.walkUnit (k / 64) a).map (fun l => l.plb)
  if devOf a = s.devnum then walked
  else ((List.range 16).findSome? (fun c => (s.core (16 * k + c)).plbAt a)).or walked

/-- The publication bit of the granule at a for a walk of cluster k that has published `away` of other devices; none where it lies in no present
object arena page (R216, R217). -/
def State.pubBit (s : State) (k : Nat) (away : List Nat) (a : Nat) : Option Bool :=
  if zone a != .mem then none
  else match s.pageAt k a with
    | some e => if e.arena then some (bit e.mask (a / 64 % 64) || away.contains (a / 64 * 64)) else none
    | none => none

/-- The granules of an object of a length that are captured and searched (R217, R227). -/
def State.objectGranules (s : State) (k o len : Nat) : List Nat :=
  ((List.range (alignUp (max len 8) 64 / 64)).map (fun n => o + 64 * n)).takeWhile (fun g => (s.pubBit k [] g).isSome)

/-- Where the dirty bytes of a granule go: its home, as the die's walk unit places it, or another device. -/
def State.granuleHome (s : State) (k g : Nat) : Nat :=
  if devOf g != s.devnum then deviceSender (devOf g)
  else match s.walkUnit (k / 64) g with
    | some l => homeSlice l.plb g
    | none => 0

/-- A byte as the cluster's caches hold it: a core's dirty byte, else one that a core holds, else the home's. -/
def State.clusterByte (s : State) (k a : Nat) : Byte :=
  let region := a / 512
  let off := a % 512
  let held (c : Nat) : Option Byte := heldByte (s.core (16 * k + c)).nc region off
  match (List.range 16).find? (fun c => !(dirtyRuns (s.core (16 * k + c)).nc region off (off + 1)).isEmpty) with
  | some c => (held c).getD 0
  | none => (((List.range 16).findSome? held).or (s.devByte a)).getD 0

/-- The length of the object at o (R217). -/
def State.objectLength (s : State) (k o : Nat) : Nat := ofBytes ((List.range 4).map (fun i => s.clusterByte k (o + i)))

/-- A message of unit u to other devices, whose acknowledgement it waits for (R228). -/
def State.unitSends (s : State) (u a : Nat) (m : OutMsg) : State := (s.owe u 1).sendOut (planeOf a) m (.unit u ⟨none, none, []⟩)

/-- Bit g of the mask of the page at an address set, in memory and in the cluster's PLB entries (R227, step 4), for a walk that waits as unit u. -/
def State.setPubBit (s : State) (k u a : Nat) : State :=
  let b : BitVec 64 := (1 : BitVec 64) <<< (a / 64 % 64)
  let s := if devOf a != s.devnum then s.unitSends u a (.publish a)
    else match s.walkUnit (k / 64) a with
      | none => s
      | some l => s.writeHbmWord (l.ptr / 8192 * 8192 + 0x2000 + l.ptr % 8192 / 2) (l.plb.mask ||| b)
  (List.range 16).foldl (fun s c => s.modCore (16 * k + c) (fun x => { x with
    plb := x.plb.map (fun e => if e.covers a then { e with mask := e.mask ||| b } else e) })) s

/-- The dirty bytes of a granule that a core holds written to their home (R227, step 2); unit u waits for the acknowledgement of another device's
(R228). -/
def State.captureDirty (s : State) (u cid hm g : Nat) : State :=
  (dirtyRuns (s.core cid).nc (g / 512) (g % 512) (g % 512 + 64)).foldl (fun s d =>
    let x := d.1.sub d.2.1 d.2.2
    if devOf g != s.devnum then
      (s.owe u 1).route hm (.writeback cid (g / 512 * 512 + d.2.1) x.data x.tags .shared x.poison (some (unitHart u, 0)))
    else s.homeMerge hm (g / 512) d.2.1 .shared x.data x.tags x.poison) s

/-- The private bytes of a granule that its home holds are shared from now on, and the region is recorded (R227, steps 2 and 3). -/
def State.shareAtHome (s : State) (hm g : Nat) : State :=
  let region := g / 512
  let lo := g % 512
  let s := s.modHome hm (fun y => { y with entries := y.entries.flatMap (fun e =>
    if e.region = region ∧ e.cls = .priv ∧ lo < e.hi ∧ e.lo < lo + 64 then
      { e.sub (max lo e.lo) (min (lo + 64) e.hi) with cls := .shared } :: e.trim region lo (lo + 64)
    else [e]) })
  (s.settleHome hm region lo (lo + 64)).recordDir hm region id

/-- One granule captured (R227, steps 2 to 4), for a walk that waits as unit u. What is on its way to a core of the cluster lands first; a fill that is
still to come brings none of these bytes to a near cache, and a load that has taken some of them asks for its piece once more: they are shared from now
on (R236). -/
def State.captureGranule (s : State) (k u g : Nat) : State :=
  let hm := s.granuleHome k g
  let mine := devOf g == s.devnum
  let s := s.drainWritebacks [k] hm (g / 512)
  let s := (List.range 16).foldl (fun s c =>
    let cid := 16 * k + c
    (((s.landFor cid (g / 512)).captureDirty u cid hm g).giveUpAt cid (inRegion (g / 512) (g % 512) (g % 512 + 64))).dropNear cid (g / 512) (g % 512) (g % 512 + 64)) s
  (if mine then s.shareAtHome hm g else s).setPubBit k u g

/-- The first tagged word of an object from an offset on, within its length and granules (R226): a word that begins within the length but does not end
there is none, which the rule leaves open (log 68, DESIGN CHOICE). -/
def State.nextTagged (s : State) (gs : List Nat) (o off len : Nat) : Option Nat :=
  (gs.flatMap (fun g => (List.range 8).map (fun j => g + 8 * j - o))).find? (fun p => off ≤ p && 8 ≤ p && p + 8 ≤ max len 8 && s.devTag (o + p))

/-- The clusters whose cores a notice of a scope reaches (R228). -/
def State.noticeClusters (s : State) (k : Nat) (scope : BitVec 2) : List Nat :=
  if scope.toNat < 2 then [k] else ((k :: s.coreIds.map (fun c => c / 16)).eraseDups)

/-- A walk with its result; 0 sends the notices (R228). -/
def State.endWalk (s : State) (k n : Nat) (w : SowerWalk) (result : Word) : State :=
  if w.hid = noHart && result != 0 then s.modCluster k (fun c => { c with walks := drop n c.walks })
  else
    let ks := if result = 0 then s.noticeClusters k w.scope else []
    let s := if result = 0 && w.scope = 3 then s.unitSends (sowerUnit k n) (w.pages.headD 0 * 4096) (.notice w.pages) else s
    let s := s.modCluster k (fun c => { c with walks := put n { w with result := some result, waiting := ks } c.walks })
    let s := ks.foldl (fun s j => (s.modCluster j (fun c => { c with notices := c.notices ++ [⟨16 * k + n, w.pages, w.away⟩] })).push (.publicationNotice j)) s
    if ks.isEmpty then s.push (.pubComplete w.hid) else s

/-- A walk that goes on. -/
def State.goOn (s : State) (k n : Nat) (w : SowerWalk) : State :=
  (s.modCluster k (fun c => { c with walks := put n w c.walks })).push (.sowerWalkStep k)

/-- The object at o captured, and counted in walk n (R226, R227). -/
def State.captureObject (s : State) (k n : Nat) (w : SowerWalk) (gs : List Nat) : State × SowerWalk :=
  (gs.foldl (fun s g => s.captureGranule k (sowerUnit k n) g) s, { w with
    counted := w.counted + 1
    pages := w.pages ++ ((gs.map (fun g => g / 4096)).eraseDups.filter (fun p => !w.pages.contains p))
    away := w.away ++ gs.filter (fun g => devOf g != s.devnum) })

/-- What the homes of an object's granules do before they can record its regions (R190, R227); none where all can. -/
def State.awaitDirs (s : State) (k : Nat) (gs : List Nat) : Option State :=
  let own := gs.filter (fun g => devOf g == s.devnum)
  ((own.map (s.granuleHome k)).eraseDups).findSome? (fun hm => s.awaitDir hm ((own.filter (fun g => s.granuleHome k g == hm)).map (fun g => g / 512)))

/-- One step of walk n of cluster k (R226); it waits while a home that it reads is not ready or has a store under way (R189, R343), or has to make room
in its directory first (R190). -/
def State.walkStep (s : State) (k n : Nat) (w : SowerWalk) : State :=
  match w.frames with
  | [] => s.endWalk k n w 0
  | (slot, []) :: others =>
    if others.all (fun x => x.2.isEmpty) then s.endWalk k n w 0 else s.goOn k n { w with frames := others ++ [(slot, [])] }
  | (slot, (o, off) :: below) :: others =>
    let top (st : List (Nat × Nat)) : List (Nat × List (Nat × Nat)) := (slot, st) :: others
    if off = 8 && s.pubBit k w.away o != some false then s.goOn k n { w with frames := top below }
    else if off = 8 && w.counted = 4096 then s.endWalk k n w (cookie n ((find n (s.cluster k).slotGen).getD 0))
    else if s.devHeld true o 8 then s.goOn k n w
    else
      let s := s.drainWritebacks [k] (s.granuleHome k o) (o / 512)
      let len := s.objectLength k o
      let gs := s.objectGranules k o len
      if gs.any (fun g => s.devHeld true g 64) then s.goOn k n w
      else match (if off = 8 then s.awaitDirs k gs else none) with
      | some s => s.goOn k n w
      | none =>
        let (s, w) := if off = 8 then s.captureObject k n w gs else (s, w)
        match s.nextTagged gs o off len with
        | none => s.goOn k n { w with frames := top below }
        | some p =>
          let t := ofBytes ((List.range 8).map (fun j => (s.devByte (o + p + j)).getD 0)) / 64 * 64
          if s.pubBit k w.away t != some false then s.goOn k n { w with frames := top ((o, p + 8) :: below) }
          else
            let rest := if (s.nextTagged gs o (p + 8) len).isNone then below else (o, p + 8) :: below
            if 4096 ≤ rest.length then
              match (s.cluster k).takeSlot with
              | none => s.endWalk k n { w with frames := [(n, [])] } pubAbandoned
              | some (m, cl) => (s.setCluster k cl).goOn k n { w with frames := (m, [(t, 8)]) :: top rest }
            else s.goOn k n { w with frames := top ((t, 8) :: rest) }

/-- The walk that the Sower serves: of those that run, the one that arrived first (R226). -/
def Cluster.servedWalk (c : Cluster) : Option (Nat × SowerWalk) :=
  (c.walks.filter (fun w => !w.2.suspended && w.2.result.isNone)).foldl (fun best w => match best with
    | none => some w
    | some b => if w.2.arrived < b.2.arrived then some w else best) none

/-- SOWER_WALK_STEP (R226). -/
def execSowerWalkStep (k : Nat) (s : State) : Result :=
  .next (match (s.cluster k).servedWalk with
    | some (n, w) => s.walkStep k n w
    | none => s)

/-- A core's private clean bytes of a published granule trimmed (R228); a fill that is still to come brings none to the near cache (R236). -/
def State.trimPrivate (s : State) (c g : Nat) : State :=
  let region := g / 512
  let lo := g % 512
  let nc := (s.core c).nc
  let s := s.giveUpAt c (fun x => inRegion region lo (lo + 64) x && (dirtyRuns nc region (x % 512) (x % 512 + 1)).isEmpty)
  ((s.modCore c (fun x => { x with nc := x.nc.flatMap (fun e =>
    if e.region = region ∧ e.cls = .priv then
      let d0 := e.lo + e.dlo
      if e.dlen = 0 then e.trim region lo (lo + 64)
      else (e.trim region lo (min (lo + 64) d0)).flatMap (fun y => y.trim region (max lo (d0 + e.dlen)) (lo + 64))
    else [e]) })).settleNear c region lo (lo + 64)).staleAt c region lo (lo + 64)

/-- A notice at one core, for one page (R228, R288): its PLB's mask as memory holds it, with what the walk has published of other devices. -/
def State.noticePage (s : State) (c page : Nat) (away : List Nat) : State :=
  let mine := (List.range 64).filter (fun n => away.contains (page * 4096 + 64 * n))
  let mask : BitVec 64 := if devOf (page * 4096) = s.devnum then ((s.walkUnit (c / 1024) (page * 4096)).map (fun l => l.plb.mask)).getD 0
    else mine.foldl (fun m n => m ||| ((1 : BitVec 64) <<< n)) 0
  let s := ((List.range 64).filter (fun n => bit mask n)).foldl (fun s n =>
    (s.landFor c ((page * 4096 + 64 * n) / 512)).trimPrivate c (page * 4096 + 64 * n)) s
  s.modCore c (fun x => { x with plb := x.plb.map (fun e => if e.covers (page * 4096) then { e with mask := e.mask ||| mask } else e) })

/-- PUBLICATION_NOTICE at cluster k (R228): the oldest notice; the walk that sent it is told. -/
def State.publicationNotice (s : State) (k : Nat) : State :=
  match (s.cluster k).notices with
  | [] => s
  | v :: rest =>
    let s := s.modCluster k (fun c => { c with notices := rest })
    let s := (List.range 16).foldl (fun s c => v.pages.foldl (fun s p => s.noticePage (16 * k + c) p v.away) s) s
    let k0 := v.walk / 16
    let n := v.walk % 16
    match find n (s.cluster k0).walks with
    | none => s
    | some w =>
      let left := w.waiting.filter (· != k)
      if left.isEmpty && w.hid = noHart then s.modCluster k0 (fun c => { c with walks := drop n c.walks })
      else
        let s := s.modCluster k0 (fun c => { c with walks := put n { w with waiting := left } c.walks })
        if left.isEmpty && !w.waiting.isEmpty then s.push (.pubComplete w.hid) else s

/-- PUBLICATION_NOTICE (R228). -/
def execPublicationNotice (k : Nat) (s : State) : Result := .next (s.publicationNotice k)

/-- PUB's result is written once the notices are acknowledged and, for 0, every earlier store of the hart and every captured byte too (R225, R228). A
walk that ends with a cookie is suspended and stays with the task (R226). -/
def State.pubComplete (s : State) (h : Nat) : State :=
  let k := clusterOf h
  match (s.hart h).busy, (s.cluster k).walks.find? (fun w => w.2.hid == h && w.2.result.isSome && !w.2.suspended && w.2.waiting.isEmpty) with
  | some (.pub rd), some (n, w) =>
    let r := w.result.getD 0
    if r = 0 && (!(s.hart h).stores.isEmpty || !s.settled (sowerUnit k n)) then s.push (.pubComplete h)
    else
      let s := s.modHart h (fun x => x.setG rd r)
      let s := if isCookie r then
          (s.modCluster k (fun c => { c with walks := put n { w with suspended := true, result := none } c.walks })).modHart h (fun x => { x with
            job := x.job.map (fun t => { t with walks := t.walks ++ [(k, n, (find n (s.cluster k).slotGen).getD 0)] }) })
        else (s.modCluster k (fun c => { c with walks := drop n c.walks })).setPosted (sowerUnit k n) Posted.none
      s.unbusy h
  | _, _ => s

/-- PUB_COMPLETE (R228). -/
def execPubComplete (h : Nat) (s : State) : Result := .next (s.pubComplete h)

end Sys2Proof.Machine
end

