-- ==== Sys2Proof/Machine/Arrivals.lean ====
section
/-! DEFINITION. What a core's port does with its arrivals: messages, channel packets, decrements, bounces, trap messages (R155, R261 to
R268). -/

namespace Sys2Proof.Machine

/-! ### Transforms -/

/-- Bytes of a Bolt code's stored form; none for a code that is never written (R197, R265). -/
def boltLength (code : Nat) : Option Nat :=
  match code with
  | 0 => some 0 | 1 => some 8 | 2 => some 24 | 3 => some 40 | 4 => some 72 | 5 => some 128 | _ => none

/-- Transform 1: blocks expanded (R265). Fuel: each block has a header of 8 bytes. -/
def expandBlocks : Nat → List Byte → Option (List Byte)
  | _, [] => some []
  | 0, _ => none
  | fuel + 1, bs =>
    let hd := wordOf (bs.take 8)
    match boltLength (bf hd 0 3) with
    | none => none
    | some n =>
      let stored := (bs.drop 8).take n
      let pad := match bf hd 0 3 with
        | 2 => stored.drop 23
        | 3 => stored.drop 38
        | 4 => stored.drop 68
        | _ => []
      if bs.length < 8 + n || bf hd 3 61 != 0 || pad.any (fun b => b != 0) then none
      else (expandBlocks fuel (bs.drop (8 + n))).map (fun r => bytesOf (boltWords (BitVec.ofNat 3 (bf hd 0 3)) stored) ++ r)

/-- A value widened to BF16, exactly (R265, transforms 2 and 3). -/
def widen (t : Ty) (b : Byte) : List Byte := toBytes (BitVec.ofNat 16 (convert .bf16 0 0 (fdecode t b.toNat)).1) 2

/-- An s8 value times an f32 scale, rounded to BF16 (R265, transform 4). -/
def scaled (scale : FVal) (b : Byte) : List Byte :=
  let x := match mulVals (FVal.ofInt b.toInt) scale with
    | some v => (convert .bf16 0 0 v).1
    | none => Ty.nanBits .bf16
  toBytes (BitVec.ofNat 16 x) 2

/-- Transform 5: the 8 × 8 matrix of 2-byte elements of each block transposed. -/
def transposeBlocks : Nat → List Byte → List Byte
  | 0, _ => []
  | n + 1, bs =>
    (List.range 64).flatMap (fun k => ((bs.drop (2 * (8 * (k % 8) + k / 8))).take 2)) ++ transposeBlocks n (bs.drop 128)

/-- The landed bytes of transforms 0 to 5; none for a payload that does not match its transform (R265). -/
def transform (xf : Nat) (bs : List Byte) : Option (List Byte) :=
  match xf with
  | 0 => some bs
  | 1 => expandBlocks (bs.length + 1) bs
  | 2 => some (bs.flatMap (widen .e4m3))
  | 3 => some (bs.flatMap (widen .e5m2))
  | 4 =>
    if bs.length < 16 || ((bs.drop 4).take 12).any (fun b => b != 0) then none
    else some ((bs.drop 16).flatMap (scaled (fdecode .f32 (ofBytes (bs.take 4)))))
  | 5 => if bs.length % 128 != 0 then none else some (transposeBlocks (bs.length / 128) bs)
  | _ => none

/-! ### Landing -/

/-- What an arrival comes to. -/
inductive Landed where
  | done (s : State)
  /-- it stays at the head of the port -/
  | waits
  /-- the same, and its stores are under way -/
  | later (s : State)
  deriving DecidableEq, Repr

/-- The sender is told that its message has landed or was bounced (R260). -/
def State.ackSender (s : State) (sender : Option (Nat × Nat)) : State :=
  match sender with
  | some (h, id) => s.ackHart h id 0 none 0
  | none => s

/-- Where n landed bytes go in an entry's ring: their start, what is charged, and the entry afterwards; none while the ring cannot take
them (R266). -/
def Handler.place (h : Handler) (n num : Nat) : Option (Nat × Handler) :=
  let top := ringBase h.w1 + ringSize h.w0
  let m := alignUp n 16
  let wraps := top < h.off + m
  let start := if wraps then ringBase h.w1 else h.off
  let charged := m + (if wraps then top - h.off else 0)
  let fromV := min charged h.reserved
  if h.free < charged - fromV then none
  else some (start, { h with
    free := h.free - (charged - fromV), reserved := h.reserved - fromV, off := start + m, charges := h.charges ++ [(num, charged)] })

/-- A landed message's record (R357). -/
def State.landed (s : State) (c : Nat) (h0 : Word) : State := s.trace (c / 16) 4 (hdrCorr h0) (s.coreLoc c * 4)

/-- A payload landed through handler entry e with a decrement of counter x by d (R261, from the transform on). -/
def State.landIn (s : State) (c e : Nat) (h0 h1 : Word) (out : List Byte) (x d : Nat) : Landed :=
  match (s.core c).handler? e with
  | none => .waits
  | some h =>
    let s := s.fresh
    let num := s.serial
    match h.place out.length num with
    | none => .waits
    | some (start, h') =>
      if s.mustWait c x d then .waits
      else
        let s := s.modCore c (fun y => (y.localWrite start out))
        let s := s.modCore c (fun y => { y with handlers := put e h' y.handlers })
        .done ((s.landed c h0).decrement c x d (hdrCorr h0) (word (localBase + start)) h0 h1 (word out.length) (some num))

/-- Transform 6's words: address, value, tag. -/
def tagWords (payload : List Byte) (tags : List Bool) : List (Nat × Word × Bool) :=
  let a := (wordAt payload 0).toNat
  (List.range (payload.length / 8 - 2)).map (fun k => (a + 8 * k, wordAt payload (k + 2), tags.getD (k + 2) false))

/-- The escape check of one word of transform 6 (R218, R265). -/
def State.escapes (s : State) (w : Nat × Word × Bool) : Bool :=
  let v := w.2.1.toNat
  w.2.2 && classBy ((s.walkTables w.1).map (fun l => l.plb)) w.1 == .shared && zone v == .mem
    && ((s.walkTables v).map (fun l => l.plb)).any (fun e => e.arena && !bit e.mask (v / 64 % 64))

/-- A bounce of a message, and its acknowledgement (R263). -/
def State.bounceMsg (s : State) (c : Nat) (h0 h1 : Word) (code : Nat) (sender : Option (Nat × Nat)) : State :=
  (s.bounce c h0 h1 code).ackSender sender

/-- A tag-preserving message's stores are acknowledged: its decrement, and its own acknowledgement (R265, transform 6). One that has been refused makes it
bounce with code 4, and a counter that has fallen below the decrement while the stores were under way makes it bounce with code 7, though its stores
are made. It lands in no ring: the task that it makes ready has g3 = 0, g10 = the bytes stored, and no ring charge. The rules give none of these (log
61, DESIGN CHOICE). -/
def State.tagsDone (s : State) (c : Nat) (h0 h1 : Word) (n : Nat) (sender : Option (Nat × Nat)) : Landed :=
  let x := hdrCtr h0
  let d := hdrDecrement h0
  let bare := s.setPosted (landUnit c) Posted.none
  if (s.postedOf (landUnit c)).failed = some .refused then .done (bare.bounceMsg c h0 h1 4 sender)
  else if (s.core c).count x < d then .done (bare.bounceMsg c h0 h1 7 sender)
  else if s.mustWait c x d then .waits
  else .done (((bare.landed c h0).decrement c x d (hdrCorr h0) 0 h0 h1 (word n) none).ackSender sender)

/-- A tag-preserving message (R265, transform 6): its stores, once, under the sender's domain rights and its partition's isolation, and once they are
acknowledged its decrement. The counter is checked before the rights, and these before escapes; a store that fails them bounces with code 4: the rule
gives neither (log 61, DESIGN CHOICE). While its stores are under way, what the port waits for counts one more. -/
def State.landTags (s : State) (c : Nat) (h0 h1 : Word) (payload : List Byte) (tags : List Bool) (domain : BitVec 16)
    (sender : Option (Nat × Nat)) : Landed :=
  let u := landUnit c
  let a := (wordAt payload 0).toNat
  let ws := tagWords payload tags
  let x := hdrCtr h0
  let d := hdrDecrement h0
  let global := match zone a with
    | .loc _ => false
    | _ => true
  if 1 < (s.postedOf u).left then .waits
  else if (s.postedOf u).left = 1 then s.tagsDone c h0 h1 (payload.length - 16) sender
  else if payload.length < 24 || payload.length % 8 != 0 || a % 8 != 0 || !global || wordAt payload 1 != 0 then .done (s.bounceMsg c h0 h1 3 sender)
  else if (s.core c).count x < d then .done (s.bounceMsg c h0 h1 7 sender)
  else if ws.any (fun w => (s.allowed domain .store w.1).isSome || s.isolates (hdrPart h1) w.1) then .done (s.bounceMsg c h0 h1 4 sender)
  else if ws.any s.escapes then .done (s.bounceMsg c h0 h1 5 sender)
  else if s.mustWait c x d || ws.any (fun w => s.devHeld true w.1 8) then .waits
  else
    let (s, ok) := ws.foldl (fun (r : State × Bool) w =>
      let (s, ok) := r
      let (s', ok') := s.devStorePiece (some u) w.1 (toBytes w.2.1 8) (if w.2.2 then (1 : BitVec 64) <<< (w.1 % 512 / 8) else 0)
      (s', ok && ok')) (s, true)
    let s := if ok then s else s.modPosted u (fun x => { x with failed := some .refused })
    if s.settled u then s.tagsDone c h0 h1 (payload.length - 16) sender else .later (s.owe u 1)

/-- An active message at its core (R261). One of transform 6 whose stores are under way has passed its checks, and its entry is not read again. -/
def State.landMessage (s : State) (c : Nat) (h0 h1 : Word) (payload : List Byte) (tags : List Bool) (domain : BitVec 16)
    (sender : Option (Nat × Nat)) : Landed :=
  let e := hdrHandler h0
  let x := hdrCtr h0
  let d := hdrDecrement h0
  let refuse (code : Nat) : Landed := .done (s.bounceMsg c h0 h1 code sender)
  if hdrXform h0 = 6 && (s.postedOf (landUnit c)).left != 0 then s.landTags c h0 h1 payload tags domain sender
  else if s.mappedOut (c / 16) then refuse 6
  else if hdrPart h1 != s.partOf (c / 16) then refuse 4
  else if hdrXform h0 = 7 then refuse 2
  else match (s.core c).handler? e with
    | none => refuse 1
    | some h =>
      if hdrXform h0 = 6 then s.landTags c h0 h1 payload tags domain sender
      else match transform (hdrXform h0) payload with
        | none => refuse 3
        | some out =>
          if ringSize h.w0 < alignUp out.length 16 then refuse 3
          else if (h.place out.length 0).isNone then .waits
          else if (s.core c).count x < d then refuse 7
          else match s.landIn c e h0 h1 out x d with
            | .done s => .done (s.ackSender sender)
            | w => w

/-- The counter that the valid entry e of core c binds, if it is not at zero (R155, R263). -/
def State.armedCounter (s : State) (c e : Nat) : Option Nat :=
  match (s.core c).handler? e with
  | some h => if bit h.w0 60 && (s.core c).count (bf h.w0 54 6) != 0 then some (bf h.w0 54 6) else none
  | none => none

/-- A bounce at the sender's core: entry 255 takes it, or it becomes a trap message (R263). -/
def State.landBounce (s : State) (c : Nat) (h0 h1 : Word) (payload : List Byte) : Landed :=
  match s.armedCounter c 255 with
  | some x => s.landIn c 255 h0 h1 payload x 1
  | none => .done (s.reportTrap c (s.partOf (c / 16)) .queue (wordAt payload 2) (hdrCorr h0))

/-- Entry e of core c is the fallback service of partition p (R345). -/
def State.isFallback (s : State) (p c e : Nat) : Bool :=
  let x := bf (s.partWord p 1) 32 32
  x / 2 ^ 31 == 0 && x / 256 % 2 ^ 22 == s.coreLoc c && x % 256 == e

/-- A trap message at a service's core: its entry takes it, or, where it cannot or the core is mapped out by now, it goes on to the fallback, then to
the host; to the host also where the fallback is this service (R155). -/
def State.landTrap (s : State) (c : Nat) (h0 h1 : Word) (payload : List Byte) (p : Nat) (fallback : Bool) : Landed :=
  match (if s.mappedOut (c / 16) then none else s.armedCounter c (hdrHandler h0)) with
  | some x => s.landIn c (hdrHandler h0) h0 h1 payload x 1
  | none =>
    let words := (List.range 8).map (wordAt payload)
    .done (if fallback || s.isFallback p c (hdrHandler h0) then s.toHost c p words else s.passTrap c p true (hdrSource h1) words (hdrCorr h0))

/-- A channel packet at its core (R268): no ring bytes are charged. -/
def State.landChannel (s : State) (c : Nat) (h0 h1 : Word) (payload : List Byte) (sender : Option (Nat × Nat)) : Landed :=
  let x := hdrCtr h0
  let d := hdrDecrement h0
  let q := 4 * (hdrRoute h0 / 4 % 4) + hdrRoute h0 % 4
  let refuse (code : Nat) : Landed := .done (s.bounceMsg c h0 h1 code sender)
  if s.mappedOut (c / 16) then refuse 6
  else if hdrPart h1 != s.partOf (c / 16) then refuse 4
  else if 6 ≤ hdrXform h0 then refuse 2
  else match transform (hdrXform h0) payload with
    | none => refuse 3
    | some out =>
      let n := (out.length + 63) / 64
      if queueCap s c q < n then refuse 3
      else if 0 < n && !queueTakes s (s.core c) c q n then .waits
      else if (s.core c).count x < d then refuse 7
      else if s.mustWait c x d then .waits
      else
        let entries := (List.range n).map (fun k => BitVec.ofNat 512 (ofBytes ((out.drop (64 * k)).take 64)))
        let s := s.modCore c (fun y => if n = 0 then y else y.setQueue q (y.queue q ++ entries))
        .done (((s.landed c h0).decrement c x d (hdrCorr h0) 0 h0 h1 (word out.length) none).ackSender sender)

/-! ### The port's events -/

/-- The kind of an arrival, as its event names it. -/
def Arrival.isChannel : Arrival → Bool
  | .msg h0 .. => hdrChannel h0
  | _ => false

def Arrival.isCount : Arrival → Bool
  | .count .. => true
  | _ => false

/-- The arrival at the head of core c's port (R261): handled when it is of the event's kind; the event goes on while one of its kind
waits. -/
def State.portEvent (s : State) (c : Nat) (e : Event) (kind : Arrival → Bool) (f : Arrival → Landed) : State :=
  match (s.core c).port with
  | [] => s
  | a :: rest =>
    if kind a then match f a with
      | .done s' => s'.modCore c (fun x => { x with port := rest ++ x.port.drop (rest.length + 1) })
      | .waits => s.push e
      | .later s' => s'.push e
    else if rest.any kind then s.push e else s

/-- A message of any kind at the head of the port. -/
def State.takeMessage (s : State) (c : Nat) : Arrival → Landed
  | .msg h0 h1 payload tags kind sender domain => match kind with
    | .plain => s.landMessage c h0 h1 payload tags domain sender
    | .bounce => s.landBounce c h0 h1 payload
    | .trap p fb => s.landTrap c h0 h1 payload p fb
  | .count .. => .waits

/-- MESSAGE_ARRIVAL (R261, R263, R155). -/
def execMessageArrival (c : Nat) (s : State) : Result :=
  .next (s.portEvent c (.messageArrival c) (fun a => !a.isChannel && !a.isCount) (s.takeMessage c))

/-- CHANNEL_PACKET_ARRIVAL (R268). -/
def execChannelPacketArrival (c : Nat) (s : State) : Result :=
  .next (s.portEvent c (.channelPacketArrival c) Arrival.isChannel (fun a => match a with
    | .msg h0 h1 payload _ _ sender _ => s.landChannel c h0 h1 payload sender
    | .count .. => .waits))

/-- COUNT_MODE_ARRIVAL (R264, R302, R303). -/
def execCountModeArrival (c : Nat) (s : State) : Result :=
  .next (s.portEvent c (.countModeArrival c) Arrival.isCount (fun a => match a with
    | .count x source corr => if s.mustWait c x 1 then .waits else .done (s.countDown c x source corr)
    | .msg .. => .waits))

end Sys2Proof.Machine
end

