-- ==== Sys2Proof/Machine/Control.lean ====
section
/-! DEFINITION. Branches, jumps, LOOP and FORK (R81 to R86). -/

namespace Sys2Proof.Machine

/-- A conditional branch: taken or not, no register is written (R81). -/
def branch (taken : Bool) (off : Imm 14) (pre cur : State) : Eff :=
  .ok cur (if taken then some (branchTarget pre.me.pc off) else none)

/-- BEQ (R81). -/
def slotBeq (ra rb : BitVec 5) (off : Imm 14) (pre cur : State) : Eff :=
  branch (pre.me.getG ra == pre.me.getG rb) off pre cur

/-- BEQ issued alone. -/
def execBeq (sp : Bool) (ra : BitVec 5) (rb : BitVec 5) (off : Imm 14) (s : State) : Result :=
  issue (.beq sp ra rb off) false sp (slotBeq ra rb off) s

/-- BNE (R81). -/
def slotBne (ra rb : BitVec 5) (off : Imm 14) (pre cur : State) : Eff :=
  branch (pre.me.getG ra != pre.me.getG rb) off pre cur

/-- BNE issued alone. -/
def execBne (sp : Bool) (ra : BitVec 5) (rb : BitVec 5) (off : Imm 14) (s : State) : Result :=
  issue (.bne sp ra rb off) false sp (slotBne ra rb off) s

/-- BLT (R81): signed. -/
def slotBlt (ra rb : BitVec 5) (off : Imm 14) (pre cur : State) : Eff :=
  branch ((pre.me.getG ra).slt (pre.me.getG rb)) off pre cur

/-- BLT issued alone. -/
def execBlt (sp : Bool) (ra : BitVec 5) (rb : BitVec 5) (off : Imm 14) (s : State) : Result :=
  issue (.blt sp ra rb off) false sp (slotBlt ra rb off) s

/-- BGE (R81): signed. -/
def slotBge (ra rb : BitVec 5) (off : Imm 14) (pre cur : State) : Eff :=
  branch (!(pre.me.getG ra).slt (pre.me.getG rb)) off pre cur

/-- BGE issued alone. -/
def execBge (sp : Bool) (ra : BitVec 5) (rb : BitVec 5) (off : Imm 14) (s : State) : Result :=
  issue (.bge sp ra rb off) false sp (slotBge ra rb off) s

/-- BLTU (R81): unsigned. -/
def slotBltu (ra rb : BitVec 5) (off : Imm 14) (pre cur : State) : Eff :=
  branch ((pre.me.getG ra).ult (pre.me.getG rb)) off pre cur

/-- BLTU issued alone. -/
def execBltu (sp : Bool) (ra : BitVec 5) (rb : BitVec 5) (off : Imm 14) (s : State) : Result :=
  issue (.bltu sp ra rb off) false sp (slotBltu ra rb off) s

/-- BGEU (R81): unsigned. -/
def slotBgeu (ra rb : BitVec 5) (off : Imm 14) (pre cur : State) : Eff :=
  branch (!(pre.me.getG ra).ult (pre.me.getG rb)) off pre cur

/-- BGEU issued alone. -/
def execBgeu (sp : Bool) (ra : BitVec 5) (rb : BitVec 5) (off : Imm 14) (s : State) : Result :=
  issue (.bgeu sp ra rb off) false sp (slotBgeu ra rb off) s

/-- JAL (R83): the link is the fall-through successor. -/
def slotJal (sp : Bool) (rd : BitVec 5) (off : Imm 19) (pre cur : State) : Eff :=
  .ok (cur.modMe (fun h => h.setG rd (successor pre.me.pc sp))) (some (branchTarget pre.me.pc off))

/-- JAL issued alone. -/
def execJal (sp : Bool) (rd : BitVec 5) (off : Imm 19) (s : State) : Result :=
  issue (.jal sp rd off) false sp (slotJal sp rd off) s

/-- JALR (R83): to g[ra] + i with bits [2:0] cleared; g[ra] is read before g[rd] is written. -/
def slotJalr (sp : Bool) (rd ra : BitVec 5) (imm : Imm 14) (pre cur : State) : Eff :=
  .ok (cur.modMe (fun h => h.setG rd (successor pre.me.pc sp))) (some ((pre.me.getG ra + immWord imm) &&& ~~~ 7))

/-- JALR issued alone. -/
def execJalr (sp : Bool) (rd : BitVec 5) (ra : BitVec 5) (imm : Imm 14) (s : State) : Result :=
  issue (.jalr sp rd ra imm) false sp (slotJalr sp rd ra imm) s

/-- LOOP (R82). -/
def slotLoop (ra : BitVec 5) (off : Imm 14) (pre cur : State) : Eff :=
  let n := pre.me.getG ra - 1
  .ok (cur.modMe (fun h => h.setG ra n)) (if n != 0 then some (branchTarget pre.me.pc off) else none)

/-- LOOP issued alone. -/
def execLoop (sp : Bool) (ra : BitVec 5) (off : Imm 14) (s : State) : Result :=
  issue (.loop sp ra off) false sp (slotLoop ra off) s

/-- The task that FORK creates (R85): its arguments are g8 up, its join the forking core's counter. Its g3 is the forking hart's, which holds zero
where the task has none allocated: the spec does not say that FORK names g3, so it does not trap then (R71; log 58, DESIGN CHOICE). -/
def forkTask (s : State) (ctr n : Nat) (entry : Word) : Task :=
  let x := s.me
  let t := x.job.getD Task.blank
  { Task.blank with
    kind := .fork, entry := entry, g3 := x.getG 3, args := (List.range n).map (fun k => x.getG (BitVec.ofNat 5 (8 + k)))
    corr := x.task.setWidth 32, index := 0, domain := x.dom, prio := x.prio.setWidth 2, regmask := x.regmask
    join := some ⟨coreOf s.cur, ctr⟩, launch := t.launch, service := t.service, barDefault := t.barDefault
    power := t.power, pinned := t.pinned }

/-- Every free hart of core cid's cluster told of a forked task, those of the core first, then in ring order after the last thief (R311). -/
def State.tellIdle (s : State) (cid : Nat) : State :=
  let k := cid / 16
  let cores := cid :: ((List.range 16).map (fun j => k * 16 + ((s.cluster k).lastThief + 1 + j) % 16)).filter (· != cid)
  (cores.flatMap (fun c => (List.range 4).map (fun h => 4 * c + h))).foldl (fun t h => if (s.hart h).run == .free then t.push (.taskDispatch h) else t) s

/-- FORK (R28, R85, R86): a full deque sends the arm to the run queue; with both full the hart waits. -/
def slotFork (ctr : BitVec 6) (n : BitVec 4) (off : Imm 14) (pre cur : State) : Eff :=
  let cid := coreOf pre.cur
  let c := pre.core cid
  if c.count ctr.toNat = 2 ^ 40 - 1 then .trap .counter 0 (zext ctr)
  else
    let t := forkTask pre ctr.toNat n.toNat (branchTarget pre.me.pc off)
    let up (s : State) : State := (s.modCore cid (fun c => c.setCount ctr.toNat (c.count ctr.toNat + 1))).joinLaunch t.launch
    if c.deque.length < 32 then
      let s := (up cur).modCore cid (fun c => { c with deque := c.deque ++ [(pre.cycle, t)] })
      .ok ((s.push (.dequeAgeing cid)).tellIdle cid) none
    else if c.room then .ok ((up cur).enqueue cid t) none
    else .wait pre

/-- FORK issued alone. -/
def execFork (sp : Bool) (ctr : BitVec 6) (n : BitVec 4) (off : Imm 14) (s : State) : Result :=
  issue (.fork sp ctr n off) false sp (slotFork ctr n off) s

end Sys2Proof.Machine
end

