-- ==== Sys2Proof/Machine/Flags.lean ====
section
/-! DEFINITION. Element by element evaluation with the flags of R102 and the draws of R101: an instruction raises the OR
over all its elements and draws once for each result element, in ascending order, when its code is sr or sr.sat. -/

namespace Sys2Proof.Machine

/-- A computed vector, the flags raised, and the generator's state after the draws. -/
structure VRes where
  val : Vec
  flags : Flags
  rng : Word
  deriving DecidableEq, Repr

/-- The value of one element, from its index and draw: encoding and flags. -/
abbrev ElemFn := Nat → Nat → Nat × Flags

/-- Elements 0 to n - 1 of f, lowest first, with the OR of their flags and the state after their draws. -/
def runElems (f : ElemFn) (draws : Bool) : Nat → Nat → Word → List Nat × Flags × Word
  | 0, _, rng => ([], 0, rng)
  | n + 1, i, rng =>
    let rng1 := if draws then rngStep rng else rng
    let (x, fl) := f i (drawOf rng1)
    let (xs, fls, rng2) := runElems f draws n (i + 1) rng1
    (x :: xs, fl ||| fls, rng2)

/-- The vector whose element at place `at + i`, w bits wide, is x_i; other bits as in `base`. -/
def packElems (base : Vec) (w start : Nat) : List Nat → Vec
  | [] => base
  | x :: xs => packElems (setLane base start w (BitVec.ofNat w x)) w (start + 1) xs

/-- n elements of w bits computed by f (R94, R101, R102). -/
def elementwise (w n : Nat) (draws : Bool) (rng : Word) (f : ElemFn) : VRes :=
  let (xs, fl, rng') := runElems f draws n 0 rng
  ⟨packElems 0 w 0 xs, fl, rng'⟩

/-- Elements of w bits computed by f without flags or draws. -/
def pureElems (w n : Nat) (f : Nat → BitVec w) : Vec := ofLanes 512 w f n

/-- The n-bit mask whose bit i is f i, zero above n (R111). -/
def maskOf (f : Nat → Bool) : Nat → Word
  | 0 => 0
  | n + 1 => maskOf f n ||| (if f n then (1 : Word) <<< n else 0)

/-- The hart with the flags of a result raised and its draws made; `before` is the generator's state that the draws began from. -/
def Hart.settle (h : Hart) (before : Word) (r : VRes) : Hart :=
  { h.raise r.flags with rng := if r.rng = before then h.rng else r.rng }

end Sys2Proof.Machine
end

