-- ==== Sys2Proof/Machine/VecOps.lean ====
section
/-! DEFINITION. What the instructions of the A slot share: reading one or two operands, writing the result with its flags and
draws (R66, R101, R102, R105). -/

namespace Sys2Proof.Machine

/-- The result of an A instruction written: its flags raised, its draws made, its vector written or pushed. -/
def finishV (pre cur : State) (d : BitVec 6) (r : VRes) : Eff :=
  match writeVec pre (cur.modMe (fun h => h.settle pre.me.rng r)) d r.val with
  | some s => .ok s none
  | none => waitQueue pre

/-- A vector written without flags or draws. -/
def finishRaw (pre cur : State) (d : BitVec 6) (v : Vec) : Eff :=
  match writeVec pre cur d v with
  | some s => .ok s none
  | none => waitQueue pre

/-- One source of type t, and the state in which it has been read. -/
def vec1 (t : Ty) (va : BitVec 6) (pre cur : State) (f : Vec → State → Eff) : Eff :=
  match readOne pre cur (elems t) va with
  | none => waitQueue pre
  | some (a, s) => f a s

/-- Two sources of type t. -/
def vec2 (t : Ty) (va vb : BitVec 6) (pre cur : State) (f : Vec → Vec → State → Eff) : Eff :=
  match readTwo pre cur (elems t) (elems t) va vb with
  | none => waitQueue pre
  | some (a, b, s) => f a b s

/-- Element i of a vector of type t, as a number. -/
def elemOf (t : Ty) (v : Vec) (k : Nat) : Nat := (lane v k t.width).toNat

/-- Element by element on one source, rounded by code rm (R100, R101). -/
def map1 (t : Ty) (vd va : BitVec 6) (rm : BitVec 3) (pre cur : State) (f : Nat → Nat → Nat × Flags) : Eff :=
  vec1 t va pre cur (fun a s =>
    finishV pre s vd (elementwise t.width t.lanes (rmDraws rm) pre.me.rng (fun k draw => f draw (elemOf t a k))))

/-- Element by element on two sources, rounded by code rm. -/
def map2 (t : Ty) (vd va vb : BitVec 6) (rm : BitVec 3) (pre cur : State) (f : Nat → Nat → Nat → Nat × Flags) : Eff :=
  vec2 t va vb pre cur (fun a b s =>
    finishV pre s vd (elementwise t.width t.lanes (rmDraws rm) pre.me.rng (fun k draw => f draw (elemOf t a k) (elemOf t b k))))

/-- Element by element on two sources, no flags and no draws. -/
def bits2 (t : Ty) (vd va vb : BitVec 6) (pre cur : State) (f : BitVec t.width → BitVec t.width → BitVec t.width) : Eff :=
  vec2 t va vb pre cur (fun a b s =>
    finishRaw pre s vd (pureElems t.width t.lanes (fun k => f (lane a k t.width) (lane b k t.width))))

/-- Elements moved as raw bits from one source. -/
def move1 (t : Ty) (vd va : BitVec 6) (pre cur : State) (f : (Nat → BitVec t.width) → Nat → BitVec t.width) : Eff :=
  vec1 t va pre cur (fun a s =>
    finishRaw pre s vd (pureElems t.width t.lanes (f (fun k => lane a k t.width))))

/-- Elements moved as raw bits from two sources. -/
def move2 (t : Ty) (vd va vb : BitVec 6) (pre cur : State)
    (f : (Nat → BitVec t.width) → (Nat → BitVec t.width) → Nat → BitVec t.width) : Eff :=
  vec2 t va vb pre cur (fun a b s =>
    finishRaw pre s vd (pureElems t.width t.lanes (f (fun k => lane a k t.width) (fun k => lane b k t.width))))

/-- An element in a g register: sign-extended for s types, zero-extended for the others (R114, R116). -/
def elemWord (t : Ty) (x : BitVec t.width) : Word := if t.signed then x.signExtend 64 else x.setWidth 64

/-- Bitmaps of R121 and R122: a broadcast source repeats the whole 64-bit register. -/
def wholeWord : Lanes := ⟨64, 8⟩

end Sys2Proof.Machine
end

