-- ==== Sys2Proof/Machine/VecFloat.lean ====
section
/-! DEFINITION. Floating-point arithmetic, reductions, dot products and conversions of the A slot (R107 to R109, R115 to R120). -/

namespace Sys2Proof.Machine

/-! ### Arithmetic -/

/-- NOPA (R57): nothing, for one issue cycle. -/
def slotNopa (_pre cur : State) : Eff := .ok cur none

/-- NOPA issued alone. -/
def execNopa (s : State) : Result :=
  issue .nopa true false slotNopa s

/-- a + b of R107. -/
def addElem (t : Ty) (rm : BitVec 3) (draw a b : Nat) : Nat × Flags :=
  let x := fdecode t a
  let y := fdecode t b
  arith t rm draw [x, y] (sumVals rm [x, y])

/-- a - b of R107. -/
def subElem (t : Ty) (rm : BitVec 3) (draw a b : Nat) : Nat × Flags :=
  let x := fdecode t a
  let y := fdecode t b
  arith t rm draw [x, y] (sumVals rm [x, y.neg])

/-- a * b of R107. -/
def mulElem (t : Ty) (rm : BitVec 3) (draw a b : Nat) : Nat × Flags :=
  let x := fdecode t a
  let y := fdecode t b
  arith t rm draw [x, y] (mulVals x y)

/-- The smaller (or larger) of two elements of R107: -0 below +0, the other operand beside one NaN. -/
def pickElem (t : Ty) (larger : Bool) (a b : Nat) : Nat × Flags :=
  let x := fdecode t a
  let y := fdecode t b
  let fl : Flags := if x.isSig || y.isSig then flagInvalid else 0
  if x.isNan && y.isNan then (t.nanBits, fl)
  else if x.isNan then (b, fl)
  else if y.isNan then (a, fl)
  else if larger then (if x.ltZ y then b else a, fl)
  else (if y.ltZ x then b else a, fl)

/-- VADD (R107). -/
def slotVadd (vd va vb : BitVec 6) (ty : BitVec 4) (rm : BitVec 3) (pre cur : State) : Eff :=
  map2 (Ty.of ty) vd va vb rm pre cur (addElem (Ty.of ty) rm)

/-- VADD issued alone. -/
def execVadd (vd : BitVec 6) (va : BitVec 6) (vb : BitVec 6) (ty : BitVec 4) (rm : BitVec 3) (s : State) : Result :=
  issue (.vadd vd va vb ty rm) true false (slotVadd vd va vb ty rm) s

/-- VSUB (R107). -/
def slotVsub (vd va vb : BitVec 6) (ty : BitVec 4) (rm : BitVec 3) (pre cur : State) : Eff :=
  map2 (Ty.of ty) vd va vb rm pre cur (subElem (Ty.of ty) rm)

/-- VSUB issued alone. -/
def execVsub (vd : BitVec 6) (va : BitVec 6) (vb : BitVec 6) (ty : BitVec 4) (rm : BitVec 3) (s : State) : Result :=
  issue (.vsub vd va vb ty rm) true false (slotVsub vd va vb ty rm) s

/-- VMUL (R107). -/
def slotVmul (vd va vb : BitVec 6) (ty : BitVec 4) (rm : BitVec 3) (pre cur : State) : Eff :=
  map2 (Ty.of ty) vd va vb rm pre cur (mulElem (Ty.of ty) rm)

/-- VMUL issued alone. -/
def execVmul (vd : BitVec 6) (va : BitVec 6) (vb : BitVec 6) (ty : BitVec 4) (rm : BitVec 3) (s : State) : Result :=
  issue (.vmul vd va vb ty rm) true false (slotVmul vd va vb ty rm) s

/-- VMIN (R107). -/
def slotVmin (vd va vb : BitVec 6) (ty : BitVec 4) (pre cur : State) : Eff :=
  map2 (Ty.of ty) vd va vb 0 pre cur (fun _ => pickElem (Ty.of ty) false)

/-- VMIN issued alone. -/
def execVmin (vd : BitVec 6) (va : BitVec 6) (vb : BitVec 6) (ty : BitVec 4) (s : State) : Result :=
  issue (.vmin vd va vb ty) true false (slotVmin vd va vb ty) s

/-- VMAX (R107). -/
def slotVmax (vd va vb : BitVec 6) (ty : BitVec 4) (pre cur : State) : Eff :=
  map2 (Ty.of ty) vd va vb 0 pre cur (fun _ => pickElem (Ty.of ty) true)

/-- VMAX issued alone. -/
def execVmax (vd : BitVec 6) (va : BitVec 6) (vb : BitVec 6) (ty : BitVec 4) (s : State) : Result :=
  issue (.vmax vd va vb ty) true false (slotVmax vd va vb ty) s

/-- ±(a * b) ± c of R108, rounded once. -/
def fmaElem (t : Ty) (rm : BitVec 3) (negProduct negAddend : Bool) (draw a b c : Nat) : Nat × Flags :=
  let x := fdecode t a
  let y := fdecode t b
  let z := fdecode t c
  let r : Option FVal := match mulVals x y with
    | none => none
    | some p => sumVals rm [if negProduct then p.neg else p, if negAddend then z.neg else z]
  arith t rm draw [x, y, z] r

/-- A multiply-add of R108: vd is read and then written. -/
def fused (vd : BitVec 5) (va vb : BitVec 6) (ty : BitVec 4) (rm : BitVec 3) (negProduct negAddend : Bool) (pre cur : State) : Eff :=
  let t := Ty.of ty
  let c := pre.me.getV vd
  vec2 t va vb pre cur (fun a b s =>
    finishV pre s (vd.setWidth 6) (elementwise t.width t.lanes (rmDraws rm) pre.me.rng (fun k draw =>
      fmaElem t rm negProduct negAddend draw (elemOf t a k) (elemOf t b k) (elemOf t c k))))

/-- VFMA (R108). -/
def slotVfma (vd : BitVec 5) (va vb : BitVec 6) (ty : BitVec 4) (rm : BitVec 3) (pre cur : State) : Eff :=
  fused vd va vb ty rm false false pre cur

/-- VFMA issued alone. -/
def execVfma (vd : BitVec 5) (va : BitVec 6) (vb : BitVec 6) (ty : BitVec 4) (rm : BitVec 3) (s : State) : Result :=
  issue (.vfma vd va vb ty rm) true false (slotVfma vd va vb ty rm) s

/-- VFMS (R108). -/
def slotVfms (vd : BitVec 5) (va vb : BitVec 6) (ty : BitVec 4) (rm : BitVec 3) (pre cur : State) : Eff :=
  fused vd va vb ty rm false true pre cur

/-- VFMS issued alone. -/
def execVfms (vd : BitVec 5) (va : BitVec 6) (vb : BitVec 6) (ty : BitVec 4) (rm : BitVec 3) (s : State) : Result :=
  issue (.vfms vd va vb ty rm) true false (slotVfms vd va vb ty rm) s

/-- VFNMA (R108). -/
def slotVfnma (vd : BitVec 5) (va vb : BitVec 6) (ty : BitVec 4) (rm : BitVec 3) (pre cur : State) : Eff :=
  fused vd va vb ty rm true false pre cur

/-- VFNMA issued alone. -/
def execVfnma (vd : BitVec 5) (va : BitVec 6) (vb : BitVec 6) (ty : BitVec 4) (rm : BitVec 3) (s : State) : Result :=
  issue (.vfnma vd va vb ty rm) true false (slotVfnma vd va vb ty rm) s

/-- VABS (R109): the sign bit cleared, no flags. -/
def slotVabs (vd va : BitVec 6) (ty : BitVec 4) (pre cur : State) : Eff :=
  map1 (Ty.of ty) vd va 0 pre cur (fun _ a => (a % (Ty.of ty).signBit, 0))

/-- VABS issued alone. -/
def execVabs (vd : BitVec 6) (va : BitVec 6) (ty : BitVec 4) (s : State) : Result :=
  issue (.vabs vd va ty) true false (slotVabs vd va ty) s

/-- VNEG (R109): the sign bit inverted, no flags. -/
def slotVneg (vd va : BitVec 6) (ty : BitVec 4) (pre cur : State) : Eff :=
  map1 (Ty.of ty) vd va 0 pre cur (fun _ a => (a ^^^ (Ty.of ty).signBit, 0))

/-- VNEG issued alone. -/
def execVneg (vd : BitVec 6) (va : BitVec 6) (ty : BitVec 4) (s : State) : Result :=
  issue (.vneg vd va ty) true false (slotVneg vd va ty) s

/-- VRCP (R109). -/
def slotVrcp (vd va : BitVec 6) (ty : BitVec 4) (rm : BitVec 3) (pre cur : State) : Eff :=
  map1 (Ty.of ty) vd va rm pre cur (fun draw a => rcp (Ty.of ty) rm draw (fdecode (Ty.of ty) a))

/-- VRCP issued alone. -/
def execVrcp (vd : BitVec 6) (va : BitVec 6) (ty : BitVec 4) (rm : BitVec 3) (s : State) : Result :=
  issue (.vrcp vd va ty rm) true false (slotVrcp vd va ty rm) s

/-- VRSQ (R109). -/
def slotVrsq (vd va : BitVec 6) (ty : BitVec 4) (rm : BitVec 3) (pre cur : State) : Eff :=
  map1 (Ty.of ty) vd va rm pre cur (fun draw a => rsq (Ty.of ty) rm draw (fdecode (Ty.of ty) a))

/-- VRSQ issued alone. -/
def execVrsq (vd : BitVec 6) (va : BitVec 6) (ty : BitVec 4) (rm : BitVec 3) (s : State) : Result :=
  issue (.vrsq vd va ty rm) true false (slotVrsq vd va ty rm) s

/-- VEXP2 (R109). -/
def slotVexp2 (vd va : BitVec 6) (ty : BitVec 4) (rm : BitVec 3) (pre cur : State) : Eff :=
  map1 (Ty.of ty) vd va rm pre cur (fun draw a => exp2 (Ty.of ty) rm draw (fdecode (Ty.of ty) a))

/-- VEXP2 issued alone. -/
def execVexp2 (vd : BitVec 6) (va : BitVec 6) (ty : BitVec 4) (rm : BitVec 3) (s : State) : Result :=
  issue (.vexp2 vd va ty rm) true false (slotVexp2 vd va ty rm) s

/-- VLOG2 (R109). -/
def slotVlog2 (vd va : BitVec 6) (ty : BitVec 4) (rm : BitVec 3) (pre cur : State) : Eff :=
  map1 (Ty.of ty) vd va rm pre cur (fun draw a => log2 (Ty.of ty) rm draw (fdecode (Ty.of ty) a))

/-- VLOG2 issued alone. -/
def execVlog2 (vd : BitVec 6) (va : BitVec 6) (ty : BitVec 4) (rm : BitVec 3) (s : State) : Result :=
  issue (.vlog2 vd va ty rm) true false (slotVlog2 vd va ty rm) s

/-! ### Reductions -/

/-- One level of a pairwise tree: neighbours combined, lowest first, with a draw for each node when the code draws (R115). -/
def treeLevel (draws : Bool) (f : Nat → Nat → Nat → Nat × Flags) : List Nat → Flags → Word → List Nat × Flags × Word
  | a :: b :: r, fl, rng =>
    let rng := if draws then rngStep rng else rng
    let x := f (drawOf rng) a b
    let rest := treeLevel draws f r (fl ||| x.2) rng
    (x.1 :: rest.1, rest.2)
  | l, fl, rng => (l, fl, rng)

/-- The tree of R115 over a list of 2^k elements: `depth` levels. -/
def treeReduce (draws : Bool) (f : Nat → Nat → Nat → Nat × Flags) : Nat → List Nat → Flags → Word → Nat × Flags × Word
  | 0, l, fl, rng => (l.headD 0, fl, rng)
  | n + 1, l, fl, rng =>
    let r := treeLevel draws f l fl rng
    treeReduce draws f n r.1 r.2.1 r.2.2

/-- The elements of a source, lowest first. -/
def elemList (t : Ty) (v : Vec) : List Nat := (List.range t.lanes).map (elemOf t v)

/-- VRSUM (R115). -/
def slotVrsum (vd : BitVec 5) (va : BitVec 6) (ty : BitVec 4) (rm : BitVec 3) (pre cur : State) : Eff :=
  let t := Ty.of ty
  vec1 t va pre cur (fun a s =>
    let r := treeReduce (rmDraws rm) (addElem t rm) (Nat.log2 t.lanes) (elemList t a) 0 pre.me.rng
    okG (s.modMe (fun h => h.settle pre.me.rng ⟨0, r.2.1, r.2.2⟩)) vd (word r.1))

/-- VRSUM issued alone. -/
def execVrsum (vd : BitVec 5) (va : BitVec 6) (ty : BitVec 4) (rm : BitVec 3) (s : State) : Result :=
  issue (.vrsum vd va ty rm) true false (slotVrsum vd va ty rm) s

/-- The smaller (or larger) of two integer elements of type t. -/
def pickInt (t : Ty) (larger : Bool) (a b : Nat) : Nat :=
  let lt := decide (idecode t a < idecode t b)
  if larger then (if lt then b else a) else (if lt then a else b)

/-- VRMAX and VRMIN of R116. -/
def reduceMinMax (vd : BitVec 5) (va : BitVec 6) (ty : BitVec 4) (larger : Bool) (pre cur : State) : Eff :=
  let t := Ty.of ty
  vec1 t va pre cur (fun a s =>
    let f (_ x y : Nat) : Nat × Flags := if t.isF then pickElem t larger x y else (pickInt t larger x y, 0)
    let r := treeReduce false f (Nat.log2 t.lanes) (elemList t a) 0 pre.me.rng
    okG (s.modMe (fun h => h.raise r.2.1)) vd (elemWord t (BitVec.ofNat t.width r.1)))

/-- VRMAX (R116). -/
def slotVrmax (vd : BitVec 5) (va : BitVec 6) (ty : BitVec 4) (pre cur : State) : Eff := reduceMinMax vd va ty true pre cur

/-- VRMAX issued alone. -/
def execVrmax (vd : BitVec 5) (va : BitVec 6) (ty : BitVec 4) (s : State) : Result :=
  issue (.vrmax vd va ty) true false (slotVrmax vd va ty) s

/-- VRMIN (R116). -/
def slotVrmin (vd : BitVec 5) (va : BitVec 6) (ty : BitVec 4) (pre cur : State) : Eff := reduceMinMax vd va ty false pre cur

/-- VRMIN issued alone. -/
def execVrmin (vd : BitVec 5) (va : BitVec 6) (ty : BitVec 4) (s : State) : Result :=
  issue (.vrmin vd va ty) true false (slotVrmin vd va ty) s

/-- VIRSUM (R116): the sum of all elements modulo 2^64. -/
def slotVirsum (vd : BitVec 5) (va : BitVec 6) (ty : BitVec 4) (pre cur : State) : Eff :=
  let t := Ty.of ty
  vec1 t va pre cur (fun a s =>
    okG s vd (BitVec.ofInt 64 ((elemList t a).foldl (fun (n : Int) x => n + idecode t x) 0)))

/-- VIRSUM issued alone. -/
def execVirsum (vd : BitVec 5) (va : BitVec 6) (ty : BitVec 4) (s : State) : Result :=
  issue (.virsum vd va ty) true false (slotVirsum vd va ty) s

/-! ### Dot products -/

/-- The terms of lane i of a dot product of depth k (R117). -/
def dotTerms (t : Ty) (k i : Nat) (a b : Vec) : List (Nat × Nat) :=
  (List.range k).map (fun j => (elemOf t a (k * i + j), elemOf t b (k * i + j)))

/-- One lane of a dot product of float types (R117). A quiet NaN among its operands prevails over an invalid product or sum, without a flag:
the model's choice (log 53). -/
def dotFloat (t : Ty) (rm : BitVec 3) (draw c : Nat) (terms : List (Nat × Nat)) : Nat × Flags :=
  let z := fdecode .f32 c
  let xs := terms.map (fun p => (fdecode t p.1, fdecode t p.2))
  let ps := xs.map (fun p => mulVals p.1 p.2)
  let r : Option FVal := if ps.any (fun p => p.isNone) then none else sumVals rm (z :: ps.filterMap id)
  arith .f32 rm draw (z :: xs.flatMap (fun p => [p.1, p.2])) r

/-- A dot product of R117: sixteen 32-bit lanes of vd, read and written. -/
def dot (vd : BitVec 5) (va vb : BitVec 6) (ty : BitVec 4) (rm : BitVec 3) (k : Nat) (pre cur : State) : Eff :=
  let t := Ty.of ty
  let c := pre.me.getV vd
  vec2 t va vb pre cur (fun a b s =>
    finishV pre s (vd.setWidth 6) (elementwise 32 16 (t.isFloat && rmDraws rm) pre.me.rng (fun i draw =>
      let old := (lane c i 32).toNat
      let terms := dotTerms t k i a b
      if t.isFloat then dotFloat t rm draw old terms
      else (wrapInt 32 (terms.foldl (fun (n : Int) p => n + idecode t p.1 * idecode t p.2) old), 0))))

/-- VDOT4 (R117). -/
def slotVdot4 (vd : BitVec 5) (va vb : BitVec 6) (ty : BitVec 4) (rm : BitVec 3) (pre cur : State) : Eff := dot vd va vb ty rm 4 pre cur

/-- VDOT4 issued alone. -/
def execVdot4 (vd : BitVec 5) (va : BitVec 6) (vb : BitVec 6) (ty : BitVec 4) (rm : BitVec 3) (s : State) : Result :=
  issue (.vdot4 vd va vb ty rm) true false (slotVdot4 vd va vb ty rm) s

/-- VDOT2 (R117). -/
def slotVdot2 (vd : BitVec 5) (va vb : BitVec 6) (ty : BitVec 4) (rm : BitVec 3) (pre cur : State) : Eff := dot vd va vb ty rm 2 pre cur

/-- VDOT2 issued alone. -/
def execVdot2 (vd : BitVec 5) (va : BitVec 6) (vb : BitVec 6) (ty : BitVec 4) (rm : BitVec 3) (s : State) : Result :=
  issue (.vdot2 vd va vb ty rm) true false (slotVdot2 vd va vb ty rm) s

/-! ### Conversions -/

/-- VCVT (R118). -/
def slotVcvt (vd va : BitVec 6) (part : BitVec 2) (src ty : BitVec 4) (rm : BitVec 3) (pre cur : State) : Eff :=
  let sT := Ty.of src
  let d := Ty.of ty
  let n := min sT.lanes d.lanes
  let src0 := if d.lanes < sT.lanes then part.toNat * n else 0
  let dst0 := if sT.lanes < d.lanes then part.toNat * n else 0
  let old : Vec := if sT.lanes < d.lanes then pre.me.getV (vd.setWidth 5) else 0
  vec1 sT va pre cur (fun a s =>
    let (xs, fl, rng) := runElems (fun k draw => convert d rm draw (valueOf sT (elemOf sT a (src0 + k)))) (rmDraws rm) n 0 pre.me.rng
    let v := packElems old d.width dst0 xs
    -- a 6-bit vector's bits [511:384] are written zero (R94)
    let v := if d.width = 6 then v &&& (BitVec.allOnes 384).setWidth 512 else v
    finishV pre s vd ⟨v, fl, rng⟩)

/-- VCVT issued alone. -/
def execVcvt (vd : BitVec 6) (va : BitVec 6) (part : BitVec 2) (src : BitVec 4) (ty : BitVec 4) (rm : BitVec 3) (s : State) : Result :=
  issue (.vcvt vd va part src ty rm) true false (slotVcvt vd va part src ty rm) s

/-- The source type of VPACK (R119): twice the width of d. -/
def packSource (d : Ty) : Ty :=
  match d.width with
  | 8 => .s16
  | 16 => .s32
  | _ => .s64

/-- VPACK (R119). -/
def slotVpack (vd va vb : BitVec 6) (ty : BitVec 4) (pre cur : State) : Eff :=
  let d := Ty.of ty
  let sT := packSource d
  vec2 sT va vb pre cur (fun a b s =>
    finishV pre s vd (elementwise d.width d.lanes false pre.me.rng (fun k _ =>
      let half := d.lanes / 2
      clampInt d (idecode sT (if k < half then elemOf sT a k else elemOf sT b (k - half))))))

/-- VPACK issued alone. -/
def execVpack (vd : BitVec 6) (va : BitVec 6) (vb : BitVec 6) (ty : BitVec 4) (s : State) : Result :=
  issue (.vpack vd va vb ty) true false (slotVpack vd va vb ty) s

/-- The source type of VUNPACK (R119): half the width of d. -/
def unpackSource : Ty → Ty
  | .s16 => .s8
  | .z16 => .z8
  | .s32 => .s16
  | .z32 => .z16
  | _ => .s32

/-- VUNPACK (R119). -/
def slotVunpack (vd va : BitVec 6) (part : BitVec 6) (ty : BitVec 4) (pre cur : State) : Eff :=
  let d := Ty.of ty
  let sT := unpackSource d
  vec1 sT va pre cur (fun a s =>
    finishRaw pre s vd (pureElems d.width d.lanes (fun k => BitVec.ofInt d.width (idecode sT (elemOf sT a (part.toNat * d.lanes + k))))))

/-- VUNPACK issued alone. -/
def execVunpack (vd : BitVec 6) (va : BitVec 6) (part : BitVec 6) (ty : BitVec 4) (s : State) : Result :=
  issue (.vunpack vd va part ty) true false (slotVunpack vd va part ty) s

/-- A value times 2^k. -/
def FVal.scale (k : Int) : FVal → FVal
  | .num s m e => .num s m (e + k)
  | v => v

/-- VQNT (R120): 32 bf16 values under an E8M0 scale. The NaN of scale 0xFF is a quiet one, and the elements under it are not looked at: the
model's choice (log 53). -/
def slotVqnt (vd va : BitVec 6) (gs : BitVec 4) (ty : BitVec 4) (rm : BitVec 3) (pre cur : State) : Eff :=
  let d := Ty.of ty
  let scale := bf (pre.me.getG (BitVec.ofNat 5 (16 + gs.toNat))) 0 8
  vec1 .bf16 va pre cur (fun a s =>
    let (xs, fl, rng) := runElems (fun k draw =>
      convert d rm draw (if scale = 255 then .nan false else (fdecode .bf16 (elemOf .bf16 a k)).scale (127 - (scale : Int)))) (rmDraws rm) 32 0 pre.me.rng
    finishV pre s vd ⟨packElems 0 d.width 0 xs, fl, rng⟩)

/-- VQNT issued alone. -/
def execVqnt (vd : BitVec 6) (va : BitVec 6) (gs : BitVec 4) (ty : BitVec 4) (rm : BitVec 3) (s : State) : Result :=
  issue (.vqnt vd va gs ty rm) true false (slotVqnt vd va gs ty rm) s

end Sys2Proof.Machine
end

