-- ==== Sys2Proof/Machine/VecBits.lean ====
section
/-! DEFINITION. Integer arithmetic, compares and select, masks, permutes, sparse bitmaps and VCBD of the A slot
(R110 to R114, R121 to R123). -/

namespace Sys2Proof.Machine

/-! ### Integer arithmetic (R110) -/

/-- VIADD (R110). -/
def slotViadd (vd va vb : BitVec 6) (ty : BitVec 4) (pre cur : State) : Eff := bits2 (Ty.of ty) vd va vb pre cur (fun a b => a + b)

/-- VIADD issued alone. -/
def execViadd (vd : BitVec 6) (va : BitVec 6) (vb : BitVec 6) (ty : BitVec 4) (s : State) : Result :=
  issue (.viadd vd va vb ty) true false (slotViadd vd va vb ty) s

/-- VISUB (R110). -/
def slotVisub (vd va vb : BitVec 6) (ty : BitVec 4) (pre cur : State) : Eff := bits2 (Ty.of ty) vd va vb pre cur (fun a b => a - b)

/-- VISUB issued alone. -/
def execVisub (vd : BitVec 6) (va : BitVec 6) (vb : BitVec 6) (ty : BitVec 4) (s : State) : Result :=
  issue (.visub vd va vb ty) true false (slotVisub vd va vb ty) s

/-- VIMUL (R110). -/
def slotVimul (vd va vb : BitVec 6) (ty : BitVec 4) (pre cur : State) : Eff := bits2 (Ty.of ty) vd va vb pre cur (fun a b => a * b)

/-- VIMUL issued alone. -/
def execVimul (vd : BitVec 6) (va : BitVec 6) (vb : BitVec 6) (ty : BitVec 4) (s : State) : Result :=
  issue (.vimul vd va vb ty) true false (slotVimul vd va vb ty) s

/-- VIMULH (R110): signed for s types, unsigned for z types. -/
def slotVimulh (vd va vb : BitVec 6) (ty : BitVec 4) (pre cur : State) : Eff :=
  let t := Ty.of ty
  bits2 t vd va vb pre cur (fun a b => BitVec.ofInt t.width ((idecode t a.toNat * idecode t b.toNat) / 2 ^ t.width))

/-- VIMULH issued alone. -/
def execVimulh (vd : BitVec 6) (va : BitVec 6) (vb : BitVec 6) (ty : BitVec 4) (s : State) : Result :=
  issue (.vimulh vd va vb ty) true false (slotVimulh vd va vb ty) s

/-- VAND (R110). -/
def slotVand (vd va vb : BitVec 6) (ty : BitVec 4) (pre cur : State) : Eff := bits2 (Ty.of ty) vd va vb pre cur (fun a b => a &&& b)

/-- VAND issued alone. -/
def execVand (vd : BitVec 6) (va : BitVec 6) (vb : BitVec 6) (ty : BitVec 4) (s : State) : Result :=
  issue (.vand vd va vb ty) true false (slotVand vd va vb ty) s

/-- VOR (R110). -/
def slotVor (vd va vb : BitVec 6) (ty : BitVec 4) (pre cur : State) : Eff := bits2 (Ty.of ty) vd va vb pre cur (fun a b => a ||| b)

/-- VOR issued alone. -/
def execVor (vd : BitVec 6) (va : BitVec 6) (vb : BitVec 6) (ty : BitVec 4) (s : State) : Result :=
  issue (.vor vd va vb ty) true false (slotVor vd va vb ty) s

/-- VXOR (R110). -/
def slotVxor (vd va vb : BitVec 6) (ty : BitVec 4) (pre cur : State) : Eff := bits2 (Ty.of ty) vd va vb pre cur (fun a b => a ^^^ b)

/-- VXOR issued alone. -/
def execVxor (vd : BitVec 6) (va : BitVec 6) (vb : BitVec 6) (ty : BitVec 4) (s : State) : Result :=
  issue (.vxor vd va vb ty) true false (slotVxor vd va vb ty) s

/-- The shift count of R110: the low log2 w bits of b. -/
def shiftBy {w : Nat} (b : BitVec w) : Nat := b.toNat % w

/-- VSHL (R110). -/
def slotVshl (vd va vb : BitVec 6) (ty : BitVec 4) (pre cur : State) : Eff := bits2 (Ty.of ty) vd va vb pre cur (fun a b => a <<< shiftBy b)

/-- VSHL issued alone. -/
def execVshl (vd : BitVec 6) (va : BitVec 6) (vb : BitVec 6) (ty : BitVec 4) (s : State) : Result :=
  issue (.vshl vd va vb ty) true false (slotVshl vd va vb ty) s

/-- VSHR (R110): zeros shifted in. -/
def slotVshr (vd va vb : BitVec 6) (ty : BitVec 4) (pre cur : State) : Eff := bits2 (Ty.of ty) vd va vb pre cur (fun a b => a >>> shiftBy b)

/-- VSHR issued alone. -/
def execVshr (vd : BitVec 6) (va : BitVec 6) (vb : BitVec 6) (ty : BitVec 4) (s : State) : Result :=
  issue (.vshr vd va vb ty) true false (slotVshr vd va vb ty) s

/-- VSRA (R110): copies of the top bit shifted in. -/
def slotVsra (vd va vb : BitVec 6) (ty : BitVec 4) (pre cur : State) : Eff := bits2 (Ty.of ty) vd va vb pre cur (fun a b => a.sshiftRight (shiftBy b))

/-- VSRA issued alone. -/
def execVsra (vd : BitVec 6) (va : BitVec 6) (vb : BitVec 6) (ty : BitVec 4) (s : State) : Result :=
  issue (.vsra vd va vb ty) true false (slotVsra vd va vb ty) s

/-- VIMIN (R110). -/
def slotVimin (vd va vb : BitVec 6) (ty : BitVec 4) (pre cur : State) : Eff :=
  let t := Ty.of ty
  bits2 t vd va vb pre cur (fun a b => if idecode t b.toNat < idecode t a.toNat then b else a)

/-- VIMIN issued alone. -/
def execVimin (vd : BitVec 6) (va : BitVec 6) (vb : BitVec 6) (ty : BitVec 4) (s : State) : Result :=
  issue (.vimin vd va vb ty) true false (slotVimin vd va vb ty) s

/-- VIMAX (R110). -/
def slotVimax (vd va vb : BitVec 6) (ty : BitVec 4) (pre cur : State) : Eff :=
  let t := Ty.of ty
  bits2 t vd va vb pre cur (fun a b => if idecode t a.toNat < idecode t b.toNat then b else a)

/-- VIMAX issued alone. -/
def execVimax (vd : BitVec 6) (va : BitVec 6) (vb : BitVec 6) (ty : BitVec 4) (s : State) : Result :=
  issue (.vimax vd va vb ty) true false (slotVimax vd va vb ty) s

/-! ### Compare and select -/

/-- A float condition of R53 and R111: whether it holds, and whether it raises invalid. -/
def condFloat (t : Ty) (cond : BitVec 3) (a b : Nat) : Bool × Bool :=
  let x := fdecode t a
  let y := fdecode t b
  let nan := x.isNan || y.isNan
  let sig := x.isSig || y.isSig
  let lt := x.lt y
  let gt := y.lt x
  match cond.toNat with
  | 0 => (!nan && !lt && !gt, sig)
  | 1 => (nan || lt || gt, sig)
  | 2 => (!nan && lt, nan)
  | 3 => (!nan && !gt, nan)
  | 4 => (!nan && gt, nan)
  | 5 => (!nan && !lt, nan)
  | 6 => (!nan, sig)
  | _ => (nan, sig)

/-- An integer condition of R53 and R111. -/
def condInt (t : Ty) (cond : BitVec 3) (a b : Nat) : Bool :=
  let x := idecode t a
  let y := idecode t b
  match cond.toNat with
  | 0 => x == y
  | 1 => x != y
  | 2 => decide (x < y)
  | 3 => decide (x ≤ y)
  | 4 => decide (y < x)
  | _ => decide (y ≤ x)

/-- VFCMP (R111). -/
def slotVfcmp (vd va vb : BitVec 6) (ty : BitVec 4) (cond : BitVec 3) (pre cur : State) : Eff :=
  let t := Ty.of ty
  vec2 t va vb pre cur (fun a b s =>
    let c (k : Nat) : Bool × Bool := condFloat t cond (elemOf t a k) (elemOf t b k)
    let invalid := (List.range t.lanes).any (fun k => (c k).2)
    .ok (s.modMe (fun h => (h.setM (maskDest vd) (maskOf (fun k => (c k).1) t.lanes)).raise (if invalid then flagInvalid else 0))) none)

/-- VFCMP issued alone. -/
def execVfcmp (vd : BitVec 6) (va : BitVec 6) (vb : BitVec 6) (ty : BitVec 4) (cond : BitVec 3) (s : State) : Result :=
  issue (.vfcmp vd va vb ty cond) true false (slotVfcmp vd va vb ty cond) s

/-- VICMP (R111). -/
def slotVicmp (vd va vb : BitVec 6) (ty : BitVec 4) (cond : BitVec 3) (pre cur : State) : Eff :=
  let t := Ty.of ty
  vec2 t va vb pre cur (fun a b s =>
    .ok (s.modMe (fun h => h.setM (maskDest vd) (maskOf (fun k => condInt t cond (elemOf t a k) (elemOf t b k)) t.lanes))) none)

/-- VICMP issued alone. -/
def execVicmp (vd : BitVec 6) (va : BitVec 6) (vb : BitVec 6) (ty : BitVec 4) (cond : BitVec 3) (s : State) : Result :=
  issue (.vicmp vd va vb ty cond) true false (slotVicmp vd va vb ty cond) s

/-- VSEL (R112): bit i selects element i; for e2m1 bit k selects elements 2k and 2k + 1. -/
def slotVsel (vd va vb : BitVec 6) (ty : BitVec 4) (mk : BitVec 3) (pre cur : State) : Eff :=
  let t := Ty.of ty
  let m := pre.me.getM mk
  move2 t vd va vb pre cur (fun a b k => if bit m (if t.lanes = 128 then k / 2 else k) then a k else b k)

/-- VSEL issued alone. -/
def execVsel (vd : BitVec 6) (va : BitVec 6) (vb : BitVec 6) (ty : BitVec 4) (mk : BitVec 3) (s : State) : Result :=
  issue (.vsel vd va vb ty mk) true false (slotVsel vd va vb ty mk) s

/-! ### Masks (R113) -/

/-- A mask source, code 40 to 47. -/
def maskOp (s : State) (a : BitVec 6) : Word := s.me.getM (maskDest a)

/-- MAND (R113). -/
def slotMand (vd va vb : BitVec 6) (pre cur : State) : Eff :=
  .ok (cur.modMe (fun h => h.setM (maskDest vd) (maskOp pre va &&& maskOp pre vb))) none

/-- MAND issued alone. -/
def execMand (vd : BitVec 6) (va : BitVec 6) (vb : BitVec 6) (s : State) : Result :=
  issue (.mand vd va vb) true false (slotMand vd va vb) s

/-- MOR (R113). -/
def slotMor (vd va vb : BitVec 6) (pre cur : State) : Eff :=
  .ok (cur.modMe (fun h => h.setM (maskDest vd) (maskOp pre va ||| maskOp pre vb))) none

/-- MOR issued alone. -/
def execMor (vd : BitVec 6) (va : BitVec 6) (vb : BitVec 6) (s : State) : Result :=
  issue (.mor vd va vb) true false (slotMor vd va vb) s

/-- MXOR (R113). -/
def slotMxor (vd va vb : BitVec 6) (pre cur : State) : Eff :=
  .ok (cur.modMe (fun h => h.setM (maskDest vd) (maskOp pre va ^^^ maskOp pre vb))) none

/-- MXOR issued alone. -/
def execMxor (vd : BitVec 6) (va : BitVec 6) (vb : BitVec 6) (s : State) : Result :=
  issue (.mxor vd va vb) true false (slotMxor vd va vb) s

/-- MNOT (R113). -/
def slotMnot (vd va : BitVec 6) (pre cur : State) : Eff :=
  .ok (cur.modMe (fun h => h.setM (maskDest vd) (~~~ maskOp pre va))) none

/-- MNOT issued alone. -/
def execMnot (vd : BitVec 6) (va : BitVec 6) (s : State) : Result :=
  issue (.mnot vd va) true false (slotMnot vd va) s

/-- MPOP (R113). -/
def slotMpop (vd : BitVec 5) (va : BitVec 6) (pre cur : State) : Eff := okG cur vd (word (popcount (maskOp pre va)))

/-- MPOP issued alone. -/
def execMpop (vd : BitVec 5) (va : BitVec 6) (s : State) : Result :=
  issue (.mpop vd va) true false (slotMpop vd va) s

/-- MFIRST (R113): 64 where no bit is set. -/
def slotMfirst (vd : BitVec 5) (va : BitVec 6) (pre cur : State) : Eff := okG cur vd (word (lowestSet (maskOp pre va)))

/-- MFIRST issued alone. -/
def execMfirst (vd : BitVec 5) (va : BitVec 6) (s : State) : Result :=
  issue (.mfirst vd va) true false (slotMfirst vd va) s

/-! ### Permutes (R114) -/

/-- VBCAST (R114). -/
def slotVbcast (vd va k : BitVec 6) (ty : BitVec 4) (pre cur : State) : Eff :=
  move1 (Ty.of ty) vd va pre cur (fun a _ => a k.toNat)

/-- VBCAST issued alone. -/
def execVbcast (vd : BitVec 6) (va : BitVec 6) (k : BitVec 6) (ty : BitVec 4) (s : State) : Result :=
  issue (.vbcast vd va k ty) true false (slotVbcast vd va k ty) s

/-- VEXTR (R114). -/
def slotVextr (vd : BitVec 5) (va k : BitVec 6) (ty : BitVec 4) (pre cur : State) : Eff :=
  let t := Ty.of ty
  vec1 t va pre cur (fun a s => okG s vd (elemWord t (lane a k.toNat t.width)))

/-- VEXTR issued alone. -/
def execVextr (vd : BitVec 5) (va : BitVec 6) (k : BitVec 6) (ty : BitVec 4) (s : State) : Result :=
  issue (.vextr vd va k ty) true false (slotVextr vd va k ty) s

/-- VINS (R114): vd is read. -/
def slotVins (vd va k : BitVec 6) (ty : BitVec 4) (pre cur : State) : Eff :=
  let t := Ty.of ty
  vec1 t va pre cur (fun a s =>
    finishRaw pre s vd (setLane (pre.me.getV (vd.setWidth 5)) k.toNat t.width (lane a 0 t.width)))

/-- VINS issued alone. -/
def execVins (vd : BitVec 6) (va : BitVec 6) (k : BitVec 6) (ty : BitVec 4) (s : State) : Result :=
  issue (.vins vd va k ty) true false (slotVins vd va k ty) s

/-- VPERM (R114): j is the low log2 L bits of b_i. -/
def slotVperm (vd va vb : BitVec 6) (ty : BitVec 4) (pre cur : State) : Eff :=
  let t := Ty.of ty
  move2 t vd va vb pre cur (fun a b k => a ((b k).toNat % t.lanes))

/-- VPERM issued alone. -/
def execVperm (vd : BitVec 6) (va : BitVec 6) (vb : BitVec 6) (ty : BitVec 4) (s : State) : Result :=
  issue (.vperm vd va vb ty) true false (slotVperm vd va vb ty) s

/-- VROT (R114). -/
def slotVrot (vd va k : BitVec 6) (ty : BitVec 4) (pre cur : State) : Eff :=
  let t := Ty.of ty
  move1 t vd va pre cur (fun a j => a ((j + k.toNat) % t.lanes))

/-- VROT issued alone. -/
def execVrot (vd : BitVec 6) (va : BitVec 6) (k : BitVec 6) (ty : BitVec 4) (s : State) : Result :=
  issue (.vrot vd va k ty) true false (slotVrot vd va k ty) s

/-- VSLIDE (R114): vd is read. -/
def slotVslide (vd va k : BitVec 6) (ty : BitVec 4) (pre cur : State) : Eff :=
  let t := Ty.of ty
  let old := pre.me.getV (vd.setWidth 5)
  move1 t vd va pre cur (fun a j =>
    if j + k.toNat < t.lanes then a (j + k.toNat) else lane old (j + k.toNat - t.lanes) t.width)

/-- VSLIDE issued alone. -/
def execVslide (vd : BitVec 6) (va : BitVec 6) (k : BitVec 6) (ty : BitVec 4) (s : State) : Result :=
  issue (.vslide vd va k ty) true false (slotVslide vd va k ty) s

/-- VZIP (R114). -/
def slotVzip (vd va vb : BitVec 6) (ty : BitVec 4) (h : BitVec 3) (pre cur : State) : Eff :=
  let t := Ty.of ty
  move2 t vd va vb pre cur (fun a b j =>
    let n := j / 2 + h.toNat * (t.lanes / 2)
    if j % 2 = 0 then a n else b n)

/-- VZIP issued alone. -/
def execVzip (vd : BitVec 6) (va : BitVec 6) (vb : BitVec 6) (ty : BitVec 4) (h : BitVec 3) (s : State) : Result :=
  issue (.vzip vd va vb ty h) true false (slotVzip vd va vb ty h) s

/-- VUNZIP (R114). -/
def slotVunzip (vd va vb : BitVec 6) (ty : BitVec 4) (h : BitVec 3) (pre cur : State) : Eff :=
  let t := Ty.of ty
  move2 t vd va vb pre cur (fun a b j =>
    if j < t.lanes / 2 then a (2 * j + h.toNat) else b (2 * (j - t.lanes / 2) + h.toNat))

/-- VUNZIP issued alone. -/
def execVunzip (vd : BitVec 6) (va : BitVec 6) (vb : BitVec 6) (ty : BitVec 4) (h : BitVec 3) (s : State) : Result :=
  issue (.vunzip vd va vb ty h) true false (slotVunzip vd va vb ty h) s

/-! ### Sparse bitmaps (R121, R122) -/

/-- VPOPX (R121). -/
def slotVpopx (vd : BitVec 5) (va vb : BitVec 6) (pre cur : State) : Eff :=
  match readTwo pre cur wholeWord wholeWord va vb with
  | none => waitQueue pre
  | some (a, b, s) => okG s vd (word (popcount (a &&& b)))

/-- VPOPX issued alone. -/
def execVpopx (vd : BitVec 5) (va : BitVec 6) (vb : BitVec 6) (s : State) : Result :=
  issue (.vpopx vd va vb) true false (slotVpopx vd va vb) s

/-- The indices below L that a bitmap names. -/
def siteList (t : Ty) (b : Vec) : List Nat := (List.range t.lanes).filter (fun k => bit b k)

/-- VCOMPR and VEXPND read elements of type t and a bitmap. -/
def sparse2 (ty : BitVec 4) (vd va vb : BitVec 6) (pre cur : State) (f : (t : Ty) → Vec → List Nat → Nat → BitVec t.width) : Eff :=
  let t := Ty.of ty
  match readTwo pre cur (elems t) wholeWord va vb with
  | none => waitQueue pre
  | some (a, b, s) => finishRaw pre s vd (pureElems t.width t.lanes (f t a (siteList t b)))

/-- VCOMPR (R122). -/
def slotVcompr (vd va vb : BitVec 6) (ty : BitVec 4) (pre cur : State) : Eff :=
  sparse2 ty vd va vb pre cur (fun t a sites j => match sites[j]? with
    | some k => lane a k t.width
    | none => 0)

/-- VCOMPR issued alone. -/
def execVcompr (vd : BitVec 6) (va : BitVec 6) (vb : BitVec 6) (ty : BitVec 4) (s : State) : Result :=
  issue (.vcompr vd va vb ty) true false (slotVcompr vd va vb ty) s

/-- VEXPND (R122). -/
def slotVexpnd (vd va vb : BitVec 6) (ty : BitVec 4) (pre cur : State) : Eff :=
  sparse2 ty vd va vb pre cur (fun t a sites k =>
    if sites.contains k then lane a (sites.takeWhile (fun j => j != k)).length t.width else 0)

/-- VEXPND issued alone. -/
def execVexpnd (vd : BitVec 6) (va : BitVec 6) (vb : BitVec 6) (ty : BitVec 4) (s : State) : Result :=
  issue (.vexpnd vd va vb ty) true false (slotVexpnd vd va vb ty) s

/-! ### VCBD (R123) -/

/-- A codebook bank of a core. -/
def Core.bankOf (c : Core) (b : Bool) : Bank := if b then c.cb1 else c.cb0

/-- A bank is loading (R142). -/
def Core.bankLoading (c : Core) (b : Bool) : Bool := if b then c.loading1 else c.loading0

/-- VCBD (R123): it waits while a CBLD loads the bank, and reads the rows of the bank as they stand after its bundle's CBLD. -/
def slotVcbd (vd va : BitVec 6) (bank : BitVec 1) (start : BitVec 5) (ty : BitVec 4) (pre cur : State) : Eff :=
  let t := Ty.of ty
  let c := cur.core (coreOf pre.cur)
  if c.bankLoading (bank == 1) then .wait pre
  else
    vec1 .cb2 va pre cur (fun a s =>
      finishRaw pre s vd (pureElems t.width (8 * cbdCount t) (fun k =>
        let x := elemOf .cb2 a (start.toNat + k / 8)
        BitVec.ofNat t.width (fencode t 0 0 (cb2Weight x (cb2Row (c.bankOf (bank == 1)) x) (k % 8))).1)))

/-- VCBD issued alone. -/
def execVcbd (vd : BitVec 6) (va : BitVec 6) (bank : BitVec 1) (start : BitVec 5) (ty : BitVec 4) (s : State) : Result :=
  issue (.vcbd vd va bank start ty) true false (slotVcbd vd va bank start ty) s

end Sys2Proof.Machine
end

