-- ==== Sys2Proof/Machine/Matrix.lean ====
section
/-! DEFINITION. The matrix unit: MMA, MZERO, MST, MLD, BLD, BPASS, BWAIT, CBLD (R124 to R145). -/

namespace Sys2Proof.Machine

/-! ### Local streams -/

/-- The lowest byte of [a, a + n) outside the core-local window, or at offset 0x2_0000 or above within it (R128, R203). -/
def outsideWindow (a n : Nat) : Option Nat :=
  if n = 0 then none
  else if a < localBase then some a
  else if localBase + 0x20000 < a + n then some (max a (localBase + 0x20000))
  else none

/-- The lowest out-of-range offset of [a, a + n), which lies in the window (R205). -/
def outOfRangeIn (a n : Nat) : Option Nat :=
  if localBase + localSize < a + n then some (max (a - localBase) localSize) else none

/-- The out-of-range record of an access to these runs of the window. Beside an A instruction that makes one, a SYW of sy.lmflag or sy.lmaddr in the C
slot comes first: the record is made if the flag is clear after it (log 59, DESIGN CHOICE). -/
def State.recordRange (s : State) (h : Nat) (runs : List (Nat × Nat)) (write : Bool) : State :=
  match (runs.filterMap (fun r => outOfRangeIn r.1 r.2)).min? with
  | some o => s.outOfRange h o write
  | none => s

/-- The bytes of [a, a + n) of a core's window. -/
def Core.stream (c : Core) (a n : Nat) : List Byte := (List.range n).map (fun k => c.localByte (a + k - localBase))

/-- A hart's earlier accesses are all performed (R143). -/
def Hart.accessesDone (x : Hart) : Bool := x.loads.isEmpty && x.stores.isEmpty

/-! ### The claim and the latches -/

/-- The unit is the hart's, or free with the earlier holder's drain done (R125, R147). -/
def State.unitFree (s : State) (h : Nat) : Bool :=
  let c := s.core (coreOf h)
  c.claim == some h || (c.claim.isNone && c.drained)

/-- The hart's task claims the unit: the state takes its values at claim (R124, R125). -/
def State.claimUnit (s : State) (h : Nat) : State :=
  s.modCore (coreOf h) (fun c =>
    if c.claim = some h then c
    else { c with claim := some h, acc := Vector.replicate 4 0, bl := Vector.replicate 2 Latch.atClaim })

/-- A CLOSED latch opens, and a tile that waits at the predecessor may come (R133). -/
def State.openLatch (s : State) (cid : Nat) (l : Bool) : State :=
  let c := s.core cid
  if (c.latch l).st = .closed then
    let s := s.setCore cid (c.setLatch l { (c.latch l) with st := .opened })
    if ((s.core (seamPrev cid)).latch l).pass then s.push (.seamHandoffBegin (seamPrev cid) l) else s
  else s

/-- The effect of a matrix instruction once the hart's task holds the unit (R125). -/
def withUnit (pre cur : State) (f : State → Eff) : Eff :=
  if pre.unitFree pre.cur then f (cur.claimUnit pre.cur) else .wait pre

/-- The hart that waits for latch l, which was CLOSED, has opened it; whether it has taken the claim for that. -/
def State.noteOpened (s pre : State) (l : Bool) : State :=
  let c := pre.core (coreOf pre.cur)
  if (c.claim != some pre.cur || (c.latch l).st == .closed) && pre.me.opened.isNone then
    s.modMe (fun x => { x with opened := some (c.claim != some pre.cur, l) })
  else s

/-- The effect once latch l is FULL; a CLOSED latch becomes OPEN, and the bundle waits (R133). It becomes OPEN under the claim of the hart that
waits, or another task could take the unit; no other wait of a matrix instruction claims (R125; log 52). Both are undone if the bundle traps or is left
before it issues (R41, R146). -/
def withFull (pre cur : State) (l : Bool) (f : State → Eff) : Eff :=
  withUnit pre cur (fun s =>
    if ((s.core (coreOf pre.cur)).latch l).st = .full then f s
    else .wait (((pre.claimUnit pre.cur).openLatch (coreOf pre.cur) l).noteOpened pre l))

/-- An MMA into accumulator n is under way on the core (R143). -/
def Core.accBusy (c : Core) (n : BitVec 2) : Bool := c.mma.any (fun j => j.acc == n)

/-! ### MMA -/

/-- A format pair (R127): how A is read, how B is read, and the depth. -/
structure Pair where
  a : Ty
  b : Ty
  depth : Nat
  deriving DecidableEq, Repr

/-- Bytes of an A row (R127, R128). -/
def Pair.rowBytes (p : Pair) : Nat := if p.a = .cb2 then p.depth / 4 + p.depth / 32 else p.depth * p.a.width / 8

/-- Element k of a little-endian bit stream of w-bit elements. -/
def streamElem (n w k : Nat) : Nat := n / 2 ^ (w * k) % 2 ^ w

/-- The values of an A row (R128): a NaN scale makes its weights NaN, as a signalling one does for the flag of R131. -/
def Pair.rowValues (p : Pair) (bank : Bank) (bytes : List Byte) : List FVal :=
  let n := ofBytes bytes
  (List.range p.depth).map (fun k =>
    if p.a = .cb2 then
      let x := streamElem n 16 (k / 8)
      let e := (bytes.getD (p.depth / 4 + k / 32) 0).toNat
      if e = 255 then .nan true else (cb2Weight x (cb2Row bank x) (k % 8)).scale ((e : Int) - 127)
    else valueOf p.a (streamElem n p.a.width k))

/-- The values of B, by column (R129). -/
def Pair.columnValues (p : Pair) (tile : Tile) : List (List FVal) :=
  (List.range 32).map (fun j => (List.range p.depth).map (fun k => valueOf p.b (lane tile (32 * k + j) p.b.width).toNat))

/-- mma_word of R131. -/
def mmaWord (old : Nat) (xs ys : List FVal) : Nat × Flags :=
  let c := fdecode .f32 old
  let ps := List.zipWith mulVals xs ys
  let all := c :: (xs ++ ys)
  if all.any FVal.isNan then (Ty.f32.nanBits, if all.any FVal.isSig then flagInvalid else 0)
  else if ps.any (fun p => p.isNone) then (Ty.f32.nanBits, flagInvalid)
  else match sumVals 0 (c :: ps.filterMap id) with
    | none => (Ty.f32.nanBits, flagInvalid)
    | some v => fencode .f32 0 0 v

/-- The integer that a value stands for. -/
def FVal.toInteger : FVal → Int
  | .num s m e => if s then -((m : Int) * 2 ^ e.toNat) else (m : Int) * 2 ^ e.toNat
  | _ => 0

/-- The word of MMA.s8 (R131). -/
def mmaInt (old : Nat) (xs ys : List FVal) : Nat × Flags :=
  (wrapInt 32 ((List.zipWith (fun x y => FVal.toInteger x * FVal.toInteger y) xs ys).foldl (fun (a : Int) b => a + b) old), 0)

/-- All words of an accumulator after an MMA, with the flags of all (R131). -/
def Pair.product (p : Pair) (old : AccWords) (rows : List (List FVal)) (columns : List (List FVal)) : AccWords × Flags :=
  let words := (rows.mapIdx (fun r xs => columns.mapIdx (fun j ys =>
    let c := (lane old (32 * r + j) 32).toNat
    if p.a = .s8 then mmaInt c xs ys else mmaWord c xs ys))).flatMap id
  (BitVec.ofNat 32768 (words.foldr (fun w n => w.1 + 2 ^ 32 * n) 0), words.foldl (fun f w => f ||| w.2) 0)

/-- The MMA instructions (R135): trap checks, then the waits, then the job that writes the accumulator when the unit is done. -/
def mma (p : Pair) (acc : BitVec 2) (ga : BitVec 5) (latch bank : BitVec 1) (stride : BitVec 6) (pre cur : State) : Eff :=
  let base := (pre.me.getG ga).toNat
  let step := 16 * (stride.toNat + 1)
  let runs := (List.range 32).map (fun r => (base + r * step, p.rowBytes))
  match (runs.filterMap (fun r => outsideWindow r.1 r.2)).min? with
  | some a => .trap .protection 0 (word a)
  | none =>
    let l := latch == 1
    let b := bank == 1
    withFull pre cur l (fun s =>
      let cid := coreOf pre.cur
      let c := s.core cid
      if c.mma.isSome || !pre.me.accessesDone || (p.a = .cb2 && c.bankLoading b) then .wait pre
      else
        let s := s.recordRange pre.cur runs false
        -- A is read before the stores of the same bundle (R143)
        let rows := runs.map (fun r => p.rowValues (c.bankOf b) ((pre.core cid).stream r.1 r.2))
        let old := c.acc.toList.getD acc.toNat 0
        let r := p.product old rows (p.columnValues (c.latch l).data)
        .ok ((s.modCore cid (fun c => { c with mma := some ⟨pre.cur, acc, l, if p.a = .cb2 then some b else none, r.1, r.2⟩ })).push
          (.mmaComplete cid)) none)

/-- MMA.e4e4 (R127, R135). -/
def slotMmaE4e4 (acc : BitVec 2) (ga : BitVec 5) (latch : BitVec 1) (stride : BitVec 6) (pre cur : State) : Eff :=
  mma ⟨.e4m3, .e4m3, 64⟩ acc ga latch 0 stride pre cur

/-- MMA_E4E4 issued alone. -/
def execMmaE4e4 (acc : BitVec 2) (ga : BitVec 5) (latch : BitVec 1) (stride : BitVec 6) (s : State) : Result :=
  issue (.mmaE4e4 acc ga latch stride) true false (slotMmaE4e4 acc ga latch stride) s

/-- MMA.e4e5 (R127, R135). -/
def slotMmaE4e5 (acc : BitVec 2) (ga : BitVec 5) (latch : BitVec 1) (stride : BitVec 6) (pre cur : State) : Eff :=
  mma ⟨.e4m3, .e5m2, 64⟩ acc ga latch 0 stride pre cur

/-- MMA_E4E5 issued alone. -/
def execMmaE4e5 (acc : BitVec 2) (ga : BitVec 5) (latch : BitVec 1) (stride : BitVec 6) (s : State) : Result :=
  issue (.mmaE4e5 acc ga latch stride) true false (slotMmaE4e5 acc ga latch stride) s

/-- MMA.e5e4 (R127, R135). -/
def slotMmaE5e4 (acc : BitVec 2) (ga : BitVec 5) (latch : BitVec 1) (stride : BitVec 6) (pre cur : State) : Eff :=
  mma ⟨.e5m2, .e4m3, 64⟩ acc ga latch 0 stride pre cur

/-- MMA_E5E4 issued alone. -/
def execMmaE5e4 (acc : BitVec 2) (ga : BitVec 5) (latch : BitVec 1) (stride : BitVec 6) (s : State) : Result :=
  issue (.mmaE5e4 acc ga latch stride) true false (slotMmaE5e4 acc ga latch stride) s

/-- MMA.e5e5 (R127, R135). -/
def slotMmaE5e5 (acc : BitVec 2) (ga : BitVec 5) (latch : BitVec 1) (stride : BitVec 6) (pre cur : State) : Eff :=
  mma ⟨.e5m2, .e5m2, 64⟩ acc ga latch 0 stride pre cur

/-- MMA_E5E5 issued alone. -/
def execMmaE5e5 (acc : BitVec 2) (ga : BitVec 5) (latch : BitVec 1) (stride : BitVec 6) (s : State) : Result :=
  issue (.mmaE5e5 acc ga latch stride) true false (slotMmaE5e5 acc ga latch stride) s

/-- MMA.bf16 (R127, R135). -/
def slotMmaBf16 (acc : BitVec 2) (ga : BitVec 5) (latch : BitVec 1) (stride : BitVec 6) (pre cur : State) : Eff :=
  mma ⟨.bf16, .bf16, 32⟩ acc ga latch 0 stride pre cur

/-- MMA_BF16 issued alone. -/
def execMmaBf16 (acc : BitVec 2) (ga : BitVec 5) (latch : BitVec 1) (stride : BitVec 6) (s : State) : Result :=
  issue (.mmaBf16 acc ga latch stride) true false (slotMmaBf16 acc ga latch stride) s

/-- MMA.f16 (R127, R135). -/
def slotMmaF16 (acc : BitVec 2) (ga : BitVec 5) (latch : BitVec 1) (stride : BitVec 6) (pre cur : State) : Eff :=
  mma ⟨.f16, .f16, 32⟩ acc ga latch 0 stride pre cur

/-- MMA_F16 issued alone. -/
def execMmaF16 (acc : BitVec 2) (ga : BitVec 5) (latch : BitVec 1) (stride : BitVec 6) (s : State) : Result :=
  issue (.mmaF16 acc ga latch stride) true false (slotMmaF16 acc ga latch stride) s

/-- MMA.e3m2 (R127, R135). -/
def slotMmaE3m2 (acc : BitVec 2) (ga : BitVec 5) (latch : BitVec 1) (stride : BitVec 6) (pre cur : State) : Eff :=
  mma ⟨.e3m2, .e3m2, 64⟩ acc ga latch 0 stride pre cur

/-- MMA_E3M2 issued alone. -/
def execMmaE3m2 (acc : BitVec 2) (ga : BitVec 5) (latch : BitVec 1) (stride : BitVec 6) (s : State) : Result :=
  issue (.mmaE3m2 acc ga latch stride) true false (slotMmaE3m2 acc ga latch stride) s

/-- MMA.e2m3 (R127, R135). -/
def slotMmaE2m3 (acc : BitVec 2) (ga : BitVec 5) (latch : BitVec 1) (stride : BitVec 6) (pre cur : State) : Eff :=
  mma ⟨.e2m3, .e2m3, 64⟩ acc ga latch 0 stride pre cur

/-- MMA_E2M3 issued alone. -/
def execMmaE2m3 (acc : BitVec 2) (ga : BitVec 5) (latch : BitVec 1) (stride : BitVec 6) (s : State) : Result :=
  issue (.mmaE2m3 acc ga latch stride) true false (slotMmaE2m3 acc ga latch stride) s

/-- MMA.e2m1 (R127, R135). -/
def slotMmaE2m1 (acc : BitVec 2) (ga : BitVec 5) (latch : BitVec 1) (stride : BitVec 6) (pre cur : State) : Eff :=
  mma ⟨.e2m1, .e2m1, 128⟩ acc ga latch 0 stride pre cur

/-- MMA_E2M1 issued alone. -/
def execMmaE2m1 (acc : BitVec 2) (ga : BitVec 5) (latch : BitVec 1) (stride : BitVec 6) (s : State) : Result :=
  issue (.mmaE2m1 acc ga latch stride) true false (slotMmaE2m1 acc ga latch stride) s

/-- MMA.cb2e4 (R127, R135). -/
def slotMmaCb2e4 (acc : BitVec 2) (ga : BitVec 5) (latch bank : BitVec 1) (stride : BitVec 6) (pre cur : State) : Eff :=
  mma ⟨.cb2, .e4m3, 64⟩ acc ga latch bank stride pre cur

/-- MMA_CB2E4 issued alone. -/
def execMmaCb2e4 (acc : BitVec 2) (ga : BitVec 5) (latch : BitVec 1) (bank : BitVec 1) (stride : BitVec 6) (s : State) : Result :=
  issue (.mmaCb2e4 acc ga latch bank stride) true false (slotMmaCb2e4 acc ga latch bank stride) s

/-- MMA.s8 (R127, R131, R135). -/
def slotMmaS8 (acc : BitVec 2) (ga : BitVec 5) (latch : BitVec 1) (stride : BitVec 6) (pre cur : State) : Eff :=
  mma ⟨.s8, .s8, 64⟩ acc ga latch 0 stride pre cur

/-- MMA_S8 issued alone. -/
def execMmaS8 (acc : BitVec 2) (ga : BitVec 5) (latch : BitVec 1) (stride : BitVec 6) (s : State) : Result :=
  issue (.mmaS8 acc ga latch stride) true false (slotMmaS8 acc ga latch stride) s

/-- MMA.cb2bf (R127, R135). -/
def slotMmaCb2bf (acc : BitVec 2) (ga : BitVec 5) (latch bank : BitVec 1) (stride : BitVec 6) (pre cur : State) : Eff :=
  mma ⟨.cb2, .bf16, 32⟩ acc ga latch bank stride pre cur

/-- MMA_CB2BF issued alone. -/
def execMmaCb2bf (acc : BitVec 2) (ga : BitVec 5) (latch : BitVec 1) (bank : BitVec 1) (stride : BitVec 6) (s : State) : Result :=
  issue (.mmaCb2bf acc ga latch bank stride) true false (slotMmaCb2bf acc ga latch bank stride) s

/-! ### MZERO, MST, MLD -/

/-- An accumulator of a core written. -/
def Core.setAcc (c : Core) (n : BitVec 2) (x : AccWords) : Core := { c with acc := c.acc.set n.toNat x n.isLt }

/-- MZERO (R136): after earlier MMAs into the accumulator. -/
def slotMzero (acc : BitVec 2) (pre cur : State) : Eff :=
  withUnit pre cur (fun s =>
    if (s.core (coreOf pre.cur)).accBusy acc then .wait pre
    else .ok (s.modCore (coreOf pre.cur) (fun c => c.setAcc acc 0)) none)

/-- MZERO issued alone. -/
def execMzero (acc : BitVec 2) (s : State) : Result :=
  issue (.mzero acc) true false (slotMzero acc) s

/-- Bytes of the little-endian bit stream of w-bit elements. -/
def streamBytes (w : Nat) (xs : List Nat) : List Byte :=
  toBytes (BitVec.ofNat (w * xs.length) (xs.foldr (fun x n => x + 2 ^ w * n) 0)) (w * xs.length / 8)

/-- MST (R137): after every earlier access of the hart, and before its later ones (R143). -/
def slotMst (acc : BitVec 2) (ga : BitVec 5) (ty : BitVec 4) (rm : BitVec 3) (pre cur : State) : Eff :=
  let t := Ty.of ty
  let base := (pre.me.getG ga).toNat
  let n := 128 * t.width
  match outsideWindow base n with
  | some a => .trap .protection 0 (word a)
  | none =>
    withUnit pre cur (fun s =>
      let cid := coreOf pre.cur
      let c := s.core cid
      if c.accBusy acc || pre.me.storeHeld true then .wait pre
      else
        let old := c.acc.toList.getD acc.toNat 0
        let (xs, fl, rng) := runElems (fun k draw =>
          let x := (lane old k 32).toNat
          if t = .s32 then (x, 0)
          else if t.isFloat then convert t rm draw (fdecode .f32 x)
          else clampInt t (idecode .s32 x)) (t.isFloat && rmDraws rm) 1024 0 pre.me.rng
        let s := s.recordRange pre.cur [(base, n)] true
        .ok ((s.modCore cid (fun c => c.localWrite (base - localBase) (streamBytes t.width xs))).modMe
          (fun h => h.settle pre.me.rng ⟨0, fl, rng⟩)) none)

/-- MST issued alone. -/
def execMst (acc : BitVec 2) (ga : BitVec 5) (ty : BitVec 4) (rm : BitVec 3) (s : State) : Result :=
  issue (.mst acc ga ty rm) true false (slotMst acc ga ty rm) s

/-- The word that MLD makes of an element (R138). -/
def mldWord (t : Ty) (x : Nat) : Nat × Flags :=
  match t with
  | .f32 | .s32 | .z32 => (x, 0)
  | .f16 | .bf16 => convert .f32 0 0 (fdecode t x)
  | _ => (wrapInt 32 (idecode t x), 0)

/-- MLD (R138). -/
def slotMld (acc : BitVec 2) (ga : BitVec 5) (ty : BitVec 4) (pre cur : State) : Eff :=
  let t := Ty.of ty
  let base := (pre.me.getG ga).toNat
  let n := 128 * t.width
  match outsideWindow base n with
  | some a => .trap .protection 0 (word a)
  | none =>
    withUnit pre cur (fun s =>
      let cid := coreOf pre.cur
      let c := s.core cid
      if c.accBusy acc || !pre.me.accessesDone then .wait pre
      else
        let bits := ofBytes ((pre.core cid).stream base n)
        let ws := (List.range 1024).map (fun k => mldWord t (streamElem bits t.width k))
        let s := s.recordRange pre.cur [(base, n)] false
        .ok ((s.modCore cid (fun c => c.setAcc acc (BitVec.ofNat 32768 (ws.foldr (fun w m => w.1 + 2 ^ 32 * m) 0)))).modMe
          (fun h => h.raise (ws.foldl (fun f w => f ||| w.2) 0))) none)

/-- MLD issued alone. -/
def execMld (acc : BitVec 2) (ga : BitVec 5) (ty : BitVec 4) (s : State) : Result :=
  issue (.mld acc ga ty) true false (slotMld acc ga ty) s

/-! ### BLD, BPASS, BWAIT -/

/-- BLD must wait for the latch (R133, R139): an MMA still reads it, or a tile is leaving or landing. That it waits for a landing that has begun
in an OPEN latch is the model's choice: the table says what a later arrival does, and nothing of one under way (log 52). -/
def Core.latchBusy (c : Core) (l : Bool) : Bool :=
  let x := c.latch l
  c.mma.any (fun j => j.latch == l) || x.pass || x.out || x.landing.isSome

/-- A latch filled by BLD becomes FULL (R133). -/
def State.fillLatch (s : State) (cid : Nat) (l : Bool) (bytes : List Byte) : State :=
  s.modCore cid (fun c => c.setLatch l { (c.latch l) with st := .full, data := BitVec.ofNat 16384 (ofBytes bytes) })

/-- BLD from local memory (R139). -/
def slotBldMemory (ga : BitVec 5) (latch : BitVec 1) (pre cur : State) : Eff :=
  let base := (pre.me.getG ga).toNat
  match outsideWindow base 2048 with
  | some a => .trap .protection 0 (word a)
  | none =>
    withUnit pre cur (fun s =>
      let cid := coreOf pre.cur
      if (s.core cid).latchBusy (latch == 1) || !pre.me.accessesDone then .wait pre
      else
        let s := s.recordRange pre.cur [(base, 2048)] false
        .ok (s.fillLatch cid (latch == 1) ((pre.core cid).stream base 2048)) none)

/-- BLD_MEMORY issued alone. -/
def execBldMemory (ga : BitVec 5) (latch : BitVec 1) (s : State) : Result :=
  issue (.bldMemory ga latch) true false (slotBldMemory ga latch) s

/-- BLD from a queue (R139): 32 entries popped in one issue. -/
def slotBldQueue (q : BitVec 3) (latch : BitVec 1) (pre cur : State) : Eff :=
  let cid := coreOf pre.cur
  let k := queueAt pre.cur q.toNat
  if queueCap pre cid k < 32 then .trap .queue 0 (zext q)
  else
    withUnit pre cur (fun s =>
      let es := ((pre.core cid).queue k).take 32
      if es.length < 32 then waitQueue pre
      else if (s.core cid).latchBusy (latch == 1) then .wait pre
      else .ok ((s.popQ pre.cur q.toNat 32).fillLatch cid (latch == 1) (es.flatMap (fun e => toBytes e 64))) none)

/-- BLD_QUEUE issued alone. -/
def execBldQueue (q : BitVec 3) (latch : BitVec 1) (s : State) : Result :=
  issue (.bldQueue q latch) true false (slotBldQueue q latch) s

/-- BPASS (R134, R140): a FULL latch becomes SENDING, and the hand-off begins when it may. -/
def slotBpass (latch : BitVec 1) (pre cur : State) : Eff :=
  let cid := coreOf pre.cur
  let l := latch == 1
  withFull pre cur l (fun s =>
    .ok ((s.modCore cid (fun c => c.setLatch l { (c.latch l) with st := .sending, pass := true })).push (.seamHandoffBegin cid l)) none)

/-- BPASS issued alone. -/
def execBpass (latch : BitVec 1) (s : State) : Result :=
  issue (.bpass latch) true false (slotBpass latch) s

/-- BWAIT (R141). -/
def slotBwait (latch : BitVec 1) (pre cur : State) : Eff := withFull pre cur (latch == 1) (fun s => .ok s none)

/-- BWAIT issued alone. -/
def execBwait (latch : BitVec 1) (s : State) : Result :=
  issue (.bwait latch) true false (slotBwait latch) s

/-! ### CBLD -/

/-- CBLD (R142): it waits while an issued MMA reads the bank or an earlier CBLD loads it. -/
def slotCbld (ra bank : BitVec 5) (pre cur : State) : Eff :=
  let a := (pre.me.getG ra).toNat
  let b := bank == 1
  let cid := coreOf pre.cur
  let c := pre.core cid
  checked pre .load [(a, 1024)]
    (if c.mma.any (fun j => j.bank == some b) || c.bankLoading b then .wait pre
    else
      let s := cur.modCore cid (fun c => c.setLoading b true)
      okOrWait pre (s.load pre.cur (.bank b) true false false [⟨a, 1024, 0, 0⟩]))

/-- CBLD issued alone. -/
def execCbld (sp : Bool) (ra : BitVec 5) (bank : BitVec 5) (s : State) : Result :=
  issue (.cbld sp ra bank) false sp (slotCbld ra bank) s

end Sys2Proof.Machine
end

