-- ==== Sys2Proof/Machine/TaskEvents.lean ====
section
/-! DEFINITION. Events of harts and tasks: dispatch, ageing, the Drill's cycle, pre-emption, migration, machine checks, soft errors and the
scrubber, deadlines, PLBINV's drop (R74, R91, R151, R160 to R169, R287, R310, R311, R316). -/

namespace Sys2Proof.Machine

/-! ### Dispatch -/

/-- Tasks that have ended and whose last decrements waited make them once they can (R302, R318). -/
def State.flushEnding (s : State) (c : Nat) : State :=
  (s.core c).ending.foldl (fun s e =>
    if (if e.1 = noHart then !e.2.1.stores.isEmpty else !(s.hart e.1).stores.isEmpty) || s.endWaits c e.2.1 then s
    else
      let s := s.modCore c (fun x => { x with ending := removeFirst (fun y => y == e) x.ending })
      ((s.dropWalks e.2.1).taskEnds c e.2.1 e.2.2).trace (c / 16) 3 e.2.1.corr (s.coreLoc c * 4)) s

/-- Core c has nothing of its own to run: its next task would be stolen (R311). -/
def State.wouldSteal (s : State) (c : Nat) : Bool := (s.core c).runq.isEmpty && (s.core c).deque.isEmpty

/-- A core's place among the thieves of its cluster, from the successor of the last one (R311). -/
def State.thiefRank (s : State) (c : Nat) : Nat := (c % 16 + 15 - (s.cluster (c / 16)).lastThief % 16) % 16

/-- Another free hart of the cluster is to be served first (R311). -/
def State.thiefAhead (s : State) (h : Nat) : Bool :=
  s.agenda.any (fun e => match e with
    | .taskDispatch g => clusterOf g == clusterOf h && (s.hart g).run == .free && s.wouldSteal (coreOf g)
        && s.thiefRank (coreOf g) < s.thiefRank (coreOf h)
    | _ => false)

/-- A deque entry taken by hart h, at the near end or, by a thief, at the far end (R311); the idle harts are told when work is left. -/
def State.takeForked (s : State) (h victim : Nat) (e : Nat × Task) (far : Bool) : State :=
  let s := s.modCore victim (fun x => { x with deque := if far then x.deque.drop 1 else x.deque.take (x.deque.length - 1) })
  let s := s.takeUp h e.2
  if (s.core victim).deque.isEmpty then s else s.tellIdle victim

/-- The tasks that wait for a hart of core c end as cancelled (R344). -/
def State.retireWaiting (s : State) (c : Nat) : State :=
  let x := s.core c
  (x.runq ++ x.deque).foldl (fun s e => s.retireQueued c e.2) (s.modCore c (fun x => { x with runq := [], deque := [] }))

/-- TASK_DISPATCH (R310, R311): hart h, free, takes a task from its run queue, its own deque, or another core's. A task whose restore must wait for the
matrix unit (R145) stays at the head of the run queue, and no free hart of the core takes those behind it meanwhile; one that a hart takes up elsewhere
waits on that hart. R145 says neither (log 64, DESIGN CHOICE). -/
def State.dispatch (s : State) (h : Nat) : State :=
  let c := coreOf h
  let s := s.flushEnding c
  let again := s.push (.taskDispatch h)
  let s' := if (s.core c).ending.isEmpty then s else again
  if (s.hart h).run != .free || s.fatal then s'
  else if s.mappedOut (clusterOf h) then s'.retireWaiting c
  else if (s.cluster (clusterOf h)).dbg.halted then again
  else match s.nextReady h with
    | some e =>
      if s.restoreWaits h e.2 then again
      else (s'.modCore c (fun x => { x with runq := removeFirst (fun y => y == e) x.runq })).takeUp h e.2
    | none =>
      if !(s.core c).runq.isEmpty then again
      else match (s.core c).deque.getLast? with
        | some e => s'.takeForked h c e false
        | none =>
          let k := clusterOf h
          let victims := (List.range 15).map (fun j => 16 * k + (c % 16 + 1 + j) % 16)
          match victims.find? (fun v => !(s.core v).deque.isEmpty) with
          | none => s'
          | some v =>
            if s.thiefAhead h then again
            else match (s.core v).deque.head? with
              | none => s'
              | some e => (s'.modCluster k (fun x => { x with lastThief := c % 16 })).takeForked h v e true

/-- TASK_DISPATCH (R310). -/
def execTaskDispatch (h : Nat) (s : State) : Result := .next (s.dispatch h)

/-- DEQUE_AGEING (R311): the oldest entry that has waited 4,096 cycles enters the run queue, if that has room. -/
def State.ageDeque (s : State) (c : Nat) : State :=
  match (s.core c).deque with
  | [] => s
  | e :: rest =>
    if e.1 + 4096 ≤ s.cycle && (s.core c).room then
      let s := (s.modCore c (fun x => { x with deque := rest })).enqueue c e.2
      if rest.isEmpty then s else s.push (.dequeAgeing c)
    else s.push (.dequeAgeing c)

/-- DEQUE_AGEING (R311). -/
def execDequeAgeing (c : Nat) (s : State) : Result := .next (s.ageDeque c)

/-- DRILL_CYCLE (R316): it goes on while launches wait for admission. -/
def execDrillCycle (d : Nat) (s : State) : Result :=
  .next (let s := s.drillCycle d
    if (s.die d).admission.isEmpty then s else s.push (.drillCycle d))

/-! ### Pre-emption and migration -/

/-- A slot of a destination hart and a place in its core's run queue reserved, where the task could go there (R167). -/
def State.reserve (s : State) (h g : Nat) : State :=
  let y := s.hart g
  let fits := match (s.hart h).job with
    | some t => s.mayMigrate h t
    | none => false
  match y.freeSlot with
  | some n =>
    if fits && coreOf g != coreOf h && s.partOf? (clusterOf g) == s.partOf? (clusterOf h) && (s.core (coreOf g)).room && s.isReady (clusterOf g)
        && !s.mappedOut (clusterOf g) then
      let r : SaveRef := ⟨g, n, y.ctxbase.toNat + 0x6000 * n, 0⟩
      ((s.takeSlotOf r).modCore (coreOf g) (fun c => { c with reservedRunq := c.reservedRunq + 1 })).modHart h (fun x => { x with migrate := some r })
    else s
  | none => s

/-- PREEMPTION_REQUEST (R160, R167): of a task whose hart has a free save slot, with the destination hart of a migration if the Drill chose
one. -/
def State.requestPreemption (s : State) (h : Nat) (dest : Option Nat) : State :=
  let x := s.hart h
  if (x.run == .running || x.run == .blocked) && x.job.isSome && x.freeSlot.isSome && x.preempt.isNone then
    let s := s.modHart h (fun y => { y with preempt := some s.time })
    let s := match dest with
      | some g => s.reserve h g
      | none => s
    s.push (.forcedSave h)
  else s

/-- PREEMPTION_REQUEST (R160). -/
def execPreemptionRequest (h : Nat) (dest : Option Nat) (s : State) : Result := .next (s.requestPreemption h dest)

/-- Hart h is at a bundle boundary: it is not held by what has issued, a bundle whose wait is over has issued (R303, R321), and its cluster is
not halted. -/
def State.atBoundary (s : State) (h : Nat) : Bool :=
  let x := s.hart h
  (x.run == .running || x.run == .blocked) && x.busy.isNone && !x.cancelled && !(x.wait == .released && x.run == .running)
    && !(s.cluster (clusterOf h)).dbg.halted

/-- The hart's task can be saved now: it has a free slot, or travels to one (R161, R167). -/
def State.canSave (s : State) (h : Nat) (t : Task) : Bool := (s.hart h).freeSlot.isSome || ((s.hart h).migrate.isSome && s.mayMigrate h t)

/-- FORCED_SAVE (R160): a full save at a bundle boundary, 100 µs after a request that nothing has met; a halted cluster's intervals are
suspended (R354). Where the hart's last slot has gone to a task that travels, the task runs on until one is free. -/
def State.forceSave (s : State) (h : Nat) : State :=
  let x := s.hart h
  match x.preempt, x.job with
  | some t0, some t =>
    if t0.toNat + 100000 ≤ s.time.toNat && s.atBoundary h && s.canSave h t then
      (s.withdraw h).save h x.pc (BitVec.allOnes 32) (BitVec.allOnes 32) true
    else s.push (.forcedSave h)
  | _, _ => s

/-- FORCED_SAVE (R160). -/
def execForcedSave (h : Nat) (s : State) : Result := .next (s.forceSave h)

/-- REGISTER_CONTEXT_ARRIVAL (R167): the oldest context lands in its reserved slot, and its task enters the run queue. -/
def State.contextArrival (s : State) (c : Nat) : State :=
  match (s.core c).ctxIn with
  | [] => s
  | m :: rest =>
    let s := s.modCore c (fun x => { x with ctxIn := rest, reservedRunq := x.reservedRunq - 1 })
    (s.writeImage c m.dest.addr m.image).enqueue c m.task

/-- REGISTER_CONTEXT_ARRIVAL (R167). -/
def execRegisterContextArrival (c : Nat) (s : State) : Result := .next (s.contextArrival c)

/-- The pending load of a task takes a late reply (R169). -/
def Task.takeLate (t : Task) (q : Asker) (r : Reply) : Task :=
  t.mapPending (fun l => if l.id = q.id then (l.take q.piece r).again q r [r.extent] else l)

/-- The load is still wanted by the task. -/
def Task.wantsLoad (t : Task) (id : Nat) : Bool := t.pending.any (fun l => l.id == id && l.wants.any (fun w => w.val.isNone))

/-- The hart of core c that holds a load. -/
def State.loadHolder (s : State) (c id : Nat) : Option Nat :=
  ((List.range 4).map (fun k => 4 * c + k)).find? (fun h => (s.hart h).loads.any (fun l => l.id == id))

/-- The task that a hart holds and whose context has not come back: it waits for that, or is parked on a restore that has failed (R145, R164). -/
def Hart.heldTask (x : Hart) : Option Task :=
  match x.busy with
  | some (.restore t) => some t
  | _ => match x.run, x.park with
    | .parked, .restore t => some t
    | _, _ => none

def Hart.mapHeld (x : Hart) (f : Task → Task) : Hart :=
  match x.busy with
  | some (.restore t) => { x with busy := some (.restore (f t)) }
  | _ => match x.run, x.park with
    | .parked, .restore t => { x with park := .restore (f t) }
    | _, _ => x

/-- The tasks of core c whose contexts are saved: of its run queue, with a context on its way, or held by a hart (R169). -/
def State.tasksAt (s : State) (c : Nat) : List Task :=
  (s.core c).runq.map (fun e => e.2) ++ (s.core c).ctxIn.map (fun m => m.task) ++ (List.range 4).filterMap (fun k => (s.hart (4 * c + k)).heldTask)

/-- Load `id` is still wanted at core c (R169). -/
def State.lateWanted (s : State) (c id : Nat) : Bool :=
  (s.loadHolder c id).isSome || (s.tasksAt c).any (fun t => t.wantsLoad id)

/-- The core at which a load of core c is wanted (R169): its own, or, where the forwarding entries of a task that has migrated, once or more, name
it, the one at which they end. -/
def State.lateCore (s : State) (c id : Nat) : Option Nat :=
  if s.lateWanted c id then some c
  else if (s.core c).forwards.any (fun f => f.ids.contains id) then s.usedCores.find? (fun d => s.lateWanted d id)
  else none

/-- A late reply given to a task of core d whose context is saved; what it still lacks of the piece is asked for. -/
def State.giveTask (s : State) (d : Nat) (q : Asker) (r : Reply) : State :=
  let s := s.modCore d (fun x => { x with
    runq := x.runq.map (fun e => (e.1, e.2.takeLate q r)), ctxIn := x.ctxIn.map (fun m => { m with task := m.task.takeLate q r }) })
  let s := (List.range 4).foldl (fun s k => if (s.hart (4 * d + k)).heldTask.isSome
    then s.modHart (4 * d + k) (fun x => x.mapHeld (fun t => t.takeLate q r)) else s) s
  match ((s.tasksAt d).flatMap (fun t => t.pending)).find? (fun l => l.id == q.id) with
  | some l => s.requestPiece (4 * d) l q.piece
  | none => s

/-- No forwarding entry names a load any more. -/
def State.dropForward (s : State) (id : Nat) : State :=
  (s.coreIds.filter (fun c => (s.core c).forwards.any (fun f => f.ids.contains id))).foldl (fun s c => s.modCore c (fun x => { x with
    forwards := (x.forwards.map (fun f => { f with ids := f.ids.filter (· != id) })).filter (fun f => !f.ids.isEmpty) })) s

/-- LOAD_REPLY_FORWARDED (R169): the oldest late reply of core c goes to the core where its task is now; one that no task wants is discarded. A
reply that a home refused, or that is poisoned, waits until a hart has taken the task up. -/
def State.forwardReply (s : State) (c : Nat) : State :=
  match (s.core c).lateReplies with
  | [] => s
  | (id, r) :: rest =>
    let drained := s.modCore c (fun x => { x with lateReplies := rest })
    let q := r.asks.headD ⟨4 * c, id, 0⟩
    match s.lateCore c id with
    | none => (drained.dropForward id).heardOrphan id
    | some d =>
      match s.loadHolder d id with
      | some h =>
        let s := drained.giveReply { q with hid := h } r [r.extent]
        if s.lateWanted d id then s else s.dropForward id
      | none =>
        if r.refused || r.poison != 0 then
          (s.modCore c (fun x => { x with lateReplies := rest ++ [(id, r)] })).push (.loadReplyForwarded c)
        else
          let s := drained.giveTask d q r
          if s.lateWanted d id then s else s.dropForward id

/-- LOAD_REPLY_FORWARDED (R169). -/
def execLoadReplyForwarded (c : Nat) (s : State) : Result := .next (s.forwardReply c)

/-! ### Machine checks, soft errors, the scrubber -/

/-- A pending machine check is taken at hart h's bundle boundary, the oldest first (R151). -/
def State.takeMachineCheck (s : State) (h : Nat) : State :=
  match (s.hart h).mchecks with
  | [] => s
  | a :: rest =>
    let x := s.hart h
    let s := (s.withdraw h).modHart h (fun y => { y with mchecks := rest })
    s.parkAs h false .machineCheck 0 (word a) x.pc 0 (.bundle (s.sBitAt h x.pc))

/-- MACHINE_CHECK (R151): it waits while the hart is parked, held by what it has issued, or halted. -/
def State.machineCheck (s : State) (h : Nat) : State :=
  let x := s.hart h
  if x.mchecks.isEmpty || x.run == .free then s
  else if s.atBoundary h then s.takeMachineCheck h
  else s.push (.machineCheck h)

/-- MACHINE_CHECK (R151). -/
def execMachineCheck (h : Nat) (s : State) : Result := .next (s.machineCheck h)

/-- Word n of the 592 of a hart's files (R74): file, register, word within it. -/
def scrubPlace (n : Nat) : Nat × Nat × Nat :=
  if n < 64 then (0, n / 2, n % 2) else if n < 576 then (1, (n - 64) / 16, (n - 64) % 16) else (2, (n - 576) / 2, (n - 576) % 2)

/-- SCRUB_WORD (R74): the scrubber's next word, a register's or a mirror's. -/
def State.scrub (s : State) (c : Nat) : State :=
  let pos := (s.core c).scrubPos
  let h := 4 * c + pos / 592
  let (file, index, w) := scrubPlace (pos % 592)
  let s := s.modCore c (fun x => { x with scrubPos := (pos + 1) % 2368 })
  let x := s.hart h
  match x.errAt file index w with
  | none => s
  | some e =>
    if e.poisoned then s
    else match x.checkWord e true with
      | .good => s
      | .fixed fl => (s.setHart h (x.mend e fl)).modCore c (fun y => { y with regerr := regerrAdd y.regerr 1 false })
      | .lost =>
        (s.setHart h { x with errs := x.errs.map (fun y => if y = e then { y with poisoned := true } else y) }).modCore c
          (fun y => { y with regerr := regerrAdd y.regerr 0 true })

/-- SCRUB_WORD (R74). -/
def execScrubWord (c : Nat) (s : State) : Result := .next (s.scrub c)

/-- Bits of a stored word flipped: data, parity, SECDED (R72). A poison mark stays until the word is written (R74). -/
def Hart.strike (x : Hart) (file index w : Nat) (flips : BitVec 40) : Hart :=
  let old := x.errAt file index w
  let e : RegErr := ⟨file, index, w, (old.map (fun e => e.flips)).getD 0 ^^^ flips, old.any (fun e => e.poisoned)⟩
  let errs := x.errs.filter (fun e => some e != old)
  let y := if x.holdsWord file index then x.flip file index w (flips.setWidth 32) else x
  { y with errs := if e.flips = 0 && !e.poisoned then errs else errs ++ [e] }

/-- The n-th entry of a cache with granules poisoned. -/
def poisonEntry (es : List RangeEntry) (n : Nat) (g : BitVec 32) : List RangeEntry :=
  es.mapIdx (fun i e => if i = n then { e with poison := e.poison ||| (g &&& granMask e.lo e.hi) } else e)

/-- SOFT_ERROR (R72, R194): a granule or block that can be corrected is corrected when it is read, and nothing is seen of it. No error arises in the
words of g0 and m0, whose values are fixed, though R74 counts them in a sweep: the spec does not say (log 51, DESIGN CHOICE). -/
def State.softError (s : State) (t : ErrTarget) : State :=
  match t with
  | .regWord h file index w flips =>
    let real := match file with
      | 0 => index != 0 && index < 32 && w < 2
      | 1 => index < 32 && w < 16
      | _ => file == 2 && index != 0 && index < 8 && w < 2
    if real then s.setHart h ((s.hart h).strike file index w flips) else s
  | .nearGranule c n g ok => if ok then s else s.modCore c (fun x => { x with nc := poisonEntry x.nc n ((1 : BitVec 32) <<< g) })
  | .homeGranule h n g ok => if ok then s else s.modHome h (fun y => { y with entries := poisonEntry y.entries n ((3 : BitVec 32) <<< (2 * g)) })
  | .boltBlock k n ok =>
    if ok || 32768 ≤ n then s
    else s.modCluster k (fun c => { c with bolt := { c.bolt with blocks := put n { c.bolt.block n with poison := true } c.bolt.blocks } })

/-- SOFT_ERROR (R194). -/
def execSoftError (t : ErrTarget) (s : State) : Result := .next (s.softError t)

/-! ### Deadlines and PLBINV -/

/-- WAITE_DEADLINE (R91): the deadline of the hart's WAITE has passed, and the bundle becomes ready. -/
def State.waiteDeadline (s : State) (h : Nat) : State :=
  match (s.hart h).wait with
  | .event _ _ d => if d.ule s.time then s.modHart h (fun x => { x with run := if x.run = .blocked then .running else x.run }) else s.push (.waiteDeadline h)
  | _ => s

/-- WAITE_DEADLINE (R91). -/
def execWaiteDeadline (h : Nat) (s : State) : Result := .next (s.waiteDeadline h)

/-- The cores that a PLBINV scope reaches. -/
def State.scopeCores (s : State) (h scope : Nat) : List Nat :=
  match scope with
  | 0 => [coreOf h]
  | 1 => s.usedCores.filter (fun c => c / 16 == clusterOf h)
  | _ => s.usedCores

/-- The accesses to an extent that are not performed yet, of these loads and stores. The fills of a waiting bundle's hulls are none that has issued. -/
def accessesTo (ls : List PLoad) (ps : List PStore) (base len : Nat) : List Nat :=
  (ls.filter (fun l => !l.isHull && l.wants.any (fun w => w.val.isNone && base ≤ w.addr && w.addr < base + len))).map (fun l => l.id)
    ++ (ps.filter (fun p => overlaps p.addr p.len base len)).map (fun p => p.id)

/-- The tasks of core c that are not on a hart, or are not yet: saved ones, and those that have ended. -/
def State.tasksOff (s : State) (c : Nat) : List Task := s.tasksAt c ++ (s.core c).ending.map (fun e => e.2.1)

/-- The same of core c's harts, of its tasks that are on none, and of those that have ended without waiting (R290). -/
def State.accessesAt (s : State) (c base len : Nat) : List Nat :=
  (List.range 4).flatMap (fun k => accessesTo ((s.hart (4 * c + k)).loads ++ (s.hart (4 * c + k)).reads) (s.hart (4 * c + k)).stores base len)
    ++ (s.tasksOff c).flatMap (fun t => accessesTo t.pending t.stores base len)
    ++ ((s.core c).left.filter (fun o => overlaps o.addr o.len base len)).map (fun o => o.id)

/-- The access of that number is not performed yet, whoever holds its task now. -/
def State.accessOpen (s : State) (id : Nat) : Bool :=
  let load (l : PLoad) : Bool := l.id == id && l.wants.any (fun w => w.val.isNone)
  s.harts.any (fun h => h.2.loads.any load || h.2.reads.any load || h.2.stores.any (fun p => p.id == id))
    || s.usedCores.any (fun c => (s.tasksOff c).any (fun t => t.pending.any load || t.stores.any (fun p => p.id == id))
      || (s.core c).left.any (fun o => o.id == id))

/-- A write-back of one of these cores to an extent is on its way to its home. -/
def State.writebackTo (s : State) (cs : List Nat) (base len : Nat) : Bool :=
  let meets (r : Req) : Bool := r.isWriteback && r.from.any cs.contains && overlaps r.bounds.1 r.bounds.2 base len
  s.homes.any (fun y => y.2.input.any meets) || s.clusters.any (fun k => k.2.egress.any (fun e => meets e.2.1))

/-- The parties of this device within a scope of hart h drop their entries (R290): the pages that lost one, and the accesses to them that are not
performed. -/
def State.dropParties (s : State) (h base len scope : Nat) : State × List (Nat × Nat) × List Nat :=
  let cs := s.scopeCores h scope
  let gone := (cs.flatMap (fun c => ((s.core c).plb.filter (fun e => pageMeets e.page e.size base len)).map (fun e => (e.page * 4096, e.size)))).eraseDups
  (s.dropPages h base len scope, gone, gone.flatMap (fun p => cs.flatMap (fun c => s.accessesAt c p.1 p.2)))

/-- Something under dropped entries is not performed: one of these accesses, or a write-back of these cores to one of these pages (R290). -/
def State.underDropped (s : State) (cs : List Nat) (gone : List (Nat × Nat)) (ids : List Nat) : Bool :=
  ids.any s.accessOpen || gone.any (fun p => s.writebackTo cs p.1 p.2)

/-- The parties of this device drop their entries, and those of other devices are told at system scope (R290): what hart h waits for then, the last of it
an acknowledgement. -/
def State.plbinvBegin (s : State) (h base len scope : Nat) : State × List (Nat × Nat) × List Nat × List Nat :=
  let (s, gone, ids) := s.dropParties h base len scope
  if scope = 3 then
    let s := s.fresh
    (s.dropFar base len (.ack h ⟨s.serial, 0, none, base, none⟩), gone, ids, [s.serial])
  else (s, gone, ids, [])

/-- A PLBINV at system scope of hart hid of another device, at this one (R290): its parties drop their entries, once, and it acknowledges when every
access under them is performed. -/
def State.farDrop (s : State) (hid : Nat) (d : FarDrop) : State :=
  match s.farDrops.find? (fun w => w.hid == hid && w.drop == d) with
  | none =>
    let (s, gone, ids) := s.dropParties 0 d.base d.len 3
    ({ s with farDrops := s.farDrops ++ [⟨hid, d, gone, ids⟩] } : State).push (.plbinvDrop (.far hid d))
  | some w =>
    if s.underDropped s.usedCores w.gone w.ids then s.push (.plbinvDrop (.far hid d))
    else ({ s with farDrops := removeFirst (fun x => x == w) s.farDrops } : State).ackHart hid d.id 0 none d.base

/-- PLBINV_DROP for hart h of this device (R287, R290): the parties drop their entries, once; g[rd] = 0 when every access under them is performed, and
every party has acknowledged. -/
def State.plbinvDrop (s : State) (h : Nat) : State :=
  match (s.hart h).busy with
  | some (.plbinv rd base len scope before ids far) =>
    let (s, gone, ids, far) := match before with
      | some gone => (s, gone, ids, far)
      | none => s.plbinvBegin h base len scope
    if s.underDropped (s.scopeCores h scope) gone ids || far != [] then
      (s.modHart h (fun x => { x with busy := some (.plbinv rd base len scope (some gone) ids far) })).push (.plbinvDrop (.own h))
    else (s.modHart h (fun x => x.setG rd 0)).unbusy h
  | _ => s

/-- PLBINV_DROP (R287, R290): a hart's of this device, or what one of another device asks of this one. -/
def execPlbinvDrop (p : PlbDrop) (s : State) : Result :=
  .next (match p with
    | .own h => s.plbinvDrop h
    | .far hid d => s.farDrop hid d)

end Sys2Proof.Machine
end

