-- ==== Sys2Proof/Machine/MatrixEvents.lean ====
section
/-! DEFINITION. Events of the matrix units and of the Yoke (R133 to R135, R148, R331 to R334). -/

namespace Sys2Proof.Machine

/-! ### Matrix units -/

/-- MMA_COMPLETE (R135). -/
def execMmaComplete (c : Nat) (s : State) : Result := .next (s.finishMma c)

/-- SEAM_HANDOFF_BEGIN (R134): the hand-off begins once the successor takes it; one that is no longer asked for is over. -/
def execSeamHandoffBegin (c : Nat) (l : Bool) (s : State) : Result :=
  .next (if s.handoffReady c l then s.beginHandoff l 16 c
    else if ((s.core c).latch l).pass then s.push (.seamHandoffBegin c l) else s)

/-- SEAM_ARRIVAL_LANDED (R133, R134). -/
def execSeamArrivalLanded (c : Nat) (l : Bool) (s : State) : Result := .next (s.landTile c l)

/-! ### The Yoke -/

/-- A hart of core c runs a pinned task. -/
def State.runsPinned (s : State) (c : Nat) : Bool := (List.range 4).any (fun k => (s.hart (4 * c + k)).job.any (fun t => t.pinned))

/-- Module power would fall below the floor at this cycle, and the floor lies above the idle power: ballast is issued (R332). -/
def State.wantsBallast (s : State) : Bool :=
  decide (Config.idlePower < s.floor) && decide (Config.livePower s.cycle < s.floor)

/-- BALLAST_MMA (R148, R332): on a core whose matrix unit has nothing to execute; both counts rise, that of the core modulo 2^48 (R68), and
nothing else is seen of it. -/
def execBallastMma (c : Nat) (s : State) : Result :=
  .next (if !s.wantsBallast || (s.core c).mma.isSome || s.runsPinned c || s.mappedOut (c / 16) || s.fatal then s
    else (s.modCore c (fun x => { x with ballast := (x.ballast + 1) &&& sysBits 0x019 })).setReg 0x320 (s.reg 0x320 + 1))

/-- The participants of a cluster's barrier generations that have not arrived where three quarters have, as barrier and hart (R333). A
participant is a hart whose task belongs to the launch of a hart that has arrived; none on a core that runs a pinned task. -/
def State.laggards (s : State) (k : Nat) : List (Nat × Nat) :=
  let harts := (List.range 64).map (fun j => 64 * k + j)
  (s.cluster k).barriers.flatMap (fun b =>
    let g := b.2
    if 3 * g.count ≤ 4 * g.arrived.length then
      let ls := g.arrived.filterMap (fun h => (s.hart h).job.bind (fun t => t.launch))
      (harts.filter (fun h => !g.arrived.contains h && !s.runsPinned (coreOf h)
        && (s.hart h).job.any (fun t => t.launch.any (fun l => ls.contains l)))).map (fun h => (b.1, h))
    else [])

/-- One step of boost of core c for participants on it, when the die's budget holds it (R333). -/
def State.boost (s : State) (c : Nat) (who : List (Nat × Nat)) : State :=
  let x := s.core c
  if !x.clamped.isEmpty then s
  else
    let enter (s : State) (mhz : Nat) : State := s.modCore c (fun x => { x with
      clockMHz := mhz, boosts := x.boosts ++ who.filter (fun b => !x.boosts.contains b) })
    if 2100 ≤ x.clockMHz then enter s x.clockMHz
    else match s.grant (c / 1024) 25 with
      | some s => enter s (x.clockMHz + 100)
      | none => if x.boosts.isEmpty then s else enter s x.clockMHz

/-- A cluster's step of boost (R333). -/
def State.boostCluster (s : State) (k : Nat) : State :=
  let late := s.laggards k
  ((late.map (fun b => coreOf b.2)).eraseDups).foldl (fun s c => s.boost c (late.filter (fun b => coreOf b.2 == c))) s

/-- The cores that run tasks of a launch. -/
def State.coresOf (s : State) (l : LaunchRef) : List Nat :=
  ((s.harts.filter (fun h => h.2.job.any (fun t => t.launch == some l))).map (fun h => coreOf h.1)).eraseDups

/-- An open pinned launch whose summed power changed by more than its declared slope, whether or not a task of it is on a hart (R334): one
ramp-violation message, and its cores' clocks are held. -/
def State.checkSlope (s : State) (d n : Nat) : State :=
  let x := s.die d
  let c := x.launchCtr n
  let cores := s.coresOf ⟨d, n⟩
  if c.count = 0 || !x.pinned.contains n || x.violated.contains n || Config.launchSlope s.slot d n ≤ (find n x.slopes).getD 250 then s
  else
    let s := s.modDie d (fun x => { x with violated := x.violated ++ [n] })
    let s := s.unitTrap none c.owner.toNat .ramp (zext c.corr) c.corr
    let s := match cores with
      | [] => s
      | c0 :: _ => s.trace (c0 / 16) 7 c.corr (s.coreLoc c0 * 4)
    cores.foldl (fun s c => s.modCore c (fun y => { y with
      clockMHz := 1200, boosts := [], clamped := ⟨d, n⟩ :: y.clamped.filter (fun r => r != ⟨d, n⟩) })) s

/-- RAMP_SLOT_BOUNDARY (R331 to R334): budgets renewed, the floor set from the power of the slot that ends, boosts, and pinned launches
checked. -/
def State.slotBoundary (s : State) : State :=
  let s : State := { s with floor := Config.modulePower s.slot - 250000 }
  let s := (List.range 4).foldl (fun s d => s.modDie d (fun x => { x with budget := Config.slotBudget })) s
  let s := (s.clusters.map (fun k => k.1)).foldl (fun s k => s.boostCluster k) s
  let s := (List.range 4).foldl (fun s d => ((s.die d).launches.map (fun l => l.1)).foldl (fun s n => s.checkSlope d n) s) s
  { s with slot := s.slot + 1 }

/-- RAMP_SLOT_BOUNDARY (R331). -/
def execRampSlotBoundary (s : State) : Result := .next s.slotBoundary

end Sys2Proof.Machine
end

