-- ==== Sys2Proof/Machine/EngineEvents.lean ====
section
/-! DEFINITION. Copy, collective and media engines (R271 to R277, R350 to R352). -/

namespace Sys2Proof.Machine

/-! ### Commands and jobs -/

/-- The pieces of [a, a + n) that the command's engine may read (R277). -/
def State.readPieces (s : State) (c : Cmd) (a n : Nat) : List (Nat × Nat) :=
  (extentSplit a n).filter (fun p => (s.allowed c.domain .load p.1).isNone)

/-- Fields of a command (R272). -/
def Cmd.src (c : Cmd) : Nat := (dw c.words 1).toNat
def Cmd.dst (c : Cmd) : Nat := (dw c.words 2).toNat
def Cmd.len (c : Cmd) : Nat := bf (dw c.words 3) 0 40
def Cmd.xform (c : Cmd) : Nat := bf (dw c.words 0) 9 3
def Cmd.tagp (c : Cmd) : Bool := bit (dw c.words 0) 8
def Cmd.corr (c : Cmd) : BitVec 32 := BitVec.ofNat 32 (bf (dw c.words 0) 32 32)

/-- The head command of an idle engine is taken up as a job when it is of the event's kind; one that comes later is taken up when the
engine completes the job before it (R271). While what it reads or writes is held at a home, or what it reads outside the device has not come, it is
not taken up (R189, R278, R343): `held` gives the state in which it waits. -/
def State.takeCommand (s : State) (e : Nat) (ev : Event) (held : Cmd → Option State) (f : State → Cmd → State) : State :=
  let x := s.engine e
  match x.job, x.queue with
  | none, c :: rest =>
    if commandEvent e c.words = ev && !x.parked then
      match held c with
      | some s => s.push ev
      | none => f (s.setEngine e { x with queue := rest, job := some ⟨c, 0, 0, 0, false, none⟩, states := put c.id.toNat 1 x.states }) c
    else s
  | _, _ => s

/-- The job of an engine changed. -/
def State.modJob (s : State) (e : Nat) (f : Job → Job) : State := s.modEngine e (fun x => { x with job := x.job.map f })

/-- The job's data movement is over: it completes once its stores are acknowledged (R273). -/
def State.endJob (s : State) (e status written : Nat) : State :=
  ((s.setPosted (readUnit e) Posted.none).modJob e (fun j => { j with status := status, written := written, ended := true })).push (.jobComplete e)

/-- An access of the command's engine to one byte fails (R277, R286): no rights, the core-local window, isolation, a home that refuses it, or a byte
of a load that has not come from outside the device. -/
def State.engineFails (s : State) (e : Nat) (c : Cmd) (k : Kind) (a : Nat) : Bool :=
  match zone a with
  | .loc _ => true
  | _ => (s.allowed c.domain k a).isSome || s.isolates c.part.toNat a
      || (if s.reachesOut a then k == .load && (s.unitRead (readUnit e) a).isNone else zone a == .mem && (s.devByte a).isNone)

/-- The lowest byte of [a, a + n) whose access fails. -/
def State.engineFault (s : State) (e : Nat) (c : Cmd) (k : Kind) (a n : Nat) : Option Nat :=
  ((List.range n).find? (fun i => s.engineFails e c k (a + i))).map (fun i => a + i)

/-- MALFORMED_COMMAND (R273): nothing is done, and the job completes with status 2. -/
def execMalformedCommand (e : Nat) (s : State) : Result :=
  .next (s.takeCommand e (.malformedCommand e) (fun _ => none) (fun s _ => s.endJob e 2 0))

/-- The location word that stands for an engine in trace records and trap messages: for a media block, that of the cluster that issued its
command (log 14). -/
def State.engineLoc (s : State) (e : Nat) (c : Cmd) : Nat :=
  s.devnum * 16384 + (if e < 1024 then (e / 4) * 64 + e % 4 else c.cluster * 64)

/-- The mailbox word of a job that has ended stored (R273, step 1), once: its command names no mailbox any more. -/
def State.storeMailbox (s : State) (e : Nat) (j : Job) : State :=
  let mbox := (dw j.cmd.words 4).toNat
  let s := if mbox = 0 || mbox % 8 != 0 || (s.engineFault e j.cmd .store mbox 8).isSome then s
    else (s.devStoreFor (some e) mbox (toBytes (word (j.cmd.id.toNat * 2 ^ 48 + j.status * 2 ^ 40 + j.written % 2 ^ 40)) 8)).1
  s.modJob e (fun j => { j with cmd := { j.cmd with words := setAt 4 0 j.cmd.words } })

/-- JOB_COMPLETE (R273): once every store of the job is acknowledged, the mailbox word, and once that is too, the counter, the status; then the next
command. -/
def State.completeJob (s : State) (e : Nat) : State :=
  match (s.engine e).job with
  | none => s
  | some j =>
    if !j.ended then s
    else
      let w := j.cmd.words
      let mbox := (dw w 4).toNat
      if !s.settled e || (mbox != 0 && mbox % 8 == 0 && s.devHeld true mbox 8) then s.push (.jobComplete e) else
      let s := s.storeMailbox e j
      if !s.settled e then s.push (.jobComplete e) else
      let s := s.setPosted e Posted.none
      let loc := bf (dw w 5) 0 22
      let s := if !bit (dw w 0) 22 then s
        else if loc / 4096 = s.devnum then s.countAt (loc % 4096) (bf (dw w 0) 16 6) 1 j.cmd.corr
        else s.sendOut (loc % 18) (.message (loc % 18) (loc / 4096) (.count (bf (dw w 0) 16 6) 1 j.cmd.corr)) .nothing
      let s := s.modEngine e (fun x => { x with job := none, states := put j.cmd.id.toNat (if j.status = 0 then 2 else 3) x.states })
      let s := s.trace (if e < 1024 then e / 4 else j.cmd.cluster) 5 j.cmd.corr (s.engineLoc e j.cmd)
      match (s.engine e).queue with
      | c :: _ => s.push (commandEvent e c.words)
      | [] => s

/-- JOB_COMPLETE (R273). -/
def execJobComplete (e : Nat) (s : State) : Result := .next (s.completeJob e)

/-! ### Copy harts -/

/-- The copy's next chunk of source: its length; or it does not parse; or its n-th byte fails. -/
inductive Chunk where
  | ok (n : Nat)
  | malformed
  | fails (n : Nat)
  deriving DecidableEq, Repr

/-- The next chunk of `left` source bytes (R275): 512, or whole blocks of at most 512 bytes. `bad` is the first byte of them whose access fails
(R277); what comes before it is parsed. -/
def nextChunk (xf left : Nat) (bad : Option Nat) (rd : Nat → Byte) : Chunk :=
  let upTo (n : Nat) (next : Chunk) : Chunk := match bad with
    | some b => if b < n then .fails b else next
    | none => next
  if xf != 1 then upTo (min 512 left) (.ok (min 512 left))
  else
    let rec go : Nat → Nat → Chunk
      | 0, n => .ok n
      | fuel + 1, n =>
        if left ≤ n || 512 < n + 8 then .ok n
        else upTo (n + 8) (
          let hd := wordOf ((List.range 8).map (fun k => if n + k < left then rd (n + k) else 0))
          match boltLength (bf hd 0 3) with
          | none => .malformed
          | some m =>
            if 512 < n + 8 + m then .ok n
            else if bf hd 3 61 != 0 || left < n + 8 + m then .malformed
            else upTo (n + 8 + m) (go fuel (n + 8 + m)))
    go 65 0

/-- A chunk's landed bytes (R265, R275): transform 4 takes its scale from the command. -/
def Cmd.land (c : Cmd) (bs : List Byte) : Option (List Byte) :=
  if c.xform = 4 then some (bs.flatMap (scaled (fdecode .f32 (bf (dw c.words 6) 0 32)))) else transform c.xform bs

/-- The landed length of the whole source (R275). -/
def Cmd.landed (c : Cmd) (rd : Nat → Byte) : Nat :=
  match c.xform with
  | 1 =>
    let rec go : Nat → Nat → Nat → Nat
      | 0, _, m => m
      | fuel + 1, n, m =>
        if c.len ≤ n then m
        else match boltLength (bf (rd n) 0 3) with
          | none => m
          | some k => go fuel (n + 8 + k) (m + 128)
    go (c.len / 8 + 1) 0 0
  | 2 | 3 | 4 => 2 * c.len
  | _ => c.len

/-- A source byte of engine e's job as its chunks read it: as it was at the start, where the extents overlap (R276). -/
def State.srcByte (s : State) (e : Nat) (j : Job) (i : Nat) : Byte :=
  let now := (s.unitByte (readUnit e) (j.cmd.src + i)).getD 0
  match j.held with
  | none => now
  | some (bs, _) => match bs[i]? with
    | some (some b) => b
    | _ => now

/-- The tag of an aligned source word of the job. -/
def State.srcTag (s : State) (j : Job) (a : Nat) : Bool :=
  match j.held with
  | none => s.devTag a
  | some (bs, ts) => match bs[a - j.cmd.src]? with
    | some (some _) => ts.contains a
    | _ => s.devTag a

/-- The tagged words that a chunk of source bytes [done, done + n) completes (R275): destination address, value. A command with tagp and a transform other
than 0 keeps no tag: neither R272 nor R275 speaks of the pair (log 14, DESIGN CHOICE). -/
def State.chunkTags (s : State) (e : Nat) (j : Job) (n : Nat) : List (Nat × Word × Bool) :=
  let c := j.cmd
  if !c.tagp || c.xform != 0 || c.dst % 8 != c.src % 8 then []
  else
    let lo := max c.src (c.src + j.done - 7)
    (List.range (n + 7)).filterMap (fun i =>
      let a := lo + i
      if a % 8 = 0 && c.src + j.done < a + 8 && a + 8 ≤ c.src + j.done + n && s.srcTag j a then
        some (c.dst + (a - c.src), wordOf ((List.range 8).map (fun k => s.srcByte e j (a - c.src + k))), true)
      else none)

/-- A chunk's destination bytes written piece by piece for engine e, the tags of its tagged words set. -/
def State.chunkWrite (s : State) (e a : Nat) (bs : List Byte) (tags : List (Nat × Word × Bool)) : State :=
  (extentSplit a bs.length).foldl (fun s p =>
    let t : BitVec 64 := tags.foldl (fun m w => if w.1 / 512 = p.1 / 512 && p.1 < w.1 + 8 && w.1 + 8 ≤ p.1 + p.2 then m ||| ((1 : BitVec 64) <<< (w.1 % 512 / 8)) else m) 0
    (s.devStorePiece (some e) p.1 ((bs.drop (p.1 - a)).take p.2) t).1) s

/-- A copy fault (R277): the copy hart parks, and sends its trap message (R153). -/
def State.copyFault (s : State) (e : Nat) (c : Cmd) (faddr : Nat) : State :=
  let x := s.engine e
  let x' : Engine := { x with parked := true, parkSeq := x.parkSeq + 1, cause := causeWord false 0 .copyFault, faddr := word faddr }
  let p := s.partOf (e / 4)
  let handle := word (x'.parkSeq.toNat * 2 ^ 32 + s.engineLoc e c)
  let payload := [handle, x'.cause, x'.faddr, 0, zext c.corr, word (p * 65536 + c.domain.toNat), s.time, 0]
  ((((s.setPosted (readUnit e) Posted.none).setEngine e x').sendTrap (16 * (e / 4)) p false (s.engineLoc e c) payload c.corr).trace (e / 4) 6 c.corr (s.engineLoc e c))

/-- The source held where it overlaps the destination (R276); none where the extents are too large for that. -/
def State.holdSource (s : State) (e : Nat) (j : Job) : Option Job :=
  let c := j.cmd
  let n := c.landed (fun i => (s.unitByte (readUnit e) (c.src + i)).getD 0)
  if j.held.isSome || j.done != 0 || !overlaps c.src c.len c.dst n then some j
  else if 65536 < max c.len n then none
  else
    let bs := (List.range c.len).map (fun i => if s.engineFails e c .load (c.src + i) then none else s.unitByte (readUnit e) (c.src + i))
    some { j with held := some (bs, ((List.range c.len).map (fun i => c.src + i)).filter (fun a => a % 8 = 0 && s.devTag a)) }

/-- The landed length of n source bytes; not for transform 1. -/
def Cmd.landLength (c : Cmd) (n : Nat) : Nat := if 2 ≤ c.xform && c.xform ≤ 4 then 2 * n else n

/-- A chunk of n source bytes that reads well (R275, R277): it is landed and written, or the copy hart parks. -/
def State.writeChunk (s : State) (e : Nat) (j : Job) (n : Nat) : State :=
  let c := j.cmd
  match c.land ((List.range n).map (fun i => s.srcByte e j (j.done + i))) with
  | none => s.endJob e 2 j.written
  | some out =>
    let dst := c.dst + j.written
    let tags := s.chunkTags e j n
    match ((s.engineFault e c .store dst out.length).toList ++ (tags.filter s.escapes).map (fun w => w.1)).min? with
    | some a => s.copyFault e c a
    | none =>
      if s.devHeld true dst out.length then s.push (.copyChunk e)
      else
        let s := s.chunkWrite e dst out tags
        if c.len ≤ j.done + n then s.endJob e 0 (j.written + out.length)
        else (s.modJob e (fun j => { j with done := j.done + n, written := j.written + out.length })).push (.copyChunk e)

/-- How many source bytes the job's next chunk reads: as many as tell whether the extents overlap, and all of what is held where they do (R276). -/
def Job.reads (j : Job) : Nat :=
  let c := j.cmd
  if j.done != 0 then min 512 (c.len - j.done)
  else if c.xform = 1 then c.len
  else if overlaps c.src c.len c.dst (c.landed (fun _ => 0)) then min 65536 c.len
  else min 512 c.len

/-- COPY_CHUNK (R275 to R277): the next chunk is read, checked and written, or the copy hart parks. While a home holds a byte of the source,
or one has not come from outside the device, it waits (R238, R278). -/
def State.copyChunk (s : State) (e : Nat) : State :=
  match (s.engine e).job with
  | none => s
  | some j0 =>
    let again := s.push (.copyChunk e)
    if j0.ended || (s.engine e).parked then s
    else if (s.cluster (e / 4)).dbg.halted then again
    else if s.devHeld false (j0.cmd.src + j0.done) j0.reads then again
    else match s.gather (readUnit e) (s.readPieces j0.cmd (j0.cmd.src + j0.done) j0.reads), s.holdSource e j0 with
      | some s, _ => s.push (.copyChunk e)
      | none, none => s.copyFault e j0.cmd j0.cmd.dst
      | none, some j =>
        let c := j.cmd
        let left := c.len - j.done
        let bad := (s.engineFault e c .load (c.src + j.done) (min 512 left)).map (fun a => a - (c.src + j.done))
        let s := s.modJob e (fun _ => j)
        match nextChunk c.xform left bad (fun i => s.srcByte e j (j.done + i)) with
        | .malformed => s.endJob e 2 j.written
        | .ok n => s.writeChunk e j n
        | .fails i =>
          let dst := if c.xform = 1 then none else s.engineFault e c .store (c.dst + j.written) (c.landLength (min 512 left))
          s.copyFault e c (((c.src + j.done + i) :: dst.toList).foldl min (c.src + j.done + i))

/-- COPY_CHUNK (R275). -/
def execCopyChunk (e : Nat) (s : State) : Result := .next (s.copyChunk e)

/-- COPY (R272, R275): a source that does not match its transform is malformed (R265, log 14). -/
def execCopy (e : Nat) (s : State) : Result :=
  .next (s.takeCommand e (.copy e) (fun _ => none) (fun s c =>
    if c.len = 0 then s.endJob e 0 0
    else if c.xform = 5 && c.len % 128 != 0 then s.endJob e 2 0
    else s.push (.copyChunk e)))

/-! ### Collectives -/

/-- The element of a dtype code (R350). -/
def collSize (dtype : Nat) : Nat :=
  match dtype with
  | 1 => 2
  | 3 => 8
  | _ => 4

/-- One node of the reduction tree (R350): the lower rank's operand first. -/
def collNode (dtype rop x y : Nat) : Nat :=
  let float (t : Ty) : Nat := if rop = 0 then (arith t 0 0 [fdecode t x, fdecode t y] (sumVals 0 [fdecode t x, fdecode t y])).1
    else (pickElem t (rop == 1) x y).1
  let int (w : Nat) : Nat :=
    let sgn (v : Nat) : Int := if 2 ^ (w - 1) ≤ v then (v : Int) - 2 ^ w else v
    match rop with
    | 0 => (x + y) % 2 ^ w
    | 1 => if sgn x < sgn y then y else x
    | _ => if sgn y < sgn x then y else x
  match dtype with
  | 0 => float .f32
  | 1 => float .bf16
  | 2 => int 32
  | _ => int 64

/-- The tree over the ranks [a, b) of a group of n members (R350); where it splits is free. -/
def collTree (n : Nat) (f : Nat → Nat → Nat) (x : Nat → Nat) : Nat → Nat → Nat → Nat
  | 0, a, _ => x a
  | fuel + 1, a, b =>
    if b ≤ a + 1 then x a
    else
      let m := a + 1 + Config.rankSplit n a b % (b - a - 1)
      f (collTree n f x fuel a m) (collTree n f x fuel m b)

/-- A group entry (R350): member count and this device's rank. -/
def State.groupOf (s : State) (g : Nat) : Nat × Nat :=
  (bf (s.reg (0x7000 + 16 * g + 8)) 0 10, bf (s.reg (0x7000 + 16 * g + 8)) 16 10)

/-- Byte i of rank r's source: this device's own, the event's where it gives it, else free (log 6). -/
def State.rankByte (s : State) (e : Nat) (c : Cmd) (own r : Nat) (others : List (List Byte)) (i : Nat) : Byte :=
  if r = own then (s.unitByte (readUnit e) (c.src + i)).getD 0
  else match others[r]? with
    | some bs => (bs[i]?).getD (Config.outsideByte (s.free + r) i)
    | none => Config.outsideByte (s.free + r) i

/-- The reduced source, element by element. -/
def State.reduced (s : State) (e : Nat) (c : Cmd) (n own : Nat) (others : List (List Byte)) : List Byte :=
  let d := bf (dw c.words 6) 16 4
  let z := collSize d
  (List.range (c.len / z)).flatMap (fun k =>
    let x (r : Nat) : Nat := ofBytes ((List.range z).map (fun b => s.rankByte e c own r others (z * k + b)))
    toBytes (word (collTree n (collNode d (bf (dw c.words 6) 20 4)) x n 0 n)) z)

/-- The devices of a group's members in rank order, from its list in memory (R350); none where the list cannot be read. -/
def State.membersOf (s : State) (e g n : Nat) : Option (List Nat) :=
  (s.unitLoad (readUnit e) (s.reg (0x7000 + 16 * g)).toNat (2 * n)).map (fun bs => (List.range n).map (fun r => ofBytes ((bs.drop (2 * r)).take 2) % 1024))

/-- What a member sends of its source to the others of its group, by the plane of its source (R348; log 19). -/
def State.shareSource (s : State) (e : Nat) (c : Cmd) (own : Nat) (members : List Nat) : State :=
  let data := (List.range c.len).map (fun i => (s.unitByte (readUnit e) (c.src + i)).getD 0)
  (members.eraseIdx own).foldl (fun s dev => s.sendOut (planeOf c.src) (.share dev data) .nothing) s

/-- A collective's data movement (R350): its source extent and its landed bytes are checked as a copy hart's, and where they fail, or the
member list cannot be read, nothing is written and the job ends with status 1 (log 14). `size` gives the landed length and `out` the landed
bytes; `reads` says whether this device's source is read; a root that is no member's rank is malformed. -/
def State.collective (s : State) (e : Nat) (ev : Event) (reads : Nat → Nat → Bool) (rooted : Bool) (size : Nat → Cmd → Nat)
    (out : Nat → Nat → State → Cmd → List Byte) : State :=
  let group (c : Cmd) : Nat := bf (dw c.words 6) 0 16
  let root (c : Cmd) : Nat := bf (dw c.words 6) 48 16
  let held (c : Cmd) : Option State :=
    let (n, own) := s.groupOf (group c)
    let list := (s.reg (0x7000 + 16 * group c)).toNat
    let src := if reads own (root c) then c.len else 0
    if s.devHeld false list (2 * n) || s.devHeld false c.src src || s.devHeld true c.dst (size n c) then some s
    else s.gather (readUnit e) (extentSplit list (2 * n) ++ s.readPieces c c.src src)
  s.takeCommand e ev held (fun s c =>
    let (n, own) := s.groupOf (group c)
    if n = 0 || 576 < n || n ≤ own || (rooted && n ≤ root c) then s.endJob e 2 0
    else match s.membersOf e (group c) n with
      | none => s.endJob e 1 0
      | some members =>
        let bs := out n own s c
        if (reads own (root c) && (s.engineFault e c .load c.src c.len).isSome) || (s.engineFault e c .store c.dst bs.length).isSome then s.endJob e 1 0
        else
          let s := if reads own (root c) then s.shareSource e c own members else s
          ((({ s with free := s.free + n } : State).devStoreFor (some e) c.dst bs).1).endJob e 0 bs.length)

/-- ALL_REDUCE (R350): every member's destination receives the whole result. -/
def execAllReduce (e : Nat) (others : List (List Byte)) (s : State) : Result :=
  .next (s.collective e (.allReduce e []) (fun _ _ => true) false (fun _ c => c.len) (fun n own s c => s.reduced e c n own others))

/-- One of the equal shares of a reduction, in bytes. -/
def collShare (n : Nat) (c : Cmd) : Nat := c.len / collSize (bf (dw c.words 6) 16 4) / n * collSize (bf (dw c.words 6) 16 4)

/-- REDUCE_SCATTER (R350): rank r receives the r-th of the equal shares of the result (log 14). -/
def execReduceScatter (e : Nat) (others : List (List Byte)) (s : State) : Result :=
  .next (s.collective e (.reduceScatter e []) (fun _ _ => true) false collShare (fun n own s c =>
    let share := collShare n c
    ((s.reduced e c n own others).drop (own * share)).take share))

/-- ALL_GATHER (R350): the sources of all members in rank order. -/
def execAllGather (e : Nat) (others : List (List Byte)) (s : State) : Result :=
  .next (s.collective e (.allGather e []) (fun _ _ => true) false (fun n c => n * c.len) (fun n own s c =>
    (List.range n).flatMap (fun r => (List.range c.len).map (fun i => s.rankByte e c own r others i))))

/-- BROADCAST (R350): the root's source. -/
def execBroadcast (e : Nat) (others : List (List Byte)) (s : State) : Result :=
  .next (s.collective e (.broadcast e []) (fun own root => own == root) true (fun _ c => c.len) (fun _ own s c =>
    (List.range c.len).map (fun i => s.rankByte e c own (bf (dw c.words 6) 48 16) others i)))

/-! ### Media blocks -/

/-- The element of the tensor at place k: channel, row and column in one number (R352). -/
def mediaElem (interleaved : Bool) (w h k : Nat) : Nat :=
  if interleaved then (k % 3) * h * w + k / 3 else k

/-- The landed value of a sample (R352), clamped to [0, 1] and rounded once. -/
def mediaValue (e4m3 : Bool) (x : Nat) : List Byte :=
  let v : FVal := .num false (min x (2 ^ 64)) (-64)
  if e4m3 then toBytes (BitVec.ofNat 8 (fencode .e4m3 5 0 v).1) 1 else toBytes (BitVec.ofNat 16 (fencode .bf16 0 0 v).1) 2

/-- Bytes of a media command's tensor (R352). -/
def Cmd.tensorBytes (c : Cmd) : Nat :=
  (if bf (dw c.words 6) 10 2 = 1 then 3 else 6) * bf (dw c.words 7) 0 16 * bf (dw c.words 7) 16 16

/-- MEDIA_DECODE (R351, R352): samples and whether the frame decodes are free (log 6); accesses that fail are as a collective's (log 14). -/
def State.mediaDecode (s : State) (e : Nat) : State :=
  s.takeCommand e (.mediaDecode e) (fun c => if s.devHeld false c.src c.len || s.devHeld true c.dst c.tensorBytes then some s
      else s.gather (readUnit e) (s.readPieces c c.src c.len)) (fun s c =>
    let w6 := dw c.words 6
    let w := bf (dw c.words 7) 0 16
    let h := bf (dw c.words 7) 16 16
    let e4 := bf w6 10 2 == 1
    let n := 3 * w * h
    let bytes := c.tensorBytes
    let key := 256 * (e - 1024) + bf w6 0 8
    let ok := Config.mediaDecodes s.free
    if (s.engineFault e c .load c.src c.len).isSome || (s.engineFault e c .store c.dst bytes).isSome then s.endJob e 1 0
    else
      let out := if ok then (List.range n).flatMap (fun k => mediaValue e4 (Config.mediaSample s.free (mediaElem (bit w6 12) w h k)))
        else List.replicate bytes 0
      let left := s.streams.filter (· != key)
      let s : State := { s with free := s.free + 1, streams := if ok then left ++ [key] else left }
      ((s.devStoreFor (some e) c.dst out).1).endJob e (if ok then 0 else 4) bytes)

/-- MEDIA_DECODE (R351). -/
def execMediaDecode (e : Nat) (s : State) : Result := .next (s.mediaDecode e)

end Sys2Proof.Machine
end

