-- ==== Sys2Proof/Machine/HostEvents.lean ====
section
/-! DEFINITION. What the host, its masters and the debugger do to the device (R337 to R346, R354 to R356). -/

namespace Sys2Proof.Machine

/-! ### Masters -/

/-- The master owns the device (R340, R342). -/
def State.isOwner (s : State) (m : Master) : Bool :=
  match m with
  | .host id => id != 0 && bf (s.reg 0x10) 0 3 == id.toNat
  | .controller => bf (s.reg 0x10) 0 3 == 4
  | .vf _ => false

/-- The owner, or partition p's virtual function. -/
def State.mayAct (s : State) (m : Master) (p : BitVec 4) : Bool := s.isOwner m || m == .vf p

/-! ### Memory through the host interface -/

/-- The device address of a host access of n bytes (R338): a CXL.mem access gives it; one through BAR2 needs an entry that covers it. The
place of an entry's fields is the model's (log 13). -/
def State.hostAddr (s : State) (path : HostPath) (off n : Nat) : Option Nat :=
  match path with
  | .bar0 _ => none
  | .cxlMem => some off
  | .window =>
    ((List.range 64).find? (fun k =>
      let w1 := s.reg (0x2000 + 16 * k + 8)
      let lo := bf w1 32 32 * 2 ^ 21
      lo ≤ off && off + n ≤ lo + bf w1 0 32 * 2 ^ 21)).map (fun k =>
        bf (s.reg (0x2000 + 16 * k)) 21 36 * 2 ^ 21 + (off - bf (s.reg (0x2000 + 16 * k + 8)) 32 32 * 2 ^ 21))

/-- What the host writes is in HBM once it is performed: a page-table entry written so reaches a walker (R283). -/
def State.writeThrough (s : State) (a n : Nat) : State :=
  (extentSplit a n).foldl (fun s p => match zone p.1 with
    | .mem => if devOf p.1 != s.devnum then s else match s.walkTables p.1 with
      | some l => if (s.windowOf (homeSlice l.plb p.1) (p.1 / 512)).isSome then s else s.cleanHome (homeSlice l.plb p.1) p.1 p.2
      | none => s
    | _ => s) s

/-- The oldest peer-window read that waits for its completion (R278): who asked, address and length; and what else has left the device. -/
def takePeerRead : List OutMsg → Option ((Asker × Nat × Nat) × List OutMsg)
  | [] => none
  | .peerRead q a _ n :: rest => some ((q, a, n), rest)
  | m :: rest => (takePeerRead rest).map (fun r => (r.1, m :: r.2))

/-- PEER_READ_COMPLETION (R278): the oldest read's load, or the engine that asked, takes the bytes; bytes that a short completion does not give are
free (log 6). -/
def execPeerReadCompletion (data : List Byte) (s : State) : Result :=
  .next (match takePeerRead s.out with
    | none => s
    | some ((q, a, n), rest) =>
      let bytes := (List.range n).map (fun k => (data[k]?).getD (Config.outsideByte s.free k))
      let s : State := { s with out := rest, free := s.free + 1 }
      if 2 ^ 26 ≤ q.hid then s.tellUnit (q.hid - 2 ^ 26) ⟨none, none, bytes.mapIdx (fun k b => (a + k, b))⟩
      else s.landReply (coreOf q.hid) ⟨a, bytes, 0, allShared, false, [q], false, 0⟩)

/-! ### Registers with behaviour of their own -/

/-- A PCIe write to the doorbell page (R339): 4 bytes that name a core of this device and a counter; any other is dropped. -/
def State.doorbell (s : State) (size value : Nat) : State :=
  let loc := value / 64
  if size = 4 && loc / 4096 == s.devnum then s.countAt (loc % 4096) (value % 64) 3 0 else s

/-- The id by which a master names itself in the owner register (R342). -/
def masterId : Master → Option Nat
  | .host n => if n = 0 then none else some n.toNat
  | .controller => some 4
  | .vf _ => none

/-- A CAS of the owner register (R342). -/
def State.ownerCas (s : State) (m : Master) (expected new : Word) : State :=
  let old := s.reg 0x10
  match masterId m with
  | none => s
  | some n =>
    let gen := (bf old 48 16 + 1) % 65536
    let right := bf old 0 3 == 0 || bf (s.reg 0x18) 0 3 == n || m == .controller
    if old = expected && new = word (gen * 2 ^ 48 + n) && right then (s.setReg 0x10 new).setReg 0x18 0 else s

/-- The descriptor of a launch for a partition may not be read (R340): reserved bits, the core-local window, the rights of its hdomain, isolation. -/
def State.launchRefused (s : State) (p value : Nat) : Bool :=
  let a := value / 64 * 64
  let local' := match zone a with
    | .loc _ => true
    | _ => false
  value / 4 % 16 != 0 || local' || (s.allowedExt (BitVec.ofNat 16 (bf (s.partWord p 0) 16 16)) .load a 64).isSome || !s.owns p a

/-- HOST_LAUNCH (R340): the named die's Drill performs LAUNCH for the partition, the descriptor read under its hdomain. -/
def State.hostLaunch (s : State) (p value : Nat) : State × Nat :=
  if s.launchRefused p value then (s, 5)
  else match s.unitLoad hostUnit (value / 64 * 64) 64 with
    | none => (s, 5)
    | some bs => s.submit (value % 4) (wordsOf bs) (BitVec.ofNat 16 (bf (s.partWord p 0) 16 16)) p

/-- A home holds the descriptor of a host launch (R189, R343). -/
def State.launchHeld (s : State) (m : Master) (value : Word) : Bool := s.isOwner m && s.devHeld false (value.toNat / 64 * 64) 64

/-- A write to host launch p (R340). -/
def State.writeLaunch (s : State) (m : Master) (p : BitVec 4) (value : Word) : State :=
  if !s.isOwner m then s
  else
    let (s, st) := s.hostLaunch p.toNat value.toNat
    (s.setReg (0x5000 + 16 * p.toNat) value).setReg (0x5008 + 16 * p.toNat) (word st)

/-- What a host resume does, and what 0x6010 then reads (R158, R340). -/
def State.hostResume (s : State) (m : Master) (handle action : Word) : State × Word :=
  let dev := bf handle 14 10
  let h := bf handle 0 14
  let foreign := match m with
    | .vf p => s.partOf (clusterOf h) != p.toNat
    | _ => false
  if 2 < action.toNat || handleBad handle then (s, 3)
  else if 576 ≤ dev then (s, 2)
  else if dev != s.devnum then
    (s.drawFree.sendOut (h / 4 % 18) (.resume (h / 4 % 18) dev handle action.toNat) .nothing, word ((Config.outsideByte s.free 0).toNat % 3))
  else if foreign then (s, 2)
  else
    let (s, r) := s.resumeAt h (bf handle 32 16) action.toNat
    (s, word r)

/-- A handle and an action written to the host resume registers (R340), by the owner or through a virtual function. -/
def State.writeResume (s : State) (m : Master) (handle action : Word) : State :=
  let allowed := match m with
    | .vf _ => true
    | _ => s.isOwner m
  if !allowed then s
  else
    let (s, r) := s.hostResume m handle action
    ((s.setReg 0x6000 handle).setReg 0x6008 action).setReg 0x6010 r

/-- Trap messages that wait in the Yoke, or in a die's Drill, enter the host queues that have room, in order (R346). -/
def flushEgress (s : State) : List HostMsg → State × List HostMsg
  | [] => (s, [])
  | m :: rest => match s.queueHost m with
    | some s => flushEgress s rest
    | none => (s, m :: rest)

def State.flushUnits (s : State) : State :=
  let (s, y) := flushEgress s s.yokeEgress
  (List.range 4).foldl (fun s d =>
    if (s.die d).egress.isEmpty then s
    else
      let (s, e) := flushEgress s (s.die d).egress
      s.modDie d (fun x => { x with egress := e })) { s with yokeEgress := y }

/-- A write to trap acknowledge p (R346): the shown payload goes, the next is shown and raises the vector; dropped while none is shown. -/
def State.trapAck (s : State) (m : Master) (p : BitVec 4) : State :=
  if !s.mayAct m p then s
  else match find p.toNat s.hostq with
    | none => s
    | some q =>
      if q.shown.isNone then s
      else
        let q' : HostQ := match q.queue with
          | [] => ⟨none, [], q.msix⟩
          | x :: rest => ⟨some x, rest, q.msix + 1⟩
        ({ s with hostq := put p.toNat q' s.hostq } : State).flushUnits

/-- HOST_TRAP_DELIVERY (R346): the oldest trap message that waits in core c's egress. -/
def execHostTrapDelivery (c : Nat) (s : State) : Result :=
  .next (match (s.core c).egress with
    | [] => s
    | m :: rest => match s.queueHost m with
      | some s => s.modCore c (fun x => { x with egress := rest })
      | none => s.push (.hostTrapDelivery c))

/-- The bits of a partition entry's words that are not reserved (R345). -/
def partMask : Nat → Word
  | 0 => 0xE0000000FFFFFFFF
  | 1 => 0xBFFFFFFFBFFFFFFF
  | 2 => 0x00007FFFFFFFFFFF
  | _ => 0x0000FFFFFFFFFFFF

/-- A partition's entry written (R345): dropped where its groups meet another valid entry's. -/
def State.writePartition (s : State) (m : Master) (q : Nat) (w0 w1 w2 w3 : Word) : State :=
  let meets := (List.range 16).any (fun n => n != q && bit (s.partWord n 0) 63 && bf (s.partWord n 0) 0 16 &&& bf w0 0 16 != 0)
  if !s.isOwner m || meets then s
  else (((s.setReg (0x1000 + 32 * q) (w0 &&& partMask 0)).setReg (0x1008 + 32 * q) (w1 &&& partMask 1)).setReg
    (0x1010 + 32 * q) (w2 &&& partMask 2)).setReg (0x1018 + 32 * q) (w3 &&& partMask 3)

/-- Trace started and stopped by one write: start is evaluated first, so a write of both records one cycle (R355). -/
def Debug.setTrace (x : Debug) (start stop : Bool) (cycle : Nat) : Debug :=
  if start then { x with trace := true, traceUntil := if stop then some (cycle + 1) else none }
  else if stop then { x with trace := false, traceUntil := none }
  else x

/-- A write to a debug module in a cycle (R354, R355); the place of its registers is the model's (log 13). -/
def Debug.write (x : Debug) (cycle off : Nat) (v : Word) : Debug :=
  let bp (n : Nat) : Nat × BitVec 16 := x.bps.getD n (0, 0)
  let wt (n : Nat) : Watch := x.watches.getD n ⟨0, 0, false, false⟩
  let bps (n : Nat) (e : Nat × BitVec 16) : List (Nat × BitVec 16) := (List.range 4).map (fun k => if k = n then e else bp k)
  let wts (n : Nat) (e : Watch) : List Watch := (List.range 4).map (fun k => if k = n then e else wt k)
  if off < 0x20 then { x with bps := bps (off / 8) (v.toNat, (bp (off / 8)).2) }
  else if off < 0x40 then { x with bps := bps (off / 8 - 4) ((bp (off / 8 - 4)).1, v.setWidth 16) }
  else if off < 0x60 then { x with watches := wts (off / 8 - 8) { wt (off / 8 - 8) with base := v.toNat } }
  else if off < 0x80 then
    { x with watches := wts (off / 8 - 12) { wt (off / 8 - 12) with len := bf v 0 57, onLoad := bit v 62, onStore := bit v 63 } }
  else if off = 0x80 then ({ x with haltOnBp := bit v 0, haltOnWatch := bit v 1 } : Debug).setTrace (bit v 2) (bit v 3) cycle
  else if off < 0xA8 then
    let w := (off - 0x88) / 8
    { x with cross := x.cross.filter (fun k => k / 64 != w) ++ ((List.range 64).filter (bit v)).map (fun k => 64 * w + k) }
  else x

/-- What a debug module's register reads as (log 13): the counterpart of Debug.write, with bit 2 of 0x80 while tracing is on and bit 63 while the
cluster is halted. -/
def Debug.read (x : Debug) (cycle off : Nat) : Word :=
  let wt (n : Nat) : Watch := x.watches.getD n ⟨0, 0, false, false⟩
  let flag (b : Bool) (n : Nat) : Nat := if b then 2 ^ n else 0
  if off < 0x20 then word (x.bps.getD (off / 8) (0, 0)).1
  else if off < 0x40 then zext (x.bps.getD (off / 8 - 4) (0, 0)).2
  else if off < 0x60 then word (wt (off / 8 - 8)).base
  else if off < 0x80 then word ((wt (off / 8 - 12)).len + flag (wt (off / 8 - 12)).onLoad 62 + flag (wt (off / 8 - 12)).onStore 63)
  else if off = 0x80 then word (flag x.haltOnBp 0 + flag x.haltOnWatch 1 + flag (x.tracing cycle) 2 + flag x.halted 63)
  else if 0x88 ≤ off && off < 0xA8 then word (((x.cross.filter (fun k => k / 64 == (off - 0x88) / 8)).eraseDups).foldl (fun n k => n + 2 ^ (k % 64)) 0)
  else 0

/-- What a write stores in a register without behaviour of its own, and who may make it (R340): reserved bits read zero (R7). -/
def plainRegister (off : Nat) (v : Word) : Option (Bool × Word) :=
  if off % 8 != 0 then none
  else if off = 0x18 then some (true, v &&& 7)
  else if off = 0x300 then some (true, v &&& 0x000FFFFFFFFFF000)
  else if off = 0x308 || off = 0x310 || off = 0x318 || off = 0x340 then some (true, v)
  else if off = 0x328 || off = 0x330 then some (false, v)
  else if off = 0x338 then some (true, v &&& 0x0000FFFFFFFF0000)
  else if (0x2000 ≤ off && off < 0x2400) || (0x3000 ≤ off && off < 0x3100) then some (true, v)
  else if 0x7000 ≤ off && off < 0x7400 then some (true, if off % 16 = 8 then v &&& 0x3FF03FF else v)
  else none

/-! ### Sampling -/

/-- The run state of a hart as a sampling record has it (R356). -/
def State.sampleState (s : State) (h : Nat) : Nat :=
  let x := s.hart h
  if x.run = .parked then 3
  else if x.busy.any (fun b => match b with
    | .save .. => true
    | _ => false) then 6
  else if (s.cluster (clusterOf h)).dbg.halted then 4
  else match x.wait with
    | .bar _ => 5
    | _ => if x.run = .blocked || x.busy.isSome then 2 else 1

/-- The harts of a die that are not free. -/
def State.occupied (s : State) (d : Nat) : List Nat :=
  (s.harts.filter (fun h => dieOf h.1 == d && h.2.run != .free)).map (fun h => h.1)

/-- One die's sampling record (R356). -/
def State.sampleDie (s : State) (d : Nat) : State :=
  let hs := s.occupied d
  let seq := (s.die d).sampleSeq
  let entry (h : Nat) : List Word :=
    let x := s.hart h
    [word (bf x.pc 3 54 * 2 ^ 10 + s.sampleState h * 2 ^ 7), word (bf x.task 0 32 * 2 ^ 32 + h % 4096 * 2 ^ 20 + bf x.task 32 20)]
  let record := bytesOf ([s.time, word (hs.length * 2 ^ 32 + seq % 65536 * 2 ^ 16 + d), 0, 0] ++ hs.flatMap entry)
  (s.ringWrite d record).modDie d (fun x => { x with sampleSeq := (seq + 1) % 65536, lastSample := record })

/-- A device-wide sampling pulse. -/
def State.sample (s : State) : State := (List.range 4).foldl (fun s d => s.sampleDie d) s

/-! ### BAR0 -/

/-- A 64-bit write of a register that does nothing else, by a master (R340, R354): a 1 in bit 0 of the sampling register is a pulse (R356). -/
def State.writeRegister (s : State) (m : Master) (off : Nat) (v : Word) : State :=
  if 0x100000 ≤ off && off < 0x200000 then
    if s.isOwner m && off % 8 == 0 then
      s.modCluster ((off - 0x100000) / 0x1000) (fun c => { c with dbg := c.dbg.write s.cycle (off % 0x1000) v }) else s
  else match plainRegister off v with
    | some (owner, x) => if (if owner then s.isOwner m else m == .controller) then
        (if off = 0x338 && bit v 0 then (s.setReg off x).sample else s.setReg off x) else s
    | none => s

/-- A PCIe write to BAR0 (R339, R340): the doorbell page, or one whole register of 64 bits. A write of another size, or to a register that
only a CAS changes, is dropped (log 13). -/
def State.barWrite (s : State) (m : Master) (off : Nat) (data : List Byte) : State :=
  let v := wordOf data
  let part (base size : Nat) : BitVec 4 := BitVec.ofNat 4 ((off - base) / size)
  if 0x4000 ≤ off && off < 0x5000 then s.doorbell data.length v.toNat
  else if data.length != 8 || off % 8 != 0 then s
  else if 0x1000 ≤ off && off < 0x1200 then
    let q := (off - 0x1000) / 32
    let w (i : Nat) : Word := if i = off % 32 / 8 then v else s.partWord q i
    s.writePartition m q (w 0) (w 1) (w 2) (w 3)
  else if 0x5000 ≤ off && off < 0x5100 then (if off % 16 = 0 then s.writeLaunch m (part 0x5000 16) v else s)
  else if off = 0x6000 then (if s.isOwner m || (match m with
    | .vf _ => true
    | _ => false) then s.setReg off v else s)
  else if off = 0x6008 then s.writeResume m (s.reg 0x6000) v
  else if 0x8400 ≤ off && off < 0x8480 then s.trapAck m (part 0x8400 8)
  else s.writeRegister m off v

/-- Every master may read the register (R340); the others only the owner may (log 13). -/
def readableByAll (off : Nat) : Bool :=
  off < 0x28 || (0x100 ≤ off && off < 0x148) || (0x200 ≤ off && off < 0x248) || (0x320 ≤ off && off < 0x328)
    || (0x1000 ≤ off && off < 0x1200) || (0x5000 ≤ off && off < 0x5100) || (0x6000 ≤ off && off < 0x6018)
    || (0x8000 ≤ off && off < 0x8400) || (0x100000 ≤ off && off < 0x200000)

/-- A register of BAR0 as it reads: a trap payload is what its partition shows (R346), a debug module is its cluster's. -/
def State.barWord (s : State) (off : Nat) : Word :=
  if 0x8000 ≤ off && off < 0x8400 then
    (((find ((off - 0x8000) / 64) s.hostq).bind (fun q => q.shown)).bind (fun p => p[off % 64 / 8]?)).getD 0
  else if 0x100000 ≤ off && off < 0x200000 then (s.cluster ((off - 0x100000) / 0x1000)).dbg.read s.cycle (off % 0x1000)
  else s.reg (off / 8 * 8)

/-- A byte of BAR0 as a master reads it; what it may not read is free. -/
def State.barByte (s : State) (m : Master) (off : Nat) : Byte :=
  if readableByAll off || s.isOwner m then (bytesOf [s.barWord (off / 8 * 8)]).getD (off % 8) 0 else Config.outsideByte s.free off

/-! ### Accesses through the host interface, in order -/

/-- A host write performed (R338): a store-release at system scope, at every level at once (log 11), or a write of a register. -/
def State.hostStore (s : State) (path : HostPath) (off : Nat) (data : List Byte) : State :=
  match path with
  | .bar0 m => s.barWrite m off data
  | _ => match s.hostAddr path off data.length with
    | some a => (s.devStore a data).1.writeThrough a data.length
    | none => { s with out := s.out ++ [.unsupported] }

/-- A host read performed (R338, R340): a strong load at system scope, or a read of registers. -/
def State.hostLoad (s : State) (path : HostPath) (off len : Nat) : State :=
  let answer (m : OutMsg) : State := { s.drawFree with out := s.out ++ [m] }
  match path with
  | .bar0 m => answer (.hostRead ((List.range len).map (fun k => s.barByte m (off + k))))
  | _ => match (s.hostAddr path off len).bind (fun a => s.unitLoad hostUnit a len) with
    | some bs => answer (.hostRead bs)
    | none => answer .unsupported

/-- An access through the host interface waits for a home that holds what it reads or writes (R189, R343). -/
def State.hostHeld (s : State) (e : Event) : Bool :=
  match e with
  | .hostWrite (.bar0 m) off data => decide (0x5000 ≤ off ∧ off < 0x5100 ∧ off % 16 = 0 ∧ data.length = 8) && s.launchHeld m (wordOf data)
  | .hostWrite path off data => (s.hostAddr path off data.length).any (fun a => s.devHeld true a data.length)
  | .hostRead path off len => (s.hostAddr path off len).any (fun a => s.devHeld false a len)
  | .hostLaunch m _ value => s.launchHeld m value
  | _ => false

/-- What a launch by a master reads, if anything: its descriptor. -/
def State.launchReads (s : State) (m : Master) (p : Nat) (value : Word) : List (Nat × Nat) :=
  if s.isOwner m && !s.launchRefused p value.toNat then extentSplit (value.toNat / 64 * 64) 64 else []

/-- What an access through the host interface reads of memory. -/
def State.hostReads (s : State) (e : Event) : List (Nat × Nat) :=
  match e with
  | .hostRead path off len => match s.hostAddr path off len with
    | some a => extentSplit a len
    | none => []
  | .hostLaunch m p value => s.launchReads m p.toNat value
  | .hostWrite (.bar0 m) off data =>
    if 0x5000 ≤ off && off < 0x5100 && off % 16 = 0 && data.length = 8 then s.launchReads m ((off - 0x5000) / 16) (wordOf data) else []
  | _ => []

/-- An access through the host interface performed. -/
def State.hostAct (s : State) (e : Event) : State :=
  match e with
  | .hostWrite path off data => s.hostStore path off data
  | .hostRead path off len => s.hostLoad path off len
  | .doorbellWrite size value => s.doorbell size value.toNat
  | .ownerCas m expected new => s.ownerCas m expected new
  | .hostLaunch m p value => s.writeLaunch m p value
  | .hostResume m handle action => s.writeResume m handle action
  | .trapAcknowledge m p => s.trapAck m p
  | .partitionWrite m p w0 w1 w2 w3 => s.writePartition m p.toNat w0 w1 w2 w3
  | .registerWrite m off value => s.writeRegister m off value
  | _ => s

/-- What waits at the host interface performed in order, until one must wait (R338), for a home or for what it reads outside the device (R278). -/
def State.drainHost (s : State) : Nat → State
  | 0 => s
  | n + 1 => match s.hostIn with
    | [] => s
    | e :: rest =>
      if s.hostHeld e then s
      else if (s.hostReads e).isEmpty then (({ s with hostIn := rest } : State).hostAct e).drainHost n
      else match s.gather hostUnit (s.hostReads e) with
        | some s => s
        | none => ((({ s with hostIn := rest } : State).hostAct e).setPosted hostUnit Posted.none).drainHost n

/-- What waits at the host interface tried again: a write of no bytes does nothing else. -/
def hostRetry : Event := .hostWrite .cxlMem 0 []

/-- An access that arrives at the host interface: it is performed after those that came before it (R338; log 11). -/
def State.hostAccess (s : State) (e : Event) : State :=
  let s : State := if e = hostRetry then s else { s with hostIn := s.hostIn ++ [e] }
  let s := s.drainHost s.hostIn.length
  if s.hostIn.isEmpty then s else s.push hostRetry

/-- HOST_WRITE (R338). -/
def execHostWrite (path : HostPath) (off : Nat) (data : List Byte) (s : State) : Result := .next (s.hostAccess (.hostWrite path off data))

/-- HOST_READ (R338, R340). -/
def execHostRead (path : HostPath) (off len : Nat) (s : State) : Result := .next (s.hostAccess (.hostRead path off len))

/-- DOORBELL_WRITE (R339). -/
def execDoorbellWrite (size : Nat) (value : BitVec 32) (s : State) : Result := .next (s.hostAccess (.doorbellWrite size value))

/-- OWNER_CAS (R342). -/
def execOwnerCas (m : Master) (expected new : BitVec 64) (s : State) : Result := .next (s.hostAccess (.ownerCas m expected new))

/-- HOST_LAUNCH (R340). -/
def execHostLaunch (m : Master) (p : BitVec 4) (value : BitVec 64) (s : State) : Result := .next (s.hostAccess (.hostLaunch m p value))

/-- HOST_RESUME (R340). -/
def execHostResume (m : Master) (handle action : BitVec 64) (s : State) : Result := .next (s.hostAccess (.hostResume m handle action))

/-- TRAP_ACKNOWLEDGE (R346). -/
def execTrapAcknowledge (m : Master) (p : BitVec 4) (s : State) : Result := .next (s.hostAccess (.trapAcknowledge m p))

/-- PARTITION_WRITE (R345). -/
def execPartitionWrite (m : Master) (p : BitVec 4) (w0 w1 w2 w3 : BitVec 64) (s : State) : Result :=
  .next (s.hostAccess (.partitionWrite m p w0 w1 w2 w3))

/-- REGISTER_WRITE (R340, R354). -/
def execRegisterWrite (m : Master) (off : Nat) (value : BitVec 64) (s : State) : Result := .next (s.hostAccess (.registerWrite m off value))

/-- SAMPLING_PULSE (R356): a trigger, or a master's write of bit 0. -/
def execSamplingPulse (m : Option Master) (s : State) : Result :=
  .next (match m with
    | none => s.sample
    | some m => if s.isOwner m then s.sample else s)

/-- The sampling period in ns; 0 for none. -/
def State.samplePeriod (s : State) : Nat := bf (s.reg 0x338) 16 32 * 1000

/-- The sampling period is over. -/
def State.sampleDue (s : State) : Bool := s.samplePeriod != 0 && s.sampleBase.toNat + s.samplePeriod ≤ s.time.toNat

/-- SAMPLING_PERIOD (R356). -/
def execSamplingPeriod (s : State) : Result :=
  .next (if s.sampleDue then { s.sample with sampleBase := s.time } else s)

/-! ### The debugger -/

/-- DEBUG_HALT (R354): a match or a cross-trigger (none), or the owner. -/
def execDebugHalt (m : Option Master) (k : Nat) (s : State) : Result :=
  .next (match m with
    | none => s.haltCluster k
    | some m => if s.isOwner m then s.haltCluster k else s)

/-- CLUSTER_RESUME (R354): the cluster issues again; what waited for it goes on. -/
def State.resumeCluster (s : State) (k : Nat) : State :=
  if !(s.cluster k).dbg.halted then s
  else
    let s := (s.modCluster k (fun c => { c with dbg := { c.dbg with halted := false } })).flipCluster k
    (List.range 64).foldl (fun s j =>
      let h := 64 * k + j
      let x := s.hart h
      if x.run = .free then s.push (.taskDispatch h)
      else if x.cancelled then s.cancelHart h
      else if x.mchecks.isEmpty then s else s.push (.machineCheck h)) s

/-- CLUSTER_RESUME (R354). -/
def execClusterResume (m : Master) (k : Nat) (s : State) : Result := .next (if s.isOwner m then s.resumeCluster k else s)

/-- A late result of an outstanding access is discarded (R355): the access goes on, and writes g0. -/
def Hart.dropResult (x : Hart) (isV : Bool) (r : BitVec 5) : Hart :=
  { x with
    loads := x.loads.map (fun l => match l.dest with
      | .g q n sg => if !isV && q = r then { l with dest := .g 0 n sg } else l
      | .tag q => if !isV && q = r then { l with dest := .tag 0 } else l
      | .v q => if isV && q = r then { l with dest := .g 0 1 false } else l
      | .bank _ | .hull _ | .buf => l)
    stores := x.stores.map (fun p => match p.ret with
      | some (q, n, sg) => if !isV && q = r then { p with ret := some (0, n, sg) } else p
      | none => p)
    fence := x.fence.map (fun f => if !isV && f.rd = r then { f with rd := 0 } else f) }

/-- A system register as the debugger replaces it (R355): SYR reads it afterwards; computed and read-only registers stay. -/
def State.debugSys (s : State) (h n : Nat) (v : Word) : State :=
  match n with
  | 0x001 => s.modHart h (fun x => { x with task := v })
  | 0x00B => s.modHart h (fun x => { x with regmask := v ||| 1 })
  | 0x019 => s.modCore (coreOf h) (fun c => { c with ballast := v &&& sysBits n })
  | _ => s.writeSys h n (v &&& sysBits n)

/-- DEBUG_REGISTER_WRITE (R355): by the owner, in a halted cluster. -/
def execDebugRegisterWrite (m : Master) (h : Nat) (r : DebugReg) (s : State) : Result :=
  .next (if !s.isOwner m || !(s.cluster (clusterOf h)).dbg.halted then s
    else match r with
      | .g q v => s.modHart h (fun x => (x.dropResult false q).setG q v)
      | .v q v => s.modHart h (fun x => (x.dropResult true q).setV q v)
      | .m q v => s.modHart h (fun x => x.setM q v)
      | .pc v => ((s.withdraw h).forgetAbsentOf h).modHart h (fun x => { x with pc := v &&& ~~~ 7, wait := .none, reads := [], safeAt := none })
      | .sys n v => s.debugSys h n.toNat v)

end Sys2Proof.Machine
end

