-- ==== Sys2Proof/Machine/EdgeEvents.lean ====
section
/-! DEFINITION. Links, power-on, device reset, readiness, units mapped out, and fatal errors (R298, R341, R343, R344, R347, R348, R353). -/

namespace Sys2Proof.Machine

/-! ### Links -/

/-- Port p fails (R348): new traffic of its planes waits from now on. -/
def State.portFails (s : State) (p : Nat) : State :=
  if p < 18 && s.portState p == .up then ({ s with ports := put p (.failing s.time) s.ports } : State).push (.linkFailoverTimeout p) else s

/-- LINK_PORT_FAILURE (R348). -/
def execLinkPortFailure (p : Nat) (s : State) : Result := .next (s.portFails p)

/-- The planes that a port carried move to the next port that works (R348). -/
def State.movePlanes (s : State) (p : Nat) : State :=
  match ((List.range 17).map (fun j => (p + 1 + j) % 18)).find? (fun q => s.portState q == .up) with
  | none => s
  | some q => (List.range 18).foldl (fun s n => if s.planePort n = p then { s with planes := put n q s.planes } else s) s

/-- A reply of another device that comes by port p. -/
def State.replyBy (s : State) (p : Nat) (d : Nat × Down) : Bool :=
  match d.2 with
  | .reply _ r => deviceSender 0 ≤ d.1 && s.planePort (planeOf r.addr) == p
  | .inval _ => false

/-- Another device's answer to a home's invalidation that comes by port p. -/
def State.trimBy (s : State) (p : Nat) (a : Nat × Nat × Bool) : Bool := 256 ≤ a.2.1 && s.planePort (planeOf (a.1 * 512)) == p

/-- Nothing is under way on port p (R348): no acknowledgement, reply or answer of another device. -/
def State.portQuiet (s : State) (p : Nat) : Bool :=
  !s.harts.any (fun h => h.2.acks.any (fun a => a.port == some p))
    && !s.posted.any (fun u => u.2.acks.any (fun a => a.port == some p))
    && !s.clusters.any (fun k => k.2.down.any (s.replyBy p))
    && !s.homes.any (fun h => h.2.acks.any (s.trimBy p))

/-- What was under way on port p is lost (R348): acknowledgements for harts and units, replies of other devices, and their answers to
invalidations, which then count as not delivered (R193). -/
def State.loseFlits (s : State) (p : Nat) : State :=
  let s := (s.harts.filter (fun h => h.2.acks.any (fun a => a.port == some p))).foldl (fun s h => s.modHart h.1 (fun x => { x with
    acks := x.acks.map (fun a => if a.port = some p then { a with failed := some .lost } else a) })) s
  let s : State := { s with posted := s.posted.map (fun u => (u.1, { u.2 with
    acks := u.2.acks.map (fun a => if a.port = some p then { a with failed := some .lost, bytes := [] } else a) })) }
  let s := (s.clusters.filter (fun k => k.2.down.any (s.replyBy p))).foldl (fun s k => s.modCluster k.1 (fun c => { c with
    down := c.down.map (fun d => match d.2 with
      | .reply cid r => if s.replyBy p d then (d.1, .reply cid { r with refused := true }) else d
      | .inval _ => d) })) s
  (s.homes.filter (fun h => h.2.acks.any (s.trimBy p))).foldl (fun s h =>
    (h.2.acks.filter (s.trimBy p)).foldl (fun s a => s.push (.invalidateTimeout h.1 a.2.1))
      (s.modHome h.1 (fun y => { y with acks := y.acks.filter (fun a => !s.trimBy p a) }))) s

/-- Traffic that has waited for a failing port: a trap message that no port can carry goes on as one for an absent service does, for it is never
dropped (R154, R155; log 62). -/
def State.sendHeld (s : State) (plane : Nat) (m : OutMsg) (x : Answer) : State :=
  match s.portState (s.planePort plane), m with
  | .failed, .message _ _ (.msg h0 h1 payload _ (.trap p fb) _ _) =>
    let words := (List.range 8).map (wordAt payload)
    if fb then s.toHost (hdrSource h1 / 4 % 4096) p words
    else s.passTrap (hdrSource h1 / 4 % 4096) p true (hdrSource h1) words (hdrCorr h0)
  | _, _ => s.sendOut plane m x

/-- Port p has failed (R348): what was under way is lost, its planes move to the next port that works, and the traffic that waited for it goes
on. -/
def State.failPort (s : State) (p : Nat) : State :=
  let s := ({ s.loseFlits p with ports := put p .failed s.ports } : State).movePlanes p
  s.outHeld.foldl (fun s m => s.sendHeld m.1 m.2.1 m.2.2) { s with outHeld := [] }

/-- LINK_FAILOVER_TIMEOUT (R348): a failing port's planes move once nothing is under way on it, or 10 µs after it failed; else it is looked at
again. -/
def execLinkFailoverTimeout (p : Nat) (s : State) : Result :=
  .next (match s.portState p with
    | .failing since => if s.portQuiet p || 10000 ≤ (s.time - since).toNat then s.failPort p else s.push (.linkFailoverTimeout p)
    | _ => s)

/-! ### Power-on and reset -/

/-- A bit of the ready map, or of the mapped-out map at 0x100 above it (R340). -/
def unitPlace : DevUnit → Nat × Nat
  | .cluster k => (0x100 + 8 * (k / 64), k % 64)
  | .homeGroup k => (0x120 + 8 * (k / 64), k % 64)
  | .stack n => (0x140, n)
  | .link p => (0x140, 12 + p)
  | .media b => (0x140, 30 + b)
  | .hostInterface => (0x140, 38)

/-- The device has such a unit. -/
def unitExists : DevUnit → Bool
  | .cluster k | .homeGroup k => k < 256
  | .stack n => n < 12
  | .link p => p < 18
  | .media b => b < 8
  | .hostInterface => true

/-- A bit of a management register set. -/
def State.setBit (s : State) (off i : Nat) : State := s.setReg off (s.reg off ||| ((1 : Word) <<< i))

/-- What the image says of the dump (R341, R353): its area, the window that it leaves through, its collector, and what its header names the image by. -/
def State.imageDump (s : State) (img : Image) : State :=
  let s := (s.setReg 0x328 img.dumpBase).setReg 0x330 img.dumpLength
  let s := match img.dumpWindow with
    | some (n, w0, w1) => (s.setReg (0x2000 + 16 * n.toNat) w0).setReg (0x2008 + 16 * n.toNat) w1
    | none => s
  { s with identity := img.identity, collector := img.collector }

/-- POWER_ON (R341): the image configures the device and the dies are released; one whose signature fails leaves them in reset. The planes of a
link port that is mapped out go by the next one that works (R344). -/
def execPowerOn (img : Image) (_s : State) : Result :=
  .next (if !img.signatureHolds then State.reset
    else
      let s := State.reset.setReg 0x8 (zext img.devnum)
      let s := img.mappedOut.foldl (fun s u => if unitExists u then s.setBit ((unitPlace u).1 + 0x100) (unitPlace u).2 else s) s
      let s := img.mappedOut.foldl (fun s u => match u with
        | .link p => if p < 18 then s.failPort p else s
        | _ => s) s
      let s := (img.partitions.take 16).foldl (fun (r : State × Nat) w =>
        (((((r.1.setReg (0x1000 + 32 * r.2) (w.1 &&& partMask 0)).setReg (0x1008 + 32 * r.2) (w.2.1 &&& partMask 1)).setReg
          (0x1010 + 32 * r.2) (w.2.2.1 &&& partMask 2)).setReg (0x1018 + 32 * r.2) (w.2.2.2 &&& partMask 3)), r.2 + 1)) (s, 0)
      { s.1.imageDump img with released := true })

/-- A port's state as device time starts again from 0: how long it has been failing stays. -/
def PortState.restarted (x : PortState) (time : Word) : PortState :=
  match x with
  | .failing since => .failing (since - time)
  | x => x

/-- DEVICE_RESET (R298): every table, queue, counter and system register in its reset state; HBM, local memories, the management space with the dump
that it holds, and the links with what waits for them stay (log 15). -/
def execDeviceReset (s : State) : Result :=
  .next ((s.ports.filter (fun p => p.2.isFailing)).foldl (fun s p => s.push (.linkFailoverTimeout p.1)) { State.reset with
    cores := s.cores.map (fun c => (c.1, { Core.reset with loc := c.2.loc }))
    clusters := s.clusters.map (fun k => (k.1, { Cluster.reset with bolt := ⟨k.2.bolt.blocks, [], []⟩ }))
    mem := s.mem, memTags := s.memTags, memPoison := s.memPoison, outHeld := s.outHeld, mgmt := s.mgmt, planes := s.planes, out := s.out
    ports := s.ports.map (fun p => (p.1, p.2.restarted s.time))
    serial := s.serial, free := s.free, pace := s.pace, released := s.released, identity := s.identity, dump := s.dump, collector := s.collector })

/-- UNIT_READY (R343): a unit of released dies that is not mapped out sets its ready bit. -/
def execUnitReady (u : DevUnit) (s : State) : Result :=
  .next (if s.released && unitExists u && !bit (s.reg ((unitPlace u).1 + 0x100)) (unitPlace u).2 then s.setBit (unitPlace u).1 (unitPlace u).2 else s)

/-! ### Units mapped out -/

/-- The tasks of a cluster end as cancelled (R344). -/
def State.cancelCluster (s : State) (k : Nat) : State :=
  let s := (List.range 16).foldl (fun s j =>
    let cid := 16 * k + j
    let c := s.core cid
    let s := s.modCore cid (fun c => { c with runq := [], deque := [], ctxIn := [] })
    let s := c.ctxIn.foldl (fun s m => (s.releaseReservation m.dest).retireQueued cid { m.task with saved := none }) s
    (c.runq ++ c.deque).foldl (fun s e => s.retireQueued cid e.2) s) s
  (List.range 64).foldl (fun s j => if (s.hart (64 * k + j)).job.isSome then s.cancelHart (64 * k + j) else s) s

/-- UNIT_MAPPED_OUT (R344): the mapped-out bit and replacement requested; a cluster's tasks end, a link's planes move. -/
def execUnitMappedOut (u : DevUnit) (s : State) : Result :=
  .next (if !unitExists u then s
    else
      let s := (s.setBit ((unitPlace u).1 + 0x100) (unitPlace u).2).setBit 0x20 0
      match u with
      | .cluster k => s.cancelCluster k
      | .link p => s.portFails p
      | _ => s)

/-! ### Fatal errors -/

/-- The context of an occupied hart in the dump (R163, R353): 24 KiB. -/
def State.dumpHart (s : State) (h : Nat) : List Byte :=
  let img := s.saveImage h (s.hart h).pc (BitVec.allOnes 32) (BitVec.allOnes 32) false false
  (List.range 0x6000).map (fun i => ((img.find? (fun p => p.1 ≤ i && i < p.1 + p.2.length)).bind (fun p => p.2[i - p.1]?)).getD 0)

/-- The dump's header (R353): cause code, device time, ready and mapped-out maps, image identity. The order is the model's, and what follows is
free (log 13). -/
def State.dumpHeader (s : State) (cause : Word) : List Byte :=
  let maps := (List.range 9).map (fun k => s.reg (0x100 + 8 * k)) ++ (List.range 9).map (fun k => s.reg (0x200 + 8 * k))
  let known := (bytesOf (cause :: s.time :: maps) ++ s.identity).take 4096
  known ++ (List.range (4096 - known.length)).map (Config.dumpByte s.free)

/-- The debug part of the dump (R353): every module's registers, 256 bytes each, then each die's last sampling record, in as many bytes as the
largest takes (log 13). -/
def State.dumpDebug (s : State) : List Byte :=
  (List.range 256).flatMap (fun k => bytesOf ((List.range 32).map (fun n => (s.cluster k).dbg.read s.cycle (8 * n))))
    ++ (List.range 4).flatMap (fun d => ((s.die d).lastSample ++ List.replicate 0x10020 0).take 0x10020)

/-- The dump (R353): header, contexts, debug state, trace rings. -/
def State.makeDump (s : State) (cause : Word) : List Byte :=
  s.dumpHeader cause ++ (List.range 4).flatMap (fun d => (s.occupied d).flatMap s.dumpHart) ++ s.dumpDebug
    ++ (List.range 4).flatMap (fun d => readBytes s.mem ((s.reg 0x340).toNat + d * 0x100000) 0x100000)

/-- The 1,024 bytes of the dump from an offset on; past its end they are free (log 13). -/
def State.dumpPiece (s : State) (off : Nat) : List Byte :=
  let bs := (s.dump.drop off).take 1024
  bs ++ (List.range (1024 - bs.length)).map (fun k => Config.dumpByte s.free (off + bs.length + k))

/-- Datagrams of 1,024 dump bytes for [off, off + len) of the dump, to the image's collector (R353). -/
def State.sendDump (s : State) (off len : Nat) : State :=
  { s.drawFree with out := s.out ++ (List.range ((len + 1023) / 1024)).map (fun n => .datagram s.collector (off + 1024 * n) (s.dumpPiece (off + 1024 * n))) }

/-- FATAL_ERROR (R353): every hart stops issuing, health bit 1 is set, the dump is written, health bit 2 is set. The host reads it through a
window; where the host interface is mapped out, it leaves through the side-band port. -/
def execFatalError (cause : BitVec 64) (s : State) : Result :=
  .next (if s.fatal then s
    else
      let d := (s.makeDump cause).take (s.reg 0x330).toNat
      let s := (s.setBit 0x20 1).setBit 0x20 2
      let area := d.mapIdx (fun i b => ((s.reg 0x328).toNat + i, b))
      let s : State := { s with fatal := true, dump := d, free := s.free + 1, mem := area.foldl (fun m p => s.physWrite m p.1 p.2) s.mem }
      if bit (s.reg 0x240) 38 then s.sendDump 0 d.length else s)

/-- DUMP_RESEND_REQUEST (R353): datagrams of 1,024 dump bytes from the offset that the collector names. -/
def execDumpResendRequest (off len : Nat) (s : State) : Result :=
  .next (if bit (s.reg 0x20) 2 then s.sendDump off len else s)

end Sys2Proof.Machine
end

