-- ==== Sys2Proof/Machine/Scalar.lean ====
section
/-! DEFINITION. The scalar groups of the C slot: integer group, immediate group, LEA (R78 to R80), and NOPC (R57). -/

namespace Sys2Proof.Machine

/-- NOPC (R57): nothing, for one issue cycle. -/
def slotNopc (_pre cur : State) : Eff := .ok cur none

/-- NOPC issued alone. -/
def execNopc (s : State) : Result :=
  issue .nopc false false slotNopc s

/-- A bit as a register value. -/
def flagWord (b : Bool) : Word := if b then 1 else 0

/-- Quotient and remainder of R78, signed, towards zero, with the results that the rule gives for b = 0 and for overflow. -/
def divSigned (a b : Word) : Word :=
  if b = 0 then BitVec.allOnes 64
  else if a = BitVec.intMin 64 ∧ b = BitVec.allOnes 64 then a
  else BitVec.ofInt 64 (a.toInt.tdiv b.toInt)

def remSigned (a b : Word) : Word :=
  if b = 0 then a
  else if a = BitVec.intMin 64 ∧ b = BitVec.allOnes 64 then 0
  else BitVec.ofInt 64 (a.toInt - b.toInt * a.toInt.tdiv b.toInt)

def divUnsigned (a b : Word) : Word := if b = 0 then BitVec.allOnes 64 else a / b

def remUnsigned (a b : Word) : Word := if b = 0 then a else a % b

/-- ADD (R78). -/
def slotAdd (rd ra rb : BitVec 5) (pre cur : State) : Eff :=
  let a := pre.me.getG ra
  let b := pre.me.getG rb
  okG cur rd (a + b)

/-- ADD issued alone. -/
def execAdd (sp : Bool) (rd : BitVec 5) (ra : BitVec 5) (rb : BitVec 5) (s : State) : Result :=
  issue (.add sp rd ra rb) false sp (slotAdd rd ra rb) s

/-- SUB (R78). -/
def slotSub (rd ra rb : BitVec 5) (pre cur : State) : Eff :=
  let a := pre.me.getG ra
  let b := pre.me.getG rb
  okG cur rd (a - b)

/-- SUB issued alone. -/
def execSub (sp : Bool) (rd : BitVec 5) (ra : BitVec 5) (rb : BitVec 5) (s : State) : Result :=
  issue (.sub sp rd ra rb) false sp (slotSub rd ra rb) s

/-- AND (R78). -/
def slotAnd (rd ra rb : BitVec 5) (pre cur : State) : Eff :=
  let a := pre.me.getG ra
  let b := pre.me.getG rb
  okG cur rd (a &&& b)

/-- AND issued alone. -/
def execAnd (sp : Bool) (rd : BitVec 5) (ra : BitVec 5) (rb : BitVec 5) (s : State) : Result :=
  issue (.and sp rd ra rb) false sp (slotAnd rd ra rb) s

/-- OR (R78). -/
def slotOr (rd ra rb : BitVec 5) (pre cur : State) : Eff :=
  let a := pre.me.getG ra
  let b := pre.me.getG rb
  okG cur rd (a ||| b)

/-- OR issued alone. -/
def execOr (sp : Bool) (rd : BitVec 5) (ra : BitVec 5) (rb : BitVec 5) (s : State) : Result :=
  issue (.or sp rd ra rb) false sp (slotOr rd ra rb) s

/-- XOR (R78). -/
def slotXor (rd ra rb : BitVec 5) (pre cur : State) : Eff :=
  let a := pre.me.getG ra
  let b := pre.me.getG rb
  okG cur rd (a ^^^ b)

/-- XOR issued alone. -/
def execXor (sp : Bool) (rd : BitVec 5) (ra : BitVec 5) (rb : BitVec 5) (s : State) : Result :=
  issue (.xor sp rd ra rb) false sp (slotXor rd ra rb) s

/-- ANDN (R78). -/
def slotAndn (rd ra rb : BitVec 5) (pre cur : State) : Eff :=
  let a := pre.me.getG ra
  let b := pre.me.getG rb
  okG cur rd (a &&& ~~~ b)

/-- ANDN issued alone. -/
def execAndn (sp : Bool) (rd : BitVec 5) (ra : BitVec 5) (rb : BitVec 5) (s : State) : Result :=
  issue (.andn sp rd ra rb) false sp (slotAndn rd ra rb) s

/-- SLL (R78). -/
def slotSll (rd ra rb : BitVec 5) (pre cur : State) : Eff :=
  let a := pre.me.getG ra
  let b := pre.me.getG rb
  okG cur rd (a <<< bf b 0 6)

/-- SLL issued alone. -/
def execSll (sp : Bool) (rd : BitVec 5) (ra : BitVec 5) (rb : BitVec 5) (s : State) : Result :=
  issue (.sll sp rd ra rb) false sp (slotSll rd ra rb) s

/-- SRL (R78). -/
def slotSrl (rd ra rb : BitVec 5) (pre cur : State) : Eff :=
  let a := pre.me.getG ra
  let b := pre.me.getG rb
  okG cur rd (a >>> bf b 0 6)

/-- SRL issued alone. -/
def execSrl (sp : Bool) (rd : BitVec 5) (ra : BitVec 5) (rb : BitVec 5) (s : State) : Result :=
  issue (.srl sp rd ra rb) false sp (slotSrl rd ra rb) s

/-- SRA (R78). -/
def slotSra (rd ra rb : BitVec 5) (pre cur : State) : Eff :=
  let a := pre.me.getG ra
  let b := pre.me.getG rb
  okG cur rd (a.sshiftRight (bf b 0 6))

/-- SRA issued alone. -/
def execSra (sp : Bool) (rd : BitVec 5) (ra : BitVec 5) (rb : BitVec 5) (s : State) : Result :=
  issue (.sra sp rd ra rb) false sp (slotSra rd ra rb) s

/-- SLT (R78). -/
def slotSlt (rd ra rb : BitVec 5) (pre cur : State) : Eff :=
  let a := pre.me.getG ra
  let b := pre.me.getG rb
  okG cur rd (flagWord (a.slt b))

/-- SLT issued alone. -/
def execSlt (sp : Bool) (rd : BitVec 5) (ra : BitVec 5) (rb : BitVec 5) (s : State) : Result :=
  issue (.slt sp rd ra rb) false sp (slotSlt rd ra rb) s

/-- SLTU (R78). -/
def slotSltu (rd ra rb : BitVec 5) (pre cur : State) : Eff :=
  let a := pre.me.getG ra
  let b := pre.me.getG rb
  okG cur rd (flagWord (a.ult b))

/-- SLTU issued alone. -/
def execSltu (sp : Bool) (rd : BitVec 5) (ra : BitVec 5) (rb : BitVec 5) (s : State) : Result :=
  issue (.sltu sp rd ra rb) false sp (slotSltu rd ra rb) s

/-- MIN (R78). -/
def slotMin (rd ra rb : BitVec 5) (pre cur : State) : Eff :=
  let a := pre.me.getG ra
  let b := pre.me.getG rb
  okG cur rd (if b.slt a then b else a)

/-- MIN issued alone. -/
def execMin (sp : Bool) (rd : BitVec 5) (ra : BitVec 5) (rb : BitVec 5) (s : State) : Result :=
  issue (.min sp rd ra rb) false sp (slotMin rd ra rb) s

/-- MAX (R78). -/
def slotMax (rd ra rb : BitVec 5) (pre cur : State) : Eff :=
  let a := pre.me.getG ra
  let b := pre.me.getG rb
  okG cur rd (if a.slt b then b else a)

/-- MAX issued alone. -/
def execMax (sp : Bool) (rd : BitVec 5) (ra : BitVec 5) (rb : BitVec 5) (s : State) : Result :=
  issue (.max sp rd ra rb) false sp (slotMax rd ra rb) s

/-- MINU (R78). -/
def slotMinu (rd ra rb : BitVec 5) (pre cur : State) : Eff :=
  let a := pre.me.getG ra
  let b := pre.me.getG rb
  okG cur rd (if b.ult a then b else a)

/-- MINU issued alone. -/
def execMinu (sp : Bool) (rd : BitVec 5) (ra : BitVec 5) (rb : BitVec 5) (s : State) : Result :=
  issue (.minu sp rd ra rb) false sp (slotMinu rd ra rb) s

/-- MAXU (R78). -/
def slotMaxu (rd ra rb : BitVec 5) (pre cur : State) : Eff :=
  let a := pre.me.getG ra
  let b := pre.me.getG rb
  okG cur rd (if a.ult b then b else a)

/-- MAXU issued alone. -/
def execMaxu (sp : Bool) (rd : BitVec 5) (ra : BitVec 5) (rb : BitVec 5) (s : State) : Result :=
  issue (.maxu sp rd ra rb) false sp (slotMaxu rd ra rb) s

/-- MUL (R78). -/
def slotMul (rd ra rb : BitVec 5) (pre cur : State) : Eff :=
  let a := pre.me.getG ra
  let b := pre.me.getG rb
  okG cur rd (a * b)

/-- MUL issued alone. -/
def execMul (sp : Bool) (rd : BitVec 5) (ra : BitVec 5) (rb : BitVec 5) (s : State) : Result :=
  issue (.mul sp rd ra rb) false sp (slotMul rd ra rb) s

/-- MULH (R78). -/
def slotMulh (rd ra rb : BitVec 5) (pre cur : State) : Eff :=
  let a := pre.me.getG ra
  let b := pre.me.getG rb
  okG cur rd (BitVec.ofInt 64 (a.toInt * b.toInt / 2 ^ 64))

/-- MULH issued alone. -/
def execMulh (sp : Bool) (rd : BitVec 5) (ra : BitVec 5) (rb : BitVec 5) (s : State) : Result :=
  issue (.mulh sp rd ra rb) false sp (slotMulh rd ra rb) s

/-- MULHU (R78). -/
def slotMulhu (rd ra rb : BitVec 5) (pre cur : State) : Eff :=
  let a := pre.me.getG ra
  let b := pre.me.getG rb
  okG cur rd (BitVec.ofNat 64 (a.toNat * b.toNat / 2 ^ 64))

/-- MULHU issued alone. -/
def execMulhu (sp : Bool) (rd : BitVec 5) (ra : BitVec 5) (rb : BitVec 5) (s : State) : Result :=
  issue (.mulhu sp rd ra rb) false sp (slotMulhu rd ra rb) s

/-- DIV (R78). -/
def slotDiv (rd ra rb : BitVec 5) (pre cur : State) : Eff :=
  let a := pre.me.getG ra
  let b := pre.me.getG rb
  okG cur rd (divSigned a b)

/-- DIV issued alone. -/
def execDiv (sp : Bool) (rd : BitVec 5) (ra : BitVec 5) (rb : BitVec 5) (s : State) : Result :=
  issue (.div sp rd ra rb) false sp (slotDiv rd ra rb) s

/-- DIVU (R78). -/
def slotDivu (rd ra rb : BitVec 5) (pre cur : State) : Eff :=
  let a := pre.me.getG ra
  let b := pre.me.getG rb
  okG cur rd (divUnsigned a b)

/-- DIVU issued alone. -/
def execDivu (sp : Bool) (rd : BitVec 5) (ra : BitVec 5) (rb : BitVec 5) (s : State) : Result :=
  issue (.divu sp rd ra rb) false sp (slotDivu rd ra rb) s

/-- REM (R78). -/
def slotRem (rd ra rb : BitVec 5) (pre cur : State) : Eff :=
  let a := pre.me.getG ra
  let b := pre.me.getG rb
  okG cur rd (remSigned a b)

/-- REM issued alone. -/
def execRem (sp : Bool) (rd : BitVec 5) (ra : BitVec 5) (rb : BitVec 5) (s : State) : Result :=
  issue (.rem sp rd ra rb) false sp (slotRem rd ra rb) s

/-- REMU (R78). -/
def slotRemu (rd ra rb : BitVec 5) (pre cur : State) : Eff :=
  let a := pre.me.getG ra
  let b := pre.me.getG rb
  okG cur rd (remUnsigned a b)

/-- REMU issued alone. -/
def execRemu (sp : Bool) (rd : BitVec 5) (ra : BitVec 5) (rb : BitVec 5) (s : State) : Result :=
  issue (.remu sp rd ra rb) false sp (slotRemu rd ra rb) s

/-- CLZ (R78). -/
def slotClz (rd ra : BitVec 5) (pre cur : State) : Eff :=
  let a := pre.me.getG ra
  okG cur rd (word (leadingZeros a))

/-- CLZ issued alone. -/
def execClz (sp : Bool) (rd : BitVec 5) (ra : BitVec 5) (s : State) : Result :=
  issue (.clz sp rd ra) false sp (slotClz rd ra) s

/-- CTZ (R78). -/
def slotCtz (rd ra : BitVec 5) (pre cur : State) : Eff :=
  let a := pre.me.getG ra
  okG cur rd (word (lowestSet a))

/-- CTZ issued alone. -/
def execCtz (sp : Bool) (rd : BitVec 5) (ra : BitVec 5) (s : State) : Result :=
  issue (.ctz sp rd ra) false sp (slotCtz rd ra) s

/-- POPC (R78). -/
def slotPopc (rd ra : BitVec 5) (pre cur : State) : Eff :=
  let a := pre.me.getG ra
  okG cur rd (word (popcount a))

/-- POPC issued alone. -/
def execPopc (sp : Bool) (rd : BitVec 5) (ra : BitVec 5) (s : State) : Result :=
  issue (.popc sp rd ra) false sp (slotPopc rd ra) s

/-- SEL (R78): it also reads g[rd]. -/
def slotSel (rd ra rb : BitVec 5) (pre cur : State) : Eff :=
  okG cur rd (if pre.me.getG rd != 0 then pre.me.getG ra else pre.me.getG rb)

/-- SEL issued alone. -/
def execSel (sp : Bool) (rd : BitVec 5) (ra : BitVec 5) (rb : BitVec 5) (s : State) : Result :=
  issue (.sel sp rd ra rb) false sp (slotSel rd ra rb) s

/-- ADDI (R79). -/
def slotAddi (rd ra : BitVec 5) (imm : Imm 14) (pre cur : State) : Eff :=
  let a := pre.me.getG ra
  let i := immWord imm
  okG cur rd (a + i)

/-- ADDI issued alone. -/
def execAddi (sp : Bool) (rd : BitVec 5) (ra : BitVec 5) (imm : Imm 14) (s : State) : Result :=
  issue (.addi sp rd ra imm) false sp (slotAddi rd ra imm) s

/-- ANDI (R79). -/
def slotAndi (rd ra : BitVec 5) (imm : Imm 14) (pre cur : State) : Eff :=
  let a := pre.me.getG ra
  let i := immWord imm
  okG cur rd (a &&& i)

/-- ANDI issued alone. -/
def execAndi (sp : Bool) (rd : BitVec 5) (ra : BitVec 5) (imm : Imm 14) (s : State) : Result :=
  issue (.andi sp rd ra imm) false sp (slotAndi rd ra imm) s

/-- ORI (R79). -/
def slotOri (rd ra : BitVec 5) (imm : Imm 14) (pre cur : State) : Eff :=
  let a := pre.me.getG ra
  let i := immWord imm
  okG cur rd (a ||| i)

/-- ORI issued alone. -/
def execOri (sp : Bool) (rd : BitVec 5) (ra : BitVec 5) (imm : Imm 14) (s : State) : Result :=
  issue (.ori sp rd ra imm) false sp (slotOri rd ra imm) s

/-- XORI (R79). -/
def slotXori (rd ra : BitVec 5) (imm : Imm 14) (pre cur : State) : Eff :=
  let a := pre.me.getG ra
  let i := immWord imm
  okG cur rd (a ^^^ i)

/-- XORI issued alone. -/
def execXori (sp : Bool) (rd : BitVec 5) (ra : BitVec 5) (imm : Imm 14) (s : State) : Result :=
  issue (.xori sp rd ra imm) false sp (slotXori rd ra imm) s

/-- SLTI (R79). -/
def slotSlti (rd ra : BitVec 5) (imm : Imm 14) (pre cur : State) : Eff :=
  let a := pre.me.getG ra
  let i := immWord imm
  okG cur rd (flagWord (a.slt i))

/-- SLTI issued alone. -/
def execSlti (sp : Bool) (rd : BitVec 5) (ra : BitVec 5) (imm : Imm 14) (s : State) : Result :=
  issue (.slti sp rd ra imm) false sp (slotSlti rd ra imm) s

/-- SLTIU (R79). -/
def slotSltiu (rd ra : BitVec 5) (imm : Imm 14) (pre cur : State) : Eff :=
  let a := pre.me.getG ra
  let i := immWord imm
  okG cur rd (flagWord (a.ult i))

/-- SLTIU issued alone. -/
def execSltiu (sp : Bool) (rd : BitVec 5) (ra : BitVec 5) (imm : Imm 14) (s : State) : Result :=
  issue (.sltiu sp rd ra imm) false sp (slotSltiu rd ra imm) s

/-- SLLI (R79). -/
def slotSlli (rd ra : BitVec 5) (sh : BitVec 6) (pre cur : State) : Eff :=
  let a := pre.me.getG ra
  okG cur rd (a <<< sh.toNat)

/-- SLLI issued alone. -/
def execSlli (sp : Bool) (rd : BitVec 5) (ra : BitVec 5) (sh : BitVec 6) (s : State) : Result :=
  issue (.slli sp rd ra sh) false sp (slotSlli rd ra sh) s

/-- SRLI (R79). -/
def slotSrli (rd ra : BitVec 5) (sh : BitVec 6) (pre cur : State) : Eff :=
  let a := pre.me.getG ra
  okG cur rd (a >>> sh.toNat)

/-- SRLI issued alone. -/
def execSrli (sp : Bool) (rd : BitVec 5) (ra : BitVec 5) (sh : BitVec 6) (s : State) : Result :=
  issue (.srli sp rd ra sh) false sp (slotSrli rd ra sh) s

/-- SRAI (R79). -/
def slotSrai (rd ra : BitVec 5) (sh : BitVec 6) (pre cur : State) : Eff :=
  let a := pre.me.getG ra
  okG cur rd (a.sshiftRight sh.toNat)

/-- SRAI issued alone. -/
def execSrai (sp : Bool) (rd : BitVec 5) (ra : BitVec 5) (sh : BitVec 6) (s : State) : Result :=
  issue (.srai sp rd ra sh) false sp (slotSrai rd ra sh) s

/-- LUI (R79): the low 32 bits of the immediate, or the literal, above the low 32 bits of g[ra]. -/
def slotLui (rd ra : BitVec 5) (imm : Imm 14) (pre cur : State) : Eff :=
  okG cur rd ((immWord imm <<< 32) ||| zext ((pre.me.getG ra).setWidth 32))

/-- LUI issued alone. -/
def execLui (sp : Bool) (rd : BitVec 5) (ra : BitVec 5) (imm : Imm 14) (s : State) : Result :=
  issue (.lui sp rd ra imm) false sp (slotLui rd ra imm) s

/-- LI (R79): the literal, sign-extended. -/
def slotLi (rd : BitVec 5) (lit : BitVec 32) (_pre cur : State) : Eff := okG cur rd (sext lit)

/-- LI issued alone. -/
def execLi (sp : Bool) (rd : BitVec 5) (lit : BitVec 32) (s : State) : Result :=
  issue (.li sp rd lit) false sp (slotLi rd lit) s

/-- LEA (R80). -/
def slotLea (rd ra rb : BitVec 5) (scale : BitVec 2) (disp : BitVec 7) (pre cur : State) : Eff :=
  okG cur rd (pre.me.getG ra + (pre.me.getG rb <<< scale.toNat) + sext disp)

/-- LEA issued alone. -/
def execLea (sp : Bool) (rd : BitVec 5) (ra : BitVec 5) (rb : BitVec 5) (scale : BitVec 2) (disp : BitVec 7) (s : State) : Result :=
  issue (.lea sp rd ra rb scale disp) false sp (slotLea rd ra rb scale disp) s

end Sys2Proof.Machine
end

