-- ==== Sys2Proof/Machine/Dispatch.lean ====
section
/-! DEFINITION. One arm per instruction: what each does to the state (the meanings stand in the files of the families). -/

namespace Sys2Proof.Machine

def exec (i : Instr) (s : State) : Host.Outcome State Fault Refusal :=
  match i with
  | .nopc => Sys2Proof.Machine.execNopc s
  | .add sp rd ra rb => Sys2Proof.Machine.execAdd sp rd ra rb s
  | .sub sp rd ra rb => Sys2Proof.Machine.execSub sp rd ra rb s
  | .and sp rd ra rb => Sys2Proof.Machine.execAnd sp rd ra rb s
  | .or sp rd ra rb => Sys2Proof.Machine.execOr sp rd ra rb s
  | .xor sp rd ra rb => Sys2Proof.Machine.execXor sp rd ra rb s
  | .andn sp rd ra rb => Sys2Proof.Machine.execAndn sp rd ra rb s
  | .sll sp rd ra rb => Sys2Proof.Machine.execSll sp rd ra rb s
  | .srl sp rd ra rb => Sys2Proof.Machine.execSrl sp rd ra rb s
  | .sra sp rd ra rb => Sys2Proof.Machine.execSra sp rd ra rb s
  | .slt sp rd ra rb => Sys2Proof.Machine.execSlt sp rd ra rb s
  | .sltu sp rd ra rb => Sys2Proof.Machine.execSltu sp rd ra rb s
  | .min sp rd ra rb => Sys2Proof.Machine.execMin sp rd ra rb s
  | .max sp rd ra rb => Sys2Proof.Machine.execMax sp rd ra rb s
  | .minu sp rd ra rb => Sys2Proof.Machine.execMinu sp rd ra rb s
  | .maxu sp rd ra rb => Sys2Proof.Machine.execMaxu sp rd ra rb s
  | .mul sp rd ra rb => Sys2Proof.Machine.execMul sp rd ra rb s
  | .mulh sp rd ra rb => Sys2Proof.Machine.execMulh sp rd ra rb s
  | .mulhu sp rd ra rb => Sys2Proof.Machine.execMulhu sp rd ra rb s
  | .div sp rd ra rb => Sys2Proof.Machine.execDiv sp rd ra rb s
  | .divu sp rd ra rb => Sys2Proof.Machine.execDivu sp rd ra rb s
  | .rem sp rd ra rb => Sys2Proof.Machine.execRem sp rd ra rb s
  | .remu sp rd ra rb => Sys2Proof.Machine.execRemu sp rd ra rb s
  | .clz sp rd ra => Sys2Proof.Machine.execClz sp rd ra s
  | .ctz sp rd ra => Sys2Proof.Machine.execCtz sp rd ra s
  | .popc sp rd ra => Sys2Proof.Machine.execPopc sp rd ra s
  | .sel sp rd ra rb => Sys2Proof.Machine.execSel sp rd ra rb s
  | .addi sp rd ra imm => Sys2Proof.Machine.execAddi sp rd ra imm s
  | .andi sp rd ra imm => Sys2Proof.Machine.execAndi sp rd ra imm s
  | .ori sp rd ra imm => Sys2Proof.Machine.execOri sp rd ra imm s
  | .xori sp rd ra imm => Sys2Proof.Machine.execXori sp rd ra imm s
  | .slti sp rd ra imm => Sys2Proof.Machine.execSlti sp rd ra imm s
  | .sltiu sp rd ra imm => Sys2Proof.Machine.execSltiu sp rd ra imm s
  | .slli sp rd ra sh => Sys2Proof.Machine.execSlli sp rd ra sh s
  | .srli sp rd ra sh => Sys2Proof.Machine.execSrli sp rd ra sh s
  | .srai sp rd ra sh => Sys2Proof.Machine.execSrai sp rd ra sh s
  | .lui sp rd ra imm => Sys2Proof.Machine.execLui sp rd ra imm s
  | .li sp rd lit => Sys2Proof.Machine.execLi sp rd lit s
  | .lea sp rd ra rb scale disp => Sys2Proof.Machine.execLea sp rd ra rb scale disp s
  | .beq sp ra rb off => Sys2Proof.Machine.execBeq sp ra rb off s
  | .bne sp ra rb off => Sys2Proof.Machine.execBne sp ra rb off s
  | .blt sp ra rb off => Sys2Proof.Machine.execBlt sp ra rb off s
  | .bge sp ra rb off => Sys2Proof.Machine.execBge sp ra rb off s
  | .bltu sp ra rb off => Sys2Proof.Machine.execBltu sp ra rb off s
  | .bgeu sp ra rb off => Sys2Proof.Machine.execBgeu sp ra rb off s
  | .jal sp rd off => Sys2Proof.Machine.execJal sp rd off s
  | .jalr sp rd ra imm => Sys2Proof.Machine.execJalr sp rd ra imm s
  | .loop sp ra off => Sys2Proof.Machine.execLoop sp ra off s
  | .fork sp ctr n off => Sys2Proof.Machine.execFork sp ctr n off s
  | .ldb sp rd base ord imm => Sys2Proof.Machine.execLdb sp rd base ord imm s
  | .ldbu sp rd base ord imm => Sys2Proof.Machine.execLdbu sp rd base ord imm s
  | .ldh sp rd base ord imm => Sys2Proof.Machine.execLdh sp rd base ord imm s
  | .ldhu sp rd base ord imm => Sys2Proof.Machine.execLdhu sp rd base ord imm s
  | .ldw sp rd base ord imm => Sys2Proof.Machine.execLdw sp rd base ord imm s
  | .ldwu sp rd base ord imm => Sys2Proof.Machine.execLdwu sp rd base ord imm s
  | .ldd sp rd base ord imm => Sys2Proof.Machine.execLdd sp rd base ord imm s
  | .stb sp rd base ord imm => Sys2Proof.Machine.execStb sp rd base ord imm s
  | .sth sp rd base ord imm => Sys2Proof.Machine.execSth sp rd base ord imm s
  | .stw sp rd base ord imm => Sys2Proof.Machine.execStw sp rd base ord imm s
  | .std sp rd base ord imm => Sys2Proof.Machine.execStd sp rd base ord imm s
  | .stref sp rd base ord imm => Sys2Proof.Machine.execStref sp rd base ord imm s
  | .ldt sp rd base ord imm => Sys2Proof.Machine.execLdt sp rd base ord imm s
  | .vld sp vd base ord len mk disp => Sys2Proof.Machine.execVld sp vd base ord len mk disp s
  | .vst sp vd base ord len mk disp => Sys2Proof.Machine.execVst sp vd base ord len mk disp s
  | .vldx sp vd base ord vi e8 mk disp => Sys2Proof.Machine.execVldx sp vd base ord vi e8 mk disp s
  | .vstx sp vd base ord vi e8 mk disp => Sys2Proof.Machine.execVstx sp vd base ord vi e8 mk disp s
  | .amoadd sp rd ra rb ord w => Sys2Proof.Machine.execAmoadd sp rd ra rb ord w s
  | .amoand sp rd ra rb ord w => Sys2Proof.Machine.execAmoand sp rd ra rb ord w s
  | .amoor sp rd ra rb ord w => Sys2Proof.Machine.execAmoor sp rd ra rb ord w s
  | .amoxor sp rd ra rb ord w => Sys2Proof.Machine.execAmoxor sp rd ra rb ord w s
  | .amomin sp rd ra rb ord w => Sys2Proof.Machine.execAmomin sp rd ra rb ord w s
  | .amomax sp rd ra rb ord w => Sys2Proof.Machine.execAmomax sp rd ra rb ord w s
  | .amominu sp rd ra rb ord w => Sys2Proof.Machine.execAmominu sp rd ra rb ord w s
  | .amomaxu sp rd ra rb ord w => Sys2Proof.Machine.execAmomaxu sp rd ra rb ord w s
  | .amoswap sp rd ra rb ord w => Sys2Proof.Machine.execAmoswap sp rd ra rb ord w s
  | .amocas sp rd ra rb ord w => Sys2Proof.Machine.execAmocas sp rd ra rb ord w s
  | .amofadd sp rd ra rb ord => Sys2Proof.Machine.execAmofadd sp rd ra rb ord s
  | .amofaddv sp vd base ord len mk disp => Sys2Proof.Machine.execAmofaddv sp vd base ord len mk disp s
  | .fence sp rd ord => Sys2Proof.Machine.execFence sp rd ord s
  | .pub sp rd ra scope => Sys2Proof.Machine.execPub sp rd ra scope s
  | .pref sp ra lvl rb => Sys2Proof.Machine.execPref sp ra lvl rb s
  | .resq sp rd ra lvl rb => Sys2Proof.Machine.execResq sp rd ra lvl rb s
  | .cln sp ra ord rb => Sys2Proof.Machine.execCln sp ra ord rb s
  | .inv sp ra ord rb => Sys2Proof.Machine.execInv sp ra ord rb s
  | .setc sp ra ctr => Sys2Proof.Machine.execSetc sp ra ctr s
  | .decc sp ra ctr => Sys2Proof.Machine.execDecc sp ra ctr s
  | .getc sp rd ctr => Sys2Proof.Machine.execGetc sp rd ctr s
  | .waitc sp rd ctr => Sys2Proof.Machine.execWaitc sp rd ctr s
  | .bindc sp rd ra ctr => Sys2Proof.Machine.execBindc sp rd ra ctr s
  | .exit sp => Sys2Proof.Machine.execExit sp s
  | .yield sp => Sys2Proof.Machine.execYield sp s
  | .launch sp rd ra => Sys2Proof.Machine.execLaunch sp rd ra s
  | .cancel sp rd ra op => Sys2Proof.Machine.execCancel sp rd ra op s
  | .bar sp ra bar => Sys2Proof.Machine.execBar sp ra bar s
  | .send sp ra rb vp => Sys2Proof.Machine.execSend sp ra rb vp s
  | .sendx sp rp ra rb => Sys2Proof.Machine.execSendx sp rp ra rb s
  | .qstat sp rd q => Sys2Proof.Machine.execQstat sp rd q s
  | .qresv sp rd ra rb => Sys2Proof.Machine.execQresv sp rd ra rb s
  | .enq sp rd ra rb eng => Sys2Proof.Machine.execEnq sp rd ra rb eng s
  | .jobq sp rd ra => Sys2Proof.Machine.execJobq sp rd ra s
  | .jobw sp rd ra => Sys2Proof.Machine.execJobw sp rd ra s
  | .glean sp rd ra => Sys2Proof.Machine.execGlean sp rd ra s
  | .gstat sp rd ra op => Sys2Proof.Machine.execGstat sp rd ra op s
  | .ydecl sp rd ra => Sys2Proof.Machine.execYdecl sp rd ra s
  | .plbinv sp rd ra rb f => Sys2Proof.Machine.execPlbinv sp rd ra rb f s
  | .htw sp rd ra rb => Sys2Proof.Machine.execHtw sp rd ra rb s
  | .wmap sp rd ra rb n => Sys2Proof.Machine.execWmap sp rd ra rb n s
  | .wunmap sp rd rb n => Sys2Proof.Machine.execWunmap sp rd rb n s
  | .cbld sp ra bank => Sys2Proof.Machine.execCbld sp ra bank s
  | .syr sp rd num => Sys2Proof.Machine.execSyr sp rd num s
  | .syw sp ra num => Sys2Proof.Machine.execSyw sp ra num s
  | .trap sp ra code => Sys2Proof.Machine.execTrap sp ra code s
  | .brk sp code => Sys2Proof.Machine.execBrk sp code s
  | .waite sp rd ra event => Sys2Proof.Machine.execWaite sp rd ra event s
  | .resume sp rd ra action => Sys2Proof.Machine.execResume sp rd ra action s
  | .nopa => Sys2Proof.Machine.execNopa s
  | .vadd vd va vb ty rm => Sys2Proof.Machine.execVadd vd va vb ty rm s
  | .vsub vd va vb ty rm => Sys2Proof.Machine.execVsub vd va vb ty rm s
  | .vmul vd va vb ty rm => Sys2Proof.Machine.execVmul vd va vb ty rm s
  | .vfma vd va vb ty rm => Sys2Proof.Machine.execVfma vd va vb ty rm s
  | .vfms vd va vb ty rm => Sys2Proof.Machine.execVfms vd va vb ty rm s
  | .vfnma vd va vb ty rm => Sys2Proof.Machine.execVfnma vd va vb ty rm s
  | .vmin vd va vb ty => Sys2Proof.Machine.execVmin vd va vb ty s
  | .vmax vd va vb ty => Sys2Proof.Machine.execVmax vd va vb ty s
  | .vabs vd va ty => Sys2Proof.Machine.execVabs vd va ty s
  | .vneg vd va ty => Sys2Proof.Machine.execVneg vd va ty s
  | .vrcp vd va ty rm => Sys2Proof.Machine.execVrcp vd va ty rm s
  | .vrsq vd va ty rm => Sys2Proof.Machine.execVrsq vd va ty rm s
  | .vexp2 vd va ty rm => Sys2Proof.Machine.execVexp2 vd va ty rm s
  | .vlog2 vd va ty rm => Sys2Proof.Machine.execVlog2 vd va ty rm s
  | .viadd vd va vb ty => Sys2Proof.Machine.execViadd vd va vb ty s
  | .visub vd va vb ty => Sys2Proof.Machine.execVisub vd va vb ty s
  | .vimul vd va vb ty => Sys2Proof.Machine.execVimul vd va vb ty s
  | .vimulh vd va vb ty => Sys2Proof.Machine.execVimulh vd va vb ty s
  | .vand vd va vb ty => Sys2Proof.Machine.execVand vd va vb ty s
  | .vor vd va vb ty => Sys2Proof.Machine.execVor vd va vb ty s
  | .vxor vd va vb ty => Sys2Proof.Machine.execVxor vd va vb ty s
  | .vshl vd va vb ty => Sys2Proof.Machine.execVshl vd va vb ty s
  | .vshr vd va vb ty => Sys2Proof.Machine.execVshr vd va vb ty s
  | .vsra vd va vb ty => Sys2Proof.Machine.execVsra vd va vb ty s
  | .vimin vd va vb ty => Sys2Proof.Machine.execVimin vd va vb ty s
  | .vimax vd va vb ty => Sys2Proof.Machine.execVimax vd va vb ty s
  | .vfcmp vd va vb ty cond => Sys2Proof.Machine.execVfcmp vd va vb ty cond s
  | .vicmp vd va vb ty cond => Sys2Proof.Machine.execVicmp vd va vb ty cond s
  | .vsel vd va vb ty mk => Sys2Proof.Machine.execVsel vd va vb ty mk s
  | .mand vd va vb => Sys2Proof.Machine.execMand vd va vb s
  | .mor vd va vb => Sys2Proof.Machine.execMor vd va vb s
  | .mxor vd va vb => Sys2Proof.Machine.execMxor vd va vb s
  | .mnot vd va => Sys2Proof.Machine.execMnot vd va s
  | .mpop vd va => Sys2Proof.Machine.execMpop vd va s
  | .mfirst vd va => Sys2Proof.Machine.execMfirst vd va s
  | .vbcast vd va k ty => Sys2Proof.Machine.execVbcast vd va k ty s
  | .vextr vd va k ty => Sys2Proof.Machine.execVextr vd va k ty s
  | .vins vd va k ty => Sys2Proof.Machine.execVins vd va k ty s
  | .vperm vd va vb ty => Sys2Proof.Machine.execVperm vd va vb ty s
  | .vrot vd va k ty => Sys2Proof.Machine.execVrot vd va k ty s
  | .vslide vd va k ty => Sys2Proof.Machine.execVslide vd va k ty s
  | .vzip vd va vb ty h => Sys2Proof.Machine.execVzip vd va vb ty h s
  | .vunzip vd va vb ty h => Sys2Proof.Machine.execVunzip vd va vb ty h s
  | .vrsum vd va ty rm => Sys2Proof.Machine.execVrsum vd va ty rm s
  | .vrmax vd va ty => Sys2Proof.Machine.execVrmax vd va ty s
  | .vrmin vd va ty => Sys2Proof.Machine.execVrmin vd va ty s
  | .virsum vd va ty => Sys2Proof.Machine.execVirsum vd va ty s
  | .vdot4 vd va vb ty rm => Sys2Proof.Machine.execVdot4 vd va vb ty rm s
  | .vdot2 vd va vb ty rm => Sys2Proof.Machine.execVdot2 vd va vb ty rm s
  | .vcvt vd va part src ty rm => Sys2Proof.Machine.execVcvt vd va part src ty rm s
  | .vpack vd va vb ty => Sys2Proof.Machine.execVpack vd va vb ty s
  | .vunpack vd va part ty => Sys2Proof.Machine.execVunpack vd va part ty s
  | .vqnt vd va gs ty rm => Sys2Proof.Machine.execVqnt vd va gs ty rm s
  | .vpopx vd va vb => Sys2Proof.Machine.execVpopx vd va vb s
  | .vcompr vd va vb ty => Sys2Proof.Machine.execVcompr vd va vb ty s
  | .vexpnd vd va vb ty => Sys2Proof.Machine.execVexpnd vd va vb ty s
  | .vcbd vd va bank start ty => Sys2Proof.Machine.execVcbd vd va bank start ty s
  | .mmaE4e4 acc ga latch stride => Sys2Proof.Machine.execMmaE4e4 acc ga latch stride s
  | .mmaE4e5 acc ga latch stride => Sys2Proof.Machine.execMmaE4e5 acc ga latch stride s
  | .mmaE5e4 acc ga latch stride => Sys2Proof.Machine.execMmaE5e4 acc ga latch stride s
  | .mmaE5e5 acc ga latch stride => Sys2Proof.Machine.execMmaE5e5 acc ga latch stride s
  | .mmaBf16 acc ga latch stride => Sys2Proof.Machine.execMmaBf16 acc ga latch stride s
  | .mmaF16 acc ga latch stride => Sys2Proof.Machine.execMmaF16 acc ga latch stride s
  | .mmaE3m2 acc ga latch stride => Sys2Proof.Machine.execMmaE3m2 acc ga latch stride s
  | .mmaE2m3 acc ga latch stride => Sys2Proof.Machine.execMmaE2m3 acc ga latch stride s
  | .mmaE2m1 acc ga latch stride => Sys2Proof.Machine.execMmaE2m1 acc ga latch stride s
  | .mmaCb2e4 acc ga latch bank stride => Sys2Proof.Machine.execMmaCb2e4 acc ga latch bank stride s
  | .mmaS8 acc ga latch stride => Sys2Proof.Machine.execMmaS8 acc ga latch stride s
  | .mmaCb2bf acc ga latch bank stride => Sys2Proof.Machine.execMmaCb2bf acc ga latch bank stride s
  | .mzero acc => Sys2Proof.Machine.execMzero acc s
  | .mst acc ga ty rm => Sys2Proof.Machine.execMst acc ga ty rm s
  | .mld acc ga ty => Sys2Proof.Machine.execMld acc ga ty s
  | .bldMemory ga latch => Sys2Proof.Machine.execBldMemory ga latch s
  | .bldQueue q latch => Sys2Proof.Machine.execBldQueue q latch s
  | .bpass latch => Sys2Proof.Machine.execBpass latch s
  | .bwait latch => Sys2Proof.Machine.execBwait latch s
  | .machineCheck h => Sys2Proof.Machine.execMachineCheck h s
  | .scrubWord c => Sys2Proof.Machine.execScrubWord c s
  | .mmaComplete c => Sys2Proof.Machine.execMmaComplete c s
  | .seamHandoffBegin c l => Sys2Proof.Machine.execSeamHandoffBegin c l s
  | .seamArrivalLanded c l => Sys2Proof.Machine.execSeamArrivalLanded c l s
  | .ballastMma c => Sys2Proof.Machine.execBallastMma c s
  | .pageWalkComplete c => Sys2Proof.Machine.execPageWalkComplete c s
  | .fillArrives c => Sys2Proof.Machine.execFillArrives c s
  | .idleCoalesce c st => Sys2Proof.Machine.execIdleCoalesce c st s
  | .homeStore h => Sys2Proof.Machine.execHomeStore h s
  | .homeFill h => Sys2Proof.Machine.execHomeFill h s
  | .homeWriteback h => Sys2Proof.Machine.execHomeWriteback h s
  | .farAtomic h => Sys2Proof.Machine.execFarAtomic h s
  | .amoGroupTimeout h => Sys2Proof.Machine.execAmoGroupTimeout h s
  | .invalidate k => Sys2Proof.Machine.execInvalidate k s
  | .remoteInvalidate dev region lo hi => Sys2Proof.Machine.execRemoteInvalidate dev region lo hi s
  | .invalidateAck h => Sys2Proof.Machine.execInvalidateAck h s
  | .invalidateTimeout h party => Sys2Proof.Machine.execInvalidateTimeout h party s
  | .ackReceived h => Sys2Proof.Machine.execAckReceived h s
  | .egressCombineTimeout k => Sys2Proof.Machine.execEgressCombineTimeout k s
  | .boltStore k => Sys2Proof.Machine.execBoltStore k s
  | .boltRead k => Sys2Proof.Machine.execBoltRead k s
  | .forwardedWindowAccess c => Sys2Proof.Machine.execForwardedWindowAccess c s
  | .wunmapDrainComplete c n => Sys2Proof.Machine.execWunmapDrainComplete c n s
  | .sowerWalkStep k => Sys2Proof.Machine.execSowerWalkStep k s
  | .publicationNotice k => Sys2Proof.Machine.execPublicationNotice k s
  | .pubComplete h => Sys2Proof.Machine.execPubComplete h s
  | .messageArrival c => Sys2Proof.Machine.execMessageArrival c s
  | .channelPacketArrival c => Sys2Proof.Machine.execChannelPacketArrival c s
  | .countModeArrival c => Sys2Proof.Machine.execCountModeArrival c s
  | .taskDispatch h => Sys2Proof.Machine.execTaskDispatch h s
  | .dequeAgeing c => Sys2Proof.Machine.execDequeAgeing c s
  | .drillCycle d => Sys2Proof.Machine.execDrillCycle d s
  | .preemptionRequest h dest => Sys2Proof.Machine.execPreemptionRequest h dest s
  | .forcedSave h => Sys2Proof.Machine.execForcedSave h s
  | .registerContextArrival c => Sys2Proof.Machine.execRegisterContextArrival c s
  | .loadReplyForwarded c => Sys2Proof.Machine.execLoadReplyForwarded c s
  | .copy e => Sys2Proof.Machine.execCopy e s
  | .copyChunk e => Sys2Proof.Machine.execCopyChunk e s
  | .allReduce e others => Sys2Proof.Machine.execAllReduce e others s
  | .reduceScatter e others => Sys2Proof.Machine.execReduceScatter e others s
  | .allGather e others => Sys2Proof.Machine.execAllGather e others s
  | .broadcast e others => Sys2Proof.Machine.execBroadcast e others s
  | .mediaDecode e => Sys2Proof.Machine.execMediaDecode e s
  | .jobComplete e => Sys2Proof.Machine.execJobComplete e s
  | .gleanerVisit k slot => Sys2Proof.Machine.execGleanerVisit k slot s
  | .gleanerPassStart k slot => Sys2Proof.Machine.execGleanerPassStart k slot s
  | .rampSlotBoundary => Sys2Proof.Machine.execRampSlotBoundary s
  | .waiteDeadline h => Sys2Proof.Machine.execWaiteDeadline h s
  | .hostWrite path off data => Sys2Proof.Machine.execHostWrite path off data s
  | .hostRead path off len => Sys2Proof.Machine.execHostRead path off len s
  | .doorbellWrite size value => Sys2Proof.Machine.execDoorbellWrite size value s
  | .ownerCas m expected new => Sys2Proof.Machine.execOwnerCas m expected new s
  | .hostLaunch m p value => Sys2Proof.Machine.execHostLaunch m p value s
  | .hostResume m handle action => Sys2Proof.Machine.execHostResume m handle action s
  | .trapAcknowledge m p => Sys2Proof.Machine.execTrapAcknowledge m p s
  | .hostTrapDelivery c => Sys2Proof.Machine.execHostTrapDelivery c s
  | .partitionWrite m p w0 w1 w2 w3 => Sys2Proof.Machine.execPartitionWrite m p w0 w1 w2 w3 s
  | .samplingPulse m => Sys2Proof.Machine.execSamplingPulse m s
  | .samplingPeriod => Sys2Proof.Machine.execSamplingPeriod s
  | .debugHalt m k => Sys2Proof.Machine.execDebugHalt m k s
  | .debugRegisterWrite m h r => Sys2Proof.Machine.execDebugRegisterWrite m h r s
  | .registerWrite m off value => Sys2Proof.Machine.execRegisterWrite m off value s
  | .linkPortFailure p => Sys2Proof.Machine.execLinkPortFailure p s
  | .linkFailoverTimeout p => Sys2Proof.Machine.execLinkFailoverTimeout p s
  | .powerOn img => Sys2Proof.Machine.execPowerOn img s
  | .deviceReset => Sys2Proof.Machine.execDeviceReset s
  | .unitReady u => Sys2Proof.Machine.execUnitReady u s
  | .unitMappedOut u => Sys2Proof.Machine.execUnitMappedOut u s
  | .fatalError cause => Sys2Proof.Machine.execFatalError cause s
  | .dumpResendRequest off len => Sys2Proof.Machine.execDumpResendRequest off len s
  | .clusterResume m k => Sys2Proof.Machine.execClusterResume m k s
  | .softError t => Sys2Proof.Machine.execSoftError t s
  | .plbinvDrop p => Sys2Proof.Machine.execPlbinvDrop p s
  | .peerReadCompletion data => Sys2Proof.Machine.execPeerReadCompletion data s
  | .malformedCommand e => Sys2Proof.Machine.execMalformedCommand e s

end Sys2Proof.Machine
end

