-- ==== Sys2Proof/Decode.lean ====
section
/-! DEFINITION. Decoding a bundle's two words (R37 to R57), total and rejecting by name, and the encoder, both
written from the encodings of spec/opcode_table.json and R43 to R57. -/

namespace Sys2Proof

/-- Why a word is rejected; every one is the illegal-instruction fate of R57 or R40. -/
inductive DecodeError where
  /-- a major opcode that the maps leave free (R57) -/
  | reservedMajor
  /-- a func or op beyond the group's list (R57) -/
  | reservedFunc
  /-- a reserved field is not zero (R7, R57) -/
  | reservedField
  /-- an operand code or ord kind that the format does not allow (R54, R57) -/
  | operandCode
  /-- L = 1 on an instruction that accepts no literal (R38, R40) -/
  | literalNotAccepted
  /-- LI with L = 0 (R79) -/
  | literalMissing
  /-- L = 1 and the field that the literal replaces is not zero (R44) -/
  | literalFieldNotZero
  deriving DecidableEq, Repr

/-- The n bits of w from bit lo up. -/
def fld (w : BitVec 32) (lo n : Nat) : BitVec n := BitVec.ofNat n (w.toNat / 2 ^ lo)

/-- The immediate, displacement or offset at the low end of a C word, or the literal that replaces it (R44). -/
def immOf (w lit : BitVec 32) (n : Nat) : Except DecodeError (Imm n) :=
  if fld w 31 1 = 1 then
    if fld w 0 n = 0 then .ok (.lit lit) else .error .literalFieldNotZero
  else .ok (.field (fld w 0 n))

/-- The displacement of a CM-V or CM-X word, which only the literal gives (R25, R44). -/
def dispOf (w lit : BitVec 32) : Option (BitVec 32) := if fld w 31 1 = 1 then some lit else none

/-- C major 0x01, by its func. -/
def decodeC01 (w : BitVec 32) : Except DecodeError Instr :=
  match (fld w 0 9).toNat with
  | 0 => .ok (.add (fld w 30 1 == 1) (fld w 19 5) (fld w 14 5) (fld w 9 5))
  | 1 => .ok (.sub (fld w 30 1 == 1) (fld w 19 5) (fld w 14 5) (fld w 9 5))
  | 2 => .ok (.and (fld w 30 1 == 1) (fld w 19 5) (fld w 14 5) (fld w 9 5))
  | 3 => .ok (.or (fld w 30 1 == 1) (fld w 19 5) (fld w 14 5) (fld w 9 5))
  | 4 => .ok (.xor (fld w 30 1 == 1) (fld w 19 5) (fld w 14 5) (fld w 9 5))
  | 5 => .ok (.andn (fld w 30 1 == 1) (fld w 19 5) (fld w 14 5) (fld w 9 5))
  | 6 => .ok (.sll (fld w 30 1 == 1) (fld w 19 5) (fld w 14 5) (fld w 9 5))
  | 7 => .ok (.srl (fld w 30 1 == 1) (fld w 19 5) (fld w 14 5) (fld w 9 5))
  | 8 => .ok (.sra (fld w 30 1 == 1) (fld w 19 5) (fld w 14 5) (fld w 9 5))
  | 9 => .ok (.slt (fld w 30 1 == 1) (fld w 19 5) (fld w 14 5) (fld w 9 5))
  | 10 => .ok (.sltu (fld w 30 1 == 1) (fld w 19 5) (fld w 14 5) (fld w 9 5))
  | 11 => .ok (.min (fld w 30 1 == 1) (fld w 19 5) (fld w 14 5) (fld w 9 5))
  | 12 => .ok (.max (fld w 30 1 == 1) (fld w 19 5) (fld w 14 5) (fld w 9 5))
  | 13 => .ok (.minu (fld w 30 1 == 1) (fld w 19 5) (fld w 14 5) (fld w 9 5))
  | 14 => .ok (.maxu (fld w 30 1 == 1) (fld w 19 5) (fld w 14 5) (fld w 9 5))
  | 15 => .ok (.mul (fld w 30 1 == 1) (fld w 19 5) (fld w 14 5) (fld w 9 5))
  | 16 => .ok (.mulh (fld w 30 1 == 1) (fld w 19 5) (fld w 14 5) (fld w 9 5))
  | 17 => .ok (.mulhu (fld w 30 1 == 1) (fld w 19 5) (fld w 14 5) (fld w 9 5))
  | 18 => .ok (.div (fld w 30 1 == 1) (fld w 19 5) (fld w 14 5) (fld w 9 5))
  | 19 => .ok (.divu (fld w 30 1 == 1) (fld w 19 5) (fld w 14 5) (fld w 9 5))
  | 20 => .ok (.rem (fld w 30 1 == 1) (fld w 19 5) (fld w 14 5) (fld w 9 5))
  | 21 => .ok (.remu (fld w 30 1 == 1) (fld w 19 5) (fld w 14 5) (fld w 9 5))
  | 22 => if fld w 9 5 = 0 then .ok (.clz (fld w 30 1 == 1) (fld w 19 5) (fld w 14 5)) else .error .reservedField
  | 23 => if fld w 9 5 = 0 then .ok (.ctz (fld w 30 1 == 1) (fld w 19 5) (fld w 14 5)) else .error .reservedField
  | 24 => if fld w 9 5 = 0 then .ok (.popc (fld w 30 1 == 1) (fld w 19 5) (fld w 14 5)) else .error .reservedField
  | 25 => .ok (.sel (fld w 30 1 == 1) (fld w 19 5) (fld w 14 5) (fld w 9 5))
  | _ => .error .reservedFunc

/-- C major 0x31, by its op. -/
def decodeC31 (w : BitVec 32) : Except DecodeError Instr :=
  match (fld w 5 4).toNat with
  | 0 => .ok (.amoadd (fld w 30 1 == 1) (fld w 19 5) (fld w 14 5) (fld w 9 5) (fld w 1 4) (fld w 0 1))
  | 1 => .ok (.amoand (fld w 30 1 == 1) (fld w 19 5) (fld w 14 5) (fld w 9 5) (fld w 1 4) (fld w 0 1))
  | 2 => .ok (.amoor (fld w 30 1 == 1) (fld w 19 5) (fld w 14 5) (fld w 9 5) (fld w 1 4) (fld w 0 1))
  | 3 => .ok (.amoxor (fld w 30 1 == 1) (fld w 19 5) (fld w 14 5) (fld w 9 5) (fld w 1 4) (fld w 0 1))
  | 4 => .ok (.amomin (fld w 30 1 == 1) (fld w 19 5) (fld w 14 5) (fld w 9 5) (fld w 1 4) (fld w 0 1))
  | 5 => .ok (.amomax (fld w 30 1 == 1) (fld w 19 5) (fld w 14 5) (fld w 9 5) (fld w 1 4) (fld w 0 1))
  | 6 => .ok (.amominu (fld w 30 1 == 1) (fld w 19 5) (fld w 14 5) (fld w 9 5) (fld w 1 4) (fld w 0 1))
  | 7 => .ok (.amomaxu (fld w 30 1 == 1) (fld w 19 5) (fld w 14 5) (fld w 9 5) (fld w 1 4) (fld w 0 1))
  | 8 => .ok (.amoswap (fld w 30 1 == 1) (fld w 19 5) (fld w 14 5) (fld w 9 5) (fld w 1 4) (fld w 0 1))
  | 9 => .ok (.amocas (fld w 30 1 == 1) (fld w 19 5) (fld w 14 5) (fld w 9 5) (fld w 1 4) (fld w 0 1))
  | 10 => if fld w 0 1 = 0 then .ok (.amofadd (fld w 30 1 == 1) (fld w 19 5) (fld w 14 5) (fld w 9 5) (fld w 1 4)) else .error .reservedField
  | _ => .error .reservedFunc

/-- C major 0x33, by its func. -/
def decodeC33 (w : BitVec 32) : Except DecodeError Instr :=
  match (fld w 0 4).toNat with
  | 0 => if fld w 4 6 = 0 then if fld w 14 5 = 0 then .ok (.fence (fld w 30 1 == 1) (fld w 19 5) (fld w 10 4)) else .error .reservedField else .error .reservedField
  | 1 => if fld w 4 6 = 0 then if fld w 12 2 = 2 then .ok (.pub (fld w 30 1 == 1) (fld w 19 5) (fld w 14 5) (fld w 10 2)) else .error .operandCode else .error .reservedField
  | 2 => if fld w 4 1 = 0 then if fld w 19 5 = 0 then .ok (.pref (fld w 30 1 == 1) (fld w 14 5) (fld w 10 4) (fld w 5 5)) else .error .reservedField else .error .reservedField
  | 3 => if fld w 4 1 = 0 then .ok (.resq (fld w 30 1 == 1) (fld w 19 5) (fld w 14 5) (fld w 10 4) (fld w 5 5)) else .error .reservedField
  | 4 => if fld w 4 1 = 0 then if fld w 19 5 = 0 then .ok (.cln (fld w 30 1 == 1) (fld w 14 5) (fld w 10 4) (fld w 5 5)) else .error .reservedField else .error .reservedField
  | 5 => if fld w 4 1 = 0 then if fld w 19 5 = 0 then .ok (.inv (fld w 30 1 == 1) (fld w 14 5) (fld w 10 4) (fld w 5 5)) else .error .reservedField else .error .reservedField
  | _ => .error .reservedFunc

/-- C major 0x38, by its func. -/
def decodeC38 (w : BitVec 32) : Except DecodeError Instr :=
  match (fld w 0 4).toNat with
  | 0 => if fld w 4 4 = 0 then if fld w 19 5 = 0 then .ok (.setc (fld w 30 1 == 1) (fld w 14 5) (fld w 8 6)) else .error .reservedField else .error .reservedField
  | 1 => if fld w 4 4 = 0 then if fld w 19 5 = 0 then .ok (.decc (fld w 30 1 == 1) (fld w 14 5) (fld w 8 6)) else .error .reservedField else .error .reservedField
  | 2 => if fld w 4 4 = 0 then if fld w 14 5 = 0 then .ok (.getc (fld w 30 1 == 1) (fld w 19 5) (fld w 8 6)) else .error .reservedField else .error .reservedField
  | 3 => if fld w 4 4 = 0 then if fld w 14 5 = 0 then .ok (.waitc (fld w 30 1 == 1) (fld w 19 5) (fld w 8 6)) else .error .reservedField else .error .reservedField
  | 4 => if fld w 4 4 = 0 then .ok (.bindc (fld w 30 1 == 1) (fld w 19 5) (fld w 14 5) (fld w 8 6)) else .error .reservedField
  | 5 => if fld w 4 20 = 0 then .ok (.exit (fld w 30 1 == 1)) else .error .reservedField
  | 6 => if fld w 4 20 = 0 then .ok (.yield (fld w 30 1 == 1)) else .error .reservedField
  | 7 => if fld w 4 10 = 0 then .ok (.launch (fld w 30 1 == 1) (fld w 19 5) (fld w 14 5)) else .error .reservedField
  | 8 => if fld w 8 6 = 0 then .ok (.cancel (fld w 30 1 == 1) (fld w 19 5) (fld w 14 5) (fld w 4 4)) else .error .reservedField
  | 9 => if fld w 7 7 = 0 then if fld w 19 5 = 0 then .ok (.bar (fld w 30 1 == 1) (fld w 14 5) (fld w 4 3)) else .error .reservedField else .error .reservedField
  | _ => .error .reservedFunc

/-- C major 0x39, by its func. -/
def decodeC39 (w : BitVec 32) : Except DecodeError Instr :=
  match (fld w 0 4).toNat with
  | 0 => if fld w 19 5 = 0 then .ok (.send (fld w 30 1 == 1) (fld w 14 5) (fld w 9 5) (fld w 4 5)) else .error .reservedField
  | 1 => if fld w 4 5 = 0 then .ok (.sendx (fld w 30 1 == 1) (fld w 19 5) (fld w 14 5) (fld w 9 5)) else .error .reservedField
  | 2 => if fld w 9 10 = 0 then .ok (.qstat (fld w 30 1 == 1) (fld w 19 5) (fld w 4 5)) else .error .reservedField
  | 3 => if fld w 4 5 = 0 then .ok (.qresv (fld w 30 1 == 1) (fld w 19 5) (fld w 14 5) (fld w 9 5)) else .error .reservedField
  | 4 => .ok (.enq (fld w 30 1 == 1) (fld w 19 5) (fld w 14 5) (fld w 9 5) (fld w 4 5))
  | 5 => if fld w 4 10 = 0 then .ok (.jobq (fld w 30 1 == 1) (fld w 19 5) (fld w 14 5)) else .error .reservedField
  | 6 => if fld w 4 10 = 0 then .ok (.jobw (fld w 30 1 == 1) (fld w 19 5) (fld w 14 5)) else .error .reservedField
  | _ => .error .reservedFunc

/-- C major 0x3A, by its func. -/
def decodeC3A (w : BitVec 32) : Except DecodeError Instr :=
  match (fld w 0 4).toNat with
  | 0 => if fld w 4 10 = 0 then .ok (.glean (fld w 30 1 == 1) (fld w 19 5) (fld w 14 5)) else .error .reservedField
  | 1 => if fld w 9 5 = 0 then .ok (.gstat (fld w 30 1 == 1) (fld w 19 5) (fld w 14 5) (fld w 4 5)) else .error .reservedField
  | 2 => if fld w 4 10 = 0 then .ok (.ydecl (fld w 30 1 == 1) (fld w 19 5) (fld w 14 5)) else .error .reservedField
  | _ => .error .reservedFunc

/-- C major 0x3B, by its func. -/
def decodeC3B (w : BitVec 32) : Except DecodeError Instr :=
  match (fld w 0 4).toNat with
  | 0 => .ok (.plbinv (fld w 30 1 == 1) (fld w 19 5) (fld w 14 5) (fld w 9 5) (fld w 4 5))
  | 1 => if fld w 4 5 = 0 then .ok (.htw (fld w 30 1 == 1) (fld w 19 5) (fld w 14 5) (fld w 9 5)) else .error .reservedField
  | 2 => .ok (.wmap (fld w 30 1 == 1) (fld w 19 5) (fld w 14 5) (fld w 9 5) (fld w 4 5))
  | 3 => if fld w 14 5 = 0 then .ok (.wunmap (fld w 30 1 == 1) (fld w 19 5) (fld w 9 5) (fld w 4 5)) else .error .reservedField
  | 4 => if fld w 9 5 = 0 then if fld w 19 5 = 0 then .ok (.cbld (fld w 30 1 == 1) (fld w 14 5) (fld w 4 5)) else .error .reservedField else .error .reservedField
  | _ => .error .reservedFunc

/-- C major 0x3C, by its func. -/
def decodeC3C (w : BitVec 32) : Except DecodeError Instr :=
  match (fld w 0 4).toNat with
  | 0 => if fld w 14 5 = 0 then .ok (.syr (fld w 30 1 == 1) (fld w 19 5) (fld w 4 10)) else .error .reservedField
  | 1 => if fld w 19 5 = 0 then .ok (.syw (fld w 30 1 == 1) (fld w 14 5) (fld w 4 10)) else .error .reservedField
  | 2 => if fld w 19 5 = 0 then .ok (.trap (fld w 30 1 == 1) (fld w 14 5) (fld w 4 10)) else .error .reservedField
  | 3 => if fld w 14 10 = 0 then .ok (.brk (fld w 30 1 == 1) (fld w 4 10)) else .error .reservedField
  | 4 => .ok (.waite (fld w 30 1 == 1) (fld w 19 5) (fld w 14 5) (fld w 4 10))
  | 5 => .ok (.resume (fld w 30 1 == 1) (fld w 19 5) (fld w 14 5) (fld w 4 10))
  | _ => .error .reservedFunc

/-- The C instruction of word w, whose bundle's other word is lit (R43, R55). -/
def decodeC (w lit : BitVec 32) : Except DecodeError Instr :=
  match (fld w 24 6).toNat with
  | 0x00 => if w = 0 then .ok .nopc else .error .reservedField
  | 0x01 => if fld w 31 1 = 1 then .error .literalNotAccepted else decodeC01 w
  | 0x02 => (immOf w lit 14).bind fun imm => .ok (.addi (fld w 30 1 == 1) (fld w 19 5) (fld w 14 5) imm)
  | 0x03 => (immOf w lit 14).bind fun imm => .ok (.andi (fld w 30 1 == 1) (fld w 19 5) (fld w 14 5) imm)
  | 0x04 => (immOf w lit 14).bind fun imm => .ok (.ori (fld w 30 1 == 1) (fld w 19 5) (fld w 14 5) imm)
  | 0x05 => (immOf w lit 14).bind fun imm => .ok (.xori (fld w 30 1 == 1) (fld w 19 5) (fld w 14 5) imm)
  | 0x06 => (immOf w lit 14).bind fun imm => .ok (.slti (fld w 30 1 == 1) (fld w 19 5) (fld w 14 5) imm)
  | 0x07 => (immOf w lit 14).bind fun imm => .ok (.sltiu (fld w 30 1 == 1) (fld w 19 5) (fld w 14 5) imm)
  | 0x08 => if fld w 31 1 = 1 then .error .literalNotAccepted else if fld w 6 8 = 0 then .ok (.slli (fld w 30 1 == 1) (fld w 19 5) (fld w 14 5) (fld w 0 6)) else .error .reservedField
  | 0x09 => if fld w 31 1 = 1 then .error .literalNotAccepted else if fld w 6 8 = 0 then .ok (.srli (fld w 30 1 == 1) (fld w 19 5) (fld w 14 5) (fld w 0 6)) else .error .reservedField
  | 0x0A => if fld w 31 1 = 1 then .error .literalNotAccepted else if fld w 6 8 = 0 then .ok (.srai (fld w 30 1 == 1) (fld w 19 5) (fld w 14 5) (fld w 0 6)) else .error .reservedField
  | 0x0B => (immOf w lit 14).bind fun imm => .ok (.lui (fld w 30 1 == 1) (fld w 19 5) (fld w 14 5) imm)
  | 0x0C => if fld w 31 1 = 1 then if fld w 0 19 = 0 then .ok (.li (fld w 30 1 == 1) (fld w 19 5) lit) else .error .reservedField else .error .literalMissing
  | 0x0D => if fld w 31 1 = 1 then .error .literalNotAccepted else .ok (.lea (fld w 30 1 == 1) (fld w 19 5) (fld w 14 5) (fld w 9 5) (fld w 7 2) (fld w 0 7))
  | 0x10 => (immOf w lit 14).bind fun off => .ok (.beq (fld w 30 1 == 1) (fld w 19 5) (fld w 14 5) off)
  | 0x11 => (immOf w lit 14).bind fun off => .ok (.bne (fld w 30 1 == 1) (fld w 19 5) (fld w 14 5) off)
  | 0x12 => (immOf w lit 14).bind fun off => .ok (.blt (fld w 30 1 == 1) (fld w 19 5) (fld w 14 5) off)
  | 0x13 => (immOf w lit 14).bind fun off => .ok (.bge (fld w 30 1 == 1) (fld w 19 5) (fld w 14 5) off)
  | 0x14 => (immOf w lit 14).bind fun off => .ok (.bltu (fld w 30 1 == 1) (fld w 19 5) (fld w 14 5) off)
  | 0x15 => (immOf w lit 14).bind fun off => .ok (.bgeu (fld w 30 1 == 1) (fld w 19 5) (fld w 14 5) off)
  | 0x16 => (immOf w lit 19).bind fun off => .ok (.jal (fld w 30 1 == 1) (fld w 19 5) off)
  | 0x17 => (immOf w lit 14).bind fun imm => .ok (.jalr (fld w 30 1 == 1) (fld w 19 5) (fld w 14 5) imm)
  | 0x18 => if fld w 14 5 = 0 then (immOf w lit 14).bind fun off => .ok (.loop (fld w 30 1 == 1) (fld w 19 5) off) else .error .reservedField
  | 0x19 => (immOf w lit 14).bind fun off => .ok (.fork (fld w 30 1 == 1) (fld w 18 6) (fld w 14 4) off)
  | 0x20 => (immOf w lit 10).bind fun imm => .ok (.ldb (fld w 30 1 == 1) (fld w 19 5) (fld w 14 5) (fld w 10 4) imm)
  | 0x21 => (immOf w lit 10).bind fun imm => .ok (.ldbu (fld w 30 1 == 1) (fld w 19 5) (fld w 14 5) (fld w 10 4) imm)
  | 0x22 => (immOf w lit 10).bind fun imm => .ok (.ldh (fld w 30 1 == 1) (fld w 19 5) (fld w 14 5) (fld w 10 4) imm)
  | 0x23 => (immOf w lit 10).bind fun imm => .ok (.ldhu (fld w 30 1 == 1) (fld w 19 5) (fld w 14 5) (fld w 10 4) imm)
  | 0x24 => (immOf w lit 10).bind fun imm => .ok (.ldw (fld w 30 1 == 1) (fld w 19 5) (fld w 14 5) (fld w 10 4) imm)
  | 0x25 => (immOf w lit 10).bind fun imm => .ok (.ldwu (fld w 30 1 == 1) (fld w 19 5) (fld w 14 5) (fld w 10 4) imm)
  | 0x26 => (immOf w lit 10).bind fun imm => .ok (.ldd (fld w 30 1 == 1) (fld w 19 5) (fld w 14 5) (fld w 10 4) imm)
  | 0x27 => (immOf w lit 10).bind fun imm => .ok (.stb (fld w 30 1 == 1) (fld w 19 5) (fld w 14 5) (fld w 10 4) imm)
  | 0x28 => (immOf w lit 10).bind fun imm => .ok (.sth (fld w 30 1 == 1) (fld w 19 5) (fld w 14 5) (fld w 10 4) imm)
  | 0x29 => (immOf w lit 10).bind fun imm => .ok (.stw (fld w 30 1 == 1) (fld w 19 5) (fld w 14 5) (fld w 10 4) imm)
  | 0x2A => (immOf w lit 10).bind fun imm => .ok (.std (fld w 30 1 == 1) (fld w 19 5) (fld w 14 5) (fld w 10 4) imm)
  | 0x2B => (immOf w lit 10).bind fun imm => .ok (.stref (fld w 30 1 == 1) (fld w 19 5) (fld w 14 5) (fld w 10 4) imm)
  | 0x2C => (immOf w lit 10).bind fun imm => .ok (.ldt (fld w 30 1 == 1) (fld w 19 5) (fld w 14 5) (fld w 10 4) imm)
  | 0x2D => if fld w 0 1 = 0 then .ok (.vld (fld w 30 1 == 1) (fld w 19 5) (fld w 14 5) (fld w 10 4) (fld w 4 6) (fld w 1 3) (dispOf w lit)) else .error .reservedField
  | 0x2E => if fld w 0 1 = 0 then .ok (.vst (fld w 30 1 == 1) (fld w 19 5) (fld w 14 5) (fld w 10 4) (fld w 4 6) (fld w 1 3) (dispOf w lit)) else .error .reservedField
  | 0x2F => if fld w 0 1 = 0 then .ok (.vldx (fld w 30 1 == 1) (fld w 19 5) (fld w 14 5) (fld w 10 4) (fld w 5 5) (fld w 4 1) (fld w 1 3) (dispOf w lit)) else .error .reservedField
  | 0x30 => if fld w 0 1 = 0 then .ok (.vstx (fld w 30 1 == 1) (fld w 19 5) (fld w 14 5) (fld w 10 4) (fld w 5 5) (fld w 4 1) (fld w 1 3) (dispOf w lit)) else .error .reservedField
  | 0x31 => if fld w 31 1 = 1 then .error .literalNotAccepted else decodeC31 w
  | 0x32 => if fld w 0 1 = 0 then .ok (.amofaddv (fld w 30 1 == 1) (fld w 19 5) (fld w 14 5) (fld w 10 4) (fld w 4 6) (fld w 1 3) (dispOf w lit)) else .error .reservedField
  | 0x33 => if fld w 31 1 = 1 then .error .literalNotAccepted else decodeC33 w
  | 0x38 => if fld w 31 1 = 1 then .error .literalNotAccepted else decodeC38 w
  | 0x39 => if fld w 31 1 = 1 then .error .literalNotAccepted else decodeC39 w
  | 0x3A => if fld w 31 1 = 1 then .error .literalNotAccepted else decodeC3A w
  | 0x3B => if fld w 31 1 = 1 then .error .literalNotAccepted else decodeC3B w
  | 0x3C => if fld w 31 1 = 1 then .error .literalNotAccepted else decodeC3C w
  | _ => .error .reservedMajor

/-- The A instruction of word w (R51, R56). -/
def decodeA (w : BitVec 32) : Except DecodeError Instr :=
  match (fld w 25 7).toNat with
  | 0x00 => if w = 0 then .ok .nopa else .error .reservedField
  | 0x01 => .ok (.vadd (fld w 19 6) (fld w 13 6) (fld w 7 6) (fld w 3 4) (fld w 0 3))
  | 0x02 => .ok (.vsub (fld w 19 6) (fld w 13 6) (fld w 7 6) (fld w 3 4) (fld w 0 3))
  | 0x03 => .ok (.vmul (fld w 19 6) (fld w 13 6) (fld w 7 6) (fld w 3 4) (fld w 0 3))
  | 0x04 => if fld w 24 1 = 0 then .ok (.vfma (fld w 19 5) (fld w 13 6) (fld w 7 6) (fld w 3 4) (fld w 0 3)) else .error .reservedField
  | 0x05 => if fld w 24 1 = 0 then .ok (.vfms (fld w 19 5) (fld w 13 6) (fld w 7 6) (fld w 3 4) (fld w 0 3)) else .error .reservedField
  | 0x06 => if fld w 24 1 = 0 then .ok (.vfnma (fld w 19 5) (fld w 13 6) (fld w 7 6) (fld w 3 4) (fld w 0 3)) else .error .reservedField
  | 0x07 => if fld w 0 3 = 0 then .ok (.vmin (fld w 19 6) (fld w 13 6) (fld w 7 6) (fld w 3 4)) else .error .reservedField
  | 0x08 => if fld w 0 3 = 0 then .ok (.vmax (fld w 19 6) (fld w 13 6) (fld w 7 6) (fld w 3 4)) else .error .reservedField
  | 0x09 => if fld w 0 3 = 0 then if fld w 7 6 = 0 then .ok (.vabs (fld w 19 6) (fld w 13 6) (fld w 3 4)) else .error .reservedField else .error .reservedField
  | 0x0A => if fld w 0 3 = 0 then if fld w 7 6 = 0 then .ok (.vneg (fld w 19 6) (fld w 13 6) (fld w 3 4)) else .error .reservedField else .error .reservedField
  | 0x0B => if fld w 7 6 = 0 then .ok (.vrcp (fld w 19 6) (fld w 13 6) (fld w 3 4) (fld w 0 3)) else .error .reservedField
  | 0x0C => if fld w 7 6 = 0 then .ok (.vrsq (fld w 19 6) (fld w 13 6) (fld w 3 4) (fld w 0 3)) else .error .reservedField
  | 0x0D => if fld w 7 6 = 0 then .ok (.vexp2 (fld w 19 6) (fld w 13 6) (fld w 3 4) (fld w 0 3)) else .error .reservedField
  | 0x0E => if fld w 7 6 = 0 then .ok (.vlog2 (fld w 19 6) (fld w 13 6) (fld w 3 4) (fld w 0 3)) else .error .reservedField
  | 0x10 => if fld w 0 3 = 0 then .ok (.viadd (fld w 19 6) (fld w 13 6) (fld w 7 6) (fld w 3 4)) else .error .reservedField
  | 0x11 => if fld w 0 3 = 0 then .ok (.visub (fld w 19 6) (fld w 13 6) (fld w 7 6) (fld w 3 4)) else .error .reservedField
  | 0x12 => if fld w 0 3 = 0 then .ok (.vimul (fld w 19 6) (fld w 13 6) (fld w 7 6) (fld w 3 4)) else .error .reservedField
  | 0x13 => if fld w 0 3 = 0 then .ok (.vimulh (fld w 19 6) (fld w 13 6) (fld w 7 6) (fld w 3 4)) else .error .reservedField
  | 0x14 => if fld w 0 3 = 0 then .ok (.vand (fld w 19 6) (fld w 13 6) (fld w 7 6) (fld w 3 4)) else .error .reservedField
  | 0x15 => if fld w 0 3 = 0 then .ok (.vor (fld w 19 6) (fld w 13 6) (fld w 7 6) (fld w 3 4)) else .error .reservedField
  | 0x16 => if fld w 0 3 = 0 then .ok (.vxor (fld w 19 6) (fld w 13 6) (fld w 7 6) (fld w 3 4)) else .error .reservedField
  | 0x17 => if fld w 0 3 = 0 then .ok (.vshl (fld w 19 6) (fld w 13 6) (fld w 7 6) (fld w 3 4)) else .error .reservedField
  | 0x18 => if fld w 0 3 = 0 then .ok (.vshr (fld w 19 6) (fld w 13 6) (fld w 7 6) (fld w 3 4)) else .error .reservedField
  | 0x19 => if fld w 0 3 = 0 then .ok (.vsra (fld w 19 6) (fld w 13 6) (fld w 7 6) (fld w 3 4)) else .error .reservedField
  | 0x1A => if fld w 0 3 = 0 then .ok (.vimin (fld w 19 6) (fld w 13 6) (fld w 7 6) (fld w 3 4)) else .error .reservedField
  | 0x1B => if fld w 0 3 = 0 then .ok (.vimax (fld w 19 6) (fld w 13 6) (fld w 7 6) (fld w 3 4)) else .error .reservedField
  | 0x1C => .ok (.vfcmp (fld w 19 6) (fld w 13 6) (fld w 7 6) (fld w 3 4) (fld w 0 3))
  | 0x1D => .ok (.vicmp (fld w 19 6) (fld w 13 6) (fld w 7 6) (fld w 3 4) (fld w 0 3))
  | 0x1E => .ok (.vsel (fld w 19 6) (fld w 13 6) (fld w 7 6) (fld w 3 4) (fld w 0 3))
  | 0x20 => if fld w 0 7 = 0 then .ok (.mand (fld w 19 6) (fld w 13 6) (fld w 7 6)) else .error .reservedField
  | 0x21 => if fld w 0 7 = 0 then .ok (.mor (fld w 19 6) (fld w 13 6) (fld w 7 6)) else .error .reservedField
  | 0x22 => if fld w 0 7 = 0 then .ok (.mxor (fld w 19 6) (fld w 13 6) (fld w 7 6)) else .error .reservedField
  | 0x23 => if fld w 0 13 = 0 then .ok (.mnot (fld w 19 6) (fld w 13 6)) else .error .reservedField
  | 0x24 => if fld w 0 13 = 0 then if fld w 24 1 = 0 then .ok (.mpop (fld w 19 5) (fld w 13 6)) else .error .reservedField else .error .reservedField
  | 0x25 => if fld w 0 13 = 0 then if fld w 24 1 = 0 then .ok (.mfirst (fld w 19 5) (fld w 13 6)) else .error .reservedField else .error .reservedField
  | 0x28 => if fld w 0 3 = 0 then .ok (.vbcast (fld w 19 6) (fld w 13 6) (fld w 7 6) (fld w 3 4)) else .error .reservedField
  | 0x29 => if fld w 0 3 = 0 then if fld w 24 1 = 0 then .ok (.vextr (fld w 19 5) (fld w 13 6) (fld w 7 6) (fld w 3 4)) else .error .reservedField else .error .reservedField
  | 0x2A => if fld w 0 3 = 0 then .ok (.vins (fld w 19 6) (fld w 13 6) (fld w 7 6) (fld w 3 4)) else .error .reservedField
  | 0x2B => if fld w 0 3 = 0 then .ok (.vperm (fld w 19 6) (fld w 13 6) (fld w 7 6) (fld w 3 4)) else .error .reservedField
  | 0x2C => if fld w 0 3 = 0 then .ok (.vrot (fld w 19 6) (fld w 13 6) (fld w 7 6) (fld w 3 4)) else .error .reservedField
  | 0x2D => if fld w 0 3 = 0 then .ok (.vslide (fld w 19 6) (fld w 13 6) (fld w 7 6) (fld w 3 4)) else .error .reservedField
  | 0x2E => .ok (.vzip (fld w 19 6) (fld w 13 6) (fld w 7 6) (fld w 3 4) (fld w 0 3))
  | 0x2F => .ok (.vunzip (fld w 19 6) (fld w 13 6) (fld w 7 6) (fld w 3 4) (fld w 0 3))
  | 0x30 => if fld w 7 6 = 0 then if fld w 24 1 = 0 then .ok (.vrsum (fld w 19 5) (fld w 13 6) (fld w 3 4) (fld w 0 3)) else .error .reservedField else .error .reservedField
  | 0x31 => if fld w 0 3 = 0 then if fld w 7 6 = 0 then if fld w 24 1 = 0 then .ok (.vrmax (fld w 19 5) (fld w 13 6) (fld w 3 4)) else .error .reservedField else .error .reservedField else .error .reservedField
  | 0x32 => if fld w 0 3 = 0 then if fld w 7 6 = 0 then if fld w 24 1 = 0 then .ok (.vrmin (fld w 19 5) (fld w 13 6) (fld w 3 4)) else .error .reservedField else .error .reservedField else .error .reservedField
  | 0x33 => if fld w 0 3 = 0 then if fld w 7 6 = 0 then if fld w 24 1 = 0 then .ok (.virsum (fld w 19 5) (fld w 13 6) (fld w 3 4)) else .error .reservedField else .error .reservedField else .error .reservedField
  | 0x34 => if fld w 24 1 = 0 then .ok (.vdot4 (fld w 19 5) (fld w 13 6) (fld w 7 6) (fld w 3 4) (fld w 0 3)) else .error .reservedField
  | 0x35 => if fld w 24 1 = 0 then .ok (.vdot2 (fld w 19 5) (fld w 13 6) (fld w 7 6) (fld w 3 4) (fld w 0 3)) else .error .reservedField
  | 0x38 => .ok (.vcvt (fld w 19 6) (fld w 13 6) (fld w 11 2) (fld w 7 4) (fld w 3 4) (fld w 0 3))
  | 0x39 => if fld w 0 3 = 0 then .ok (.vpack (fld w 19 6) (fld w 13 6) (fld w 7 6) (fld w 3 4)) else .error .reservedField
  | 0x3A => if fld w 0 3 = 0 then .ok (.vunpack (fld w 19 6) (fld w 13 6) (fld w 7 6) (fld w 3 4)) else .error .reservedField
  | 0x3B => if fld w 11 2 = 3 then .ok (.vqnt (fld w 19 6) (fld w 13 6) (fld w 7 4) (fld w 3 4) (fld w 0 3)) else .error .operandCode
  | 0x3C => if fld w 0 7 = 0 then if fld w 24 1 = 0 then .ok (.vpopx (fld w 19 5) (fld w 13 6) (fld w 7 6)) else .error .reservedField else .error .reservedField
  | 0x3D => if fld w 0 3 = 0 then .ok (.vcompr (fld w 19 6) (fld w 13 6) (fld w 7 6) (fld w 3 4)) else .error .reservedField
  | 0x3E => if fld w 0 3 = 0 then .ok (.vexpnd (fld w 19 6) (fld w 13 6) (fld w 7 6) (fld w 3 4)) else .error .reservedField
  | 0x3F => if fld w 0 3 = 0 then .ok (.vcbd (fld w 19 6) (fld w 13 6) (fld w 12 1) (fld w 7 5) (fld w 3 4)) else .error .reservedField
  | 0x40 => if fld w 6 1 = 0 then if fld w 8 5 = 0 then if fld w 18 1 = 0 then if fld w 21 4 = 12 then .ok (.mmaE4e4 (fld w 19 2) (fld w 13 5) (fld w 7 1) (fld w 0 6)) else .error .operandCode else .error .reservedField else .error .reservedField else .error .reservedField
  | 0x41 => if fld w 6 1 = 0 then if fld w 8 5 = 0 then if fld w 18 1 = 0 then if fld w 21 4 = 12 then .ok (.mmaE4e5 (fld w 19 2) (fld w 13 5) (fld w 7 1) (fld w 0 6)) else .error .operandCode else .error .reservedField else .error .reservedField else .error .reservedField
  | 0x42 => if fld w 6 1 = 0 then if fld w 8 5 = 0 then if fld w 18 1 = 0 then if fld w 21 4 = 12 then .ok (.mmaE5e4 (fld w 19 2) (fld w 13 5) (fld w 7 1) (fld w 0 6)) else .error .operandCode else .error .reservedField else .error .reservedField else .error .reservedField
  | 0x43 => if fld w 6 1 = 0 then if fld w 8 5 = 0 then if fld w 18 1 = 0 then if fld w 21 4 = 12 then .ok (.mmaE5e5 (fld w 19 2) (fld w 13 5) (fld w 7 1) (fld w 0 6)) else .error .operandCode else .error .reservedField else .error .reservedField else .error .reservedField
  | 0x44 => if fld w 6 1 = 0 then if fld w 8 5 = 0 then if fld w 18 1 = 0 then if fld w 21 4 = 12 then .ok (.mmaBf16 (fld w 19 2) (fld w 13 5) (fld w 7 1) (fld w 0 6)) else .error .operandCode else .error .reservedField else .error .reservedField else .error .reservedField
  | 0x45 => if fld w 6 1 = 0 then if fld w 8 5 = 0 then if fld w 18 1 = 0 then if fld w 21 4 = 12 then .ok (.mmaF16 (fld w 19 2) (fld w 13 5) (fld w 7 1) (fld w 0 6)) else .error .operandCode else .error .reservedField else .error .reservedField else .error .reservedField
  | 0x46 => if fld w 6 1 = 0 then if fld w 8 5 = 0 then if fld w 18 1 = 0 then if fld w 21 4 = 12 then .ok (.mmaE3m2 (fld w 19 2) (fld w 13 5) (fld w 7 1) (fld w 0 6)) else .error .operandCode else .error .reservedField else .error .reservedField else .error .reservedField
  | 0x47 => if fld w 6 1 = 0 then if fld w 8 5 = 0 then if fld w 18 1 = 0 then if fld w 21 4 = 12 then .ok (.mmaE2m3 (fld w 19 2) (fld w 13 5) (fld w 7 1) (fld w 0 6)) else .error .operandCode else .error .reservedField else .error .reservedField else .error .reservedField
  | 0x48 => if fld w 6 1 = 0 then if fld w 8 5 = 0 then if fld w 18 1 = 0 then if fld w 21 4 = 12 then .ok (.mmaE2m1 (fld w 19 2) (fld w 13 5) (fld w 7 1) (fld w 0 6)) else .error .operandCode else .error .reservedField else .error .reservedField else .error .reservedField
  | 0x49 => if fld w 8 5 = 0 then if fld w 18 1 = 0 then if fld w 21 4 = 12 then .ok (.mmaCb2e4 (fld w 19 2) (fld w 13 5) (fld w 7 1) (fld w 6 1) (fld w 0 6)) else .error .operandCode else .error .reservedField else .error .reservedField
  | 0x4A => if fld w 6 1 = 0 then if fld w 8 5 = 0 then if fld w 18 1 = 0 then if fld w 21 4 = 12 then .ok (.mmaS8 (fld w 19 2) (fld w 13 5) (fld w 7 1) (fld w 0 6)) else .error .operandCode else .error .reservedField else .error .reservedField else .error .reservedField
  | 0x4B => if fld w 8 5 = 0 then if fld w 18 1 = 0 then if fld w 21 4 = 12 then .ok (.mmaCb2bf (fld w 19 2) (fld w 13 5) (fld w 7 1) (fld w 6 1) (fld w 0 6)) else .error .operandCode else .error .reservedField else .error .reservedField
  | 0x50 => if fld w 0 19 = 0 then if fld w 21 4 = 12 then .ok (.mzero (fld w 19 2)) else .error .operandCode else .error .reservedField
  | 0x51 => if fld w 7 6 = 0 then if fld w 18 1 = 0 then if fld w 21 4 = 12 then .ok (.mst (fld w 19 2) (fld w 13 5) (fld w 3 4) (fld w 0 3)) else .error .operandCode else .error .reservedField else .error .reservedField
  | 0x52 => if fld w 0 3 = 0 then if fld w 7 6 = 0 then if fld w 18 1 = 0 then if fld w 21 4 = 12 then .ok (.mld (fld w 19 2) (fld w 13 5) (fld w 3 4)) else .error .operandCode else .error .reservedField else .error .reservedField else .error .reservedField
  | 0x53 => if fld w 18 1 = 0 then if fld w 0 7 = 0 then if fld w 8 5 = 0 then if fld w 19 6 = 0 then .ok (.bldMemory (fld w 13 5) (fld w 7 1)) else .error .reservedField else .error .reservedField else .error .reservedField else if fld w 0 7 = 0 then if fld w 8 5 = 0 then if fld w 16 2 = 0 then if fld w 19 6 = 0 then .ok (.bldQueue (fld w 13 3) (fld w 7 1)) else .error .reservedField else .error .reservedField else .error .reservedField else .error .reservedField
  | 0x54 => if fld w 0 7 = 0 then if fld w 8 17 = 0 then .ok (.bpass (fld w 7 1)) else .error .reservedField else .error .reservedField
  | 0x55 => if fld w 0 7 = 0 then if fld w 8 17 = 0 then .ok (.bwait (fld w 7 1)) else .error .reservedField else .error .reservedField
  | _ => .error .reservedMajor

/-- A bundle's two instructions: a lone bundle has no A instruction (R37, R38). -/
def decodeBundle (w0 w1 : BitVec 32) : Except DecodeError (Instr × Instr) :=
  (decodeC w0 w1).bind fun c =>
    if fld w0 31 1 = 1 then .ok (c, .nopa) else (decodeA w1).bind fun a => .ok (c, a)

/-- The literal that an immediate holds, or 0. -/
def Imm.literal {n : Nat} : Imm n → Nat
  | .field _ => 0
  | .lit v => v.toNat

/-- The part of a C word that an immediate fills: its field, or the lone bit (R38, R44). -/
def Imm.bits {n : Nat} : Imm n → Nat
  | .field v => v.toNat
  | .lit _ => 2 ^ 31

/-- The lone bit of a CM-V or CM-X word with this displacement. -/
def dispBits : Option (BitVec 32) → Nat
  | none => 0
  | some _ => 2 ^ 31

/-- The literal of a CM-V or CM-X displacement, or 0. -/
def dispLiteral : Option (BitVec 32) → Nat
  | none => 0
  | some v => v.toNat

/-- A word: its fixed bits and its fields, each at the bit it begins at. -/
def pack (base : Nat) (fields : List (Nat × Nat)) : BitVec 32 :=
  BitVec.ofNat 32 (fields.foldr (fun p n => p.1 * 2 ^ p.2 + n) base)

/-- The word of a C instruction and its bundle's other word when that is a literal (0 otherwise); none for other instructions. -/
def encodeC : Instr → Option (BitVec 32 × BitVec 32)
  | .nopc => some (pack 0x00000000 [], BitVec.ofNat 32 (0))
  | .add sp rd ra rb => some (pack 0x01000000 [(sp.toNat, 30), (rd.toNat, 19), (ra.toNat, 14), (rb.toNat, 9)], BitVec.ofNat 32 (0))
  | .sub sp rd ra rb => some (pack 0x01000001 [(sp.toNat, 30), (rd.toNat, 19), (ra.toNat, 14), (rb.toNat, 9)], BitVec.ofNat 32 (0))
  | .and sp rd ra rb => some (pack 0x01000002 [(sp.toNat, 30), (rd.toNat, 19), (ra.toNat, 14), (rb.toNat, 9)], BitVec.ofNat 32 (0))
  | .or sp rd ra rb => some (pack 0x01000003 [(sp.toNat, 30), (rd.toNat, 19), (ra.toNat, 14), (rb.toNat, 9)], BitVec.ofNat 32 (0))
  | .xor sp rd ra rb => some (pack 0x01000004 [(sp.toNat, 30), (rd.toNat, 19), (ra.toNat, 14), (rb.toNat, 9)], BitVec.ofNat 32 (0))
  | .andn sp rd ra rb => some (pack 0x01000005 [(sp.toNat, 30), (rd.toNat, 19), (ra.toNat, 14), (rb.toNat, 9)], BitVec.ofNat 32 (0))
  | .sll sp rd ra rb => some (pack 0x01000006 [(sp.toNat, 30), (rd.toNat, 19), (ra.toNat, 14), (rb.toNat, 9)], BitVec.ofNat 32 (0))
  | .srl sp rd ra rb => some (pack 0x01000007 [(sp.toNat, 30), (rd.toNat, 19), (ra.toNat, 14), (rb.toNat, 9)], BitVec.ofNat 32 (0))
  | .sra sp rd ra rb => some (pack 0x01000008 [(sp.toNat, 30), (rd.toNat, 19), (ra.toNat, 14), (rb.toNat, 9)], BitVec.ofNat 32 (0))
  | .slt sp rd ra rb => some (pack 0x01000009 [(sp.toNat, 30), (rd.toNat, 19), (ra.toNat, 14), (rb.toNat, 9)], BitVec.ofNat 32 (0))
  | .sltu sp rd ra rb => some (pack 0x0100000A [(sp.toNat, 30), (rd.toNat, 19), (ra.toNat, 14), (rb.toNat, 9)], BitVec.ofNat 32 (0))
  | .min sp rd ra rb => some (pack 0x0100000B [(sp.toNat, 30), (rd.toNat, 19), (ra.toNat, 14), (rb.toNat, 9)], BitVec.ofNat 32 (0))
  | .max sp rd ra rb => some (pack 0x0100000C [(sp.toNat, 30), (rd.toNat, 19), (ra.toNat, 14), (rb.toNat, 9)], BitVec.ofNat 32 (0))
  | .minu sp rd ra rb => some (pack 0x0100000D [(sp.toNat, 30), (rd.toNat, 19), (ra.toNat, 14), (rb.toNat, 9)], BitVec.ofNat 32 (0))
  | .maxu sp rd ra rb => some (pack 0x0100000E [(sp.toNat, 30), (rd.toNat, 19), (ra.toNat, 14), (rb.toNat, 9)], BitVec.ofNat 32 (0))
  | .mul sp rd ra rb => some (pack 0x0100000F [(sp.toNat, 30), (rd.toNat, 19), (ra.toNat, 14), (rb.toNat, 9)], BitVec.ofNat 32 (0))
  | .mulh sp rd ra rb => some (pack 0x01000010 [(sp.toNat, 30), (rd.toNat, 19), (ra.toNat, 14), (rb.toNat, 9)], BitVec.ofNat 32 (0))
  | .mulhu sp rd ra rb => some (pack 0x01000011 [(sp.toNat, 30), (rd.toNat, 19), (ra.toNat, 14), (rb.toNat, 9)], BitVec.ofNat 32 (0))
  | .div sp rd ra rb => some (pack 0x01000012 [(sp.toNat, 30), (rd.toNat, 19), (ra.toNat, 14), (rb.toNat, 9)], BitVec.ofNat 32 (0))
  | .divu sp rd ra rb => some (pack 0x01000013 [(sp.toNat, 30), (rd.toNat, 19), (ra.toNat, 14), (rb.toNat, 9)], BitVec.ofNat 32 (0))
  | .rem sp rd ra rb => some (pack 0x01000014 [(sp.toNat, 30), (rd.toNat, 19), (ra.toNat, 14), (rb.toNat, 9)], BitVec.ofNat 32 (0))
  | .remu sp rd ra rb => some (pack 0x01000015 [(sp.toNat, 30), (rd.toNat, 19), (ra.toNat, 14), (rb.toNat, 9)], BitVec.ofNat 32 (0))
  | .clz sp rd ra => some (pack 0x01000016 [(sp.toNat, 30), (rd.toNat, 19), (ra.toNat, 14)], BitVec.ofNat 32 (0))
  | .ctz sp rd ra => some (pack 0x01000017 [(sp.toNat, 30), (rd.toNat, 19), (ra.toNat, 14)], BitVec.ofNat 32 (0))
  | .popc sp rd ra => some (pack 0x01000018 [(sp.toNat, 30), (rd.toNat, 19), (ra.toNat, 14)], BitVec.ofNat 32 (0))
  | .sel sp rd ra rb => some (pack 0x01000019 [(sp.toNat, 30), (rd.toNat, 19), (ra.toNat, 14), (rb.toNat, 9)], BitVec.ofNat 32 (0))
  | .addi sp rd ra imm => some (pack 0x02000000 [(sp.toNat, 30), (rd.toNat, 19), (ra.toNat, 14), (imm.bits, 0)], BitVec.ofNat 32 (imm.literal))
  | .andi sp rd ra imm => some (pack 0x03000000 [(sp.toNat, 30), (rd.toNat, 19), (ra.toNat, 14), (imm.bits, 0)], BitVec.ofNat 32 (imm.literal))
  | .ori sp rd ra imm => some (pack 0x04000000 [(sp.toNat, 30), (rd.toNat, 19), (ra.toNat, 14), (imm.bits, 0)], BitVec.ofNat 32 (imm.literal))
  | .xori sp rd ra imm => some (pack 0x05000000 [(sp.toNat, 30), (rd.toNat, 19), (ra.toNat, 14), (imm.bits, 0)], BitVec.ofNat 32 (imm.literal))
  | .slti sp rd ra imm => some (pack 0x06000000 [(sp.toNat, 30), (rd.toNat, 19), (ra.toNat, 14), (imm.bits, 0)], BitVec.ofNat 32 (imm.literal))
  | .sltiu sp rd ra imm => some (pack 0x07000000 [(sp.toNat, 30), (rd.toNat, 19), (ra.toNat, 14), (imm.bits, 0)], BitVec.ofNat 32 (imm.literal))
  | .slli sp rd ra sh => some (pack 0x08000000 [(sp.toNat, 30), (rd.toNat, 19), (ra.toNat, 14), (sh.toNat, 0)], BitVec.ofNat 32 (0))
  | .srli sp rd ra sh => some (pack 0x09000000 [(sp.toNat, 30), (rd.toNat, 19), (ra.toNat, 14), (sh.toNat, 0)], BitVec.ofNat 32 (0))
  | .srai sp rd ra sh => some (pack 0x0A000000 [(sp.toNat, 30), (rd.toNat, 19), (ra.toNat, 14), (sh.toNat, 0)], BitVec.ofNat 32 (0))
  | .lui sp rd ra imm => some (pack 0x0B000000 [(sp.toNat, 30), (rd.toNat, 19), (ra.toNat, 14), (imm.bits, 0)], BitVec.ofNat 32 (imm.literal))
  | .li sp rd lit => some (pack 0x8C000000 [(sp.toNat, 30), (rd.toNat, 19)], BitVec.ofNat 32 (lit.toNat))
  | .lea sp rd ra rb scale disp => some (pack 0x0D000000 [(sp.toNat, 30), (rd.toNat, 19), (ra.toNat, 14), (rb.toNat, 9), (scale.toNat, 7), (disp.toNat, 0)], BitVec.ofNat 32 (0))
  | .beq sp ra rb off => some (pack 0x10000000 [(sp.toNat, 30), (ra.toNat, 19), (rb.toNat, 14), (off.bits, 0)], BitVec.ofNat 32 (off.literal))
  | .bne sp ra rb off => some (pack 0x11000000 [(sp.toNat, 30), (ra.toNat, 19), (rb.toNat, 14), (off.bits, 0)], BitVec.ofNat 32 (off.literal))
  | .blt sp ra rb off => some (pack 0x12000000 [(sp.toNat, 30), (ra.toNat, 19), (rb.toNat, 14), (off.bits, 0)], BitVec.ofNat 32 (off.literal))
  | .bge sp ra rb off => some (pack 0x13000000 [(sp.toNat, 30), (ra.toNat, 19), (rb.toNat, 14), (off.bits, 0)], BitVec.ofNat 32 (off.literal))
  | .bltu sp ra rb off => some (pack 0x14000000 [(sp.toNat, 30), (ra.toNat, 19), (rb.toNat, 14), (off.bits, 0)], BitVec.ofNat 32 (off.literal))
  | .bgeu sp ra rb off => some (pack 0x15000000 [(sp.toNat, 30), (ra.toNat, 19), (rb.toNat, 14), (off.bits, 0)], BitVec.ofNat 32 (off.literal))
  | .jal sp rd off => some (pack 0x16000000 [(sp.toNat, 30), (rd.toNat, 19), (off.bits, 0)], BitVec.ofNat 32 (off.literal))
  | .jalr sp rd ra imm => some (pack 0x17000000 [(sp.toNat, 30), (rd.toNat, 19), (ra.toNat, 14), (imm.bits, 0)], BitVec.ofNat 32 (imm.literal))
  | .loop sp ra off => some (pack 0x18000000 [(sp.toNat, 30), (ra.toNat, 19), (off.bits, 0)], BitVec.ofNat 32 (off.literal))
  | .fork sp ctr n off => some (pack 0x19000000 [(sp.toNat, 30), (ctr.toNat, 18), (n.toNat, 14), (off.bits, 0)], BitVec.ofNat 32 (off.literal))
  | .ldb sp rd base ord imm => some (pack 0x20000000 [(sp.toNat, 30), (rd.toNat, 19), (base.toNat, 14), (ord.toNat, 10), (imm.bits, 0)], BitVec.ofNat 32 (imm.literal))
  | .ldbu sp rd base ord imm => some (pack 0x21000000 [(sp.toNat, 30), (rd.toNat, 19), (base.toNat, 14), (ord.toNat, 10), (imm.bits, 0)], BitVec.ofNat 32 (imm.literal))
  | .ldh sp rd base ord imm => some (pack 0x22000000 [(sp.toNat, 30), (rd.toNat, 19), (base.toNat, 14), (ord.toNat, 10), (imm.bits, 0)], BitVec.ofNat 32 (imm.literal))
  | .ldhu sp rd base ord imm => some (pack 0x23000000 [(sp.toNat, 30), (rd.toNat, 19), (base.toNat, 14), (ord.toNat, 10), (imm.bits, 0)], BitVec.ofNat 32 (imm.literal))
  | .ldw sp rd base ord imm => some (pack 0x24000000 [(sp.toNat, 30), (rd.toNat, 19), (base.toNat, 14), (ord.toNat, 10), (imm.bits, 0)], BitVec.ofNat 32 (imm.literal))
  | .ldwu sp rd base ord imm => some (pack 0x25000000 [(sp.toNat, 30), (rd.toNat, 19), (base.toNat, 14), (ord.toNat, 10), (imm.bits, 0)], BitVec.ofNat 32 (imm.literal))
  | .ldd sp rd base ord imm => some (pack 0x26000000 [(sp.toNat, 30), (rd.toNat, 19), (base.toNat, 14), (ord.toNat, 10), (imm.bits, 0)], BitVec.ofNat 32 (imm.literal))
  | .stb sp rd base ord imm => some (pack 0x27000000 [(sp.toNat, 30), (rd.toNat, 19), (base.toNat, 14), (ord.toNat, 10), (imm.bits, 0)], BitVec.ofNat 32 (imm.literal))
  | .sth sp rd base ord imm => some (pack 0x28000000 [(sp.toNat, 30), (rd.toNat, 19), (base.toNat, 14), (ord.toNat, 10), (imm.bits, 0)], BitVec.ofNat 32 (imm.literal))
  | .stw sp rd base ord imm => some (pack 0x29000000 [(sp.toNat, 30), (rd.toNat, 19), (base.toNat, 14), (ord.toNat, 10), (imm.bits, 0)], BitVec.ofNat 32 (imm.literal))
  | .std sp rd base ord imm => some (pack 0x2A000000 [(sp.toNat, 30), (rd.toNat, 19), (base.toNat, 14), (ord.toNat, 10), (imm.bits, 0)], BitVec.ofNat 32 (imm.literal))
  | .stref sp rd base ord imm => some (pack 0x2B000000 [(sp.toNat, 30), (rd.toNat, 19), (base.toNat, 14), (ord.toNat, 10), (imm.bits, 0)], BitVec.ofNat 32 (imm.literal))
  | .ldt sp rd base ord imm => some (pack 0x2C000000 [(sp.toNat, 30), (rd.toNat, 19), (base.toNat, 14), (ord.toNat, 10), (imm.bits, 0)], BitVec.ofNat 32 (imm.literal))
  | .vld sp vd base ord len mk disp => some (pack 0x2D000000 [(sp.toNat, 30), (vd.toNat, 19), (base.toNat, 14), (ord.toNat, 10), (len.toNat, 4), (mk.toNat, 1), (dispBits disp, 0)], BitVec.ofNat 32 (dispLiteral disp))
  | .vst sp vd base ord len mk disp => some (pack 0x2E000000 [(sp.toNat, 30), (vd.toNat, 19), (base.toNat, 14), (ord.toNat, 10), (len.toNat, 4), (mk.toNat, 1), (dispBits disp, 0)], BitVec.ofNat 32 (dispLiteral disp))
  | .vldx sp vd base ord vi e8 mk disp => some (pack 0x2F000000 [(sp.toNat, 30), (vd.toNat, 19), (base.toNat, 14), (ord.toNat, 10), (vi.toNat, 5), (e8.toNat, 4), (mk.toNat, 1), (dispBits disp, 0)], BitVec.ofNat 32 (dispLiteral disp))
  | .vstx sp vd base ord vi e8 mk disp => some (pack 0x30000000 [(sp.toNat, 30), (vd.toNat, 19), (base.toNat, 14), (ord.toNat, 10), (vi.toNat, 5), (e8.toNat, 4), (mk.toNat, 1), (dispBits disp, 0)], BitVec.ofNat 32 (dispLiteral disp))
  | .amoadd sp rd ra rb ord w => some (pack 0x31000000 [(sp.toNat, 30), (rd.toNat, 19), (ra.toNat, 14), (rb.toNat, 9), (ord.toNat, 1), (w.toNat, 0)], BitVec.ofNat 32 (0))
  | .amoand sp rd ra rb ord w => some (pack 0x31000020 [(sp.toNat, 30), (rd.toNat, 19), (ra.toNat, 14), (rb.toNat, 9), (ord.toNat, 1), (w.toNat, 0)], BitVec.ofNat 32 (0))
  | .amoor sp rd ra rb ord w => some (pack 0x31000040 [(sp.toNat, 30), (rd.toNat, 19), (ra.toNat, 14), (rb.toNat, 9), (ord.toNat, 1), (w.toNat, 0)], BitVec.ofNat 32 (0))
  | .amoxor sp rd ra rb ord w => some (pack 0x31000060 [(sp.toNat, 30), (rd.toNat, 19), (ra.toNat, 14), (rb.toNat, 9), (ord.toNat, 1), (w.toNat, 0)], BitVec.ofNat 32 (0))
  | .amomin sp rd ra rb ord w => some (pack 0x31000080 [(sp.toNat, 30), (rd.toNat, 19), (ra.toNat, 14), (rb.toNat, 9), (ord.toNat, 1), (w.toNat, 0)], BitVec.ofNat 32 (0))
  | .amomax sp rd ra rb ord w => some (pack 0x310000A0 [(sp.toNat, 30), (rd.toNat, 19), (ra.toNat, 14), (rb.toNat, 9), (ord.toNat, 1), (w.toNat, 0)], BitVec.ofNat 32 (0))
  | .amominu sp rd ra rb ord w => some (pack 0x310000C0 [(sp.toNat, 30), (rd.toNat, 19), (ra.toNat, 14), (rb.toNat, 9), (ord.toNat, 1), (w.toNat, 0)], BitVec.ofNat 32 (0))
  | .amomaxu sp rd ra rb ord w => some (pack 0x310000E0 [(sp.toNat, 30), (rd.toNat, 19), (ra.toNat, 14), (rb.toNat, 9), (ord.toNat, 1), (w.toNat, 0)], BitVec.ofNat 32 (0))
  | .amoswap sp rd ra rb ord w => some (pack 0x31000100 [(sp.toNat, 30), (rd.toNat, 19), (ra.toNat, 14), (rb.toNat, 9), (ord.toNat, 1), (w.toNat, 0)], BitVec.ofNat 32 (0))
  | .amocas sp rd ra rb ord w => some (pack 0x31000120 [(sp.toNat, 30), (rd.toNat, 19), (ra.toNat, 14), (rb.toNat, 9), (ord.toNat, 1), (w.toNat, 0)], BitVec.ofNat 32 (0))
  | .amofadd sp rd ra rb ord => some (pack 0x31000140 [(sp.toNat, 30), (rd.toNat, 19), (ra.toNat, 14), (rb.toNat, 9), (ord.toNat, 1)], BitVec.ofNat 32 (0))
  | .amofaddv sp vd base ord len mk disp => some (pack 0x32000000 [(sp.toNat, 30), (vd.toNat, 19), (base.toNat, 14), (ord.toNat, 10), (len.toNat, 4), (mk.toNat, 1), (dispBits disp, 0)], BitVec.ofNat 32 (dispLiteral disp))
  | .fence sp rd ord => some (pack 0x33000000 [(sp.toNat, 30), (rd.toNat, 19), (ord.toNat, 10)], BitVec.ofNat 32 (0))
  | .pub sp rd ra scope => some (pack 0x33002001 [(sp.toNat, 30), (rd.toNat, 19), (ra.toNat, 14), (scope.toNat, 10)], BitVec.ofNat 32 (0))
  | .pref sp ra lvl rb => some (pack 0x33000002 [(sp.toNat, 30), (ra.toNat, 14), (lvl.toNat, 10), (rb.toNat, 5)], BitVec.ofNat 32 (0))
  | .resq sp rd ra lvl rb => some (pack 0x33000003 [(sp.toNat, 30), (rd.toNat, 19), (ra.toNat, 14), (lvl.toNat, 10), (rb.toNat, 5)], BitVec.ofNat 32 (0))
  | .cln sp ra ord rb => some (pack 0x33000004 [(sp.toNat, 30), (ra.toNat, 14), (ord.toNat, 10), (rb.toNat, 5)], BitVec.ofNat 32 (0))
  | .inv sp ra ord rb => some (pack 0x33000005 [(sp.toNat, 30), (ra.toNat, 14), (ord.toNat, 10), (rb.toNat, 5)], BitVec.ofNat 32 (0))
  | .setc sp ra ctr => some (pack 0x38000000 [(sp.toNat, 30), (ra.toNat, 14), (ctr.toNat, 8)], BitVec.ofNat 32 (0))
  | .decc sp ra ctr => some (pack 0x38000001 [(sp.toNat, 30), (ra.toNat, 14), (ctr.toNat, 8)], BitVec.ofNat 32 (0))
  | .getc sp rd ctr => some (pack 0x38000002 [(sp.toNat, 30), (rd.toNat, 19), (ctr.toNat, 8)], BitVec.ofNat 32 (0))
  | .waitc sp rd ctr => some (pack 0x38000003 [(sp.toNat, 30), (rd.toNat, 19), (ctr.toNat, 8)], BitVec.ofNat 32 (0))
  | .bindc sp rd ra ctr => some (pack 0x38000004 [(sp.toNat, 30), (rd.toNat, 19), (ra.toNat, 14), (ctr.toNat, 8)], BitVec.ofNat 32 (0))
  | .exit sp => some (pack 0x38000005 [(sp.toNat, 30)], BitVec.ofNat 32 (0))
  | .yield sp => some (pack 0x38000006 [(sp.toNat, 30)], BitVec.ofNat 32 (0))
  | .launch sp rd ra => some (pack 0x38000007 [(sp.toNat, 30), (rd.toNat, 19), (ra.toNat, 14)], BitVec.ofNat 32 (0))
  | .cancel sp rd ra op => some (pack 0x38000008 [(sp.toNat, 30), (rd.toNat, 19), (ra.toNat, 14), (op.toNat, 4)], BitVec.ofNat 32 (0))
  | .bar sp ra bar => some (pack 0x38000009 [(sp.toNat, 30), (ra.toNat, 14), (bar.toNat, 4)], BitVec.ofNat 32 (0))
  | .send sp ra rb vp => some (pack 0x39000000 [(sp.toNat, 30), (ra.toNat, 14), (rb.toNat, 9), (vp.toNat, 4)], BitVec.ofNat 32 (0))
  | .sendx sp rp ra rb => some (pack 0x39000001 [(sp.toNat, 30), (rp.toNat, 19), (ra.toNat, 14), (rb.toNat, 9)], BitVec.ofNat 32 (0))
  | .qstat sp rd q => some (pack 0x39000002 [(sp.toNat, 30), (rd.toNat, 19), (q.toNat, 4)], BitVec.ofNat 32 (0))
  | .qresv sp rd ra rb => some (pack 0x39000003 [(sp.toNat, 30), (rd.toNat, 19), (ra.toNat, 14), (rb.toNat, 9)], BitVec.ofNat 32 (0))
  | .enq sp rd ra rb eng => some (pack 0x39000004 [(sp.toNat, 30), (rd.toNat, 19), (ra.toNat, 14), (rb.toNat, 9), (eng.toNat, 4)], BitVec.ofNat 32 (0))
  | .jobq sp rd ra => some (pack 0x39000005 [(sp.toNat, 30), (rd.toNat, 19), (ra.toNat, 14)], BitVec.ofNat 32 (0))
  | .jobw sp rd ra => some (pack 0x39000006 [(sp.toNat, 30), (rd.toNat, 19), (ra.toNat, 14)], BitVec.ofNat 32 (0))
  | .glean sp rd ra => some (pack 0x3A000000 [(sp.toNat, 30), (rd.toNat, 19), (ra.toNat, 14)], BitVec.ofNat 32 (0))
  | .gstat sp rd ra op => some (pack 0x3A000001 [(sp.toNat, 30), (rd.toNat, 19), (ra.toNat, 14), (op.toNat, 4)], BitVec.ofNat 32 (0))
  | .ydecl sp rd ra => some (pack 0x3A000002 [(sp.toNat, 30), (rd.toNat, 19), (ra.toNat, 14)], BitVec.ofNat 32 (0))
  | .plbinv sp rd ra rb f => some (pack 0x3B000000 [(sp.toNat, 30), (rd.toNat, 19), (ra.toNat, 14), (rb.toNat, 9), (f.toNat, 4)], BitVec.ofNat 32 (0))
  | .htw sp rd ra rb => some (pack 0x3B000001 [(sp.toNat, 30), (rd.toNat, 19), (ra.toNat, 14), (rb.toNat, 9)], BitVec.ofNat 32 (0))
  | .wmap sp rd ra rb n => some (pack 0x3B000002 [(sp.toNat, 30), (rd.toNat, 19), (ra.toNat, 14), (rb.toNat, 9), (n.toNat, 4)], BitVec.ofNat 32 (0))
  | .wunmap sp rd rb n => some (pack 0x3B000003 [(sp.toNat, 30), (rd.toNat, 19), (rb.toNat, 9), (n.toNat, 4)], BitVec.ofNat 32 (0))
  | .cbld sp ra bank => some (pack 0x3B000004 [(sp.toNat, 30), (ra.toNat, 14), (bank.toNat, 4)], BitVec.ofNat 32 (0))
  | .syr sp rd num => some (pack 0x3C000000 [(sp.toNat, 30), (rd.toNat, 19), (num.toNat, 4)], BitVec.ofNat 32 (0))
  | .syw sp ra num => some (pack 0x3C000001 [(sp.toNat, 30), (ra.toNat, 14), (num.toNat, 4)], BitVec.ofNat 32 (0))
  | .trap sp ra code => some (pack 0x3C000002 [(sp.toNat, 30), (ra.toNat, 14), (code.toNat, 4)], BitVec.ofNat 32 (0))
  | .brk sp code => some (pack 0x3C000003 [(sp.toNat, 30), (code.toNat, 4)], BitVec.ofNat 32 (0))
  | .waite sp rd ra event => some (pack 0x3C000004 [(sp.toNat, 30), (rd.toNat, 19), (ra.toNat, 14), (event.toNat, 4)], BitVec.ofNat 32 (0))
  | .resume sp rd ra action => some (pack 0x3C000005 [(sp.toNat, 30), (rd.toNat, 19), (ra.toNat, 14), (action.toNat, 4)], BitVec.ofNat 32 (0))
  | _ => none

/-- The word of an A instruction; none for other instructions. -/
def encodeA : Instr → Option (BitVec 32)
  | .nopa => some (pack 0x00000000 [])
  | .vadd vd va vb ty rm => some (pack 0x02000000 [(vd.toNat, 19), (va.toNat, 13), (vb.toNat, 7), (ty.toNat, 3), (rm.toNat, 0)])
  | .vsub vd va vb ty rm => some (pack 0x04000000 [(vd.toNat, 19), (va.toNat, 13), (vb.toNat, 7), (ty.toNat, 3), (rm.toNat, 0)])
  | .vmul vd va vb ty rm => some (pack 0x06000000 [(vd.toNat, 19), (va.toNat, 13), (vb.toNat, 7), (ty.toNat, 3), (rm.toNat, 0)])
  | .vfma vd va vb ty rm => some (pack 0x08000000 [(vd.toNat, 19), (va.toNat, 13), (vb.toNat, 7), (ty.toNat, 3), (rm.toNat, 0)])
  | .vfms vd va vb ty rm => some (pack 0x0A000000 [(vd.toNat, 19), (va.toNat, 13), (vb.toNat, 7), (ty.toNat, 3), (rm.toNat, 0)])
  | .vfnma vd va vb ty rm => some (pack 0x0C000000 [(vd.toNat, 19), (va.toNat, 13), (vb.toNat, 7), (ty.toNat, 3), (rm.toNat, 0)])
  | .vmin vd va vb ty => some (pack 0x0E000000 [(vd.toNat, 19), (va.toNat, 13), (vb.toNat, 7), (ty.toNat, 3)])
  | .vmax vd va vb ty => some (pack 0x10000000 [(vd.toNat, 19), (va.toNat, 13), (vb.toNat, 7), (ty.toNat, 3)])
  | .vabs vd va ty => some (pack 0x12000000 [(vd.toNat, 19), (va.toNat, 13), (ty.toNat, 3)])
  | .vneg vd va ty => some (pack 0x14000000 [(vd.toNat, 19), (va.toNat, 13), (ty.toNat, 3)])
  | .vrcp vd va ty rm => some (pack 0x16000000 [(vd.toNat, 19), (va.toNat, 13), (ty.toNat, 3), (rm.toNat, 0)])
  | .vrsq vd va ty rm => some (pack 0x18000000 [(vd.toNat, 19), (va.toNat, 13), (ty.toNat, 3), (rm.toNat, 0)])
  | .vexp2 vd va ty rm => some (pack 0x1A000000 [(vd.toNat, 19), (va.toNat, 13), (ty.toNat, 3), (rm.toNat, 0)])
  | .vlog2 vd va ty rm => some (pack 0x1C000000 [(vd.toNat, 19), (va.toNat, 13), (ty.toNat, 3), (rm.toNat, 0)])
  | .viadd vd va vb ty => some (pack 0x20000000 [(vd.toNat, 19), (va.toNat, 13), (vb.toNat, 7), (ty.toNat, 3)])
  | .visub vd va vb ty => some (pack 0x22000000 [(vd.toNat, 19), (va.toNat, 13), (vb.toNat, 7), (ty.toNat, 3)])
  | .vimul vd va vb ty => some (pack 0x24000000 [(vd.toNat, 19), (va.toNat, 13), (vb.toNat, 7), (ty.toNat, 3)])
  | .vimulh vd va vb ty => some (pack 0x26000000 [(vd.toNat, 19), (va.toNat, 13), (vb.toNat, 7), (ty.toNat, 3)])
  | .vand vd va vb ty => some (pack 0x28000000 [(vd.toNat, 19), (va.toNat, 13), (vb.toNat, 7), (ty.toNat, 3)])
  | .vor vd va vb ty => some (pack 0x2A000000 [(vd.toNat, 19), (va.toNat, 13), (vb.toNat, 7), (ty.toNat, 3)])
  | .vxor vd va vb ty => some (pack 0x2C000000 [(vd.toNat, 19), (va.toNat, 13), (vb.toNat, 7), (ty.toNat, 3)])
  | .vshl vd va vb ty => some (pack 0x2E000000 [(vd.toNat, 19), (va.toNat, 13), (vb.toNat, 7), (ty.toNat, 3)])
  | .vshr vd va vb ty => some (pack 0x30000000 [(vd.toNat, 19), (va.toNat, 13), (vb.toNat, 7), (ty.toNat, 3)])
  | .vsra vd va vb ty => some (pack 0x32000000 [(vd.toNat, 19), (va.toNat, 13), (vb.toNat, 7), (ty.toNat, 3)])
  | .vimin vd va vb ty => some (pack 0x34000000 [(vd.toNat, 19), (va.toNat, 13), (vb.toNat, 7), (ty.toNat, 3)])
  | .vimax vd va vb ty => some (pack 0x36000000 [(vd.toNat, 19), (va.toNat, 13), (vb.toNat, 7), (ty.toNat, 3)])
  | .vfcmp vd va vb ty cond => some (pack 0x38000000 [(vd.toNat, 19), (va.toNat, 13), (vb.toNat, 7), (ty.toNat, 3), (cond.toNat, 0)])
  | .vicmp vd va vb ty cond => some (pack 0x3A000000 [(vd.toNat, 19), (va.toNat, 13), (vb.toNat, 7), (ty.toNat, 3), (cond.toNat, 0)])
  | .vsel vd va vb ty mk => some (pack 0x3C000000 [(vd.toNat, 19), (va.toNat, 13), (vb.toNat, 7), (ty.toNat, 3), (mk.toNat, 0)])
  | .mand vd va vb => some (pack 0x40000000 [(vd.toNat, 19), (va.toNat, 13), (vb.toNat, 7)])
  | .mor vd va vb => some (pack 0x42000000 [(vd.toNat, 19), (va.toNat, 13), (vb.toNat, 7)])
  | .mxor vd va vb => some (pack 0x44000000 [(vd.toNat, 19), (va.toNat, 13), (vb.toNat, 7)])
  | .mnot vd va => some (pack 0x46000000 [(vd.toNat, 19), (va.toNat, 13)])
  | .mpop vd va => some (pack 0x48000000 [(vd.toNat, 19), (va.toNat, 13)])
  | .mfirst vd va => some (pack 0x4A000000 [(vd.toNat, 19), (va.toNat, 13)])
  | .vbcast vd va k ty => some (pack 0x50000000 [(vd.toNat, 19), (va.toNat, 13), (k.toNat, 7), (ty.toNat, 3)])
  | .vextr vd va k ty => some (pack 0x52000000 [(vd.toNat, 19), (va.toNat, 13), (k.toNat, 7), (ty.toNat, 3)])
  | .vins vd va k ty => some (pack 0x54000000 [(vd.toNat, 19), (va.toNat, 13), (k.toNat, 7), (ty.toNat, 3)])
  | .vperm vd va vb ty => some (pack 0x56000000 [(vd.toNat, 19), (va.toNat, 13), (vb.toNat, 7), (ty.toNat, 3)])
  | .vrot vd va k ty => some (pack 0x58000000 [(vd.toNat, 19), (va.toNat, 13), (k.toNat, 7), (ty.toNat, 3)])
  | .vslide vd va k ty => some (pack 0x5A000000 [(vd.toNat, 19), (va.toNat, 13), (k.toNat, 7), (ty.toNat, 3)])
  | .vzip vd va vb ty h => some (pack 0x5C000000 [(vd.toNat, 19), (va.toNat, 13), (vb.toNat, 7), (ty.toNat, 3), (h.toNat, 0)])
  | .vunzip vd va vb ty h => some (pack 0x5E000000 [(vd.toNat, 19), (va.toNat, 13), (vb.toNat, 7), (ty.toNat, 3), (h.toNat, 0)])
  | .vrsum vd va ty rm => some (pack 0x60000000 [(vd.toNat, 19), (va.toNat, 13), (ty.toNat, 3), (rm.toNat, 0)])
  | .vrmax vd va ty => some (pack 0x62000000 [(vd.toNat, 19), (va.toNat, 13), (ty.toNat, 3)])
  | .vrmin vd va ty => some (pack 0x64000000 [(vd.toNat, 19), (va.toNat, 13), (ty.toNat, 3)])
  | .virsum vd va ty => some (pack 0x66000000 [(vd.toNat, 19), (va.toNat, 13), (ty.toNat, 3)])
  | .vdot4 vd va vb ty rm => some (pack 0x68000000 [(vd.toNat, 19), (va.toNat, 13), (vb.toNat, 7), (ty.toNat, 3), (rm.toNat, 0)])
  | .vdot2 vd va vb ty rm => some (pack 0x6A000000 [(vd.toNat, 19), (va.toNat, 13), (vb.toNat, 7), (ty.toNat, 3), (rm.toNat, 0)])
  | .vcvt vd va part src ty rm => some (pack 0x70000000 [(vd.toNat, 19), (va.toNat, 13), (part.toNat, 11), (src.toNat, 7), (ty.toNat, 3), (rm.toNat, 0)])
  | .vpack vd va vb ty => some (pack 0x72000000 [(vd.toNat, 19), (va.toNat, 13), (vb.toNat, 7), (ty.toNat, 3)])
  | .vunpack vd va part ty => some (pack 0x74000000 [(vd.toNat, 19), (va.toNat, 13), (part.toNat, 7), (ty.toNat, 3)])
  | .vqnt vd va gs ty rm => some (pack 0x76001800 [(vd.toNat, 19), (va.toNat, 13), (gs.toNat, 7), (ty.toNat, 3), (rm.toNat, 0)])
  | .vpopx vd va vb => some (pack 0x78000000 [(vd.toNat, 19), (va.toNat, 13), (vb.toNat, 7)])
  | .vcompr vd va vb ty => some (pack 0x7A000000 [(vd.toNat, 19), (va.toNat, 13), (vb.toNat, 7), (ty.toNat, 3)])
  | .vexpnd vd va vb ty => some (pack 0x7C000000 [(vd.toNat, 19), (va.toNat, 13), (vb.toNat, 7), (ty.toNat, 3)])
  | .vcbd vd va bank start ty => some (pack 0x7E000000 [(vd.toNat, 19), (va.toNat, 13), (bank.toNat, 12), (start.toNat, 7), (ty.toNat, 3)])
  | .mmaE4e4 acc ga latch stride => some (pack 0x81800000 [(acc.toNat, 19), (ga.toNat, 13), (latch.toNat, 7), (stride.toNat, 0)])
  | .mmaE4e5 acc ga latch stride => some (pack 0x83800000 [(acc.toNat, 19), (ga.toNat, 13), (latch.toNat, 7), (stride.toNat, 0)])
  | .mmaE5e4 acc ga latch stride => some (pack 0x85800000 [(acc.toNat, 19), (ga.toNat, 13), (latch.toNat, 7), (stride.toNat, 0)])
  | .mmaE5e5 acc ga latch stride => some (pack 0x87800000 [(acc.toNat, 19), (ga.toNat, 13), (latch.toNat, 7), (stride.toNat, 0)])
  | .mmaBf16 acc ga latch stride => some (pack 0x89800000 [(acc.toNat, 19), (ga.toNat, 13), (latch.toNat, 7), (stride.toNat, 0)])
  | .mmaF16 acc ga latch stride => some (pack 0x8B800000 [(acc.toNat, 19), (ga.toNat, 13), (latch.toNat, 7), (stride.toNat, 0)])
  | .mmaE3m2 acc ga latch stride => some (pack 0x8D800000 [(acc.toNat, 19), (ga.toNat, 13), (latch.toNat, 7), (stride.toNat, 0)])
  | .mmaE2m3 acc ga latch stride => some (pack 0x8F800000 [(acc.toNat, 19), (ga.toNat, 13), (latch.toNat, 7), (stride.toNat, 0)])
  | .mmaE2m1 acc ga latch stride => some (pack 0x91800000 [(acc.toNat, 19), (ga.toNat, 13), (latch.toNat, 7), (stride.toNat, 0)])
  | .mmaCb2e4 acc ga latch bank stride => some (pack 0x93800000 [(acc.toNat, 19), (ga.toNat, 13), (latch.toNat, 7), (bank.toNat, 6), (stride.toNat, 0)])
  | .mmaS8 acc ga latch stride => some (pack 0x95800000 [(acc.toNat, 19), (ga.toNat, 13), (latch.toNat, 7), (stride.toNat, 0)])
  | .mmaCb2bf acc ga latch bank stride => some (pack 0x97800000 [(acc.toNat, 19), (ga.toNat, 13), (latch.toNat, 7), (bank.toNat, 6), (stride.toNat, 0)])
  | .mzero acc => some (pack 0xA1800000 [(acc.toNat, 19)])
  | .mst acc ga ty rm => some (pack 0xA3800000 [(acc.toNat, 19), (ga.toNat, 13), (ty.toNat, 3), (rm.toNat, 0)])
  | .mld acc ga ty => some (pack 0xA5800000 [(acc.toNat, 19), (ga.toNat, 13), (ty.toNat, 3)])
  | .bldMemory ga latch => some (pack 0xA6000000 [(ga.toNat, 13), (latch.toNat, 7)])
  | .bldQueue q latch => some (pack 0xA6040000 [(q.toNat, 13), (latch.toNat, 7)])
  | .bpass latch => some (pack 0xA8000000 [(latch.toNat, 7)])
  | .bwait latch => some (pack 0xAA000000 [(latch.toNat, 7)])
  | _ => none

/-- The 8 bytes of a bundle as two words (R37, R6). -/
def bundleWords (bs : List Byte) : BitVec 32 × BitVec 32 :=
  let w (i : Nat) : BitVec 32 :=
    BitVec.ofNat 32 ((bs.getD i 0).toNat + 2 ^ 8 * (bs.getD (i + 1) 0).toNat + 2 ^ 16 * (bs.getD (i + 2) 0).toNat
      + 2 ^ 24 * (bs.getD (i + 3) 0).toNat)
  (w 0, w 4)

/-- The instruction of a table row's word. A row's word does not say which slot it stands in: the two words of a
bundle number from bit 0, so w is taken as the C word of a bundle whose other word holds the bits above; where that is
no C instruction, as an A word (log 9). A bundle whose C word is NOPC gives its A instruction. -/
def decodeTableWord (nbits w : Nat) : Option Instr :=
  let w0 := BitVec.ofNat 32 (w % 2 ^ nbits)
  let w1 := BitVec.ofNat 32 (w % 2 ^ nbits / 2 ^ 32)
  match decodeC w0 w1 with
  | .ok .nopc => if w1 = 0 then some .nopc else (decodeA w1).toOption
  | .ok c => some c
  | .error _ => (decodeA w0).toOption

end Sys2Proof
end

