-- ==== Sys2Proof/Machine/Slots.lean ====
section
/-! DEFINITION. What the instruction of one slot of a bundle comes to, for every instruction that stands in a slot. -/

namespace Sys2Proof.Machine

/-- The effect of a slot's instruction on the state before the bundle (`pre`) and the state written so far (`cur`); events stand in no
slot. -/
def slotOp (i : Instr) (pre cur : State) : Eff :=
  match i with
  | .nopc => slotNopc pre cur
  | .add _ rd ra rb => slotAdd rd ra rb pre cur
  | .sub _ rd ra rb => slotSub rd ra rb pre cur
  | .and _ rd ra rb => slotAnd rd ra rb pre cur
  | .or _ rd ra rb => slotOr rd ra rb pre cur
  | .xor _ rd ra rb => slotXor rd ra rb pre cur
  | .andn _ rd ra rb => slotAndn rd ra rb pre cur
  | .sll _ rd ra rb => slotSll rd ra rb pre cur
  | .srl _ rd ra rb => slotSrl rd ra rb pre cur
  | .sra _ rd ra rb => slotSra rd ra rb pre cur
  | .slt _ rd ra rb => slotSlt rd ra rb pre cur
  | .sltu _ rd ra rb => slotSltu rd ra rb pre cur
  | .min _ rd ra rb => slotMin rd ra rb pre cur
  | .max _ rd ra rb => slotMax rd ra rb pre cur
  | .minu _ rd ra rb => slotMinu rd ra rb pre cur
  | .maxu _ rd ra rb => slotMaxu rd ra rb pre cur
  | .mul _ rd ra rb => slotMul rd ra rb pre cur
  | .mulh _ rd ra rb => slotMulh rd ra rb pre cur
  | .mulhu _ rd ra rb => slotMulhu rd ra rb pre cur
  | .div _ rd ra rb => slotDiv rd ra rb pre cur
  | .divu _ rd ra rb => slotDivu rd ra rb pre cur
  | .rem _ rd ra rb => slotRem rd ra rb pre cur
  | .remu _ rd ra rb => slotRemu rd ra rb pre cur
  | .clz _ rd ra => slotClz rd ra pre cur
  | .ctz _ rd ra => slotCtz rd ra pre cur
  | .popc _ rd ra => slotPopc rd ra pre cur
  | .sel _ rd ra rb => slotSel rd ra rb pre cur
  | .addi _ rd ra imm => slotAddi rd ra imm pre cur
  | .andi _ rd ra imm => slotAndi rd ra imm pre cur
  | .ori _ rd ra imm => slotOri rd ra imm pre cur
  | .xori _ rd ra imm => slotXori rd ra imm pre cur
  | .slti _ rd ra imm => slotSlti rd ra imm pre cur
  | .sltiu _ rd ra imm => slotSltiu rd ra imm pre cur
  | .slli _ rd ra sh => slotSlli rd ra sh pre cur
  | .srli _ rd ra sh => slotSrli rd ra sh pre cur
  | .srai _ rd ra sh => slotSrai rd ra sh pre cur
  | .lui _ rd ra imm => slotLui rd ra imm pre cur
  | .li _ rd lit => slotLi rd lit pre cur
  | .lea _ rd ra rb scale disp => slotLea rd ra rb scale disp pre cur
  | .beq _ ra rb off => slotBeq ra rb off pre cur
  | .bne _ ra rb off => slotBne ra rb off pre cur
  | .blt _ ra rb off => slotBlt ra rb off pre cur
  | .bge _ ra rb off => slotBge ra rb off pre cur
  | .bltu _ ra rb off => slotBltu ra rb off pre cur
  | .bgeu _ ra rb off => slotBgeu ra rb off pre cur
  | .jal sp rd off => slotJal sp rd off pre cur
  | .jalr sp rd ra imm => slotJalr sp rd ra imm pre cur
  | .loop _ ra off => slotLoop ra off pre cur
  | .fork _ ctr n off => slotFork ctr n off pre cur
  | .ldb _ rd base ord imm => slotLdb rd base ord imm pre cur
  | .ldbu _ rd base ord imm => slotLdbu rd base ord imm pre cur
  | .ldh _ rd base ord imm => slotLdh rd base ord imm pre cur
  | .ldhu _ rd base ord imm => slotLdhu rd base ord imm pre cur
  | .ldw _ rd base ord imm => slotLdw rd base ord imm pre cur
  | .ldwu _ rd base ord imm => slotLdwu rd base ord imm pre cur
  | .ldd _ rd base ord imm => slotLdd rd base ord imm pre cur
  | .stb _ rd base ord imm => slotStb rd base ord imm pre cur
  | .sth _ rd base ord imm => slotSth rd base ord imm pre cur
  | .stw _ rd base ord imm => slotStw rd base ord imm pre cur
  | .std _ rd base ord imm => slotStd rd base ord imm pre cur
  | .stref _ rd base ord imm => slotStref rd base ord imm pre cur
  | .ldt _ rd base ord imm => slotLdt rd base ord imm pre cur
  | .vld _ vd base ord len mk disp => slotVld vd base ord len mk disp pre cur
  | .vst _ vd base ord len mk disp => slotVst vd base ord len mk disp pre cur
  | .vldx _ vd base ord vi e8 mk disp => slotVldx vd base ord vi e8 mk disp pre cur
  | .vstx _ vd base ord vi e8 mk disp => slotVstx vd base ord vi e8 mk disp pre cur
  | .amoadd _ rd ra rb ord w => slotAmoadd rd ra rb ord w pre cur
  | .amoand _ rd ra rb ord w => slotAmoand rd ra rb ord w pre cur
  | .amoor _ rd ra rb ord w => slotAmoor rd ra rb ord w pre cur
  | .amoxor _ rd ra rb ord w => slotAmoxor rd ra rb ord w pre cur
  | .amomin _ rd ra rb ord w => slotAmomin rd ra rb ord w pre cur
  | .amomax _ rd ra rb ord w => slotAmomax rd ra rb ord w pre cur
  | .amominu _ rd ra rb ord w => slotAmominu rd ra rb ord w pre cur
  | .amomaxu _ rd ra rb ord w => slotAmomaxu rd ra rb ord w pre cur
  | .amoswap _ rd ra rb ord w => slotAmoswap rd ra rb ord w pre cur
  | .amocas _ rd ra rb ord w => slotAmocas rd ra rb ord w pre cur
  | .amofadd _ rd ra rb ord => slotAmofadd rd ra rb ord pre cur
  | .amofaddv _ vd base ord len mk disp => slotAmofaddv vd base ord len mk disp pre cur
  | .fence _ rd ord => slotFence rd ord pre cur
  | .pub _ rd ra scope => slotPub rd ra scope pre cur
  | .pref _ ra lvl rb => slotPref ra lvl rb pre cur
  | .resq _ rd ra lvl rb => slotResq rd ra lvl rb pre cur
  | .cln _ ra ord rb => slotCln ra ord rb pre cur
  | .inv _ ra ord rb => slotInv ra ord rb pre cur
  | .setc _ ra ctr => slotSetc ra ctr pre cur
  | .decc _ ra ctr => slotDecc ra ctr pre cur
  | .getc _ rd ctr => slotGetc rd ctr pre cur
  | .waitc sp rd ctr => slotWaitc sp rd ctr pre cur
  | .bindc _ rd ra ctr => slotBindc rd ra ctr pre cur
  | .exit _ => slotExit pre cur
  | .yield sp => slotYield sp pre cur
  | .launch _ rd ra => slotLaunch rd ra pre cur
  | .cancel _ rd ra op => slotCancel rd ra op pre cur
  | .bar _ ra bar => slotBar ra bar pre cur
  | .send _ ra rb vp => slotSend ra rb vp pre cur
  | .sendx _ rp ra rb => slotSendx rp ra rb pre cur
  | .qstat _ rd q => slotQstat rd q pre cur
  | .qresv _ rd ra rb => slotQresv rd ra rb pre cur
  | .enq _ rd ra rb eng => slotEnq rd ra rb eng pre cur
  | .jobq _ rd ra => slotJobq rd ra pre cur
  | .jobw sp rd ra => slotJobw sp rd ra pre cur
  | .glean _ rd ra => slotGlean rd ra pre cur
  | .gstat _ rd ra op => slotGstat rd ra op pre cur
  | .ydecl _ rd ra => slotYdecl rd ra pre cur
  | .plbinv _ rd ra rb f => slotPlbinv rd ra rb f pre cur
  | .htw _ rd ra rb => slotHtw rd ra rb pre cur
  | .wmap _ rd ra rb n => slotWmap rd ra rb n pre cur
  | .wunmap _ rd rb n => slotWunmap rd rb n pre cur
  | .cbld _ ra bank => slotCbld ra bank pre cur
  | .syr _ rd num => slotSyr rd num pre cur
  | .syw _ ra num => slotSyw ra num pre cur
  | .trap _ ra code => slotTrap ra code pre cur
  | .brk _ code => slotBrk code pre cur
  | .waite sp rd ra event => slotWaite sp rd ra event pre cur
  | .resume _ rd ra action => slotResume rd ra action pre cur
  | .nopa => slotNopa pre cur
  | .vadd vd va vb ty rm => slotVadd vd va vb ty rm pre cur
  | .vsub vd va vb ty rm => slotVsub vd va vb ty rm pre cur
  | .vmul vd va vb ty rm => slotVmul vd va vb ty rm pre cur
  | .vfma vd va vb ty rm => slotVfma vd va vb ty rm pre cur
  | .vfms vd va vb ty rm => slotVfms vd va vb ty rm pre cur
  | .vfnma vd va vb ty rm => slotVfnma vd va vb ty rm pre cur
  | .vmin vd va vb ty => slotVmin vd va vb ty pre cur
  | .vmax vd va vb ty => slotVmax vd va vb ty pre cur
  | .vabs vd va ty => slotVabs vd va ty pre cur
  | .vneg vd va ty => slotVneg vd va ty pre cur
  | .vrcp vd va ty rm => slotVrcp vd va ty rm pre cur
  | .vrsq vd va ty rm => slotVrsq vd va ty rm pre cur
  | .vexp2 vd va ty rm => slotVexp2 vd va ty rm pre cur
  | .vlog2 vd va ty rm => slotVlog2 vd va ty rm pre cur
  | .viadd vd va vb ty => slotViadd vd va vb ty pre cur
  | .visub vd va vb ty => slotVisub vd va vb ty pre cur
  | .vimul vd va vb ty => slotVimul vd va vb ty pre cur
  | .vimulh vd va vb ty => slotVimulh vd va vb ty pre cur
  | .vand vd va vb ty => slotVand vd va vb ty pre cur
  | .vor vd va vb ty => slotVor vd va vb ty pre cur
  | .vxor vd va vb ty => slotVxor vd va vb ty pre cur
  | .vshl vd va vb ty => slotVshl vd va vb ty pre cur
  | .vshr vd va vb ty => slotVshr vd va vb ty pre cur
  | .vsra vd va vb ty => slotVsra vd va vb ty pre cur
  | .vimin vd va vb ty => slotVimin vd va vb ty pre cur
  | .vimax vd va vb ty => slotVimax vd va vb ty pre cur
  | .vfcmp vd va vb ty cond => slotVfcmp vd va vb ty cond pre cur
  | .vicmp vd va vb ty cond => slotVicmp vd va vb ty cond pre cur
  | .vsel vd va vb ty mk => slotVsel vd va vb ty mk pre cur
  | .mand vd va vb => slotMand vd va vb pre cur
  | .mor vd va vb => slotMor vd va vb pre cur
  | .mxor vd va vb => slotMxor vd va vb pre cur
  | .mnot vd va => slotMnot vd va pre cur
  | .mpop vd va => slotMpop vd va pre cur
  | .mfirst vd va => slotMfirst vd va pre cur
  | .vbcast vd va k ty => slotVbcast vd va k ty pre cur
  | .vextr vd va k ty => slotVextr vd va k ty pre cur
  | .vins vd va k ty => slotVins vd va k ty pre cur
  | .vperm vd va vb ty => slotVperm vd va vb ty pre cur
  | .vrot vd va k ty => slotVrot vd va k ty pre cur
  | .vslide vd va k ty => slotVslide vd va k ty pre cur
  | .vzip vd va vb ty h => slotVzip vd va vb ty h pre cur
  | .vunzip vd va vb ty h => slotVunzip vd va vb ty h pre cur
  | .vrsum vd va ty rm => slotVrsum vd va ty rm pre cur
  | .vrmax vd va ty => slotVrmax vd va ty pre cur
  | .vrmin vd va ty => slotVrmin vd va ty pre cur
  | .virsum vd va ty => slotVirsum vd va ty pre cur
  | .vdot4 vd va vb ty rm => slotVdot4 vd va vb ty rm pre cur
  | .vdot2 vd va vb ty rm => slotVdot2 vd va vb ty rm pre cur
  | .vcvt vd va part src ty rm => slotVcvt vd va part src ty rm pre cur
  | .vpack vd va vb ty => slotVpack vd va vb ty pre cur
  | .vunpack vd va part ty => slotVunpack vd va part ty pre cur
  | .vqnt vd va gs ty rm => slotVqnt vd va gs ty rm pre cur
  | .vpopx vd va vb => slotVpopx vd va vb pre cur
  | .vcompr vd va vb ty => slotVcompr vd va vb ty pre cur
  | .vexpnd vd va vb ty => slotVexpnd vd va vb ty pre cur
  | .vcbd vd va bank start ty => slotVcbd vd va bank start ty pre cur
  | .mmaE4e4 acc ga latch stride => slotMmaE4e4 acc ga latch stride pre cur
  | .mmaE4e5 acc ga latch stride => slotMmaE4e5 acc ga latch stride pre cur
  | .mmaE5e4 acc ga latch stride => slotMmaE5e4 acc ga latch stride pre cur
  | .mmaE5e5 acc ga latch stride => slotMmaE5e5 acc ga latch stride pre cur
  | .mmaBf16 acc ga latch stride => slotMmaBf16 acc ga latch stride pre cur
  | .mmaF16 acc ga latch stride => slotMmaF16 acc ga latch stride pre cur
  | .mmaE3m2 acc ga latch stride => slotMmaE3m2 acc ga latch stride pre cur
  | .mmaE2m3 acc ga latch stride => slotMmaE2m3 acc ga latch stride pre cur
  | .mmaE2m1 acc ga latch stride => slotMmaE2m1 acc ga latch stride pre cur
  | .mmaCb2e4 acc ga latch bank stride => slotMmaCb2e4 acc ga latch bank stride pre cur
  | .mmaS8 acc ga latch stride => slotMmaS8 acc ga latch stride pre cur
  | .mmaCb2bf acc ga latch bank stride => slotMmaCb2bf acc ga latch bank stride pre cur
  | .mzero acc => slotMzero acc pre cur
  | .mst acc ga ty rm => slotMst acc ga ty rm pre cur
  | .mld acc ga ty => slotMld acc ga ty pre cur
  | .bldMemory ga latch => slotBldMemory ga latch pre cur
  | .bldQueue q latch => slotBldQueue q latch pre cur
  | .bpass latch => slotBpass latch pre cur
  | .bwait latch => slotBwait latch pre cur
  | .machineCheck .. => .ok cur none
  | .scrubWord .. => .ok cur none
  | .mmaComplete .. => .ok cur none
  | .seamHandoffBegin .. => .ok cur none
  | .seamArrivalLanded .. => .ok cur none
  | .ballastMma .. => .ok cur none
  | .pageWalkComplete .. => .ok cur none
  | .fillArrives .. => .ok cur none
  | .idleCoalesce .. => .ok cur none
  | .homeStore .. => .ok cur none
  | .homeFill .. => .ok cur none
  | .homeWriteback .. => .ok cur none
  | .farAtomic .. => .ok cur none
  | .amoGroupTimeout .. => .ok cur none
  | .invalidate .. => .ok cur none
  | .remoteInvalidate .. => .ok cur none
  | .invalidateAck .. => .ok cur none
  | .invalidateTimeout .. => .ok cur none
  | .ackReceived .. => .ok cur none
  | .egressCombineTimeout .. => .ok cur none
  | .boltStore .. => .ok cur none
  | .boltRead .. => .ok cur none
  | .forwardedWindowAccess .. => .ok cur none
  | .wunmapDrainComplete .. => .ok cur none
  | .sowerWalkStep .. => .ok cur none
  | .publicationNotice .. => .ok cur none
  | .pubComplete .. => .ok cur none
  | .messageArrival .. => .ok cur none
  | .channelPacketArrival .. => .ok cur none
  | .countModeArrival .. => .ok cur none
  | .taskDispatch .. => .ok cur none
  | .dequeAgeing .. => .ok cur none
  | .drillCycle .. => .ok cur none
  | .preemptionRequest .. => .ok cur none
  | .forcedSave .. => .ok cur none
  | .registerContextArrival .. => .ok cur none
  | .loadReplyForwarded .. => .ok cur none
  | .copy .. => .ok cur none
  | .copyChunk .. => .ok cur none
  | .allReduce .. => .ok cur none
  | .reduceScatter .. => .ok cur none
  | .allGather .. => .ok cur none
  | .broadcast .. => .ok cur none
  | .mediaDecode .. => .ok cur none
  | .jobComplete .. => .ok cur none
  | .gleanerVisit .. => .ok cur none
  | .gleanerPassStart .. => .ok cur none
  | .rampSlotBoundary => .ok cur none
  | .waiteDeadline .. => .ok cur none
  | .hostWrite .. => .ok cur none
  | .hostRead .. => .ok cur none
  | .doorbellWrite .. => .ok cur none
  | .ownerCas .. => .ok cur none
  | .hostLaunch .. => .ok cur none
  | .hostResume .. => .ok cur none
  | .trapAcknowledge .. => .ok cur none
  | .hostTrapDelivery .. => .ok cur none
  | .partitionWrite .. => .ok cur none
  | .samplingPulse .. => .ok cur none
  | .samplingPeriod => .ok cur none
  | .debugHalt .. => .ok cur none
  | .debugRegisterWrite .. => .ok cur none
  | .registerWrite .. => .ok cur none
  | .linkPortFailure .. => .ok cur none
  | .linkFailoverTimeout .. => .ok cur none
  | .powerOn .. => .ok cur none
  | .deviceReset => .ok cur none
  | .unitReady .. => .ok cur none
  | .unitMappedOut .. => .ok cur none
  | .fatalError .. => .ok cur none
  | .dumpResendRequest .. => .ok cur none
  | .clusterResume .. => .ok cur none
  | .softError .. => .ok cur none
  | .plbinvDrop .. => .ok cur none
  | .peerReadCompletion .. => .ok cur none
  | .malformedCommand .. => .ok cur none

/-- The S bit of a C instruction (R39). -/
def safePoint (i : Instr) : Bool :=
  match i with
  | .add sp _ _ _ => sp
  | .sub sp _ _ _ => sp
  | .and sp _ _ _ => sp
  | .or sp _ _ _ => sp
  | .xor sp _ _ _ => sp
  | .andn sp _ _ _ => sp
  | .sll sp _ _ _ => sp
  | .srl sp _ _ _ => sp
  | .sra sp _ _ _ => sp
  | .slt sp _ _ _ => sp
  | .sltu sp _ _ _ => sp
  | .min sp _ _ _ => sp
  | .max sp _ _ _ => sp
  | .minu sp _ _ _ => sp
  | .maxu sp _ _ _ => sp
  | .mul sp _ _ _ => sp
  | .mulh sp _ _ _ => sp
  | .mulhu sp _ _ _ => sp
  | .div sp _ _ _ => sp
  | .divu sp _ _ _ => sp
  | .rem sp _ _ _ => sp
  | .remu sp _ _ _ => sp
  | .clz sp _ _ => sp
  | .ctz sp _ _ => sp
  | .popc sp _ _ => sp
  | .sel sp _ _ _ => sp
  | .addi sp _ _ _ => sp
  | .andi sp _ _ _ => sp
  | .ori sp _ _ _ => sp
  | .xori sp _ _ _ => sp
  | .slti sp _ _ _ => sp
  | .sltiu sp _ _ _ => sp
  | .slli sp _ _ _ => sp
  | .srli sp _ _ _ => sp
  | .srai sp _ _ _ => sp
  | .lui sp _ _ _ => sp
  | .li sp _ _ => sp
  | .lea sp _ _ _ _ _ => sp
  | .beq sp _ _ _ => sp
  | .bne sp _ _ _ => sp
  | .blt sp _ _ _ => sp
  | .bge sp _ _ _ => sp
  | .bltu sp _ _ _ => sp
  | .bgeu sp _ _ _ => sp
  | .jal sp _ _ => sp
  | .jalr sp _ _ _ => sp
  | .loop sp _ _ => sp
  | .fork sp _ _ _ => sp
  | .ldb sp _ _ _ _ => sp
  | .ldbu sp _ _ _ _ => sp
  | .ldh sp _ _ _ _ => sp
  | .ldhu sp _ _ _ _ => sp
  | .ldw sp _ _ _ _ => sp
  | .ldwu sp _ _ _ _ => sp
  | .ldd sp _ _ _ _ => sp
  | .stb sp _ _ _ _ => sp
  | .sth sp _ _ _ _ => sp
  | .stw sp _ _ _ _ => sp
  | .std sp _ _ _ _ => sp
  | .stref sp _ _ _ _ => sp
  | .ldt sp _ _ _ _ => sp
  | .vld sp _ _ _ _ _ _ => sp
  | .vst sp _ _ _ _ _ _ => sp
  | .vldx sp _ _ _ _ _ _ _ => sp
  | .vstx sp _ _ _ _ _ _ _ => sp
  | .amoadd sp _ _ _ _ _ => sp
  | .amoand sp _ _ _ _ _ => sp
  | .amoor sp _ _ _ _ _ => sp
  | .amoxor sp _ _ _ _ _ => sp
  | .amomin sp _ _ _ _ _ => sp
  | .amomax sp _ _ _ _ _ => sp
  | .amominu sp _ _ _ _ _ => sp
  | .amomaxu sp _ _ _ _ _ => sp
  | .amoswap sp _ _ _ _ _ => sp
  | .amocas sp _ _ _ _ _ => sp
  | .amofadd sp _ _ _ _ => sp
  | .amofaddv sp _ _ _ _ _ _ => sp
  | .fence sp _ _ => sp
  | .pub sp _ _ _ => sp
  | .pref sp _ _ _ => sp
  | .resq sp _ _ _ _ => sp
  | .cln sp _ _ _ => sp
  | .inv sp _ _ _ => sp
  | .setc sp _ _ => sp
  | .decc sp _ _ => sp
  | .getc sp _ _ => sp
  | .waitc sp _ _ => sp
  | .bindc sp _ _ _ => sp
  | .exit sp => sp
  | .yield sp => sp
  | .launch sp _ _ => sp
  | .cancel sp _ _ _ => sp
  | .bar sp _ _ => sp
  | .send sp _ _ _ => sp
  | .sendx sp _ _ _ => sp
  | .qstat sp _ _ => sp
  | .qresv sp _ _ _ => sp
  | .enq sp _ _ _ _ => sp
  | .jobq sp _ _ => sp
  | .jobw sp _ _ => sp
  | .glean sp _ _ => sp
  | .gstat sp _ _ _ => sp
  | .ydecl sp _ _ => sp
  | .plbinv sp _ _ _ _ => sp
  | .htw sp _ _ _ => sp
  | .wmap sp _ _ _ _ => sp
  | .wunmap sp _ _ _ => sp
  | .cbld sp _ _ => sp
  | .syr sp _ _ => sp
  | .syw sp _ _ => sp
  | .trap sp _ _ => sp
  | .brk sp _ => sp
  | .waite sp _ _ _ => sp
  | .resume sp _ _ _ => sp
  | _ => false

end Sys2Proof.Machine
end

