-- ==== Sys2Proof/Machine/Bundle.lean ====
section
/-! DEFINITION. A bundle: both slots checked, issued and retired together (R37 to R41, R84, R88, R90, R142, R379), and what a hart does
when it is its turn. -/

namespace Sys2Proof.Machine

/-! ### Illegal bundles -/

/-- An instruction is illegal in its slot: a field value, or a register that is not allocated (R57, R71). -/
def Hart.slotIllegal (x : Hart) (i : Instr) : Bool := !(wellFormed i && x.allocated (uses i))

/-- The C slot, or the A slot, is empty. -/
def isNopc : Instr → Bool
  | .nopc => true
  | _ => false

def isNopa : Instr → Bool
  | .nopa => true
  | _ => false

/-- Instructions whose bundle must have NOPA in its A slot (R90, R317). -/
def standsAlone : Instr → Bool
  | .trap .. | .brk .. | .exit .. => true
  | _ => false

/-- Both slots write one g register other than g0, or one v register (R40); or an A instruction stands beside TRAP, BRK or EXIT. -/
def pairIllegal (c a : Instr) : Bool :=
  (uses c).gw.any (fun r => r != 0 && (uses a).gw.contains r) || (uses c).vw.any (fun r => (uses a).vw.contains r)
    || (standsAlone c && !isNopa a)

/-! ### Both slots -/

/-- The bank that the A slot reads while the C slot's CBLD loads it (R123, R142). -/
def sharesBank (c a : Instr) : Bool :=
  match c with
  | .cbld _ _ b => match a with
    | .vcbd _ _ k _ _ => k.toNat == b.toNat
    | .mmaCb2e4 _ _ _ k _ => k.toNat == b.toNat
    | .mmaCb2bf _ _ _ k _ => k.toNat == b.toNat
    | _ => false
  | _ => false

/-- SYW of sy.rng beside an instruction that draws: the written value stands (R88). -/
def writesRng : Instr → Bool
  | .syw _ _ n => n == 0x011
  | _ => false

/-- YIELD: the A slot takes effect before the save (R41, R166). -/
def isYield : Instr → Bool
  | .yield _ => true
  | _ => false

/-- A trap of slot A, while the C slot waits. -/
def State.trapA (pre : State) (sp : Bool) (e : Eff) : Option State :=
  match e with
  | .trap .. => some (pre.settle true sp e)
  | _ => none

/-- The bundle waits: what the A slot's own wait records stands too, as a latch that opens (R133) or a walk that is asked for (R287). -/
def State.blockBoth (s : State) (a : Instr) (la : Option Nat) : State :=
  match (slotOp a s s).orLost la with
  | .wait s2 | .walk s2 => s2.block
  | _ => s.block

/-- The A slot after the C slot's effect s1 with the transfer `jump`. Where both slots store to the same local bytes, those of the A slot's
MST stand: the spec does not say which come last (log 52). -/
def State.finishA (pre s1 : State) (c a : Instr) (sp : Bool) (jump : Option Word) (lost : Option Nat) : State :=
  match (slotOp a pre s1).orLost lost with
  | .ok s2 _ =>
    let s2 := if writesRng c then s2.modMe (fun x => { x with rng := s1.me.rng }) else s2
    pre.settle false sp (.ok s2 jump)
  | e => pre.settle true sp e

/-- The bank that a CBLD fills. -/
def bankIn : Instr → Bool
  | .cbld _ _ b => b == 1
  | _ => false

/-- The hart's CBLD of bank b, which its waiting bundle began. -/
def Hart.bankLoad (x : Hart) (b : Bool) : Option PLoad := x.loads.find? (fun l => l.dest == .bank b)

/-- A bundle whose A slot reads the bank that its CBLD loads (R123, R142): the rows come in, and the A slot then reads them; the bank is
written as the bundle issues, and not before (R41, R146). With the rows there the bank is not loading, so that what others do with it does not wait for
this bundle's other waits; it issues between their reads and loads of the bank. -/
def State.issueShared (s : State) (c a : Instr) (sp : Bool) (lc la : Option Nat) : State :=
  let b := bankIn c
  -- the A slot on the rows of `s1`; while it waits, the bank is not written
  let finish (s1 : State) : State :=
    match (slotOp a s1 s1).orLost la with
    | .ok s2 _ => s.settle false sp (.ok s2 none)
    | .trap k code faddr => s.settle true sp (.trap k code faddr)
    | _ => s.blockBoth a la
  let c' := s.core (coreOf s.cur)
  if s.me.wait == .bank b then
    match s.me.bankLoad b with
    | some l => if l.wants.all (fun w => w.val.isSome) && !c'.bankLoading b && !c'.mma.any (fun j => j.bank == some b) then finish ((s.modMe (fun x => { x with wait := .none })).bindLoad s.cur l) else s.blockBoth a la
    | none => s.block
  else
    match (slotOp c s s).orLost lc with
    | .ok s1 _ =>
      match s.trapA sp ((slotOp a s s).orLost la) with
      | some s' => s'
      | none => if (s1.me.bankLoad b).isSome then (s1.blockBoth a la).modMe (fun x => { x with wait := .bank b }) else finish s1
    | .wait s1 =>
      match s.trapA sp ((slotOp a s s).orLost la) with
      | some s' => s'
      | none => s1.blockBoth a la
    | e => s.settle false sp e

/-- The bundle's two instructions in the state in which they are about to issue; `lc` and `la` are words that their reads lost (R73). -/
def State.issueSlots (s : State) (c a : Instr) (sp : Bool) (lc la : Option Nat) : State :=
  if sharesBank c a then s.issueShared c a sp lc la
  else if isYield c then
    match (slotOp a s s).orLost la with
    | .ok s1 _ => s.settle false sp ((slotOp c s s1).orLost lc)
    | e => match (slotOp c s s).orLost lc with
      | .trap k code faddr => s.settle false sp (.trap k code faddr)
      | _ => s.settle true sp e
  else
    match (slotOp c s s).orLost lc with
    | .ok s1 jump => s.finishA s1 c a sp jump la
    | .wait s1 =>
      match s.trapA sp ((slotOp a s s).orLost la) with
      | some s' => s'
      | none => s1.blockBoth a la
    | e => s.settle false sp e

/-- A bundle whose A instruction is illegal: what the C instruction's own checks raise prevails (R41, R379). -/
def State.illegalA (s : State) (c : Instr) (sp : Bool) : State :=
  if s.me.awaits (uses c) then s.block
  else
    let r := s.readRegs (uses c)
    (match (slotOp c r.1 r.1).orLost (if isNopc c then none else s.me.lostWord.or r.2.2) with
    | .trap k code faddr => r.1.settle false sp (.trap k code faddr)
    | .walk s1 => s1.block
    | _ => r.1.forgetAbsent.trapHere true sp .illegal 0 0).countFixed r.2.1

/-- A bundle whose C instruction is decoded, and its A instruction unless its word is none (R40, R41): illegal, not ready, or issued. -/
def State.issueBundle (s : State) (c : Instr) (decoded : Option Instr) : State :=
  let sp := safePoint c
  let clash := match decoded with
    | none => standsAlone c
    | some a => pairIllegal c a
  if s.me.slotIllegal c || clash then s.forgetAbsent.trapHere false sp .illegal 0 0
  else match decoded with
    | none => s.illegalA c sp
    | some a =>
      if s.me.slotIllegal a then s.illegalA c sp
      else if s.me.awaits (uses c) || s.me.awaits (uses a) then s.block
      else
        let r1 := s.readRegs (uses c)
        let r2 := r1.1.readRegs (uses a)
        -- a word lost at a save is met by the first bundle, in its C slot unless that is empty (R164)
        let inA := isNopc c && !isNopa a
        (r2.1.issueSlots c a sp (if inA then r1.2.2 else s.me.lostWord.or r1.2.2)
          (if inA then s.me.lostWord.or r2.2.2 else r2.2.2)).countFixed (r1.2.1 + r2.2.1)

/-! ### A hart's turn -/

/-- A PC breakpoint of the cluster debug module matches (R354). -/
def State.atBreakpoint (s : State) : Bool :=
  (s.cluster (clusterOf s.cur)).dbg.bps.any (fun b => b.1 == s.me.pc.toNat && bit b.2 (coreOf s.cur % 16))

/-- The bundle's words fetched (R84): a breakpoint, then decoding, then issue. -/
def State.runWords (s : State) (w0 w1 : BitVec 32) : State :=
  let sp := bit w0 30
  if s.atBreakpoint then
    if (s.cluster (clusterOf s.cur)).dbg.haltOnBp then (s.haltCluster (clusterOf s.cur)).block
    else s.forgetAbsent.trapHere false sp .breakpoint 0 0
  else match decodeBundle w0 w1 with
    | .ok (c, a) => s.issueBundle c (some a)
    | .error _ => match decodeC w0 w1 with
      | .ok c => s.issueBundle c none
      | .error _ => s.forgetAbsent.trapHere false sp .illegal 0 0

/-- The bundle at the hart's pc (R84, R285): a page that the PLB does not hold is walked for, a failing fetch traps at the target, and one
that a home refuses is a machine check (R187). -/
def State.runBundle (s : State) : State :=
  let a := s.me.pc.toNat
  match s.checkByte s.cur .fetch a with
  | .miss => (s.requestWalks s.cur [a]).block
  | .fail c => (s.withdraw s.cur).parkAs s.cur false c 0 s.me.pc s.me.pc 0 (.bundle false)
  | .pass =>
    -- the bytes are those of a store that its home has not completed (R189), the home is not ready (R343), or they come from another device
    if s.peekHeld s.cur a 8 then (s.askAtIssue s.cur a 8).block
    else match s.fetch s.cur a with
      | some (w0, w1) =>
        -- the sequencer has the mask bundle too (R33)
        if bit w0 30 && (List.range 8).any (fun k => s.mustAsk s.cur (a + 8 + k)) then (s.askAtIssue s.cur (a + 8) 8).block
        else s.runWords w0 w1
      | none => s.modMe (fun x => { x with mchecks := x.mchecks ++ [a] })

/-- The turn of the hart that issues (R14, R151, R318): a bundle whose wait is over issues (R321), a cancelled task ends, a save or a restore
that waits is tried again, a machine check is taken, else its bundle is tried. -/
def State.turn (s : State) : State :=
  let h := s.cur
  let x := s.me
  if s.fatal || (s.cluster (clusterOf h)).dbg.halted || (x.run != .running && x.run != .blocked) then s
  else if x.wait == .released && x.run == .running && x.busy.isNone then s.runBundle
  else if x.cancelled then (if s.mayEnd h then s.endTask h true else s)
  else match x.busy with
    | some (.save pc gl vl forced) => s.save h pc gl vl forced
    | some (.restore t) => match t.saved with
      | some r => if s.restoreWaits h t then s else s.restore h t r
      | none => s
    | some _ => s
    | none => if !x.mchecks.isEmpty then s.takeMachineCheck h else s.runBundle

end Sys2Proof.Machine
end

