-- ==== Sys2Proof/Machine/EventRun.lean ====
section
/-! DEFINITION. An event of the agenda performed: the meaning of the instruction of the same name. -/

namespace Sys2Proof.Machine

/-- An event performed. -/
def execEvent (e : Event) (s : State) : Result :=
  match e with
  | .machineCheck h => execMachineCheck h s
  | .scrubWord c => execScrubWord c s
  | .mmaComplete c => execMmaComplete c s
  | .seamHandoffBegin c l => execSeamHandoffBegin c l s
  | .seamArrivalLanded c l => execSeamArrivalLanded c l s
  | .ballastMma c => execBallastMma c s
  | .pageWalkComplete c => execPageWalkComplete c s
  | .fillArrives c => execFillArrives c s
  | .idleCoalesce c st => execIdleCoalesce c st s
  | .homeStore h => execHomeStore h s
  | .homeFill h => execHomeFill h s
  | .homeWriteback h => execHomeWriteback h s
  | .farAtomic h => execFarAtomic h s
  | .amoGroupTimeout h => execAmoGroupTimeout h s
  | .invalidate k => execInvalidate k s
  | .remoteInvalidate dev region lo hi => execRemoteInvalidate dev region lo hi s
  | .invalidateAck h => execInvalidateAck h s
  | .invalidateTimeout h party => execInvalidateTimeout h party s
  | .ackReceived h => execAckReceived h s
  | .egressCombineTimeout k => execEgressCombineTimeout k s
  | .boltStore k => execBoltStore k s
  | .boltRead k => execBoltRead k s
  | .forwardedWindowAccess c => execForwardedWindowAccess c s
  | .wunmapDrainComplete c n => execWunmapDrainComplete c n s
  | .sowerWalkStep k => execSowerWalkStep k s
  | .publicationNotice k => execPublicationNotice k s
  | .pubComplete h => execPubComplete h s
  | .messageArrival c => execMessageArrival c s
  | .channelPacketArrival c => execChannelPacketArrival c s
  | .countModeArrival c => execCountModeArrival c s
  | .taskDispatch h => execTaskDispatch h s
  | .dequeAgeing c => execDequeAgeing c s
  | .drillCycle d => execDrillCycle d s
  | .preemptionRequest h dest => execPreemptionRequest h dest s
  | .forcedSave h => execForcedSave h s
  | .registerContextArrival c => execRegisterContextArrival c s
  | .loadReplyForwarded c => execLoadReplyForwarded c s
  | .copy ex => execCopy ex s
  | .copyChunk ex => execCopyChunk ex s
  | .allReduce ex others => execAllReduce ex others s
  | .reduceScatter ex others => execReduceScatter ex others s
  | .allGather ex others => execAllGather ex others s
  | .broadcast ex others => execBroadcast ex others s
  | .mediaDecode ex => execMediaDecode ex s
  | .jobComplete ex => execJobComplete ex s
  | .gleanerVisit k slot => execGleanerVisit k slot s
  | .gleanerPassStart k slot => execGleanerPassStart k slot s
  | .rampSlotBoundary => execRampSlotBoundary s
  | .waiteDeadline h => execWaiteDeadline h s
  | .hostWrite path off data => execHostWrite path off data s
  | .hostRead path off len => execHostRead path off len s
  | .doorbellWrite size value => execDoorbellWrite size value s
  | .ownerCas m expected new => execOwnerCas m expected new s
  | .hostLaunch m p value => execHostLaunch m p value s
  | .hostResume m handle action => execHostResume m handle action s
  | .trapAcknowledge m p => execTrapAcknowledge m p s
  | .hostTrapDelivery c => execHostTrapDelivery c s
  | .partitionWrite m p w0 w1 w2 w3 => execPartitionWrite m p w0 w1 w2 w3 s
  | .samplingPulse m => execSamplingPulse m s
  | .samplingPeriod => execSamplingPeriod s
  | .debugHalt m k => execDebugHalt m k s
  | .debugRegisterWrite m h r => execDebugRegisterWrite m h r s
  | .registerWrite m off value => execRegisterWrite m off value s
  | .linkPortFailure p => execLinkPortFailure p s
  | .linkFailoverTimeout p => execLinkFailoverTimeout p s
  | .powerOn img => execPowerOn img s
  | .deviceReset => execDeviceReset s
  | .unitReady u => execUnitReady u s
  | .unitMappedOut u => execUnitMappedOut u s
  | .fatalError cause => execFatalError cause s
  | .dumpResendRequest off len => execDumpResendRequest off len s
  | .clusterResume m k => execClusterResume m k s
  | .softError t => execSoftError t s
  | .plbinvDrop p => execPlbinvDrop p s
  | .peerReadCompletion data => execPeerReadCompletion data s
  | .malformedCommand ex => execMalformedCommand ex s

end Sys2Proof.Machine
end

