-- ==== Sys2Proof/Machine/Run.lean ====
section
/-! DEFINITION. What a step does: time, whose turn it is, and where an instruction is put so that the next step runs it (log 4, log 5, log 7). -/

namespace Sys2Proof.Machine

/-! ### Time -/

/-- The cores that hold a register word in error. -/
def State.coresInError (s : State) : List Nat := ((s.harts.filter (fun h => !h.2.errs.isEmpty)).map (fun h => coreOf h.1)).eraseDups

/-- Device time and the cycle count go on by one step (R3, log 5). A ramp slot that ends (R331), ballast (R332)
and a sampling period that is over (R356) join the agenda; every sixteenth cycle the scrubbers check a word (R74). -/
def State.tick (s : State) : State :=
  let t : State := { s with cycle := s.cycle + 1, time := s.time + word s.pace }
  let t := if s.time.toNat / Config.rampSlotNs = t.time.toNat / Config.rampSlotNs then t else t.push .rampSlotBoundary
  let t := if t.floor != 0 && t.wantsBallast && !t.agenda.any (fun e => match e with
      | .ballastMma _ => true
      | _ => false) then t.push (.ballastMma (Config.ballastPick t.cycle % 4096)) else t
  let t := if t.sampleDue && !t.agenda.contains .samplingPeriod then t.push .samplingPeriod else t
  if t.cycle % 16 = 0 then t.coresInError.foldl (fun s c => s.scrub c) t else t

/-! ### Whose turn it is -/

/-- A hart that may have something to do. -/
def Hart.active (x : Hart) : Bool := x.run == .running || x.run == .blocked

/-- The turn of hart h. -/
def State.hartTurn (s : State) (h : Nat) : State := State.turn { s with cur := h }

/-- Hart h, at its turn, has used the core's issue slot (R14): it could issue, and did not stall. -/
def State.issued (s t : State) (h : Nat) : Bool :=
  (s.hart h).active && (s.hart h).busy.isNone && !(s.hart h).cancelled && !s.fatal && !(s.cluster (clusterOf h)).dbg.halted
    && (t.hart h).run != .blocked

/-- The harts of core c that wait on a queue, in hart order (R255). -/
def State.queueWaiters (s : State) (c : Nat) : List Nat :=
  ((List.range 4).map (fun k => 4 * c + k)).filter (fun h => (s.hart h).active && (s.hart h).wait == .queue)

/-- The first of some waiting harts whose bundle can complete issues it (R255). -/
def State.resumeFirst (s : State) : List Nat → Option State
  | [] => none
  | h :: rest =>
    let t := s.hartTurn h
    if s.issued t h then some t else s.resumeFirst rest

/-- Every waiting hart of some whose bundle can complete issues it, in order, and those that wait are looked at again after each: an arrival of the
same cycle comes after (R255). -/
def State.resumeWaiting (s : State) : Nat → List Nat → State
  | 0, _ => s
  | n + 1, hs => match s.resumeFirst hs with
    | some t => t.resumeWaiting n (hs.filter (· != t.cur))
    | none => s

def State.resumeAll (s : State) (hs : List Nat) : State := s.resumeWaiting hs.length hs

/-- Core c stays with its hart k (R14). -/
def State.stayWith (s : State) (c k : Nat) : State :=
  if (s.core c).turn = k then s else s.modCore c (fun x => { x with turn := k })

/-- Core c issues from hart k on, round-robin, until one does not stall; it stays with that hart (R14). -/
def State.issueFrom (s : State) (c : Nat) : Nat → Nat → State
  | 0, k => s.stayWith c k
  | fuel + 1, k =>
    let t := s.hartTurn (4 * c + k)
    if s.issued t (4 * c + k) then t.stayWith c k else t.issueFrom c fuel ((k + 1) % 4)

/-- The harts of a cluster that waited at a barrier in s and that the step to t has released: every arrival retires in the same cycle (R321). -/
def State.releasedIn (s t : State) (k : Nat) : List Nat :=
  if (s.cluster k).barriers.isEmpty then []
  else ((List.range 64).map (fun j => 64 * k + j)).filter (fun h => (match (s.hart h).wait with
    | .bar _ => true
    | _ => false) && (t.hart h).wait == .released)

/-- A cycle of core c (R14, R255): a hart whose wait on a queue is over issues, else the hart that the core is with, or the next one that is
ready; where it completes a barrier, the other arrivals retire with it (R321). -/
def State.coreStep (s : State) (c : Nat) : State :=
  let t := match s.resumeFirst (s.queueWaiters c) with
    | some t => t
    | none => s.issueFrom c 4 ((s.core c).turn % 4)
  t.resumeAll (s.releasedIn t (c / 16))

/-- The core after the one that moved last, in a circle over those that hold a running or blocked task (log 4). -/
def State.nextCore (s : State) : Nat :=
  match s.harts.find? (fun h => coreOf s.cur < coreOf h.1 && h.2.active) with
  | some h => coreOf h.1
  | none => match s.harts.find? (fun h => h.2.active) with
    | some h => coreOf h.1
    | none => coreOf s.cur

/-- The core whose port an event's arrival is at. -/
def portOf : Event → Option Nat
  | .messageArrival c | .channelPacketArrival c | .countModeArrival c => some c
  | _ => none

/-- The n-th event of the agenda performed; the next core's cycle where there is none. -/
def State.agendaStep (s : State) (n : Nat) : Result :=
  match s.agenda[n]? with
  | some e =>
    let s : State := { s with agenda := s.agenda.eraseIdx n }
    execEvent e (match portOf e with
      | some c => s.resumeAll (s.queueWaiters c)
      | none => s)
  | none => .next (s.coreStep s.nextCore)

/-- One step: `sched` says who moves next; without one, cores and agenda take turns. -/
def State.advance (s : State) : Result :=
  let t := s.tick
  match s.sched with
  | [] => if s.cycle % 2 = 1 && !s.agenda.isEmpty then t.agendaStep 0 else .next (t.coreStep t.nextCore)
  | m :: rest =>
    let t : State := { t with sched := rest }
    match m with
    | .core c => .next (t.coreStep c)
    | .event n => t.agendaStep n

/-! ### An instruction placed -/

/-- The two words of a bundle that holds the instruction which decodeTableWord reads from w: w as the C word and what follows it, or as the
A word of a bundle with NOPC. -/
def placedWords (nbits w : Nat) : BitVec 32 × BitVec 32 :=
  let w0 := BitVec.ofNat 32 (w % 2 ^ nbits)
  let w1 := BitVec.ofNat 32 (w % 2 ^ nbits / 2 ^ 32)
  match decodeC w0 w1 with
  | .ok _ => (w0, w1)
  | .error _ => (0, w0)

/-- A task to run the placed instruction. -/
def Task.placed : Task := { Task.blank with regmask := BitVec.allOnes 64 }

/-- The state with a bundle's words at hart 0's pc, clean in the near cache of its core, whose PLB maps the page; hart 0 runs a task, and its
core, which is with that hart, moves next (log 7). -/
def State.placeWord (s : State) (nbits w : Nat) : State :=
  let x := s.hart 0
  let a := x.pc.toNat % 2 ^ 47 / 8 * 8
  let ws := placedWords nbits w
  let e : PlbEntry := ⟨a / 4096, 4096, 0, true, true, true, true, false, 0, false, 0, 0⟩
  let s := s.setHart 0 { x with pc := word a, run := .running, job := some (x.job.getD Task.placed), busy := none, cancelled := false, mchecks := [], wait := .none }
  let s := (s.queueWaiters 0).foldl (fun s h => s.modHart h (fun x => { x with wait := .none })) s
  let s := s.modCore 0 (fun c => { c with
    turn := 0
    plb := plbFill (c.plb.filter (fun p => !p.covers a)) e
    nc := rangeFill (trimAll c.nc (a / 512) (a % 512) (a % 512 + 8)) (a / 512) (a % 512) (fun _ => .shared) (toBytes ws.1 4 ++ toBytes ws.2 4) 0 0 })
  { s with cur := 0, sched := [.core 0] }

end Sys2Proof.Machine
end

