-- ==== Sys2Proof/Laws/PerInstr.lean ====
section
/-! SUPPORT. The per-instruction family RoundTrip: what an instruction encodes to decodes to it. -/

set_option Elab.async false
set_option linter.unusedSimpArgs false

namespace Sys2Proof.Laws

/-- The S bit read back. -/
theorem sbit_of (sp : Bool) : (BitVec.ofBool sp == 1#1) = sp := by cases sp <;> rfl

/-- Parts laid side by side, the first at the low end. -/
def glue : List (Sigma BitVec) → Nat
  | [] => 0
  | p :: t => p.2.toNat + 2 ^ p.1 * glue t

/-- How many bits the parts take. -/
def total : List (Sigma BitVec) → Nat
  | [] => 0
  | p :: t => p.1 + total t

/-- The parts are the fields of w from bit lo up. -/
def Fields (w : BitVec 32) : Nat → List (Sigma BitVec) → Prop
  | _, [] => True
  | lo, p :: t => fld w lo p.1 = p.2 ∧ Fields w (lo + p.1) t

theorem glue_nil : glue [] = 0 := by simp [glue]

theorem glue_cons (n : Nat) (v : BitVec n) (t : List (Sigma BitVec)) :
    glue (⟨n, v⟩ :: t) = v.toNat + 2 ^ n * glue t := by simp [glue]

theorem glue_lt (l : List (Sigma BitVec)) : glue l < 2 ^ total l := by
  induction l with
  | nil => simp [glue, total]
  | cons p t ih =>
    have h := p.2.isLt
    have : 2 ^ p.1 * (glue t + 1) ≤ 2 ^ p.1 * 2 ^ total t := Nat.mul_le_mul_left _ ih
    simp only [glue, total, Nat.pow_add]
    rw [Nat.mul_add] at this
    omega

/-- A word whose bits from lo up are these parts has them as its fields. -/
theorem fields_at {w : BitVec 32} (l : List (Sigma BitVec)) (lo : Nat) (h : w.toNat / 2 ^ lo = glue l) : Fields w lo l := by
  induction l generalizing lo with
  | nil => trivial
  | cons p t ih =>
    have hp := p.2.isLt
    refine ⟨?_, ih _ ?_⟩
    · apply BitVec.eq_of_toNat_eq
      rw [fld, h, BitVec.toNat_ofNat, glue, Nat.add_mul_mod_self_left, Nat.mod_eq_of_lt hp]
    · rw [Nat.pow_add, ← Nat.div_div_eq_div_mul, h, glue, Nat.add_mul_div_left _ _ (Nat.two_pow_pos _), Nat.div_eq_of_lt hp,
        Nat.zero_add]

/-- What a packed word's bits add up to. -/
def fieldSum (b : Nat) (fs : List (Nat × Nat)) : Nat := fs.foldr (fun p n => p.1 * 2 ^ p.2 + n) b

theorem sum_cons (b v lo : Nat) (fs : List (Nat × Nat)) : fieldSum b ((v, lo) :: fs) = v * 2 ^ lo + fieldSum b fs := by
  simp [fieldSum]

theorem sum_nil (b : Nat) : fieldSum b [] = b := by simp [fieldSum]

/-- A packed word's fields, once its sum is seen to be its parts laid side by side. -/
theorem fields_of {w : BitVec 32} {b : Nat} {fs : List (Nat × Nat)} {l : List (Sigma BitVec)} (h : pack b fs = w)
    (hs : fieldSum b fs = glue l) (hl : total l = 32) : Fields w 0 l := by
  refine fields_at l 0 ?_
  have hlt := glue_lt l
  rw [← h, pack, BitVec.toNat_ofNat, ← fieldSum, hs, hl.symm, Nat.mod_eq_of_lt hlt, Nat.pow_zero, Nat.div_one]

theorem one_toNat : (1#1).toNat = 1 := by decide

theorem bits_field {n : Nat} (v : BitVec n) : (Imm.field v).bits = v.toNat := by simp [Imm.bits]

theorem bits_lit {n : Nat} (v : BitVec 32) : (Imm.lit (n := n) v).bits = 2 ^ 31 := by simp [Imm.bits]

theorem dispBits_none : dispBits none = 0 := by simp [dispBits]

theorem dispBits_some (v : BitVec 32) : dispBits (some v) = 2 ^ 31 := by simp [dispBits]

/-- Decoding an encoded instruction gives it back, in either slot. -/
def RoundTrip.Statement (i : Instr) : Prop :=
  (∀ w l, encodeC i = some (w, l) → decodeC w l = .ok i) ∧ (∀ w, encodeA i = some w → decodeA w = .ok i)

/-- What RoundTrip asks of a C instruction. -/
theorem roundTrip_of_C {i : Instr} {b l : BitVec 32} (he : encodeC i = some (b, l)) (ha : encodeA i = none)
    (h : ∀ w, b = w → decodeC w l = .ok i) : RoundTrip.Statement i :=
  ⟨fun w k hk => by rw [he] at hk; injection hk with hk; injection hk with hw hl; exact hl ▸ h w hw,
    fun w hk => by rw [ha] at hk; exact (nomatch hk)⟩

/-- What RoundTrip asks of an A instruction. -/
theorem roundTrip_of_A {i : Instr} {b : BitVec 32} (he : encodeA i = some b) (hc : encodeC i = none)
    (h : ∀ w, b = w → decodeA w = .ok i) : RoundTrip.Statement i :=
  ⟨fun w k hk => by rw [hc] at hk; exact (nomatch hk),
    fun w hk => by rw [he] at hk; injection hk with hq; exact h w hq⟩

theorem fmt0 {x : BitVec 32} {b : Nat} (a0 : Bool) (a1 : BitVec 5) (a2 : BitVec 5) (a3 : BitVec 5) (c0 : BitVec 9) (c1 : BitVec 6) (c2 : BitVec 1)
    (hx : pack b [(a0.toNat, 30), (a1.toNat, 19), (a2.toNat, 14), (a3.toNat, 9)] = x)
    (hb : b = c0.toNat * 2 ^ 0 + c1.toNat * 2 ^ 24 + c2.toNat * 2 ^ 31) :
    Fields x 0 [⟨9, c0⟩, ⟨5, a3⟩, ⟨5, a2⟩, ⟨5, a1⟩, ⟨6, c1⟩, ⟨1, BitVec.ofBool a0⟩, ⟨1, c2⟩] := by
  exact fields_of hx (by subst hb; simp only [sum_cons, sum_nil, glue_cons, glue_nil, BitVec.toNat_ofBool]; omega) rfl

theorem fmt1 {x : BitVec 32} {b : Nat} (a0 : Bool) (a1 : BitVec 5) (a2 : BitVec 5) (c0 : BitVec 9) (c1 : BitVec 5) (c2 : BitVec 6) (c3 : BitVec 1)
    (hx : pack b [(a0.toNat, 30), (a1.toNat, 19), (a2.toNat, 14)] = x)
    (hb : b = c0.toNat * 2 ^ 0 + c1.toNat * 2 ^ 9 + c2.toNat * 2 ^ 24 + c3.toNat * 2 ^ 31) :
    Fields x 0 [⟨9, c0⟩, ⟨5, c1⟩, ⟨5, a2⟩, ⟨5, a1⟩, ⟨6, c2⟩, ⟨1, BitVec.ofBool a0⟩, ⟨1, c3⟩] := by
  exact fields_of hx (by subst hb; simp only [sum_cons, sum_nil, glue_cons, glue_nil, BitVec.toNat_ofBool]; omega) rfl

theorem fmt2 {x : BitVec 32} {b : Nat} (a0 : Bool) (a1 : BitVec 5) (a2 : BitVec 5) (v : BitVec 14) (c0 : BitVec 6) (c1 : BitVec 1)
    (hx : pack b [(a0.toNat, 30), (a1.toNat, 19), (a2.toNat, 14), ((Imm.field v).bits, 0)] = x)
    (hb : b = c0.toNat * 2 ^ 24 + c1.toNat * 2 ^ 31) :
    Fields x 0 [⟨14, v⟩, ⟨5, a2⟩, ⟨5, a1⟩, ⟨6, c0⟩, ⟨1, BitVec.ofBool a0⟩, ⟨1, c1⟩] := by
  exact fields_of hx (by subst hb; simp only [sum_cons, sum_nil, glue_cons, glue_nil, bits_field, BitVec.toNat_ofBool]; omega) rfl

theorem fmt3 {x : BitVec 32} {b : Nat} (a0 : Bool) (a1 : BitVec 5) (a2 : BitVec 5) (v : BitVec 32) (c0 : BitVec 14) (c1 : BitVec 6)
    (hx : pack b [(a0.toNat, 30), (a1.toNat, 19), (a2.toNat, 14), ((Imm.lit (n := 14) v).bits, 0)] = x)
    (hb : b = c0.toNat * 2 ^ 0 + c1.toNat * 2 ^ 24) :
    Fields x 0 [⟨14, c0⟩, ⟨5, a2⟩, ⟨5, a1⟩, ⟨6, c1⟩, ⟨1, BitVec.ofBool a0⟩, ⟨1, 1#1⟩] := by
  exact fields_of hx (by subst hb; simp only [sum_cons, sum_nil, glue_cons, glue_nil, bits_lit, BitVec.toNat_ofBool, one_toNat]; omega) rfl

theorem fmt4 {x : BitVec 32} {b : Nat} (a0 : Bool) (a1 : BitVec 5) (a2 : BitVec 5) (a3 : BitVec 6) (c0 : BitVec 8) (c1 : BitVec 6) (c2 : BitVec 1)
    (hx : pack b [(a0.toNat, 30), (a1.toNat, 19), (a2.toNat, 14), (a3.toNat, 0)] = x)
    (hb : b = c0.toNat * 2 ^ 6 + c1.toNat * 2 ^ 24 + c2.toNat * 2 ^ 31) :
    Fields x 0 [⟨6, a3⟩, ⟨8, c0⟩, ⟨5, a2⟩, ⟨5, a1⟩, ⟨6, c1⟩, ⟨1, BitVec.ofBool a0⟩, ⟨1, c2⟩] := by
  exact fields_of hx (by subst hb; simp only [sum_cons, sum_nil, glue_cons, glue_nil, BitVec.toNat_ofBool]; omega) rfl

theorem fmt5 {x : BitVec 32} {b : Nat} (a0 : Bool) (a1 : BitVec 5) (c0 : BitVec 19) (c1 : BitVec 6) (c2 : BitVec 1)
    (hx : pack b [(a0.toNat, 30), (a1.toNat, 19)] = x)
    (hb : b = c0.toNat * 2 ^ 0 + c1.toNat * 2 ^ 24 + c2.toNat * 2 ^ 31) :
    Fields x 0 [⟨19, c0⟩, ⟨5, a1⟩, ⟨6, c1⟩, ⟨1, BitVec.ofBool a0⟩, ⟨1, c2⟩] := by
  exact fields_of hx (by subst hb; simp only [sum_cons, sum_nil, glue_cons, glue_nil, BitVec.toNat_ofBool]; omega) rfl

theorem fmt6 {x : BitVec 32} {b : Nat} (a0 : Bool) (a1 : BitVec 5) (a2 : BitVec 5) (a3 : BitVec 5) (a4 : BitVec 2) (a5 : BitVec 7) (c0 : BitVec 6) (c1 : BitVec 1)
    (hx : pack b [(a0.toNat, 30), (a1.toNat, 19), (a2.toNat, 14), (a3.toNat, 9), (a4.toNat, 7), (a5.toNat, 0)] = x)
    (hb : b = c0.toNat * 2 ^ 24 + c1.toNat * 2 ^ 31) :
    Fields x 0 [⟨7, a5⟩, ⟨2, a4⟩, ⟨5, a3⟩, ⟨5, a2⟩, ⟨5, a1⟩, ⟨6, c0⟩, ⟨1, BitVec.ofBool a0⟩, ⟨1, c1⟩] := by
  exact fields_of hx (by subst hb; simp only [sum_cons, sum_nil, glue_cons, glue_nil, BitVec.toNat_ofBool]; omega) rfl

theorem fmt7 {x : BitVec 32} {b : Nat} (a0 : Bool) (a1 : BitVec 5) (v : BitVec 19) (c0 : BitVec 6) (c1 : BitVec 1)
    (hx : pack b [(a0.toNat, 30), (a1.toNat, 19), ((Imm.field v).bits, 0)] = x)
    (hb : b = c0.toNat * 2 ^ 24 + c1.toNat * 2 ^ 31) :
    Fields x 0 [⟨19, v⟩, ⟨5, a1⟩, ⟨6, c0⟩, ⟨1, BitVec.ofBool a0⟩, ⟨1, c1⟩] := by
  exact fields_of hx (by subst hb; simp only [sum_cons, sum_nil, glue_cons, glue_nil, bits_field, BitVec.toNat_ofBool]; omega) rfl

theorem fmt8 {x : BitVec 32} {b : Nat} (a0 : Bool) (a1 : BitVec 5) (v : BitVec 32) (c0 : BitVec 19) (c1 : BitVec 6)
    (hx : pack b [(a0.toNat, 30), (a1.toNat, 19), ((Imm.lit (n := 19) v).bits, 0)] = x)
    (hb : b = c0.toNat * 2 ^ 0 + c1.toNat * 2 ^ 24) :
    Fields x 0 [⟨19, c0⟩, ⟨5, a1⟩, ⟨6, c1⟩, ⟨1, BitVec.ofBool a0⟩, ⟨1, 1#1⟩] := by
  exact fields_of hx (by subst hb; simp only [sum_cons, sum_nil, glue_cons, glue_nil, bits_lit, BitVec.toNat_ofBool, one_toNat]; omega) rfl

theorem fmt9 {x : BitVec 32} {b : Nat} (a0 : Bool) (a1 : BitVec 5) (v : BitVec 14) (c0 : BitVec 5) (c1 : BitVec 6) (c2 : BitVec 1)
    (hx : pack b [(a0.toNat, 30), (a1.toNat, 19), ((Imm.field v).bits, 0)] = x)
    (hb : b = c0.toNat * 2 ^ 14 + c1.toNat * 2 ^ 24 + c2.toNat * 2 ^ 31) :
    Fields x 0 [⟨14, v⟩, ⟨5, c0⟩, ⟨5, a1⟩, ⟨6, c1⟩, ⟨1, BitVec.ofBool a0⟩, ⟨1, c2⟩] := by
  exact fields_of hx (by subst hb; simp only [sum_cons, sum_nil, glue_cons, glue_nil, bits_field, BitVec.toNat_ofBool]; omega) rfl

theorem fmt10 {x : BitVec 32} {b : Nat} (a0 : Bool) (a1 : BitVec 5) (v : BitVec 32) (c0 : BitVec 14) (c1 : BitVec 5) (c2 : BitVec 6)
    (hx : pack b [(a0.toNat, 30), (a1.toNat, 19), ((Imm.lit (n := 14) v).bits, 0)] = x)
    (hb : b = c0.toNat * 2 ^ 0 + c1.toNat * 2 ^ 14 + c2.toNat * 2 ^ 24) :
    Fields x 0 [⟨14, c0⟩, ⟨5, c1⟩, ⟨5, a1⟩, ⟨6, c2⟩, ⟨1, BitVec.ofBool a0⟩, ⟨1, 1#1⟩] := by
  exact fields_of hx (by subst hb; simp only [sum_cons, sum_nil, glue_cons, glue_nil, bits_lit, BitVec.toNat_ofBool, one_toNat]; omega) rfl

theorem fmt11 {x : BitVec 32} {b : Nat} (a0 : Bool) (a1 : BitVec 6) (a2 : BitVec 4) (v : BitVec 14) (c0 : BitVec 6) (c1 : BitVec 1)
    (hx : pack b [(a0.toNat, 30), (a1.toNat, 18), (a2.toNat, 14), ((Imm.field v).bits, 0)] = x)
    (hb : b = c0.toNat * 2 ^ 24 + c1.toNat * 2 ^ 31) :
    Fields x 0 [⟨14, v⟩, ⟨4, a2⟩, ⟨6, a1⟩, ⟨6, c0⟩, ⟨1, BitVec.ofBool a0⟩, ⟨1, c1⟩] := by
  exact fields_of hx (by subst hb; simp only [sum_cons, sum_nil, glue_cons, glue_nil, bits_field, BitVec.toNat_ofBool]; omega) rfl

theorem fmt12 {x : BitVec 32} {b : Nat} (a0 : Bool) (a1 : BitVec 6) (a2 : BitVec 4) (v : BitVec 32) (c0 : BitVec 14) (c1 : BitVec 6)
    (hx : pack b [(a0.toNat, 30), (a1.toNat, 18), (a2.toNat, 14), ((Imm.lit (n := 14) v).bits, 0)] = x)
    (hb : b = c0.toNat * 2 ^ 0 + c1.toNat * 2 ^ 24) :
    Fields x 0 [⟨14, c0⟩, ⟨4, a2⟩, ⟨6, a1⟩, ⟨6, c1⟩, ⟨1, BitVec.ofBool a0⟩, ⟨1, 1#1⟩] := by
  exact fields_of hx (by subst hb; simp only [sum_cons, sum_nil, glue_cons, glue_nil, bits_lit, BitVec.toNat_ofBool, one_toNat]; omega) rfl

theorem fmt13 {x : BitVec 32} {b : Nat} (a0 : Bool) (a1 : BitVec 5) (a2 : BitVec 5) (a3 : BitVec 4) (v : BitVec 10) (c0 : BitVec 6) (c1 : BitVec 1)
    (hx : pack b [(a0.toNat, 30), (a1.toNat, 19), (a2.toNat, 14), (a3.toNat, 10), ((Imm.field v).bits, 0)] = x)
    (hb : b = c0.toNat * 2 ^ 24 + c1.toNat * 2 ^ 31) :
    Fields x 0 [⟨10, v⟩, ⟨4, a3⟩, ⟨5, a2⟩, ⟨5, a1⟩, ⟨6, c0⟩, ⟨1, BitVec.ofBool a0⟩, ⟨1, c1⟩] := by
  exact fields_of hx (by subst hb; simp only [sum_cons, sum_nil, glue_cons, glue_nil, bits_field, BitVec.toNat_ofBool]; omega) rfl

theorem fmt14 {x : BitVec 32} {b : Nat} (a0 : Bool) (a1 : BitVec 5) (a2 : BitVec 5) (a3 : BitVec 4) (v : BitVec 32) (c0 : BitVec 10) (c1 : BitVec 6)
    (hx : pack b [(a0.toNat, 30), (a1.toNat, 19), (a2.toNat, 14), (a3.toNat, 10), ((Imm.lit (n := 10) v).bits, 0)] = x)
    (hb : b = c0.toNat * 2 ^ 0 + c1.toNat * 2 ^ 24) :
    Fields x 0 [⟨10, c0⟩, ⟨4, a3⟩, ⟨5, a2⟩, ⟨5, a1⟩, ⟨6, c1⟩, ⟨1, BitVec.ofBool a0⟩, ⟨1, 1#1⟩] := by
  exact fields_of hx (by subst hb; simp only [sum_cons, sum_nil, glue_cons, glue_nil, bits_lit, BitVec.toNat_ofBool, one_toNat]; omega) rfl

theorem fmt15 {x : BitVec 32} {b : Nat} (a0 : Bool) (a1 : BitVec 5) (a2 : BitVec 5) (a3 : BitVec 4) (a4 : BitVec 6) (a5 : BitVec 3) (c0 : BitVec 1) (c1 : BitVec 6) (c2 : BitVec 1)
    (hx : pack b [(a0.toNat, 30), (a1.toNat, 19), (a2.toNat, 14), (a3.toNat, 10), (a4.toNat, 4), (a5.toNat, 1), (dispBits none, 0)] = x)
    (hb : b = c0.toNat * 2 ^ 0 + c1.toNat * 2 ^ 24 + c2.toNat * 2 ^ 31) :
    Fields x 0 [⟨1, c0⟩, ⟨3, a5⟩, ⟨6, a4⟩, ⟨4, a3⟩, ⟨5, a2⟩, ⟨5, a1⟩, ⟨6, c1⟩, ⟨1, BitVec.ofBool a0⟩, ⟨1, c2⟩] := by
  exact fields_of hx (by subst hb; simp only [sum_cons, sum_nil, glue_cons, glue_nil, dispBits_none, BitVec.toNat_ofBool]; omega) rfl

theorem fmt16 {x : BitVec 32} {b : Nat} (a0 : Bool) (a1 : BitVec 5) (a2 : BitVec 5) (a3 : BitVec 4) (a4 : BitVec 6) (a5 : BitVec 3) (v : BitVec 32) (c0 : BitVec 1) (c1 : BitVec 6)
    (hx : pack b [(a0.toNat, 30), (a1.toNat, 19), (a2.toNat, 14), (a3.toNat, 10), (a4.toNat, 4), (a5.toNat, 1), (dispBits (some v), 0)] = x)
    (hb : b = c0.toNat * 2 ^ 0 + c1.toNat * 2 ^ 24) :
    Fields x 0 [⟨1, c0⟩, ⟨3, a5⟩, ⟨6, a4⟩, ⟨4, a3⟩, ⟨5, a2⟩, ⟨5, a1⟩, ⟨6, c1⟩, ⟨1, BitVec.ofBool a0⟩, ⟨1, 1#1⟩] := by
  exact fields_of hx (by subst hb; simp only [sum_cons, sum_nil, glue_cons, glue_nil, dispBits_some, BitVec.toNat_ofBool, one_toNat]; omega) rfl

theorem fmt17 {x : BitVec 32} {b : Nat} (a0 : Bool) (a1 : BitVec 5) (a2 : BitVec 5) (a3 : BitVec 4) (a4 : BitVec 5) (a5 : BitVec 1) (a6 : BitVec 3) (c0 : BitVec 1) (c1 : BitVec 6) (c2 : BitVec 1)
    (hx : pack b [(a0.toNat, 30), (a1.toNat, 19), (a2.toNat, 14), (a3.toNat, 10), (a4.toNat, 5), (a5.toNat, 4), (a6.toNat, 1), (dispBits none, 0)] = x)
    (hb : b = c0.toNat * 2 ^ 0 + c1.toNat * 2 ^ 24 + c2.toNat * 2 ^ 31) :
    Fields x 0 [⟨1, c0⟩, ⟨3, a6⟩, ⟨1, a5⟩, ⟨5, a4⟩, ⟨4, a3⟩, ⟨5, a2⟩, ⟨5, a1⟩, ⟨6, c1⟩, ⟨1, BitVec.ofBool a0⟩, ⟨1, c2⟩] := by
  exact fields_of hx (by subst hb; simp only [sum_cons, sum_nil, glue_cons, glue_nil, dispBits_none, BitVec.toNat_ofBool]; omega) rfl

theorem fmt18 {x : BitVec 32} {b : Nat} (a0 : Bool) (a1 : BitVec 5) (a2 : BitVec 5) (a3 : BitVec 4) (a4 : BitVec 5) (a5 : BitVec 1) (a6 : BitVec 3) (v : BitVec 32) (c0 : BitVec 1) (c1 : BitVec 6)
    (hx : pack b [(a0.toNat, 30), (a1.toNat, 19), (a2.toNat, 14), (a3.toNat, 10), (a4.toNat, 5), (a5.toNat, 4), (a6.toNat, 1), (dispBits (some v), 0)] = x)
    (hb : b = c0.toNat * 2 ^ 0 + c1.toNat * 2 ^ 24) :
    Fields x 0 [⟨1, c0⟩, ⟨3, a6⟩, ⟨1, a5⟩, ⟨5, a4⟩, ⟨4, a3⟩, ⟨5, a2⟩, ⟨5, a1⟩, ⟨6, c1⟩, ⟨1, BitVec.ofBool a0⟩, ⟨1, 1#1⟩] := by
  exact fields_of hx (by subst hb; simp only [sum_cons, sum_nil, glue_cons, glue_nil, dispBits_some, BitVec.toNat_ofBool, one_toNat]; omega) rfl

theorem fmt19 {x : BitVec 32} {b : Nat} (a0 : Bool) (a1 : BitVec 5) (a2 : BitVec 5) (a3 : BitVec 5) (a4 : BitVec 4) (a5 : BitVec 1) (c0 : BitVec 4) (c1 : BitVec 6) (c2 : BitVec 1)
    (hx : pack b [(a0.toNat, 30), (a1.toNat, 19), (a2.toNat, 14), (a3.toNat, 9), (a4.toNat, 1), (a5.toNat, 0)] = x)
    (hb : b = c0.toNat * 2 ^ 5 + c1.toNat * 2 ^ 24 + c2.toNat * 2 ^ 31) :
    Fields x 0 [⟨1, a5⟩, ⟨4, a4⟩, ⟨4, c0⟩, ⟨5, a3⟩, ⟨5, a2⟩, ⟨5, a1⟩, ⟨6, c1⟩, ⟨1, BitVec.ofBool a0⟩, ⟨1, c2⟩] := by
  exact fields_of hx (by subst hb; simp only [sum_cons, sum_nil, glue_cons, glue_nil, BitVec.toNat_ofBool]; omega) rfl

theorem fmt20 {x : BitVec 32} {b : Nat} (a0 : Bool) (a1 : BitVec 5) (a2 : BitVec 5) (a3 : BitVec 5) (a4 : BitVec 4) (c0 : BitVec 1) (c1 : BitVec 4) (c2 : BitVec 6) (c3 : BitVec 1)
    (hx : pack b [(a0.toNat, 30), (a1.toNat, 19), (a2.toNat, 14), (a3.toNat, 9), (a4.toNat, 1)] = x)
    (hb : b = c0.toNat * 2 ^ 0 + c1.toNat * 2 ^ 5 + c2.toNat * 2 ^ 24 + c3.toNat * 2 ^ 31) :
    Fields x 0 [⟨1, c0⟩, ⟨4, a4⟩, ⟨4, c1⟩, ⟨5, a3⟩, ⟨5, a2⟩, ⟨5, a1⟩, ⟨6, c2⟩, ⟨1, BitVec.ofBool a0⟩, ⟨1, c3⟩] := by
  exact fields_of hx (by subst hb; simp only [sum_cons, sum_nil, glue_cons, glue_nil, BitVec.toNat_ofBool]; omega) rfl

theorem fmt21 {x : BitVec 32} {b : Nat} (a0 : Bool) (a1 : BitVec 5) (a2 : BitVec 4) (c0 : BitVec 4) (c1 : BitVec 6) (c2 : BitVec 5) (c3 : BitVec 6) (c4 : BitVec 1)
    (hx : pack b [(a0.toNat, 30), (a1.toNat, 19), (a2.toNat, 10)] = x)
    (hb : b = c0.toNat * 2 ^ 0 + c1.toNat * 2 ^ 4 + c2.toNat * 2 ^ 14 + c3.toNat * 2 ^ 24 + c4.toNat * 2 ^ 31) :
    Fields x 0 [⟨4, c0⟩, ⟨6, c1⟩, ⟨4, a2⟩, ⟨5, c2⟩, ⟨5, a1⟩, ⟨6, c3⟩, ⟨1, BitVec.ofBool a0⟩, ⟨1, c4⟩] := by
  exact fields_of hx (by subst hb; simp only [sum_cons, sum_nil, glue_cons, glue_nil, BitVec.toNat_ofBool]; omega) rfl

theorem fmt22 {x : BitVec 32} {b : Nat} (a0 : Bool) (a1 : BitVec 5) (a2 : BitVec 5) (a3 : BitVec 2) (c0 : BitVec 4) (c1 : BitVec 6) (c2 : BitVec 2) (c3 : BitVec 6) (c4 : BitVec 1)
    (hx : pack b [(a0.toNat, 30), (a1.toNat, 19), (a2.toNat, 14), (a3.toNat, 10)] = x)
    (hb : b = c0.toNat * 2 ^ 0 + c1.toNat * 2 ^ 4 + c2.toNat * 2 ^ 12 + c3.toNat * 2 ^ 24 + c4.toNat * 2 ^ 31) :
    Fields x 0 [⟨4, c0⟩, ⟨6, c1⟩, ⟨2, a3⟩, ⟨2, c2⟩, ⟨5, a2⟩, ⟨5, a1⟩, ⟨6, c3⟩, ⟨1, BitVec.ofBool a0⟩, ⟨1, c4⟩] := by
  exact fields_of hx (by subst hb; simp only [sum_cons, sum_nil, glue_cons, glue_nil, BitVec.toNat_ofBool]; omega) rfl

theorem fmt23 {x : BitVec 32} {b : Nat} (a0 : Bool) (a1 : BitVec 5) (a2 : BitVec 4) (a3 : BitVec 5) (c0 : BitVec 4) (c1 : BitVec 1) (c2 : BitVec 5) (c3 : BitVec 6) (c4 : BitVec 1)
    (hx : pack b [(a0.toNat, 30), (a1.toNat, 14), (a2.toNat, 10), (a3.toNat, 5)] = x)
    (hb : b = c0.toNat * 2 ^ 0 + c1.toNat * 2 ^ 4 + c2.toNat * 2 ^ 19 + c3.toNat * 2 ^ 24 + c4.toNat * 2 ^ 31) :
    Fields x 0 [⟨4, c0⟩, ⟨1, c1⟩, ⟨5, a3⟩, ⟨4, a2⟩, ⟨5, a1⟩, ⟨5, c2⟩, ⟨6, c3⟩, ⟨1, BitVec.ofBool a0⟩, ⟨1, c4⟩] := by
  exact fields_of hx (by subst hb; simp only [sum_cons, sum_nil, glue_cons, glue_nil, BitVec.toNat_ofBool]; omega) rfl

theorem fmt24 {x : BitVec 32} {b : Nat} (a0 : Bool) (a1 : BitVec 5) (a2 : BitVec 5) (a3 : BitVec 4) (a4 : BitVec 5) (c0 : BitVec 4) (c1 : BitVec 1) (c2 : BitVec 6) (c3 : BitVec 1)
    (hx : pack b [(a0.toNat, 30), (a1.toNat, 19), (a2.toNat, 14), (a3.toNat, 10), (a4.toNat, 5)] = x)
    (hb : b = c0.toNat * 2 ^ 0 + c1.toNat * 2 ^ 4 + c2.toNat * 2 ^ 24 + c3.toNat * 2 ^ 31) :
    Fields x 0 [⟨4, c0⟩, ⟨1, c1⟩, ⟨5, a4⟩, ⟨4, a3⟩, ⟨5, a2⟩, ⟨5, a1⟩, ⟨6, c2⟩, ⟨1, BitVec.ofBool a0⟩, ⟨1, c3⟩] := by
  exact fields_of hx (by subst hb; simp only [sum_cons, sum_nil, glue_cons, glue_nil, BitVec.toNat_ofBool]; omega) rfl

theorem fmt25 {x : BitVec 32} {b : Nat} (a0 : Bool) (a1 : BitVec 5) (a2 : BitVec 6) (c0 : BitVec 4) (c1 : BitVec 4) (c2 : BitVec 5) (c3 : BitVec 6) (c4 : BitVec 1)
    (hx : pack b [(a0.toNat, 30), (a1.toNat, 14), (a2.toNat, 8)] = x)
    (hb : b = c0.toNat * 2 ^ 0 + c1.toNat * 2 ^ 4 + c2.toNat * 2 ^ 19 + c3.toNat * 2 ^ 24 + c4.toNat * 2 ^ 31) :
    Fields x 0 [⟨4, c0⟩, ⟨4, c1⟩, ⟨6, a2⟩, ⟨5, a1⟩, ⟨5, c2⟩, ⟨6, c3⟩, ⟨1, BitVec.ofBool a0⟩, ⟨1, c4⟩] := by
  exact fields_of hx (by subst hb; simp only [sum_cons, sum_nil, glue_cons, glue_nil, BitVec.toNat_ofBool]; omega) rfl

theorem fmt26 {x : BitVec 32} {b : Nat} (a0 : Bool) (a1 : BitVec 5) (a2 : BitVec 6) (c0 : BitVec 4) (c1 : BitVec 4) (c2 : BitVec 5) (c3 : BitVec 6) (c4 : BitVec 1)
    (hx : pack b [(a0.toNat, 30), (a1.toNat, 19), (a2.toNat, 8)] = x)
    (hb : b = c0.toNat * 2 ^ 0 + c1.toNat * 2 ^ 4 + c2.toNat * 2 ^ 14 + c3.toNat * 2 ^ 24 + c4.toNat * 2 ^ 31) :
    Fields x 0 [⟨4, c0⟩, ⟨4, c1⟩, ⟨6, a2⟩, ⟨5, c2⟩, ⟨5, a1⟩, ⟨6, c3⟩, ⟨1, BitVec.ofBool a0⟩, ⟨1, c4⟩] := by
  exact fields_of hx (by subst hb; simp only [sum_cons, sum_nil, glue_cons, glue_nil, BitVec.toNat_ofBool]; omega) rfl

theorem fmt27 {x : BitVec 32} {b : Nat} (a0 : Bool) (a1 : BitVec 5) (a2 : BitVec 5) (a3 : BitVec 6) (c0 : BitVec 4) (c1 : BitVec 4) (c2 : BitVec 6) (c3 : BitVec 1)
    (hx : pack b [(a0.toNat, 30), (a1.toNat, 19), (a2.toNat, 14), (a3.toNat, 8)] = x)
    (hb : b = c0.toNat * 2 ^ 0 + c1.toNat * 2 ^ 4 + c2.toNat * 2 ^ 24 + c3.toNat * 2 ^ 31) :
    Fields x 0 [⟨4, c0⟩, ⟨4, c1⟩, ⟨6, a3⟩, ⟨5, a2⟩, ⟨5, a1⟩, ⟨6, c2⟩, ⟨1, BitVec.ofBool a0⟩, ⟨1, c3⟩] := by
  exact fields_of hx (by subst hb; simp only [sum_cons, sum_nil, glue_cons, glue_nil, BitVec.toNat_ofBool]; omega) rfl

theorem fmt28 {x : BitVec 32} {b : Nat} (a0 : Bool) (c0 : BitVec 4) (c1 : BitVec 20) (c2 : BitVec 6) (c3 : BitVec 1)
    (hx : pack b [(a0.toNat, 30)] = x)
    (hb : b = c0.toNat * 2 ^ 0 + c1.toNat * 2 ^ 4 + c2.toNat * 2 ^ 24 + c3.toNat * 2 ^ 31) :
    Fields x 0 [⟨4, c0⟩, ⟨20, c1⟩, ⟨6, c2⟩, ⟨1, BitVec.ofBool a0⟩, ⟨1, c3⟩] := by
  exact fields_of hx (by subst hb; simp only [sum_cons, sum_nil, glue_cons, glue_nil, BitVec.toNat_ofBool]; omega) rfl

theorem fmt29 {x : BitVec 32} {b : Nat} (a0 : Bool) (a1 : BitVec 5) (a2 : BitVec 5) (c0 : BitVec 4) (c1 : BitVec 10) (c2 : BitVec 6) (c3 : BitVec 1)
    (hx : pack b [(a0.toNat, 30), (a1.toNat, 19), (a2.toNat, 14)] = x)
    (hb : b = c0.toNat * 2 ^ 0 + c1.toNat * 2 ^ 4 + c2.toNat * 2 ^ 24 + c3.toNat * 2 ^ 31) :
    Fields x 0 [⟨4, c0⟩, ⟨10, c1⟩, ⟨5, a2⟩, ⟨5, a1⟩, ⟨6, c2⟩, ⟨1, BitVec.ofBool a0⟩, ⟨1, c3⟩] := by
  exact fields_of hx (by subst hb; simp only [sum_cons, sum_nil, glue_cons, glue_nil, BitVec.toNat_ofBool]; omega) rfl

theorem fmt30 {x : BitVec 32} {b : Nat} (a0 : Bool) (a1 : BitVec 5) (a2 : BitVec 5) (a3 : BitVec 4) (c0 : BitVec 4) (c1 : BitVec 6) (c2 : BitVec 6) (c3 : BitVec 1)
    (hx : pack b [(a0.toNat, 30), (a1.toNat, 19), (a2.toNat, 14), (a3.toNat, 4)] = x)
    (hb : b = c0.toNat * 2 ^ 0 + c1.toNat * 2 ^ 8 + c2.toNat * 2 ^ 24 + c3.toNat * 2 ^ 31) :
    Fields x 0 [⟨4, c0⟩, ⟨4, a3⟩, ⟨6, c1⟩, ⟨5, a2⟩, ⟨5, a1⟩, ⟨6, c2⟩, ⟨1, BitVec.ofBool a0⟩, ⟨1, c3⟩] := by
  exact fields_of hx (by subst hb; simp only [sum_cons, sum_nil, glue_cons, glue_nil, BitVec.toNat_ofBool]; omega) rfl

theorem fmt31 {x : BitVec 32} {b : Nat} (a0 : Bool) (a1 : BitVec 5) (a2 : BitVec 3) (c0 : BitVec 4) (c1 : BitVec 7) (c2 : BitVec 5) (c3 : BitVec 6) (c4 : BitVec 1)
    (hx : pack b [(a0.toNat, 30), (a1.toNat, 14), (a2.toNat, 4)] = x)
    (hb : b = c0.toNat * 2 ^ 0 + c1.toNat * 2 ^ 7 + c2.toNat * 2 ^ 19 + c3.toNat * 2 ^ 24 + c4.toNat * 2 ^ 31) :
    Fields x 0 [⟨4, c0⟩, ⟨3, a2⟩, ⟨7, c1⟩, ⟨5, a1⟩, ⟨5, c2⟩, ⟨6, c3⟩, ⟨1, BitVec.ofBool a0⟩, ⟨1, c4⟩] := by
  exact fields_of hx (by subst hb; simp only [sum_cons, sum_nil, glue_cons, glue_nil, BitVec.toNat_ofBool]; omega) rfl

theorem fmt32 {x : BitVec 32} {b : Nat} (a0 : Bool) (a1 : BitVec 5) (a2 : BitVec 5) (a3 : BitVec 5) (c0 : BitVec 4) (c1 : BitVec 5) (c2 : BitVec 6) (c3 : BitVec 1)
    (hx : pack b [(a0.toNat, 30), (a1.toNat, 14), (a2.toNat, 9), (a3.toNat, 4)] = x)
    (hb : b = c0.toNat * 2 ^ 0 + c1.toNat * 2 ^ 19 + c2.toNat * 2 ^ 24 + c3.toNat * 2 ^ 31) :
    Fields x 0 [⟨4, c0⟩, ⟨5, a3⟩, ⟨5, a2⟩, ⟨5, a1⟩, ⟨5, c1⟩, ⟨6, c2⟩, ⟨1, BitVec.ofBool a0⟩, ⟨1, c3⟩] := by
  exact fields_of hx (by subst hb; simp only [sum_cons, sum_nil, glue_cons, glue_nil, BitVec.toNat_ofBool]; omega) rfl

theorem fmt33 {x : BitVec 32} {b : Nat} (a0 : Bool) (a1 : BitVec 5) (a2 : BitVec 5) (a3 : BitVec 5) (c0 : BitVec 4) (c1 : BitVec 5) (c2 : BitVec 6) (c3 : BitVec 1)
    (hx : pack b [(a0.toNat, 30), (a1.toNat, 19), (a2.toNat, 14), (a3.toNat, 9)] = x)
    (hb : b = c0.toNat * 2 ^ 0 + c1.toNat * 2 ^ 4 + c2.toNat * 2 ^ 24 + c3.toNat * 2 ^ 31) :
    Fields x 0 [⟨4, c0⟩, ⟨5, c1⟩, ⟨5, a3⟩, ⟨5, a2⟩, ⟨5, a1⟩, ⟨6, c2⟩, ⟨1, BitVec.ofBool a0⟩, ⟨1, c3⟩] := by
  exact fields_of hx (by subst hb; simp only [sum_cons, sum_nil, glue_cons, glue_nil, BitVec.toNat_ofBool]; omega) rfl

theorem fmt34 {x : BitVec 32} {b : Nat} (a0 : Bool) (a1 : BitVec 5) (a2 : BitVec 5) (c0 : BitVec 4) (c1 : BitVec 10) (c2 : BitVec 6) (c3 : BitVec 1)
    (hx : pack b [(a0.toNat, 30), (a1.toNat, 19), (a2.toNat, 4)] = x)
    (hb : b = c0.toNat * 2 ^ 0 + c1.toNat * 2 ^ 9 + c2.toNat * 2 ^ 24 + c3.toNat * 2 ^ 31) :
    Fields x 0 [⟨4, c0⟩, ⟨5, a2⟩, ⟨10, c1⟩, ⟨5, a1⟩, ⟨6, c2⟩, ⟨1, BitVec.ofBool a0⟩, ⟨1, c3⟩] := by
  exact fields_of hx (by subst hb; simp only [sum_cons, sum_nil, glue_cons, glue_nil, BitVec.toNat_ofBool]; omega) rfl

theorem fmt35 {x : BitVec 32} {b : Nat} (a0 : Bool) (a1 : BitVec 5) (a2 : BitVec 5) (a3 : BitVec 5) (a4 : BitVec 5) (c0 : BitVec 4) (c1 : BitVec 6) (c2 : BitVec 1)
    (hx : pack b [(a0.toNat, 30), (a1.toNat, 19), (a2.toNat, 14), (a3.toNat, 9), (a4.toNat, 4)] = x)
    (hb : b = c0.toNat * 2 ^ 0 + c1.toNat * 2 ^ 24 + c2.toNat * 2 ^ 31) :
    Fields x 0 [⟨4, c0⟩, ⟨5, a4⟩, ⟨5, a3⟩, ⟨5, a2⟩, ⟨5, a1⟩, ⟨6, c1⟩, ⟨1, BitVec.ofBool a0⟩, ⟨1, c2⟩] := by
  exact fields_of hx (by subst hb; simp only [sum_cons, sum_nil, glue_cons, glue_nil, BitVec.toNat_ofBool]; omega) rfl

theorem fmt36 {x : BitVec 32} {b : Nat} (a0 : Bool) (a1 : BitVec 5) (a2 : BitVec 5) (a3 : BitVec 5) (c0 : BitVec 4) (c1 : BitVec 5) (c2 : BitVec 6) (c3 : BitVec 1)
    (hx : pack b [(a0.toNat, 30), (a1.toNat, 19), (a2.toNat, 14), (a3.toNat, 4)] = x)
    (hb : b = c0.toNat * 2 ^ 0 + c1.toNat * 2 ^ 9 + c2.toNat * 2 ^ 24 + c3.toNat * 2 ^ 31) :
    Fields x 0 [⟨4, c0⟩, ⟨5, a3⟩, ⟨5, c1⟩, ⟨5, a2⟩, ⟨5, a1⟩, ⟨6, c2⟩, ⟨1, BitVec.ofBool a0⟩, ⟨1, c3⟩] := by
  exact fields_of hx (by subst hb; simp only [sum_cons, sum_nil, glue_cons, glue_nil, BitVec.toNat_ofBool]; omega) rfl

theorem fmt37 {x : BitVec 32} {b : Nat} (a0 : Bool) (a1 : BitVec 5) (a2 : BitVec 5) (a3 : BitVec 5) (c0 : BitVec 4) (c1 : BitVec 5) (c2 : BitVec 6) (c3 : BitVec 1)
    (hx : pack b [(a0.toNat, 30), (a1.toNat, 19), (a2.toNat, 9), (a3.toNat, 4)] = x)
    (hb : b = c0.toNat * 2 ^ 0 + c1.toNat * 2 ^ 14 + c2.toNat * 2 ^ 24 + c3.toNat * 2 ^ 31) :
    Fields x 0 [⟨4, c0⟩, ⟨5, a3⟩, ⟨5, a2⟩, ⟨5, c1⟩, ⟨5, a1⟩, ⟨6, c2⟩, ⟨1, BitVec.ofBool a0⟩, ⟨1, c3⟩] := by
  exact fields_of hx (by subst hb; simp only [sum_cons, sum_nil, glue_cons, glue_nil, BitVec.toNat_ofBool]; omega) rfl

theorem fmt38 {x : BitVec 32} {b : Nat} (a0 : Bool) (a1 : BitVec 5) (a2 : BitVec 5) (c0 : BitVec 4) (c1 : BitVec 5) (c2 : BitVec 5) (c3 : BitVec 6) (c4 : BitVec 1)
    (hx : pack b [(a0.toNat, 30), (a1.toNat, 14), (a2.toNat, 4)] = x)
    (hb : b = c0.toNat * 2 ^ 0 + c1.toNat * 2 ^ 9 + c2.toNat * 2 ^ 19 + c3.toNat * 2 ^ 24 + c4.toNat * 2 ^ 31) :
    Fields x 0 [⟨4, c0⟩, ⟨5, a2⟩, ⟨5, c1⟩, ⟨5, a1⟩, ⟨5, c2⟩, ⟨6, c3⟩, ⟨1, BitVec.ofBool a0⟩, ⟨1, c4⟩] := by
  exact fields_of hx (by subst hb; simp only [sum_cons, sum_nil, glue_cons, glue_nil, BitVec.toNat_ofBool]; omega) rfl

theorem fmt39 {x : BitVec 32} {b : Nat} (a0 : Bool) (a1 : BitVec 5) (a2 : BitVec 10) (c0 : BitVec 4) (c1 : BitVec 5) (c2 : BitVec 6) (c3 : BitVec 1)
    (hx : pack b [(a0.toNat, 30), (a1.toNat, 19), (a2.toNat, 4)] = x)
    (hb : b = c0.toNat * 2 ^ 0 + c1.toNat * 2 ^ 14 + c2.toNat * 2 ^ 24 + c3.toNat * 2 ^ 31) :
    Fields x 0 [⟨4, c0⟩, ⟨10, a2⟩, ⟨5, c1⟩, ⟨5, a1⟩, ⟨6, c2⟩, ⟨1, BitVec.ofBool a0⟩, ⟨1, c3⟩] := by
  exact fields_of hx (by subst hb; simp only [sum_cons, sum_nil, glue_cons, glue_nil, BitVec.toNat_ofBool]; omega) rfl

theorem fmt40 {x : BitVec 32} {b : Nat} (a0 : Bool) (a1 : BitVec 5) (a2 : BitVec 10) (c0 : BitVec 4) (c1 : BitVec 5) (c2 : BitVec 6) (c3 : BitVec 1)
    (hx : pack b [(a0.toNat, 30), (a1.toNat, 14), (a2.toNat, 4)] = x)
    (hb : b = c0.toNat * 2 ^ 0 + c1.toNat * 2 ^ 19 + c2.toNat * 2 ^ 24 + c3.toNat * 2 ^ 31) :
    Fields x 0 [⟨4, c0⟩, ⟨10, a2⟩, ⟨5, a1⟩, ⟨5, c1⟩, ⟨6, c2⟩, ⟨1, BitVec.ofBool a0⟩, ⟨1, c3⟩] := by
  exact fields_of hx (by subst hb; simp only [sum_cons, sum_nil, glue_cons, glue_nil, BitVec.toNat_ofBool]; omega) rfl

theorem fmt41 {x : BitVec 32} {b : Nat} (a0 : Bool) (a1 : BitVec 10) (c0 : BitVec 4) (c1 : BitVec 10) (c2 : BitVec 6) (c3 : BitVec 1)
    (hx : pack b [(a0.toNat, 30), (a1.toNat, 4)] = x)
    (hb : b = c0.toNat * 2 ^ 0 + c1.toNat * 2 ^ 14 + c2.toNat * 2 ^ 24 + c3.toNat * 2 ^ 31) :
    Fields x 0 [⟨4, c0⟩, ⟨10, a1⟩, ⟨10, c1⟩, ⟨6, c2⟩, ⟨1, BitVec.ofBool a0⟩, ⟨1, c3⟩] := by
  exact fields_of hx (by subst hb; simp only [sum_cons, sum_nil, glue_cons, glue_nil, BitVec.toNat_ofBool]; omega) rfl

theorem fmt42 {x : BitVec 32} {b : Nat} (a0 : Bool) (a1 : BitVec 5) (a2 : BitVec 5) (a3 : BitVec 10) (c0 : BitVec 4) (c1 : BitVec 6) (c2 : BitVec 1)
    (hx : pack b [(a0.toNat, 30), (a1.toNat, 19), (a2.toNat, 14), (a3.toNat, 4)] = x)
    (hb : b = c0.toNat * 2 ^ 0 + c1.toNat * 2 ^ 24 + c2.toNat * 2 ^ 31) :
    Fields x 0 [⟨4, c0⟩, ⟨10, a3⟩, ⟨5, a2⟩, ⟨5, a1⟩, ⟨6, c1⟩, ⟨1, BitVec.ofBool a0⟩, ⟨1, c2⟩] := by
  exact fields_of hx (by subst hb; simp only [sum_cons, sum_nil, glue_cons, glue_nil, BitVec.toNat_ofBool]; omega) rfl

theorem fmt43 {x : BitVec 32} {b : Nat} (a0 : BitVec 6) (a1 : BitVec 6) (a2 : BitVec 6) (a3 : BitVec 4) (a4 : BitVec 3) (c0 : BitVec 7)
    (hx : pack b [(a0.toNat, 19), (a1.toNat, 13), (a2.toNat, 7), (a3.toNat, 3), (a4.toNat, 0)] = x)
    (hb : b = c0.toNat * 2 ^ 25) :
    Fields x 0 [⟨3, a4⟩, ⟨4, a3⟩, ⟨6, a2⟩, ⟨6, a1⟩, ⟨6, a0⟩, ⟨7, c0⟩] := by
  exact fields_of hx (by subst hb; simp only [sum_cons, sum_nil, glue_cons, glue_nil]; omega) rfl

theorem fmt44 {x : BitVec 32} {b : Nat} (a0 : BitVec 5) (a1 : BitVec 6) (a2 : BitVec 6) (a3 : BitVec 4) (a4 : BitVec 3) (c0 : BitVec 1) (c1 : BitVec 7)
    (hx : pack b [(a0.toNat, 19), (a1.toNat, 13), (a2.toNat, 7), (a3.toNat, 3), (a4.toNat, 0)] = x)
    (hb : b = c0.toNat * 2 ^ 24 + c1.toNat * 2 ^ 25) :
    Fields x 0 [⟨3, a4⟩, ⟨4, a3⟩, ⟨6, a2⟩, ⟨6, a1⟩, ⟨5, a0⟩, ⟨1, c0⟩, ⟨7, c1⟩] := by
  exact fields_of hx (by subst hb; simp only [sum_cons, sum_nil, glue_cons, glue_nil]; omega) rfl

theorem fmt45 {x : BitVec 32} {b : Nat} (a0 : BitVec 6) (a1 : BitVec 6) (a2 : BitVec 6) (a3 : BitVec 4) (c0 : BitVec 3) (c1 : BitVec 7)
    (hx : pack b [(a0.toNat, 19), (a1.toNat, 13), (a2.toNat, 7), (a3.toNat, 3)] = x)
    (hb : b = c0.toNat * 2 ^ 0 + c1.toNat * 2 ^ 25) :
    Fields x 0 [⟨3, c0⟩, ⟨4, a3⟩, ⟨6, a2⟩, ⟨6, a1⟩, ⟨6, a0⟩, ⟨7, c1⟩] := by
  exact fields_of hx (by subst hb; simp only [sum_cons, sum_nil, glue_cons, glue_nil]; omega) rfl

theorem fmt46 {x : BitVec 32} {b : Nat} (a0 : BitVec 6) (a1 : BitVec 6) (a2 : BitVec 4) (c0 : BitVec 3) (c1 : BitVec 6) (c2 : BitVec 7)
    (hx : pack b [(a0.toNat, 19), (a1.toNat, 13), (a2.toNat, 3)] = x)
    (hb : b = c0.toNat * 2 ^ 0 + c1.toNat * 2 ^ 7 + c2.toNat * 2 ^ 25) :
    Fields x 0 [⟨3, c0⟩, ⟨4, a2⟩, ⟨6, c1⟩, ⟨6, a1⟩, ⟨6, a0⟩, ⟨7, c2⟩] := by
  exact fields_of hx (by subst hb; simp only [sum_cons, sum_nil, glue_cons, glue_nil]; omega) rfl

theorem fmt47 {x : BitVec 32} {b : Nat} (a0 : BitVec 6) (a1 : BitVec 6) (a2 : BitVec 4) (a3 : BitVec 3) (c0 : BitVec 6) (c1 : BitVec 7)
    (hx : pack b [(a0.toNat, 19), (a1.toNat, 13), (a2.toNat, 3), (a3.toNat, 0)] = x)
    (hb : b = c0.toNat * 2 ^ 7 + c1.toNat * 2 ^ 25) :
    Fields x 0 [⟨3, a3⟩, ⟨4, a2⟩, ⟨6, c0⟩, ⟨6, a1⟩, ⟨6, a0⟩, ⟨7, c1⟩] := by
  exact fields_of hx (by subst hb; simp only [sum_cons, sum_nil, glue_cons, glue_nil]; omega) rfl

theorem fmt48 {x : BitVec 32} {b : Nat} (a0 : BitVec 6) (a1 : BitVec 6) (a2 : BitVec 6) (c0 : BitVec 7) (c1 : BitVec 7)
    (hx : pack b [(a0.toNat, 19), (a1.toNat, 13), (a2.toNat, 7)] = x)
    (hb : b = c0.toNat * 2 ^ 0 + c1.toNat * 2 ^ 25) :
    Fields x 0 [⟨7, c0⟩, ⟨6, a2⟩, ⟨6, a1⟩, ⟨6, a0⟩, ⟨7, c1⟩] := by
  exact fields_of hx (by subst hb; simp only [sum_cons, sum_nil, glue_cons, glue_nil]; omega) rfl

theorem fmt49 {x : BitVec 32} {b : Nat} (a0 : BitVec 6) (a1 : BitVec 6) (c0 : BitVec 13) (c1 : BitVec 7)
    (hx : pack b [(a0.toNat, 19), (a1.toNat, 13)] = x)
    (hb : b = c0.toNat * 2 ^ 0 + c1.toNat * 2 ^ 25) :
    Fields x 0 [⟨13, c0⟩, ⟨6, a1⟩, ⟨6, a0⟩, ⟨7, c1⟩] := by
  exact fields_of hx (by subst hb; simp only [sum_cons, sum_nil, glue_cons, glue_nil]; omega) rfl

theorem fmt50 {x : BitVec 32} {b : Nat} (a0 : BitVec 5) (a1 : BitVec 6) (c0 : BitVec 13) (c1 : BitVec 1) (c2 : BitVec 7)
    (hx : pack b [(a0.toNat, 19), (a1.toNat, 13)] = x)
    (hb : b = c0.toNat * 2 ^ 0 + c1.toNat * 2 ^ 24 + c2.toNat * 2 ^ 25) :
    Fields x 0 [⟨13, c0⟩, ⟨6, a1⟩, ⟨5, a0⟩, ⟨1, c1⟩, ⟨7, c2⟩] := by
  exact fields_of hx (by subst hb; simp only [sum_cons, sum_nil, glue_cons, glue_nil]; omega) rfl

theorem fmt51 {x : BitVec 32} {b : Nat} (a0 : BitVec 5) (a1 : BitVec 6) (a2 : BitVec 6) (a3 : BitVec 4) (c0 : BitVec 3) (c1 : BitVec 1) (c2 : BitVec 7)
    (hx : pack b [(a0.toNat, 19), (a1.toNat, 13), (a2.toNat, 7), (a3.toNat, 3)] = x)
    (hb : b = c0.toNat * 2 ^ 0 + c1.toNat * 2 ^ 24 + c2.toNat * 2 ^ 25) :
    Fields x 0 [⟨3, c0⟩, ⟨4, a3⟩, ⟨6, a2⟩, ⟨6, a1⟩, ⟨5, a0⟩, ⟨1, c1⟩, ⟨7, c2⟩] := by
  exact fields_of hx (by subst hb; simp only [sum_cons, sum_nil, glue_cons, glue_nil]; omega) rfl

theorem fmt52 {x : BitVec 32} {b : Nat} (a0 : BitVec 5) (a1 : BitVec 6) (a2 : BitVec 4) (a3 : BitVec 3) (c0 : BitVec 6) (c1 : BitVec 1) (c2 : BitVec 7)
    (hx : pack b [(a0.toNat, 19), (a1.toNat, 13), (a2.toNat, 3), (a3.toNat, 0)] = x)
    (hb : b = c0.toNat * 2 ^ 7 + c1.toNat * 2 ^ 24 + c2.toNat * 2 ^ 25) :
    Fields x 0 [⟨3, a3⟩, ⟨4, a2⟩, ⟨6, c0⟩, ⟨6, a1⟩, ⟨5, a0⟩, ⟨1, c1⟩, ⟨7, c2⟩] := by
  exact fields_of hx (by subst hb; simp only [sum_cons, sum_nil, glue_cons, glue_nil]; omega) rfl

theorem fmt53 {x : BitVec 32} {b : Nat} (a0 : BitVec 5) (a1 : BitVec 6) (a2 : BitVec 4) (c0 : BitVec 3) (c1 : BitVec 6) (c2 : BitVec 1) (c3 : BitVec 7)
    (hx : pack b [(a0.toNat, 19), (a1.toNat, 13), (a2.toNat, 3)] = x)
    (hb : b = c0.toNat * 2 ^ 0 + c1.toNat * 2 ^ 7 + c2.toNat * 2 ^ 24 + c3.toNat * 2 ^ 25) :
    Fields x 0 [⟨3, c0⟩, ⟨4, a2⟩, ⟨6, c1⟩, ⟨6, a1⟩, ⟨5, a0⟩, ⟨1, c2⟩, ⟨7, c3⟩] := by
  exact fields_of hx (by subst hb; simp only [sum_cons, sum_nil, glue_cons, glue_nil]; omega) rfl

theorem fmt54 {x : BitVec 32} {b : Nat} (a0 : BitVec 6) (a1 : BitVec 6) (a2 : BitVec 2) (a3 : BitVec 4) (a4 : BitVec 4) (a5 : BitVec 3) (c0 : BitVec 7)
    (hx : pack b [(a0.toNat, 19), (a1.toNat, 13), (a2.toNat, 11), (a3.toNat, 7), (a4.toNat, 3), (a5.toNat, 0)] = x)
    (hb : b = c0.toNat * 2 ^ 25) :
    Fields x 0 [⟨3, a5⟩, ⟨4, a4⟩, ⟨4, a3⟩, ⟨2, a2⟩, ⟨6, a1⟩, ⟨6, a0⟩, ⟨7, c0⟩] := by
  exact fields_of hx (by subst hb; simp only [sum_cons, sum_nil, glue_cons, glue_nil]; omega) rfl

theorem fmt55 {x : BitVec 32} {b : Nat} (a0 : BitVec 6) (a1 : BitVec 6) (a2 : BitVec 4) (a3 : BitVec 4) (a4 : BitVec 3) (c0 : BitVec 2) (c1 : BitVec 7)
    (hx : pack b [(a0.toNat, 19), (a1.toNat, 13), (a2.toNat, 7), (a3.toNat, 3), (a4.toNat, 0)] = x)
    (hb : b = c0.toNat * 2 ^ 11 + c1.toNat * 2 ^ 25) :
    Fields x 0 [⟨3, a4⟩, ⟨4, a3⟩, ⟨4, a2⟩, ⟨2, c0⟩, ⟨6, a1⟩, ⟨6, a0⟩, ⟨7, c1⟩] := by
  exact fields_of hx (by subst hb; simp only [sum_cons, sum_nil, glue_cons, glue_nil]; omega) rfl

theorem fmt56 {x : BitVec 32} {b : Nat} (a0 : BitVec 5) (a1 : BitVec 6) (a2 : BitVec 6) (c0 : BitVec 7) (c1 : BitVec 1) (c2 : BitVec 7)
    (hx : pack b [(a0.toNat, 19), (a1.toNat, 13), (a2.toNat, 7)] = x)
    (hb : b = c0.toNat * 2 ^ 0 + c1.toNat * 2 ^ 24 + c2.toNat * 2 ^ 25) :
    Fields x 0 [⟨7, c0⟩, ⟨6, a2⟩, ⟨6, a1⟩, ⟨5, a0⟩, ⟨1, c1⟩, ⟨7, c2⟩] := by
  exact fields_of hx (by subst hb; simp only [sum_cons, sum_nil, glue_cons, glue_nil]; omega) rfl

theorem fmt57 {x : BitVec 32} {b : Nat} (a0 : BitVec 6) (a1 : BitVec 6) (a2 : BitVec 1) (a3 : BitVec 5) (a4 : BitVec 4) (c0 : BitVec 3) (c1 : BitVec 7)
    (hx : pack b [(a0.toNat, 19), (a1.toNat, 13), (a2.toNat, 12), (a3.toNat, 7), (a4.toNat, 3)] = x)
    (hb : b = c0.toNat * 2 ^ 0 + c1.toNat * 2 ^ 25) :
    Fields x 0 [⟨3, c0⟩, ⟨4, a4⟩, ⟨5, a3⟩, ⟨1, a2⟩, ⟨6, a1⟩, ⟨6, a0⟩, ⟨7, c1⟩] := by
  exact fields_of hx (by subst hb; simp only [sum_cons, sum_nil, glue_cons, glue_nil]; omega) rfl

theorem fmt58 {x : BitVec 32} {b : Nat} (a0 : BitVec 2) (a1 : BitVec 5) (a2 : BitVec 1) (a3 : BitVec 6) (c0 : BitVec 1) (c1 : BitVec 5) (c2 : BitVec 1) (c3 : BitVec 4) (c4 : BitVec 7)
    (hx : pack b [(a0.toNat, 19), (a1.toNat, 13), (a2.toNat, 7), (a3.toNat, 0)] = x)
    (hb : b = c0.toNat * 2 ^ 6 + c1.toNat * 2 ^ 8 + c2.toNat * 2 ^ 18 + c3.toNat * 2 ^ 21 + c4.toNat * 2 ^ 25) :
    Fields x 0 [⟨6, a3⟩, ⟨1, c0⟩, ⟨1, a2⟩, ⟨5, c1⟩, ⟨5, a1⟩, ⟨1, c2⟩, ⟨2, a0⟩, ⟨4, c3⟩, ⟨7, c4⟩] := by
  exact fields_of hx (by subst hb; simp only [sum_cons, sum_nil, glue_cons, glue_nil]; omega) rfl

theorem fmt59 {x : BitVec 32} {b : Nat} (a0 : BitVec 2) (a1 : BitVec 5) (a2 : BitVec 1) (a3 : BitVec 1) (a4 : BitVec 6) (c0 : BitVec 5) (c1 : BitVec 1) (c2 : BitVec 4) (c3 : BitVec 7)
    (hx : pack b [(a0.toNat, 19), (a1.toNat, 13), (a2.toNat, 7), (a3.toNat, 6), (a4.toNat, 0)] = x)
    (hb : b = c0.toNat * 2 ^ 8 + c1.toNat * 2 ^ 18 + c2.toNat * 2 ^ 21 + c3.toNat * 2 ^ 25) :
    Fields x 0 [⟨6, a4⟩, ⟨1, a3⟩, ⟨1, a2⟩, ⟨5, c0⟩, ⟨5, a1⟩, ⟨1, c1⟩, ⟨2, a0⟩, ⟨4, c2⟩, ⟨7, c3⟩] := by
  exact fields_of hx (by subst hb; simp only [sum_cons, sum_nil, glue_cons, glue_nil]; omega) rfl

theorem fmt60 {x : BitVec 32} {b : Nat} (a0 : BitVec 2) (c0 : BitVec 19) (c1 : BitVec 4) (c2 : BitVec 7)
    (hx : pack b [(a0.toNat, 19)] = x)
    (hb : b = c0.toNat * 2 ^ 0 + c1.toNat * 2 ^ 21 + c2.toNat * 2 ^ 25) :
    Fields x 0 [⟨19, c0⟩, ⟨2, a0⟩, ⟨4, c1⟩, ⟨7, c2⟩] := by
  exact fields_of hx (by subst hb; simp only [sum_cons, sum_nil, glue_cons, glue_nil]; omega) rfl

theorem fmt61 {x : BitVec 32} {b : Nat} (a0 : BitVec 2) (a1 : BitVec 5) (a2 : BitVec 4) (a3 : BitVec 3) (c0 : BitVec 6) (c1 : BitVec 1) (c2 : BitVec 4) (c3 : BitVec 7)
    (hx : pack b [(a0.toNat, 19), (a1.toNat, 13), (a2.toNat, 3), (a3.toNat, 0)] = x)
    (hb : b = c0.toNat * 2 ^ 7 + c1.toNat * 2 ^ 18 + c2.toNat * 2 ^ 21 + c3.toNat * 2 ^ 25) :
    Fields x 0 [⟨3, a3⟩, ⟨4, a2⟩, ⟨6, c0⟩, ⟨5, a1⟩, ⟨1, c1⟩, ⟨2, a0⟩, ⟨4, c2⟩, ⟨7, c3⟩] := by
  exact fields_of hx (by subst hb; simp only [sum_cons, sum_nil, glue_cons, glue_nil]; omega) rfl

theorem fmt62 {x : BitVec 32} {b : Nat} (a0 : BitVec 2) (a1 : BitVec 5) (a2 : BitVec 4) (c0 : BitVec 3) (c1 : BitVec 6) (c2 : BitVec 1) (c3 : BitVec 4) (c4 : BitVec 7)
    (hx : pack b [(a0.toNat, 19), (a1.toNat, 13), (a2.toNat, 3)] = x)
    (hb : b = c0.toNat * 2 ^ 0 + c1.toNat * 2 ^ 7 + c2.toNat * 2 ^ 18 + c3.toNat * 2 ^ 21 + c4.toNat * 2 ^ 25) :
    Fields x 0 [⟨3, c0⟩, ⟨4, a2⟩, ⟨6, c1⟩, ⟨5, a1⟩, ⟨1, c2⟩, ⟨2, a0⟩, ⟨4, c3⟩, ⟨7, c4⟩] := by
  exact fields_of hx (by subst hb; simp only [sum_cons, sum_nil, glue_cons, glue_nil]; omega) rfl

theorem fmt63 {x : BitVec 32} {b : Nat} (a0 : BitVec 5) (a1 : BitVec 1) (c0 : BitVec 7) (c1 : BitVec 5) (c2 : BitVec 1) (c3 : BitVec 6) (c4 : BitVec 7)
    (hx : pack b [(a0.toNat, 13), (a1.toNat, 7)] = x)
    (hb : b = c0.toNat * 2 ^ 0 + c1.toNat * 2 ^ 8 + c2.toNat * 2 ^ 18 + c3.toNat * 2 ^ 19 + c4.toNat * 2 ^ 25) :
    Fields x 0 [⟨7, c0⟩, ⟨1, a1⟩, ⟨5, c1⟩, ⟨5, a0⟩, ⟨1, c2⟩, ⟨6, c3⟩, ⟨7, c4⟩] := by
  exact fields_of hx (by subst hb; simp only [sum_cons, sum_nil, glue_cons, glue_nil]; omega) rfl

theorem fmt64 {x : BitVec 32} {b : Nat} (a0 : BitVec 3) (a1 : BitVec 1) (c0 : BitVec 7) (c1 : BitVec 5) (c2 : BitVec 2) (c3 : BitVec 1) (c4 : BitVec 6) (c5 : BitVec 7)
    (hx : pack b [(a0.toNat, 13), (a1.toNat, 7)] = x)
    (hb : b = c0.toNat * 2 ^ 0 + c1.toNat * 2 ^ 8 + c2.toNat * 2 ^ 16 + c3.toNat * 2 ^ 18 + c4.toNat * 2 ^ 19 + c5.toNat * 2 ^ 25) :
    Fields x 0 [⟨7, c0⟩, ⟨1, a1⟩, ⟨5, c1⟩, ⟨3, a0⟩, ⟨2, c2⟩, ⟨1, c3⟩, ⟨6, c4⟩, ⟨7, c5⟩] := by
  exact fields_of hx (by subst hb; simp only [sum_cons, sum_nil, glue_cons, glue_nil]; omega) rfl

theorem fmt65 {x : BitVec 32} {b : Nat} (a0 : BitVec 1) (c0 : BitVec 7) (c1 : BitVec 17) (c2 : BitVec 7)
    (hx : pack b [(a0.toNat, 7)] = x)
    (hb : b = c0.toNat * 2 ^ 0 + c1.toNat * 2 ^ 8 + c2.toNat * 2 ^ 25) :
    Fields x 0 [⟨7, c0⟩, ⟨1, a0⟩, ⟨17, c1⟩, ⟨7, c2⟩] := by
  exact fields_of hx (by subst hb; simp only [sum_cons, sum_nil, glue_cons, glue_nil]; omega) rfl

end Sys2Proof.Laws

namespace Sys2Proof.Laws.RoundTrip

theorem nopc : Statement (.nopc) := by
  exact roundTrip_of_C rfl rfl fun w hw => by subst hw; rfl

theorem add (sp : Bool) (rd : BitVec 5) (ra : BitVec 5) (rb : BitVec 5) : Statement (.add sp rd ra rb) := by
  refine roundTrip_of_C rfl rfl fun x hx => ?_
  obtain ⟨(e0 : fld x 0 9 = 0#9), (e1 : fld x 9 5 = rb), (e2 : fld x 14 5 = ra), (e3 : fld x 19 5 = rd), (e4 : fld x 24 6 = 1#6), (e5 : fld x 30 1 = BitVec.ofBool sp), (e6 : fld x 31 1 = 0#1), -⟩ := fmt0 sp rd ra rb 0 1 0 hx rfl
  delta decodeC; rw [e4]; change (if fld x 31 1 = 1 then Except.error DecodeError.literalNotAccepted else decodeC01 x) = _
  rw [if_neg (by rw [e6]; decide)]; delta decodeC01; rw [e0]; change (Except.ok (Instr.add (fld x 30 1 == 1) (fld x 19 5) (fld x 14 5) (fld x 9 5))) = _
  simp [e1, e2, e3, e5, sbit_of]

theorem sub (sp : Bool) (rd : BitVec 5) (ra : BitVec 5) (rb : BitVec 5) : Statement (.sub sp rd ra rb) := by
  refine roundTrip_of_C rfl rfl fun x hx => ?_
  obtain ⟨(e0 : fld x 0 9 = 1#9), (e1 : fld x 9 5 = rb), (e2 : fld x 14 5 = ra), (e3 : fld x 19 5 = rd), (e4 : fld x 24 6 = 1#6), (e5 : fld x 30 1 = BitVec.ofBool sp), (e6 : fld x 31 1 = 0#1), -⟩ := fmt0 sp rd ra rb 1 1 0 hx rfl
  delta decodeC; rw [e4]; change (if fld x 31 1 = 1 then Except.error DecodeError.literalNotAccepted else decodeC01 x) = _
  rw [if_neg (by rw [e6]; decide)]; delta decodeC01; rw [e0]; change (Except.ok (Instr.sub (fld x 30 1 == 1) (fld x 19 5) (fld x 14 5) (fld x 9 5))) = _
  simp [e1, e2, e3, e5, sbit_of]

theorem and (sp : Bool) (rd : BitVec 5) (ra : BitVec 5) (rb : BitVec 5) : Statement (.and sp rd ra rb) := by
  refine roundTrip_of_C rfl rfl fun x hx => ?_
  obtain ⟨(e0 : fld x 0 9 = 2#9), (e1 : fld x 9 5 = rb), (e2 : fld x 14 5 = ra), (e3 : fld x 19 5 = rd), (e4 : fld x 24 6 = 1#6), (e5 : fld x 30 1 = BitVec.ofBool sp), (e6 : fld x 31 1 = 0#1), -⟩ := fmt0 sp rd ra rb 2 1 0 hx rfl
  delta decodeC; rw [e4]; change (if fld x 31 1 = 1 then Except.error DecodeError.literalNotAccepted else decodeC01 x) = _
  rw [if_neg (by rw [e6]; decide)]; delta decodeC01; rw [e0]; change (Except.ok (Instr.and (fld x 30 1 == 1) (fld x 19 5) (fld x 14 5) (fld x 9 5))) = _
  simp [e1, e2, e3, e5, sbit_of]

theorem or (sp : Bool) (rd : BitVec 5) (ra : BitVec 5) (rb : BitVec 5) : Statement (.or sp rd ra rb) := by
  refine roundTrip_of_C rfl rfl fun x hx => ?_
  obtain ⟨(e0 : fld x 0 9 = 3#9), (e1 : fld x 9 5 = rb), (e2 : fld x 14 5 = ra), (e3 : fld x 19 5 = rd), (e4 : fld x 24 6 = 1#6), (e5 : fld x 30 1 = BitVec.ofBool sp), (e6 : fld x 31 1 = 0#1), -⟩ := fmt0 sp rd ra rb 3 1 0 hx rfl
  delta decodeC; rw [e4]; change (if fld x 31 1 = 1 then Except.error DecodeError.literalNotAccepted else decodeC01 x) = _
  rw [if_neg (by rw [e6]; decide)]; delta decodeC01; rw [e0]; change (Except.ok (Instr.or (fld x 30 1 == 1) (fld x 19 5) (fld x 14 5) (fld x 9 5))) = _
  simp [e1, e2, e3, e5, sbit_of]

theorem xor (sp : Bool) (rd : BitVec 5) (ra : BitVec 5) (rb : BitVec 5) : Statement (.xor sp rd ra rb) := by
  refine roundTrip_of_C rfl rfl fun x hx => ?_
  obtain ⟨(e0 : fld x 0 9 = 4#9), (e1 : fld x 9 5 = rb), (e2 : fld x 14 5 = ra), (e3 : fld x 19 5 = rd), (e4 : fld x 24 6 = 1#6), (e5 : fld x 30 1 = BitVec.ofBool sp), (e6 : fld x 31 1 = 0#1), -⟩ := fmt0 sp rd ra rb 4 1 0 hx rfl
  delta decodeC; rw [e4]; change (if fld x 31 1 = 1 then Except.error DecodeError.literalNotAccepted else decodeC01 x) = _
  rw [if_neg (by rw [e6]; decide)]; delta decodeC01; rw [e0]; change (Except.ok (Instr.xor (fld x 30 1 == 1) (fld x 19 5) (fld x 14 5) (fld x 9 5))) = _
  simp [e1, e2, e3, e5, sbit_of]

theorem andn (sp : Bool) (rd : BitVec 5) (ra : BitVec 5) (rb : BitVec 5) : Statement (.andn sp rd ra rb) := by
  refine roundTrip_of_C rfl rfl fun x hx => ?_
  obtain ⟨(e0 : fld x 0 9 = 5#9), (e1 : fld x 9 5 = rb), (e2 : fld x 14 5 = ra), (e3 : fld x 19 5 = rd), (e4 : fld x 24 6 = 1#6), (e5 : fld x 30 1 = BitVec.ofBool sp), (e6 : fld x 31 1 = 0#1), -⟩ := fmt0 sp rd ra rb 5 1 0 hx rfl
  delta decodeC; rw [e4]; change (if fld x 31 1 = 1 then Except.error DecodeError.literalNotAccepted else decodeC01 x) = _
  rw [if_neg (by rw [e6]; decide)]; delta decodeC01; rw [e0]; change (Except.ok (Instr.andn (fld x 30 1 == 1) (fld x 19 5) (fld x 14 5) (fld x 9 5))) = _
  simp [e1, e2, e3, e5, sbit_of]

theorem sll (sp : Bool) (rd : BitVec 5) (ra : BitVec 5) (rb : BitVec 5) : Statement (.sll sp rd ra rb) := by
  refine roundTrip_of_C rfl rfl fun x hx => ?_
  obtain ⟨(e0 : fld x 0 9 = 6#9), (e1 : fld x 9 5 = rb), (e2 : fld x 14 5 = ra), (e3 : fld x 19 5 = rd), (e4 : fld x 24 6 = 1#6), (e5 : fld x 30 1 = BitVec.ofBool sp), (e6 : fld x 31 1 = 0#1), -⟩ := fmt0 sp rd ra rb 6 1 0 hx rfl
  delta decodeC; rw [e4]; change (if fld x 31 1 = 1 then Except.error DecodeError.literalNotAccepted else decodeC01 x) = _
  rw [if_neg (by rw [e6]; decide)]; delta decodeC01; rw [e0]; change (Except.ok (Instr.sll (fld x 30 1 == 1) (fld x 19 5) (fld x 14 5) (fld x 9 5))) = _
  simp [e1, e2, e3, e5, sbit_of]

theorem srl (sp : Bool) (rd : BitVec 5) (ra : BitVec 5) (rb : BitVec 5) : Statement (.srl sp rd ra rb) := by
  refine roundTrip_of_C rfl rfl fun x hx => ?_
  obtain ⟨(e0 : fld x 0 9 = 7#9), (e1 : fld x 9 5 = rb), (e2 : fld x 14 5 = ra), (e3 : fld x 19 5 = rd), (e4 : fld x 24 6 = 1#6), (e5 : fld x 30 1 = BitVec.ofBool sp), (e6 : fld x 31 1 = 0#1), -⟩ := fmt0 sp rd ra rb 7 1 0 hx rfl
  delta decodeC; rw [e4]; change (if fld x 31 1 = 1 then Except.error DecodeError.literalNotAccepted else decodeC01 x) = _
  rw [if_neg (by rw [e6]; decide)]; delta decodeC01; rw [e0]; change (Except.ok (Instr.srl (fld x 30 1 == 1) (fld x 19 5) (fld x 14 5) (fld x 9 5))) = _
  simp [e1, e2, e3, e5, sbit_of]

theorem sra (sp : Bool) (rd : BitVec 5) (ra : BitVec 5) (rb : BitVec 5) : Statement (.sra sp rd ra rb) := by
  refine roundTrip_of_C rfl rfl fun x hx => ?_
  obtain ⟨(e0 : fld x 0 9 = 8#9), (e1 : fld x 9 5 = rb), (e2 : fld x 14 5 = ra), (e3 : fld x 19 5 = rd), (e4 : fld x 24 6 = 1#6), (e5 : fld x 30 1 = BitVec.ofBool sp), (e6 : fld x 31 1 = 0#1), -⟩ := fmt0 sp rd ra rb 8 1 0 hx rfl
  delta decodeC; rw [e4]; change (if fld x 31 1 = 1 then Except.error DecodeError.literalNotAccepted else decodeC01 x) = _
  rw [if_neg (by rw [e6]; decide)]; delta decodeC01; rw [e0]; change (Except.ok (Instr.sra (fld x 30 1 == 1) (fld x 19 5) (fld x 14 5) (fld x 9 5))) = _
  simp [e1, e2, e3, e5, sbit_of]

theorem slt (sp : Bool) (rd : BitVec 5) (ra : BitVec 5) (rb : BitVec 5) : Statement (.slt sp rd ra rb) := by
  refine roundTrip_of_C rfl rfl fun x hx => ?_
  obtain ⟨(e0 : fld x 0 9 = 9#9), (e1 : fld x 9 5 = rb), (e2 : fld x 14 5 = ra), (e3 : fld x 19 5 = rd), (e4 : fld x 24 6 = 1#6), (e5 : fld x 30 1 = BitVec.ofBool sp), (e6 : fld x 31 1 = 0#1), -⟩ := fmt0 sp rd ra rb 9 1 0 hx rfl
  delta decodeC; rw [e4]; change (if fld x 31 1 = 1 then Except.error DecodeError.literalNotAccepted else decodeC01 x) = _
  rw [if_neg (by rw [e6]; decide)]; delta decodeC01; rw [e0]; change (Except.ok (Instr.slt (fld x 30 1 == 1) (fld x 19 5) (fld x 14 5) (fld x 9 5))) = _
  simp [e1, e2, e3, e5, sbit_of]

theorem sltu (sp : Bool) (rd : BitVec 5) (ra : BitVec 5) (rb : BitVec 5) : Statement (.sltu sp rd ra rb) := by
  refine roundTrip_of_C rfl rfl fun x hx => ?_
  obtain ⟨(e0 : fld x 0 9 = 10#9), (e1 : fld x 9 5 = rb), (e2 : fld x 14 5 = ra), (e3 : fld x 19 5 = rd), (e4 : fld x 24 6 = 1#6), (e5 : fld x 30 1 = BitVec.ofBool sp), (e6 : fld x 31 1 = 0#1), -⟩ := fmt0 sp rd ra rb 10 1 0 hx rfl
  delta decodeC; rw [e4]; change (if fld x 31 1 = 1 then Except.error DecodeError.literalNotAccepted else decodeC01 x) = _
  rw [if_neg (by rw [e6]; decide)]; delta decodeC01; rw [e0]; change (Except.ok (Instr.sltu (fld x 30 1 == 1) (fld x 19 5) (fld x 14 5) (fld x 9 5))) = _
  simp [e1, e2, e3, e5, sbit_of]

theorem min (sp : Bool) (rd : BitVec 5) (ra : BitVec 5) (rb : BitVec 5) : Statement (.min sp rd ra rb) := by
  refine roundTrip_of_C rfl rfl fun x hx => ?_
  obtain ⟨(e0 : fld x 0 9 = 11#9), (e1 : fld x 9 5 = rb), (e2 : fld x 14 5 = ra), (e3 : fld x 19 5 = rd), (e4 : fld x 24 6 = 1#6), (e5 : fld x 30 1 = BitVec.ofBool sp), (e6 : fld x 31 1 = 0#1), -⟩ := fmt0 sp rd ra rb 11 1 0 hx rfl
  delta decodeC; rw [e4]; change (if fld x 31 1 = 1 then Except.error DecodeError.literalNotAccepted else decodeC01 x) = _
  rw [if_neg (by rw [e6]; decide)]; delta decodeC01; rw [e0]; change (Except.ok (Instr.min (fld x 30 1 == 1) (fld x 19 5) (fld x 14 5) (fld x 9 5))) = _
  simp [e1, e2, e3, e5, sbit_of]

theorem max (sp : Bool) (rd : BitVec 5) (ra : BitVec 5) (rb : BitVec 5) : Statement (.max sp rd ra rb) := by
  refine roundTrip_of_C rfl rfl fun x hx => ?_
  obtain ⟨(e0 : fld x 0 9 = 12#9), (e1 : fld x 9 5 = rb), (e2 : fld x 14 5 = ra), (e3 : fld x 19 5 = rd), (e4 : fld x 24 6 = 1#6), (e5 : fld x 30 1 = BitVec.ofBool sp), (e6 : fld x 31 1 = 0#1), -⟩ := fmt0 sp rd ra rb 12 1 0 hx rfl
  delta decodeC; rw [e4]; change (if fld x 31 1 = 1 then Except.error DecodeError.literalNotAccepted else decodeC01 x) = _
  rw [if_neg (by rw [e6]; decide)]; delta decodeC01; rw [e0]; change (Except.ok (Instr.max (fld x 30 1 == 1) (fld x 19 5) (fld x 14 5) (fld x 9 5))) = _
  simp [e1, e2, e3, e5, sbit_of]

theorem minu (sp : Bool) (rd : BitVec 5) (ra : BitVec 5) (rb : BitVec 5) : Statement (.minu sp rd ra rb) := by
  refine roundTrip_of_C rfl rfl fun x hx => ?_
  obtain ⟨(e0 : fld x 0 9 = 13#9), (e1 : fld x 9 5 = rb), (e2 : fld x 14 5 = ra), (e3 : fld x 19 5 = rd), (e4 : fld x 24 6 = 1#6), (e5 : fld x 30 1 = BitVec.ofBool sp), (e6 : fld x 31 1 = 0#1), -⟩ := fmt0 sp rd ra rb 13 1 0 hx rfl
  delta decodeC; rw [e4]; change (if fld x 31 1 = 1 then Except.error DecodeError.literalNotAccepted else decodeC01 x) = _
  rw [if_neg (by rw [e6]; decide)]; delta decodeC01; rw [e0]; change (Except.ok (Instr.minu (fld x 30 1 == 1) (fld x 19 5) (fld x 14 5) (fld x 9 5))) = _
  simp [e1, e2, e3, e5, sbit_of]

theorem maxu (sp : Bool) (rd : BitVec 5) (ra : BitVec 5) (rb : BitVec 5) : Statement (.maxu sp rd ra rb) := by
  refine roundTrip_of_C rfl rfl fun x hx => ?_
  obtain ⟨(e0 : fld x 0 9 = 14#9), (e1 : fld x 9 5 = rb), (e2 : fld x 14 5 = ra), (e3 : fld x 19 5 = rd), (e4 : fld x 24 6 = 1#6), (e5 : fld x 30 1 = BitVec.ofBool sp), (e6 : fld x 31 1 = 0#1), -⟩ := fmt0 sp rd ra rb 14 1 0 hx rfl
  delta decodeC; rw [e4]; change (if fld x 31 1 = 1 then Except.error DecodeError.literalNotAccepted else decodeC01 x) = _
  rw [if_neg (by rw [e6]; decide)]; delta decodeC01; rw [e0]; change (Except.ok (Instr.maxu (fld x 30 1 == 1) (fld x 19 5) (fld x 14 5) (fld x 9 5))) = _
  simp [e1, e2, e3, e5, sbit_of]

theorem mul (sp : Bool) (rd : BitVec 5) (ra : BitVec 5) (rb : BitVec 5) : Statement (.mul sp rd ra rb) := by
  refine roundTrip_of_C rfl rfl fun x hx => ?_
  obtain ⟨(e0 : fld x 0 9 = 15#9), (e1 : fld x 9 5 = rb), (e2 : fld x 14 5 = ra), (e3 : fld x 19 5 = rd), (e4 : fld x 24 6 = 1#6), (e5 : fld x 30 1 = BitVec.ofBool sp), (e6 : fld x 31 1 = 0#1), -⟩ := fmt0 sp rd ra rb 15 1 0 hx rfl
  delta decodeC; rw [e4]; change (if fld x 31 1 = 1 then Except.error DecodeError.literalNotAccepted else decodeC01 x) = _
  rw [if_neg (by rw [e6]; decide)]; delta decodeC01; rw [e0]; change (Except.ok (Instr.mul (fld x 30 1 == 1) (fld x 19 5) (fld x 14 5) (fld x 9 5))) = _
  simp [e1, e2, e3, e5, sbit_of]

theorem mulh (sp : Bool) (rd : BitVec 5) (ra : BitVec 5) (rb : BitVec 5) : Statement (.mulh sp rd ra rb) := by
  refine roundTrip_of_C rfl rfl fun x hx => ?_
  obtain ⟨(e0 : fld x 0 9 = 16#9), (e1 : fld x 9 5 = rb), (e2 : fld x 14 5 = ra), (e3 : fld x 19 5 = rd), (e4 : fld x 24 6 = 1#6), (e5 : fld x 30 1 = BitVec.ofBool sp), (e6 : fld x 31 1 = 0#1), -⟩ := fmt0 sp rd ra rb 16 1 0 hx rfl
  delta decodeC; rw [e4]; change (if fld x 31 1 = 1 then Except.error DecodeError.literalNotAccepted else decodeC01 x) = _
  rw [if_neg (by rw [e6]; decide)]; delta decodeC01; rw [e0]; change (Except.ok (Instr.mulh (fld x 30 1 == 1) (fld x 19 5) (fld x 14 5) (fld x 9 5))) = _
  simp [e1, e2, e3, e5, sbit_of]

theorem mulhu (sp : Bool) (rd : BitVec 5) (ra : BitVec 5) (rb : BitVec 5) : Statement (.mulhu sp rd ra rb) := by
  refine roundTrip_of_C rfl rfl fun x hx => ?_
  obtain ⟨(e0 : fld x 0 9 = 17#9), (e1 : fld x 9 5 = rb), (e2 : fld x 14 5 = ra), (e3 : fld x 19 5 = rd), (e4 : fld x 24 6 = 1#6), (e5 : fld x 30 1 = BitVec.ofBool sp), (e6 : fld x 31 1 = 0#1), -⟩ := fmt0 sp rd ra rb 17 1 0 hx rfl
  delta decodeC; rw [e4]; change (if fld x 31 1 = 1 then Except.error DecodeError.literalNotAccepted else decodeC01 x) = _
  rw [if_neg (by rw [e6]; decide)]; delta decodeC01; rw [e0]; change (Except.ok (Instr.mulhu (fld x 30 1 == 1) (fld x 19 5) (fld x 14 5) (fld x 9 5))) = _
  simp [e1, e2, e3, e5, sbit_of]

theorem div (sp : Bool) (rd : BitVec 5) (ra : BitVec 5) (rb : BitVec 5) : Statement (.div sp rd ra rb) := by
  refine roundTrip_of_C rfl rfl fun x hx => ?_
  obtain ⟨(e0 : fld x 0 9 = 18#9), (e1 : fld x 9 5 = rb), (e2 : fld x 14 5 = ra), (e3 : fld x 19 5 = rd), (e4 : fld x 24 6 = 1#6), (e5 : fld x 30 1 = BitVec.ofBool sp), (e6 : fld x 31 1 = 0#1), -⟩ := fmt0 sp rd ra rb 18 1 0 hx rfl
  delta decodeC; rw [e4]; change (if fld x 31 1 = 1 then Except.error DecodeError.literalNotAccepted else decodeC01 x) = _
  rw [if_neg (by rw [e6]; decide)]; delta decodeC01; rw [e0]; change (Except.ok (Instr.div (fld x 30 1 == 1) (fld x 19 5) (fld x 14 5) (fld x 9 5))) = _
  simp [e1, e2, e3, e5, sbit_of]

theorem divu (sp : Bool) (rd : BitVec 5) (ra : BitVec 5) (rb : BitVec 5) : Statement (.divu sp rd ra rb) := by
  refine roundTrip_of_C rfl rfl fun x hx => ?_
  obtain ⟨(e0 : fld x 0 9 = 19#9), (e1 : fld x 9 5 = rb), (e2 : fld x 14 5 = ra), (e3 : fld x 19 5 = rd), (e4 : fld x 24 6 = 1#6), (e5 : fld x 30 1 = BitVec.ofBool sp), (e6 : fld x 31 1 = 0#1), -⟩ := fmt0 sp rd ra rb 19 1 0 hx rfl
  delta decodeC; rw [e4]; change (if fld x 31 1 = 1 then Except.error DecodeError.literalNotAccepted else decodeC01 x) = _
  rw [if_neg (by rw [e6]; decide)]; delta decodeC01; rw [e0]; change (Except.ok (Instr.divu (fld x 30 1 == 1) (fld x 19 5) (fld x 14 5) (fld x 9 5))) = _
  simp [e1, e2, e3, e5, sbit_of]

theorem rem (sp : Bool) (rd : BitVec 5) (ra : BitVec 5) (rb : BitVec 5) : Statement (.rem sp rd ra rb) := by
  refine roundTrip_of_C rfl rfl fun x hx => ?_
  obtain ⟨(e0 : fld x 0 9 = 20#9), (e1 : fld x 9 5 = rb), (e2 : fld x 14 5 = ra), (e3 : fld x 19 5 = rd), (e4 : fld x 24 6 = 1#6), (e5 : fld x 30 1 = BitVec.ofBool sp), (e6 : fld x 31 1 = 0#1), -⟩ := fmt0 sp rd ra rb 20 1 0 hx rfl
  delta decodeC; rw [e4]; change (if fld x 31 1 = 1 then Except.error DecodeError.literalNotAccepted else decodeC01 x) = _
  rw [if_neg (by rw [e6]; decide)]; delta decodeC01; rw [e0]; change (Except.ok (Instr.rem (fld x 30 1 == 1) (fld x 19 5) (fld x 14 5) (fld x 9 5))) = _
  simp [e1, e2, e3, e5, sbit_of]

theorem remu (sp : Bool) (rd : BitVec 5) (ra : BitVec 5) (rb : BitVec 5) : Statement (.remu sp rd ra rb) := by
  refine roundTrip_of_C rfl rfl fun x hx => ?_
  obtain ⟨(e0 : fld x 0 9 = 21#9), (e1 : fld x 9 5 = rb), (e2 : fld x 14 5 = ra), (e3 : fld x 19 5 = rd), (e4 : fld x 24 6 = 1#6), (e5 : fld x 30 1 = BitVec.ofBool sp), (e6 : fld x 31 1 = 0#1), -⟩ := fmt0 sp rd ra rb 21 1 0 hx rfl
  delta decodeC; rw [e4]; change (if fld x 31 1 = 1 then Except.error DecodeError.literalNotAccepted else decodeC01 x) = _
  rw [if_neg (by rw [e6]; decide)]; delta decodeC01; rw [e0]; change (Except.ok (Instr.remu (fld x 30 1 == 1) (fld x 19 5) (fld x 14 5) (fld x 9 5))) = _
  simp [e1, e2, e3, e5, sbit_of]

theorem clz (sp : Bool) (rd : BitVec 5) (ra : BitVec 5) : Statement (.clz sp rd ra) := by
  refine roundTrip_of_C rfl rfl fun x hx => ?_
  obtain ⟨(e0 : fld x 0 9 = 22#9), (e1 : fld x 9 5 = 0#5), (e2 : fld x 14 5 = ra), (e3 : fld x 19 5 = rd), (e4 : fld x 24 6 = 1#6), (e5 : fld x 30 1 = BitVec.ofBool sp), (e6 : fld x 31 1 = 0#1), -⟩ := fmt1 sp rd ra 22 0 1 0 hx rfl
  delta decodeC; rw [e4]; change (if fld x 31 1 = 1 then Except.error DecodeError.literalNotAccepted else decodeC01 x) = _
  rw [if_neg (by rw [e6]; decide)]; delta decodeC01; rw [e0]; change (if fld x 9 5 = 0 then Except.ok (Instr.clz (fld x 30 1 == 1) (fld x 19 5) (fld x 14 5)) else Except.error DecodeError.reservedField) = _
  simp [e1, e2, e3, e5, sbit_of]

theorem ctz (sp : Bool) (rd : BitVec 5) (ra : BitVec 5) : Statement (.ctz sp rd ra) := by
  refine roundTrip_of_C rfl rfl fun x hx => ?_
  obtain ⟨(e0 : fld x 0 9 = 23#9), (e1 : fld x 9 5 = 0#5), (e2 : fld x 14 5 = ra), (e3 : fld x 19 5 = rd), (e4 : fld x 24 6 = 1#6), (e5 : fld x 30 1 = BitVec.ofBool sp), (e6 : fld x 31 1 = 0#1), -⟩ := fmt1 sp rd ra 23 0 1 0 hx rfl
  delta decodeC; rw [e4]; change (if fld x 31 1 = 1 then Except.error DecodeError.literalNotAccepted else decodeC01 x) = _
  rw [if_neg (by rw [e6]; decide)]; delta decodeC01; rw [e0]; change (if fld x 9 5 = 0 then Except.ok (Instr.ctz (fld x 30 1 == 1) (fld x 19 5) (fld x 14 5)) else Except.error DecodeError.reservedField) = _
  simp [e1, e2, e3, e5, sbit_of]

theorem popc (sp : Bool) (rd : BitVec 5) (ra : BitVec 5) : Statement (.popc sp rd ra) := by
  refine roundTrip_of_C rfl rfl fun x hx => ?_
  obtain ⟨(e0 : fld x 0 9 = 24#9), (e1 : fld x 9 5 = 0#5), (e2 : fld x 14 5 = ra), (e3 : fld x 19 5 = rd), (e4 : fld x 24 6 = 1#6), (e5 : fld x 30 1 = BitVec.ofBool sp), (e6 : fld x 31 1 = 0#1), -⟩ := fmt1 sp rd ra 24 0 1 0 hx rfl
  delta decodeC; rw [e4]; change (if fld x 31 1 = 1 then Except.error DecodeError.literalNotAccepted else decodeC01 x) = _
  rw [if_neg (by rw [e6]; decide)]; delta decodeC01; rw [e0]; change (if fld x 9 5 = 0 then Except.ok (Instr.popc (fld x 30 1 == 1) (fld x 19 5) (fld x 14 5)) else Except.error DecodeError.reservedField) = _
  simp [e1, e2, e3, e5, sbit_of]

theorem sel (sp : Bool) (rd : BitVec 5) (ra : BitVec 5) (rb : BitVec 5) : Statement (.sel sp rd ra rb) := by
  refine roundTrip_of_C rfl rfl fun x hx => ?_
  obtain ⟨(e0 : fld x 0 9 = 25#9), (e1 : fld x 9 5 = rb), (e2 : fld x 14 5 = ra), (e3 : fld x 19 5 = rd), (e4 : fld x 24 6 = 1#6), (e5 : fld x 30 1 = BitVec.ofBool sp), (e6 : fld x 31 1 = 0#1), -⟩ := fmt0 sp rd ra rb 25 1 0 hx rfl
  delta decodeC; rw [e4]; change (if fld x 31 1 = 1 then Except.error DecodeError.literalNotAccepted else decodeC01 x) = _
  rw [if_neg (by rw [e6]; decide)]; delta decodeC01; rw [e0]; change (Except.ok (Instr.sel (fld x 30 1 == 1) (fld x 19 5) (fld x 14 5) (fld x 9 5))) = _
  simp [e1, e2, e3, e5, sbit_of]

theorem addi (sp : Bool) (rd : BitVec 5) (ra : BitVec 5) (imm : Imm 14) : Statement (.addi sp rd ra imm) := by
  cases imm with
  | field v =>
    refine roundTrip_of_C rfl rfl fun x hx => ?_
    obtain ⟨(e0 : fld x 0 14 = v), (e1 : fld x 14 5 = ra), (e2 : fld x 19 5 = rd), (e3 : fld x 24 6 = 2#6), (e4 : fld x 30 1 = BitVec.ofBool sp), (e5 : fld x 31 1 = 0#1), -⟩ := fmt2 sp rd ra v 2 0 hx rfl
    delta decodeC; rw [e3]; change ((immOf x _ 14).bind fun imm => Except.ok (Instr.addi (fld x 30 1 == 1) (fld x 19 5) (fld x 14 5) imm)) = _
    simp [immOf, e0, e1, e2, e4, e5, sbit_of, Except.bind, Imm.literal]
  | lit v =>
    refine roundTrip_of_C rfl rfl fun x hx => ?_
    obtain ⟨(e0 : fld x 0 14 = 0#14), (e1 : fld x 14 5 = ra), (e2 : fld x 19 5 = rd), (e3 : fld x 24 6 = 2#6), (e4 : fld x 30 1 = BitVec.ofBool sp), (e5 : fld x 31 1 = 1#1), -⟩ := fmt3 sp rd ra v 0 2 hx rfl
    delta decodeC; rw [e3]; change ((immOf x _ 14).bind fun imm => Except.ok (Instr.addi (fld x 30 1 == 1) (fld x 19 5) (fld x 14 5) imm)) = _
    simp [immOf, e0, e1, e2, e4, e5, sbit_of, Except.bind, Imm.literal]

theorem andi (sp : Bool) (rd : BitVec 5) (ra : BitVec 5) (imm : Imm 14) : Statement (.andi sp rd ra imm) := by
  cases imm with
  | field v =>
    refine roundTrip_of_C rfl rfl fun x hx => ?_
    obtain ⟨(e0 : fld x 0 14 = v), (e1 : fld x 14 5 = ra), (e2 : fld x 19 5 = rd), (e3 : fld x 24 6 = 3#6), (e4 : fld x 30 1 = BitVec.ofBool sp), (e5 : fld x 31 1 = 0#1), -⟩ := fmt2 sp rd ra v 3 0 hx rfl
    delta decodeC; rw [e3]; change ((immOf x _ 14).bind fun imm => Except.ok (Instr.andi (fld x 30 1 == 1) (fld x 19 5) (fld x 14 5) imm)) = _
    simp [immOf, e0, e1, e2, e4, e5, sbit_of, Except.bind, Imm.literal]
  | lit v =>
    refine roundTrip_of_C rfl rfl fun x hx => ?_
    obtain ⟨(e0 : fld x 0 14 = 0#14), (e1 : fld x 14 5 = ra), (e2 : fld x 19 5 = rd), (e3 : fld x 24 6 = 3#6), (e4 : fld x 30 1 = BitVec.ofBool sp), (e5 : fld x 31 1 = 1#1), -⟩ := fmt3 sp rd ra v 0 3 hx rfl
    delta decodeC; rw [e3]; change ((immOf x _ 14).bind fun imm => Except.ok (Instr.andi (fld x 30 1 == 1) (fld x 19 5) (fld x 14 5) imm)) = _
    simp [immOf, e0, e1, e2, e4, e5, sbit_of, Except.bind, Imm.literal]

theorem ori (sp : Bool) (rd : BitVec 5) (ra : BitVec 5) (imm : Imm 14) : Statement (.ori sp rd ra imm) := by
  cases imm with
  | field v =>
    refine roundTrip_of_C rfl rfl fun x hx => ?_
    obtain ⟨(e0 : fld x 0 14 = v), (e1 : fld x 14 5 = ra), (e2 : fld x 19 5 = rd), (e3 : fld x 24 6 = 4#6), (e4 : fld x 30 1 = BitVec.ofBool sp), (e5 : fld x 31 1 = 0#1), -⟩ := fmt2 sp rd ra v 4 0 hx rfl
    delta decodeC; rw [e3]; change ((immOf x _ 14).bind fun imm => Except.ok (Instr.ori (fld x 30 1 == 1) (fld x 19 5) (fld x 14 5) imm)) = _
    simp [immOf, e0, e1, e2, e4, e5, sbit_of, Except.bind, Imm.literal]
  | lit v =>
    refine roundTrip_of_C rfl rfl fun x hx => ?_
    obtain ⟨(e0 : fld x 0 14 = 0#14), (e1 : fld x 14 5 = ra), (e2 : fld x 19 5 = rd), (e3 : fld x 24 6 = 4#6), (e4 : fld x 30 1 = BitVec.ofBool sp), (e5 : fld x 31 1 = 1#1), -⟩ := fmt3 sp rd ra v 0 4 hx rfl
    delta decodeC; rw [e3]; change ((immOf x _ 14).bind fun imm => Except.ok (Instr.ori (fld x 30 1 == 1) (fld x 19 5) (fld x 14 5) imm)) = _
    simp [immOf, e0, e1, e2, e4, e5, sbit_of, Except.bind, Imm.literal]

theorem xori (sp : Bool) (rd : BitVec 5) (ra : BitVec 5) (imm : Imm 14) : Statement (.xori sp rd ra imm) := by
  cases imm with
  | field v =>
    refine roundTrip_of_C rfl rfl fun x hx => ?_
    obtain ⟨(e0 : fld x 0 14 = v), (e1 : fld x 14 5 = ra), (e2 : fld x 19 5 = rd), (e3 : fld x 24 6 = 5#6), (e4 : fld x 30 1 = BitVec.ofBool sp), (e5 : fld x 31 1 = 0#1), -⟩ := fmt2 sp rd ra v 5 0 hx rfl
    delta decodeC; rw [e3]; change ((immOf x _ 14).bind fun imm => Except.ok (Instr.xori (fld x 30 1 == 1) (fld x 19 5) (fld x 14 5) imm)) = _
    simp [immOf, e0, e1, e2, e4, e5, sbit_of, Except.bind, Imm.literal]
  | lit v =>
    refine roundTrip_of_C rfl rfl fun x hx => ?_
    obtain ⟨(e0 : fld x 0 14 = 0#14), (e1 : fld x 14 5 = ra), (e2 : fld x 19 5 = rd), (e3 : fld x 24 6 = 5#6), (e4 : fld x 30 1 = BitVec.ofBool sp), (e5 : fld x 31 1 = 1#1), -⟩ := fmt3 sp rd ra v 0 5 hx rfl
    delta decodeC; rw [e3]; change ((immOf x _ 14).bind fun imm => Except.ok (Instr.xori (fld x 30 1 == 1) (fld x 19 5) (fld x 14 5) imm)) = _
    simp [immOf, e0, e1, e2, e4, e5, sbit_of, Except.bind, Imm.literal]

theorem slti (sp : Bool) (rd : BitVec 5) (ra : BitVec 5) (imm : Imm 14) : Statement (.slti sp rd ra imm) := by
  cases imm with
  | field v =>
    refine roundTrip_of_C rfl rfl fun x hx => ?_
    obtain ⟨(e0 : fld x 0 14 = v), (e1 : fld x 14 5 = ra), (e2 : fld x 19 5 = rd), (e3 : fld x 24 6 = 6#6), (e4 : fld x 30 1 = BitVec.ofBool sp), (e5 : fld x 31 1 = 0#1), -⟩ := fmt2 sp rd ra v 6 0 hx rfl
    delta decodeC; rw [e3]; change ((immOf x _ 14).bind fun imm => Except.ok (Instr.slti (fld x 30 1 == 1) (fld x 19 5) (fld x 14 5) imm)) = _
    simp [immOf, e0, e1, e2, e4, e5, sbit_of, Except.bind, Imm.literal]
  | lit v =>
    refine roundTrip_of_C rfl rfl fun x hx => ?_
    obtain ⟨(e0 : fld x 0 14 = 0#14), (e1 : fld x 14 5 = ra), (e2 : fld x 19 5 = rd), (e3 : fld x 24 6 = 6#6), (e4 : fld x 30 1 = BitVec.ofBool sp), (e5 : fld x 31 1 = 1#1), -⟩ := fmt3 sp rd ra v 0 6 hx rfl
    delta decodeC; rw [e3]; change ((immOf x _ 14).bind fun imm => Except.ok (Instr.slti (fld x 30 1 == 1) (fld x 19 5) (fld x 14 5) imm)) = _
    simp [immOf, e0, e1, e2, e4, e5, sbit_of, Except.bind, Imm.literal]

theorem sltiu (sp : Bool) (rd : BitVec 5) (ra : BitVec 5) (imm : Imm 14) : Statement (.sltiu sp rd ra imm) := by
  cases imm with
  | field v =>
    refine roundTrip_of_C rfl rfl fun x hx => ?_
    obtain ⟨(e0 : fld x 0 14 = v), (e1 : fld x 14 5 = ra), (e2 : fld x 19 5 = rd), (e3 : fld x 24 6 = 7#6), (e4 : fld x 30 1 = BitVec.ofBool sp), (e5 : fld x 31 1 = 0#1), -⟩ := fmt2 sp rd ra v 7 0 hx rfl
    delta decodeC; rw [e3]; change ((immOf x _ 14).bind fun imm => Except.ok (Instr.sltiu (fld x 30 1 == 1) (fld x 19 5) (fld x 14 5) imm)) = _
    simp [immOf, e0, e1, e2, e4, e5, sbit_of, Except.bind, Imm.literal]
  | lit v =>
    refine roundTrip_of_C rfl rfl fun x hx => ?_
    obtain ⟨(e0 : fld x 0 14 = 0#14), (e1 : fld x 14 5 = ra), (e2 : fld x 19 5 = rd), (e3 : fld x 24 6 = 7#6), (e4 : fld x 30 1 = BitVec.ofBool sp), (e5 : fld x 31 1 = 1#1), -⟩ := fmt3 sp rd ra v 0 7 hx rfl
    delta decodeC; rw [e3]; change ((immOf x _ 14).bind fun imm => Except.ok (Instr.sltiu (fld x 30 1 == 1) (fld x 19 5) (fld x 14 5) imm)) = _
    simp [immOf, e0, e1, e2, e4, e5, sbit_of, Except.bind, Imm.literal]

theorem slli (sp : Bool) (rd : BitVec 5) (ra : BitVec 5) (sh : BitVec 6) : Statement (.slli sp rd ra sh) := by
  refine roundTrip_of_C rfl rfl fun x hx => ?_
  obtain ⟨(e0 : fld x 0 6 = sh), (e1 : fld x 6 8 = 0#8), (e2 : fld x 14 5 = ra), (e3 : fld x 19 5 = rd), (e4 : fld x 24 6 = 8#6), (e5 : fld x 30 1 = BitVec.ofBool sp), (e6 : fld x 31 1 = 0#1), -⟩ := fmt4 sp rd ra sh 0 8 0 hx rfl
  delta decodeC; rw [e4]; change (if fld x 31 1 = 1 then Except.error DecodeError.literalNotAccepted else if fld x 6 8 = 0 then Except.ok (Instr.slli (fld x 30 1 == 1) (fld x 19 5) (fld x 14 5) (fld x 0 6)) else Except.error DecodeError.reservedField) = _
  simp [e0, e1, e2, e3, e5, e6, sbit_of]

theorem srli (sp : Bool) (rd : BitVec 5) (ra : BitVec 5) (sh : BitVec 6) : Statement (.srli sp rd ra sh) := by
  refine roundTrip_of_C rfl rfl fun x hx => ?_
  obtain ⟨(e0 : fld x 0 6 = sh), (e1 : fld x 6 8 = 0#8), (e2 : fld x 14 5 = ra), (e3 : fld x 19 5 = rd), (e4 : fld x 24 6 = 9#6), (e5 : fld x 30 1 = BitVec.ofBool sp), (e6 : fld x 31 1 = 0#1), -⟩ := fmt4 sp rd ra sh 0 9 0 hx rfl
  delta decodeC; rw [e4]; change (if fld x 31 1 = 1 then Except.error DecodeError.literalNotAccepted else if fld x 6 8 = 0 then Except.ok (Instr.srli (fld x 30 1 == 1) (fld x 19 5) (fld x 14 5) (fld x 0 6)) else Except.error DecodeError.reservedField) = _
  simp [e0, e1, e2, e3, e5, e6, sbit_of]

theorem srai (sp : Bool) (rd : BitVec 5) (ra : BitVec 5) (sh : BitVec 6) : Statement (.srai sp rd ra sh) := by
  refine roundTrip_of_C rfl rfl fun x hx => ?_
  obtain ⟨(e0 : fld x 0 6 = sh), (e1 : fld x 6 8 = 0#8), (e2 : fld x 14 5 = ra), (e3 : fld x 19 5 = rd), (e4 : fld x 24 6 = 10#6), (e5 : fld x 30 1 = BitVec.ofBool sp), (e6 : fld x 31 1 = 0#1), -⟩ := fmt4 sp rd ra sh 0 10 0 hx rfl
  delta decodeC; rw [e4]; change (if fld x 31 1 = 1 then Except.error DecodeError.literalNotAccepted else if fld x 6 8 = 0 then Except.ok (Instr.srai (fld x 30 1 == 1) (fld x 19 5) (fld x 14 5) (fld x 0 6)) else Except.error DecodeError.reservedField) = _
  simp [e0, e1, e2, e3, e5, e6, sbit_of]

theorem lui (sp : Bool) (rd : BitVec 5) (ra : BitVec 5) (imm : Imm 14) : Statement (.lui sp rd ra imm) := by
  cases imm with
  | field v =>
    refine roundTrip_of_C rfl rfl fun x hx => ?_
    obtain ⟨(e0 : fld x 0 14 = v), (e1 : fld x 14 5 = ra), (e2 : fld x 19 5 = rd), (e3 : fld x 24 6 = 11#6), (e4 : fld x 30 1 = BitVec.ofBool sp), (e5 : fld x 31 1 = 0#1), -⟩ := fmt2 sp rd ra v 11 0 hx rfl
    delta decodeC; rw [e3]; change ((immOf x _ 14).bind fun imm => Except.ok (Instr.lui (fld x 30 1 == 1) (fld x 19 5) (fld x 14 5) imm)) = _
    simp [immOf, e0, e1, e2, e4, e5, sbit_of, Except.bind, Imm.literal]
  | lit v =>
    refine roundTrip_of_C rfl rfl fun x hx => ?_
    obtain ⟨(e0 : fld x 0 14 = 0#14), (e1 : fld x 14 5 = ra), (e2 : fld x 19 5 = rd), (e3 : fld x 24 6 = 11#6), (e4 : fld x 30 1 = BitVec.ofBool sp), (e5 : fld x 31 1 = 1#1), -⟩ := fmt3 sp rd ra v 0 11 hx rfl
    delta decodeC; rw [e3]; change ((immOf x _ 14).bind fun imm => Except.ok (Instr.lui (fld x 30 1 == 1) (fld x 19 5) (fld x 14 5) imm)) = _
    simp [immOf, e0, e1, e2, e4, e5, sbit_of, Except.bind, Imm.literal]

theorem li (sp : Bool) (rd : BitVec 5) (lit : BitVec 32) : Statement (.li sp rd lit) := by
  refine roundTrip_of_C rfl rfl fun x hx => ?_
  obtain ⟨(e0 : fld x 0 19 = 0#19), (e1 : fld x 19 5 = rd), (e2 : fld x 24 6 = 12#6), (e3 : fld x 30 1 = BitVec.ofBool sp), (e4 : fld x 31 1 = 1#1), -⟩ := fmt5 sp rd 0 12 1 hx rfl
  delta decodeC; rw [e2]; change (if fld x 31 1 = 1 then if fld x 0 19 = 0 then Except.ok (Instr.li (fld x 30 1 == 1) (fld x 19 5) _) else Except.error DecodeError.reservedField else Except.error DecodeError.literalMissing) = _
  simp [e0, e1, e3, e4, sbit_of]

theorem lea (sp : Bool) (rd : BitVec 5) (ra : BitVec 5) (rb : BitVec 5) (scale : BitVec 2) (disp : BitVec 7) : Statement (.lea sp rd ra rb scale disp) := by
  refine roundTrip_of_C rfl rfl fun x hx => ?_
  obtain ⟨(e0 : fld x 0 7 = disp), (e1 : fld x 7 2 = scale), (e2 : fld x 9 5 = rb), (e3 : fld x 14 5 = ra), (e4 : fld x 19 5 = rd), (e5 : fld x 24 6 = 13#6), (e6 : fld x 30 1 = BitVec.ofBool sp), (e7 : fld x 31 1 = 0#1), -⟩ := fmt6 sp rd ra rb scale disp 13 0 hx rfl
  delta decodeC; rw [e5]; change (if fld x 31 1 = 1 then Except.error DecodeError.literalNotAccepted else Except.ok (Instr.lea (fld x 30 1 == 1) (fld x 19 5) (fld x 14 5) (fld x 9 5) (fld x 7 2) (fld x 0 7))) = _
  simp [e0, e1, e2, e3, e4, e6, e7, sbit_of]

theorem beq (sp : Bool) (ra : BitVec 5) (rb : BitVec 5) (off : Imm 14) : Statement (.beq sp ra rb off) := by
  cases off with
  | field v =>
    refine roundTrip_of_C rfl rfl fun x hx => ?_
    obtain ⟨(e0 : fld x 0 14 = v), (e1 : fld x 14 5 = rb), (e2 : fld x 19 5 = ra), (e3 : fld x 24 6 = 16#6), (e4 : fld x 30 1 = BitVec.ofBool sp), (e5 : fld x 31 1 = 0#1), -⟩ := fmt2 sp ra rb v 16 0 hx rfl
    delta decodeC; rw [e3]; change ((immOf x _ 14).bind fun off => Except.ok (Instr.beq (fld x 30 1 == 1) (fld x 19 5) (fld x 14 5) off)) = _
    simp [immOf, e0, e1, e2, e4, e5, sbit_of, Except.bind, Imm.literal]
  | lit v =>
    refine roundTrip_of_C rfl rfl fun x hx => ?_
    obtain ⟨(e0 : fld x 0 14 = 0#14), (e1 : fld x 14 5 = rb), (e2 : fld x 19 5 = ra), (e3 : fld x 24 6 = 16#6), (e4 : fld x 30 1 = BitVec.ofBool sp), (e5 : fld x 31 1 = 1#1), -⟩ := fmt3 sp ra rb v 0 16 hx rfl
    delta decodeC; rw [e3]; change ((immOf x _ 14).bind fun off => Except.ok (Instr.beq (fld x 30 1 == 1) (fld x 19 5) (fld x 14 5) off)) = _
    simp [immOf, e0, e1, e2, e4, e5, sbit_of, Except.bind, Imm.literal]

theorem bne (sp : Bool) (ra : BitVec 5) (rb : BitVec 5) (off : Imm 14) : Statement (.bne sp ra rb off) := by
  cases off with
  | field v =>
    refine roundTrip_of_C rfl rfl fun x hx => ?_
    obtain ⟨(e0 : fld x 0 14 = v), (e1 : fld x 14 5 = rb), (e2 : fld x 19 5 = ra), (e3 : fld x 24 6 = 17#6), (e4 : fld x 30 1 = BitVec.ofBool sp), (e5 : fld x 31 1 = 0#1), -⟩ := fmt2 sp ra rb v 17 0 hx rfl
    delta decodeC; rw [e3]; change ((immOf x _ 14).bind fun off => Except.ok (Instr.bne (fld x 30 1 == 1) (fld x 19 5) (fld x 14 5) off)) = _
    simp [immOf, e0, e1, e2, e4, e5, sbit_of, Except.bind, Imm.literal]
  | lit v =>
    refine roundTrip_of_C rfl rfl fun x hx => ?_
    obtain ⟨(e0 : fld x 0 14 = 0#14), (e1 : fld x 14 5 = rb), (e2 : fld x 19 5 = ra), (e3 : fld x 24 6 = 17#6), (e4 : fld x 30 1 = BitVec.ofBool sp), (e5 : fld x 31 1 = 1#1), -⟩ := fmt3 sp ra rb v 0 17 hx rfl
    delta decodeC; rw [e3]; change ((immOf x _ 14).bind fun off => Except.ok (Instr.bne (fld x 30 1 == 1) (fld x 19 5) (fld x 14 5) off)) = _
    simp [immOf, e0, e1, e2, e4, e5, sbit_of, Except.bind, Imm.literal]

theorem blt (sp : Bool) (ra : BitVec 5) (rb : BitVec 5) (off : Imm 14) : Statement (.blt sp ra rb off) := by
  cases off with
  | field v =>
    refine roundTrip_of_C rfl rfl fun x hx => ?_
    obtain ⟨(e0 : fld x 0 14 = v), (e1 : fld x 14 5 = rb), (e2 : fld x 19 5 = ra), (e3 : fld x 24 6 = 18#6), (e4 : fld x 30 1 = BitVec.ofBool sp), (e5 : fld x 31 1 = 0#1), -⟩ := fmt2 sp ra rb v 18 0 hx rfl
    delta decodeC; rw [e3]; change ((immOf x _ 14).bind fun off => Except.ok (Instr.blt (fld x 30 1 == 1) (fld x 19 5) (fld x 14 5) off)) = _
    simp [immOf, e0, e1, e2, e4, e5, sbit_of, Except.bind, Imm.literal]
  | lit v =>
    refine roundTrip_of_C rfl rfl fun x hx => ?_
    obtain ⟨(e0 : fld x 0 14 = 0#14), (e1 : fld x 14 5 = rb), (e2 : fld x 19 5 = ra), (e3 : fld x 24 6 = 18#6), (e4 : fld x 30 1 = BitVec.ofBool sp), (e5 : fld x 31 1 = 1#1), -⟩ := fmt3 sp ra rb v 0 18 hx rfl
    delta decodeC; rw [e3]; change ((immOf x _ 14).bind fun off => Except.ok (Instr.blt (fld x 30 1 == 1) (fld x 19 5) (fld x 14 5) off)) = _
    simp [immOf, e0, e1, e2, e4, e5, sbit_of, Except.bind, Imm.literal]

theorem bge (sp : Bool) (ra : BitVec 5) (rb : BitVec 5) (off : Imm 14) : Statement (.bge sp ra rb off) := by
  cases off with
  | field v =>
    refine roundTrip_of_C rfl rfl fun x hx => ?_
    obtain ⟨(e0 : fld x 0 14 = v), (e1 : fld x 14 5 = rb), (e2 : fld x 19 5 = ra), (e3 : fld x 24 6 = 19#6), (e4 : fld x 30 1 = BitVec.ofBool sp), (e5 : fld x 31 1 = 0#1), -⟩ := fmt2 sp ra rb v 19 0 hx rfl
    delta decodeC; rw [e3]; change ((immOf x _ 14).bind fun off => Except.ok (Instr.bge (fld x 30 1 == 1) (fld x 19 5) (fld x 14 5) off)) = _
    simp [immOf, e0, e1, e2, e4, e5, sbit_of, Except.bind, Imm.literal]
  | lit v =>
    refine roundTrip_of_C rfl rfl fun x hx => ?_
    obtain ⟨(e0 : fld x 0 14 = 0#14), (e1 : fld x 14 5 = rb), (e2 : fld x 19 5 = ra), (e3 : fld x 24 6 = 19#6), (e4 : fld x 30 1 = BitVec.ofBool sp), (e5 : fld x 31 1 = 1#1), -⟩ := fmt3 sp ra rb v 0 19 hx rfl
    delta decodeC; rw [e3]; change ((immOf x _ 14).bind fun off => Except.ok (Instr.bge (fld x 30 1 == 1) (fld x 19 5) (fld x 14 5) off)) = _
    simp [immOf, e0, e1, e2, e4, e5, sbit_of, Except.bind, Imm.literal]

theorem bltu (sp : Bool) (ra : BitVec 5) (rb : BitVec 5) (off : Imm 14) : Statement (.bltu sp ra rb off) := by
  cases off with
  | field v =>
    refine roundTrip_of_C rfl rfl fun x hx => ?_
    obtain ⟨(e0 : fld x 0 14 = v), (e1 : fld x 14 5 = rb), (e2 : fld x 19 5 = ra), (e3 : fld x 24 6 = 20#6), (e4 : fld x 30 1 = BitVec.ofBool sp), (e5 : fld x 31 1 = 0#1), -⟩ := fmt2 sp ra rb v 20 0 hx rfl
    delta decodeC; rw [e3]; change ((immOf x _ 14).bind fun off => Except.ok (Instr.bltu (fld x 30 1 == 1) (fld x 19 5) (fld x 14 5) off)) = _
    simp [immOf, e0, e1, e2, e4, e5, sbit_of, Except.bind, Imm.literal]
  | lit v =>
    refine roundTrip_of_C rfl rfl fun x hx => ?_
    obtain ⟨(e0 : fld x 0 14 = 0#14), (e1 : fld x 14 5 = rb), (e2 : fld x 19 5 = ra), (e3 : fld x 24 6 = 20#6), (e4 : fld x 30 1 = BitVec.ofBool sp), (e5 : fld x 31 1 = 1#1), -⟩ := fmt3 sp ra rb v 0 20 hx rfl
    delta decodeC; rw [e3]; change ((immOf x _ 14).bind fun off => Except.ok (Instr.bltu (fld x 30 1 == 1) (fld x 19 5) (fld x 14 5) off)) = _
    simp [immOf, e0, e1, e2, e4, e5, sbit_of, Except.bind, Imm.literal]

theorem bgeu (sp : Bool) (ra : BitVec 5) (rb : BitVec 5) (off : Imm 14) : Statement (.bgeu sp ra rb off) := by
  cases off with
  | field v =>
    refine roundTrip_of_C rfl rfl fun x hx => ?_
    obtain ⟨(e0 : fld x 0 14 = v), (e1 : fld x 14 5 = rb), (e2 : fld x 19 5 = ra), (e3 : fld x 24 6 = 21#6), (e4 : fld x 30 1 = BitVec.ofBool sp), (e5 : fld x 31 1 = 0#1), -⟩ := fmt2 sp ra rb v 21 0 hx rfl
    delta decodeC; rw [e3]; change ((immOf x _ 14).bind fun off => Except.ok (Instr.bgeu (fld x 30 1 == 1) (fld x 19 5) (fld x 14 5) off)) = _
    simp [immOf, e0, e1, e2, e4, e5, sbit_of, Except.bind, Imm.literal]
  | lit v =>
    refine roundTrip_of_C rfl rfl fun x hx => ?_
    obtain ⟨(e0 : fld x 0 14 = 0#14), (e1 : fld x 14 5 = rb), (e2 : fld x 19 5 = ra), (e3 : fld x 24 6 = 21#6), (e4 : fld x 30 1 = BitVec.ofBool sp), (e5 : fld x 31 1 = 1#1), -⟩ := fmt3 sp ra rb v 0 21 hx rfl
    delta decodeC; rw [e3]; change ((immOf x _ 14).bind fun off => Except.ok (Instr.bgeu (fld x 30 1 == 1) (fld x 19 5) (fld x 14 5) off)) = _
    simp [immOf, e0, e1, e2, e4, e5, sbit_of, Except.bind, Imm.literal]

theorem jal (sp : Bool) (rd : BitVec 5) (off : Imm 19) : Statement (.jal sp rd off) := by
  cases off with
  | field v =>
    refine roundTrip_of_C rfl rfl fun x hx => ?_
    obtain ⟨(e0 : fld x 0 19 = v), (e1 : fld x 19 5 = rd), (e2 : fld x 24 6 = 22#6), (e3 : fld x 30 1 = BitVec.ofBool sp), (e4 : fld x 31 1 = 0#1), -⟩ := fmt7 sp rd v 22 0 hx rfl
    delta decodeC; rw [e2]; change ((immOf x _ 19).bind fun off => Except.ok (Instr.jal (fld x 30 1 == 1) (fld x 19 5) off)) = _
    simp [immOf, e0, e1, e3, e4, sbit_of, Except.bind, Imm.literal]
  | lit v =>
    refine roundTrip_of_C rfl rfl fun x hx => ?_
    obtain ⟨(e0 : fld x 0 19 = 0#19), (e1 : fld x 19 5 = rd), (e2 : fld x 24 6 = 22#6), (e3 : fld x 30 1 = BitVec.ofBool sp), (e4 : fld x 31 1 = 1#1), -⟩ := fmt8 sp rd v 0 22 hx rfl
    delta decodeC; rw [e2]; change ((immOf x _ 19).bind fun off => Except.ok (Instr.jal (fld x 30 1 == 1) (fld x 19 5) off)) = _
    simp [immOf, e0, e1, e3, e4, sbit_of, Except.bind, Imm.literal]

theorem jalr (sp : Bool) (rd : BitVec 5) (ra : BitVec 5) (imm : Imm 14) : Statement (.jalr sp rd ra imm) := by
  cases imm with
  | field v =>
    refine roundTrip_of_C rfl rfl fun x hx => ?_
    obtain ⟨(e0 : fld x 0 14 = v), (e1 : fld x 14 5 = ra), (e2 : fld x 19 5 = rd), (e3 : fld x 24 6 = 23#6), (e4 : fld x 30 1 = BitVec.ofBool sp), (e5 : fld x 31 1 = 0#1), -⟩ := fmt2 sp rd ra v 23 0 hx rfl
    delta decodeC; rw [e3]; change ((immOf x _ 14).bind fun imm => Except.ok (Instr.jalr (fld x 30 1 == 1) (fld x 19 5) (fld x 14 5) imm)) = _
    simp [immOf, e0, e1, e2, e4, e5, sbit_of, Except.bind, Imm.literal]
  | lit v =>
    refine roundTrip_of_C rfl rfl fun x hx => ?_
    obtain ⟨(e0 : fld x 0 14 = 0#14), (e1 : fld x 14 5 = ra), (e2 : fld x 19 5 = rd), (e3 : fld x 24 6 = 23#6), (e4 : fld x 30 1 = BitVec.ofBool sp), (e5 : fld x 31 1 = 1#1), -⟩ := fmt3 sp rd ra v 0 23 hx rfl
    delta decodeC; rw [e3]; change ((immOf x _ 14).bind fun imm => Except.ok (Instr.jalr (fld x 30 1 == 1) (fld x 19 5) (fld x 14 5) imm)) = _
    simp [immOf, e0, e1, e2, e4, e5, sbit_of, Except.bind, Imm.literal]

theorem loop (sp : Bool) (ra : BitVec 5) (off : Imm 14) : Statement (.loop sp ra off) := by
  cases off with
  | field v =>
    refine roundTrip_of_C rfl rfl fun x hx => ?_
    obtain ⟨(e0 : fld x 0 14 = v), (e1 : fld x 14 5 = 0#5), (e2 : fld x 19 5 = ra), (e3 : fld x 24 6 = 24#6), (e4 : fld x 30 1 = BitVec.ofBool sp), (e5 : fld x 31 1 = 0#1), -⟩ := fmt9 sp ra v 0 24 0 hx rfl
    delta decodeC; rw [e3]; change (if fld x 14 5 = 0 then (immOf x _ 14).bind fun off => Except.ok (Instr.loop (fld x 30 1 == 1) (fld x 19 5) off) else Except.error DecodeError.reservedField) = _
    simp [immOf, e0, e1, e2, e4, e5, sbit_of, Except.bind, Imm.literal]
  | lit v =>
    refine roundTrip_of_C rfl rfl fun x hx => ?_
    obtain ⟨(e0 : fld x 0 14 = 0#14), (e1 : fld x 14 5 = 0#5), (e2 : fld x 19 5 = ra), (e3 : fld x 24 6 = 24#6), (e4 : fld x 30 1 = BitVec.ofBool sp), (e5 : fld x 31 1 = 1#1), -⟩ := fmt10 sp ra v 0 0 24 hx rfl
    delta decodeC; rw [e3]; change (if fld x 14 5 = 0 then (immOf x _ 14).bind fun off => Except.ok (Instr.loop (fld x 30 1 == 1) (fld x 19 5) off) else Except.error DecodeError.reservedField) = _
    simp [immOf, e0, e1, e2, e4, e5, sbit_of, Except.bind, Imm.literal]

theorem fork (sp : Bool) (ctr : BitVec 6) (n : BitVec 4) (off : Imm 14) : Statement (.fork sp ctr n off) := by
  cases off with
  | field v =>
    refine roundTrip_of_C rfl rfl fun x hx => ?_
    obtain ⟨(e0 : fld x 0 14 = v), (e1 : fld x 14 4 = n), (e2 : fld x 18 6 = ctr), (e3 : fld x 24 6 = 25#6), (e4 : fld x 30 1 = BitVec.ofBool sp), (e5 : fld x 31 1 = 0#1), -⟩ := fmt11 sp ctr n v 25 0 hx rfl
    delta decodeC; rw [e3]; change ((immOf x _ 14).bind fun off => Except.ok (Instr.fork (fld x 30 1 == 1) (fld x 18 6) (fld x 14 4) off)) = _
    simp [immOf, e0, e1, e2, e4, e5, sbit_of, Except.bind, Imm.literal]
  | lit v =>
    refine roundTrip_of_C rfl rfl fun x hx => ?_
    obtain ⟨(e0 : fld x 0 14 = 0#14), (e1 : fld x 14 4 = n), (e2 : fld x 18 6 = ctr), (e3 : fld x 24 6 = 25#6), (e4 : fld x 30 1 = BitVec.ofBool sp), (e5 : fld x 31 1 = 1#1), -⟩ := fmt12 sp ctr n v 0 25 hx rfl
    delta decodeC; rw [e3]; change ((immOf x _ 14).bind fun off => Except.ok (Instr.fork (fld x 30 1 == 1) (fld x 18 6) (fld x 14 4) off)) = _
    simp [immOf, e0, e1, e2, e4, e5, sbit_of, Except.bind, Imm.literal]

theorem ldb (sp : Bool) (rd : BitVec 5) (base : BitVec 5) (ord : BitVec 4) (imm : Imm 10) : Statement (.ldb sp rd base ord imm) := by
  cases imm with
  | field v =>
    refine roundTrip_of_C rfl rfl fun x hx => ?_
    obtain ⟨(e0 : fld x 0 10 = v), (e1 : fld x 10 4 = ord), (e2 : fld x 14 5 = base), (e3 : fld x 19 5 = rd), (e4 : fld x 24 6 = 32#6), (e5 : fld x 30 1 = BitVec.ofBool sp), (e6 : fld x 31 1 = 0#1), -⟩ := fmt13 sp rd base ord v 32 0 hx rfl
    delta decodeC; rw [e4]; change ((immOf x _ 10).bind fun imm => Except.ok (Instr.ldb (fld x 30 1 == 1) (fld x 19 5) (fld x 14 5) (fld x 10 4) imm)) = _
    simp [immOf, e0, e1, e2, e3, e5, e6, sbit_of, Except.bind, Imm.literal]
  | lit v =>
    refine roundTrip_of_C rfl rfl fun x hx => ?_
    obtain ⟨(e0 : fld x 0 10 = 0#10), (e1 : fld x 10 4 = ord), (e2 : fld x 14 5 = base), (e3 : fld x 19 5 = rd), (e4 : fld x 24 6 = 32#6), (e5 : fld x 30 1 = BitVec.ofBool sp), (e6 : fld x 31 1 = 1#1), -⟩ := fmt14 sp rd base ord v 0 32 hx rfl
    delta decodeC; rw [e4]; change ((immOf x _ 10).bind fun imm => Except.ok (Instr.ldb (fld x 30 1 == 1) (fld x 19 5) (fld x 14 5) (fld x 10 4) imm)) = _
    simp [immOf, e0, e1, e2, e3, e5, e6, sbit_of, Except.bind, Imm.literal]

theorem ldbu (sp : Bool) (rd : BitVec 5) (base : BitVec 5) (ord : BitVec 4) (imm : Imm 10) : Statement (.ldbu sp rd base ord imm) := by
  cases imm with
  | field v =>
    refine roundTrip_of_C rfl rfl fun x hx => ?_
    obtain ⟨(e0 : fld x 0 10 = v), (e1 : fld x 10 4 = ord), (e2 : fld x 14 5 = base), (e3 : fld x 19 5 = rd), (e4 : fld x 24 6 = 33#6), (e5 : fld x 30 1 = BitVec.ofBool sp), (e6 : fld x 31 1 = 0#1), -⟩ := fmt13 sp rd base ord v 33 0 hx rfl
    delta decodeC; rw [e4]; change ((immOf x _ 10).bind fun imm => Except.ok (Instr.ldbu (fld x 30 1 == 1) (fld x 19 5) (fld x 14 5) (fld x 10 4) imm)) = _
    simp [immOf, e0, e1, e2, e3, e5, e6, sbit_of, Except.bind, Imm.literal]
  | lit v =>
    refine roundTrip_of_C rfl rfl fun x hx => ?_
    obtain ⟨(e0 : fld x 0 10 = 0#10), (e1 : fld x 10 4 = ord), (e2 : fld x 14 5 = base), (e3 : fld x 19 5 = rd), (e4 : fld x 24 6 = 33#6), (e5 : fld x 30 1 = BitVec.ofBool sp), (e6 : fld x 31 1 = 1#1), -⟩ := fmt14 sp rd base ord v 0 33 hx rfl
    delta decodeC; rw [e4]; change ((immOf x _ 10).bind fun imm => Except.ok (Instr.ldbu (fld x 30 1 == 1) (fld x 19 5) (fld x 14 5) (fld x 10 4) imm)) = _
    simp [immOf, e0, e1, e2, e3, e5, e6, sbit_of, Except.bind, Imm.literal]

theorem ldh (sp : Bool) (rd : BitVec 5) (base : BitVec 5) (ord : BitVec 4) (imm : Imm 10) : Statement (.ldh sp rd base ord imm) := by
  cases imm with
  | field v =>
    refine roundTrip_of_C rfl rfl fun x hx => ?_
    obtain ⟨(e0 : fld x 0 10 = v), (e1 : fld x 10 4 = ord), (e2 : fld x 14 5 = base), (e3 : fld x 19 5 = rd), (e4 : fld x 24 6 = 34#6), (e5 : fld x 30 1 = BitVec.ofBool sp), (e6 : fld x 31 1 = 0#1), -⟩ := fmt13 sp rd base ord v 34 0 hx rfl
    delta decodeC; rw [e4]; change ((immOf x _ 10).bind fun imm => Except.ok (Instr.ldh (fld x 30 1 == 1) (fld x 19 5) (fld x 14 5) (fld x 10 4) imm)) = _
    simp [immOf, e0, e1, e2, e3, e5, e6, sbit_of, Except.bind, Imm.literal]
  | lit v =>
    refine roundTrip_of_C rfl rfl fun x hx => ?_
    obtain ⟨(e0 : fld x 0 10 = 0#10), (e1 : fld x 10 4 = ord), (e2 : fld x 14 5 = base), (e3 : fld x 19 5 = rd), (e4 : fld x 24 6 = 34#6), (e5 : fld x 30 1 = BitVec.ofBool sp), (e6 : fld x 31 1 = 1#1), -⟩ := fmt14 sp rd base ord v 0 34 hx rfl
    delta decodeC; rw [e4]; change ((immOf x _ 10).bind fun imm => Except.ok (Instr.ldh (fld x 30 1 == 1) (fld x 19 5) (fld x 14 5) (fld x 10 4) imm)) = _
    simp [immOf, e0, e1, e2, e3, e5, e6, sbit_of, Except.bind, Imm.literal]

theorem ldhu (sp : Bool) (rd : BitVec 5) (base : BitVec 5) (ord : BitVec 4) (imm : Imm 10) : Statement (.ldhu sp rd base ord imm) := by
  cases imm with
  | field v =>
    refine roundTrip_of_C rfl rfl fun x hx => ?_
    obtain ⟨(e0 : fld x 0 10 = v), (e1 : fld x 10 4 = ord), (e2 : fld x 14 5 = base), (e3 : fld x 19 5 = rd), (e4 : fld x 24 6 = 35#6), (e5 : fld x 30 1 = BitVec.ofBool sp), (e6 : fld x 31 1 = 0#1), -⟩ := fmt13 sp rd base ord v 35 0 hx rfl
    delta decodeC; rw [e4]; change ((immOf x _ 10).bind fun imm => Except.ok (Instr.ldhu (fld x 30 1 == 1) (fld x 19 5) (fld x 14 5) (fld x 10 4) imm)) = _
    simp [immOf, e0, e1, e2, e3, e5, e6, sbit_of, Except.bind, Imm.literal]
  | lit v =>
    refine roundTrip_of_C rfl rfl fun x hx => ?_
    obtain ⟨(e0 : fld x 0 10 = 0#10), (e1 : fld x 10 4 = ord), (e2 : fld x 14 5 = base), (e3 : fld x 19 5 = rd), (e4 : fld x 24 6 = 35#6), (e5 : fld x 30 1 = BitVec.ofBool sp), (e6 : fld x 31 1 = 1#1), -⟩ := fmt14 sp rd base ord v 0 35 hx rfl
    delta decodeC; rw [e4]; change ((immOf x _ 10).bind fun imm => Except.ok (Instr.ldhu (fld x 30 1 == 1) (fld x 19 5) (fld x 14 5) (fld x 10 4) imm)) = _
    simp [immOf, e0, e1, e2, e3, e5, e6, sbit_of, Except.bind, Imm.literal]

theorem ldw (sp : Bool) (rd : BitVec 5) (base : BitVec 5) (ord : BitVec 4) (imm : Imm 10) : Statement (.ldw sp rd base ord imm) := by
  cases imm with
  | field v =>
    refine roundTrip_of_C rfl rfl fun x hx => ?_
    obtain ⟨(e0 : fld x 0 10 = v), (e1 : fld x 10 4 = ord), (e2 : fld x 14 5 = base), (e3 : fld x 19 5 = rd), (e4 : fld x 24 6 = 36#6), (e5 : fld x 30 1 = BitVec.ofBool sp), (e6 : fld x 31 1 = 0#1), -⟩ := fmt13 sp rd base ord v 36 0 hx rfl
    delta decodeC; rw [e4]; change ((immOf x _ 10).bind fun imm => Except.ok (Instr.ldw (fld x 30 1 == 1) (fld x 19 5) (fld x 14 5) (fld x 10 4) imm)) = _
    simp [immOf, e0, e1, e2, e3, e5, e6, sbit_of, Except.bind, Imm.literal]
  | lit v =>
    refine roundTrip_of_C rfl rfl fun x hx => ?_
    obtain ⟨(e0 : fld x 0 10 = 0#10), (e1 : fld x 10 4 = ord), (e2 : fld x 14 5 = base), (e3 : fld x 19 5 = rd), (e4 : fld x 24 6 = 36#6), (e5 : fld x 30 1 = BitVec.ofBool sp), (e6 : fld x 31 1 = 1#1), -⟩ := fmt14 sp rd base ord v 0 36 hx rfl
    delta decodeC; rw [e4]; change ((immOf x _ 10).bind fun imm => Except.ok (Instr.ldw (fld x 30 1 == 1) (fld x 19 5) (fld x 14 5) (fld x 10 4) imm)) = _
    simp [immOf, e0, e1, e2, e3, e5, e6, sbit_of, Except.bind, Imm.literal]

theorem ldwu (sp : Bool) (rd : BitVec 5) (base : BitVec 5) (ord : BitVec 4) (imm : Imm 10) : Statement (.ldwu sp rd base ord imm) := by
  cases imm with
  | field v =>
    refine roundTrip_of_C rfl rfl fun x hx => ?_
    obtain ⟨(e0 : fld x 0 10 = v), (e1 : fld x 10 4 = ord), (e2 : fld x 14 5 = base), (e3 : fld x 19 5 = rd), (e4 : fld x 24 6 = 37#6), (e5 : fld x 30 1 = BitVec.ofBool sp), (e6 : fld x 31 1 = 0#1), -⟩ := fmt13 sp rd base ord v 37 0 hx rfl
    delta decodeC; rw [e4]; change ((immOf x _ 10).bind fun imm => Except.ok (Instr.ldwu (fld x 30 1 == 1) (fld x 19 5) (fld x 14 5) (fld x 10 4) imm)) = _
    simp [immOf, e0, e1, e2, e3, e5, e6, sbit_of, Except.bind, Imm.literal]
  | lit v =>
    refine roundTrip_of_C rfl rfl fun x hx => ?_
    obtain ⟨(e0 : fld x 0 10 = 0#10), (e1 : fld x 10 4 = ord), (e2 : fld x 14 5 = base), (e3 : fld x 19 5 = rd), (e4 : fld x 24 6 = 37#6), (e5 : fld x 30 1 = BitVec.ofBool sp), (e6 : fld x 31 1 = 1#1), -⟩ := fmt14 sp rd base ord v 0 37 hx rfl
    delta decodeC; rw [e4]; change ((immOf x _ 10).bind fun imm => Except.ok (Instr.ldwu (fld x 30 1 == 1) (fld x 19 5) (fld x 14 5) (fld x 10 4) imm)) = _
    simp [immOf, e0, e1, e2, e3, e5, e6, sbit_of, Except.bind, Imm.literal]

theorem ldd (sp : Bool) (rd : BitVec 5) (base : BitVec 5) (ord : BitVec 4) (imm : Imm 10) : Statement (.ldd sp rd base ord imm) := by
  cases imm with
  | field v =>
    refine roundTrip_of_C rfl rfl fun x hx => ?_
    obtain ⟨(e0 : fld x 0 10 = v), (e1 : fld x 10 4 = ord), (e2 : fld x 14 5 = base), (e3 : fld x 19 5 = rd), (e4 : fld x 24 6 = 38#6), (e5 : fld x 30 1 = BitVec.ofBool sp), (e6 : fld x 31 1 = 0#1), -⟩ := fmt13 sp rd base ord v 38 0 hx rfl
    delta decodeC; rw [e4]; change ((immOf x _ 10).bind fun imm => Except.ok (Instr.ldd (fld x 30 1 == 1) (fld x 19 5) (fld x 14 5) (fld x 10 4) imm)) = _
    simp [immOf, e0, e1, e2, e3, e5, e6, sbit_of, Except.bind, Imm.literal]
  | lit v =>
    refine roundTrip_of_C rfl rfl fun x hx => ?_
    obtain ⟨(e0 : fld x 0 10 = 0#10), (e1 : fld x 10 4 = ord), (e2 : fld x 14 5 = base), (e3 : fld x 19 5 = rd), (e4 : fld x 24 6 = 38#6), (e5 : fld x 30 1 = BitVec.ofBool sp), (e6 : fld x 31 1 = 1#1), -⟩ := fmt14 sp rd base ord v 0 38 hx rfl
    delta decodeC; rw [e4]; change ((immOf x _ 10).bind fun imm => Except.ok (Instr.ldd (fld x 30 1 == 1) (fld x 19 5) (fld x 14 5) (fld x 10 4) imm)) = _
    simp [immOf, e0, e1, e2, e3, e5, e6, sbit_of, Except.bind, Imm.literal]

theorem stb (sp : Bool) (rd : BitVec 5) (base : BitVec 5) (ord : BitVec 4) (imm : Imm 10) : Statement (.stb sp rd base ord imm) := by
  cases imm with
  | field v =>
    refine roundTrip_of_C rfl rfl fun x hx => ?_
    obtain ⟨(e0 : fld x 0 10 = v), (e1 : fld x 10 4 = ord), (e2 : fld x 14 5 = base), (e3 : fld x 19 5 = rd), (e4 : fld x 24 6 = 39#6), (e5 : fld x 30 1 = BitVec.ofBool sp), (e6 : fld x 31 1 = 0#1), -⟩ := fmt13 sp rd base ord v 39 0 hx rfl
    delta decodeC; rw [e4]; change ((immOf x _ 10).bind fun imm => Except.ok (Instr.stb (fld x 30 1 == 1) (fld x 19 5) (fld x 14 5) (fld x 10 4) imm)) = _
    simp [immOf, e0, e1, e2, e3, e5, e6, sbit_of, Except.bind, Imm.literal]
  | lit v =>
    refine roundTrip_of_C rfl rfl fun x hx => ?_
    obtain ⟨(e0 : fld x 0 10 = 0#10), (e1 : fld x 10 4 = ord), (e2 : fld x 14 5 = base), (e3 : fld x 19 5 = rd), (e4 : fld x 24 6 = 39#6), (e5 : fld x 30 1 = BitVec.ofBool sp), (e6 : fld x 31 1 = 1#1), -⟩ := fmt14 sp rd base ord v 0 39 hx rfl
    delta decodeC; rw [e4]; change ((immOf x _ 10).bind fun imm => Except.ok (Instr.stb (fld x 30 1 == 1) (fld x 19 5) (fld x 14 5) (fld x 10 4) imm)) = _
    simp [immOf, e0, e1, e2, e3, e5, e6, sbit_of, Except.bind, Imm.literal]

theorem sth (sp : Bool) (rd : BitVec 5) (base : BitVec 5) (ord : BitVec 4) (imm : Imm 10) : Statement (.sth sp rd base ord imm) := by
  cases imm with
  | field v =>
    refine roundTrip_of_C rfl rfl fun x hx => ?_
    obtain ⟨(e0 : fld x 0 10 = v), (e1 : fld x 10 4 = ord), (e2 : fld x 14 5 = base), (e3 : fld x 19 5 = rd), (e4 : fld x 24 6 = 40#6), (e5 : fld x 30 1 = BitVec.ofBool sp), (e6 : fld x 31 1 = 0#1), -⟩ := fmt13 sp rd base ord v 40 0 hx rfl
    delta decodeC; rw [e4]; change ((immOf x _ 10).bind fun imm => Except.ok (Instr.sth (fld x 30 1 == 1) (fld x 19 5) (fld x 14 5) (fld x 10 4) imm)) = _
    simp [immOf, e0, e1, e2, e3, e5, e6, sbit_of, Except.bind, Imm.literal]
  | lit v =>
    refine roundTrip_of_C rfl rfl fun x hx => ?_
    obtain ⟨(e0 : fld x 0 10 = 0#10), (e1 : fld x 10 4 = ord), (e2 : fld x 14 5 = base), (e3 : fld x 19 5 = rd), (e4 : fld x 24 6 = 40#6), (e5 : fld x 30 1 = BitVec.ofBool sp), (e6 : fld x 31 1 = 1#1), -⟩ := fmt14 sp rd base ord v 0 40 hx rfl
    delta decodeC; rw [e4]; change ((immOf x _ 10).bind fun imm => Except.ok (Instr.sth (fld x 30 1 == 1) (fld x 19 5) (fld x 14 5) (fld x 10 4) imm)) = _
    simp [immOf, e0, e1, e2, e3, e5, e6, sbit_of, Except.bind, Imm.literal]

theorem stw (sp : Bool) (rd : BitVec 5) (base : BitVec 5) (ord : BitVec 4) (imm : Imm 10) : Statement (.stw sp rd base ord imm) := by
  cases imm with
  | field v =>
    refine roundTrip_of_C rfl rfl fun x hx => ?_
    obtain ⟨(e0 : fld x 0 10 = v), (e1 : fld x 10 4 = ord), (e2 : fld x 14 5 = base), (e3 : fld x 19 5 = rd), (e4 : fld x 24 6 = 41#6), (e5 : fld x 30 1 = BitVec.ofBool sp), (e6 : fld x 31 1 = 0#1), -⟩ := fmt13 sp rd base ord v 41 0 hx rfl
    delta decodeC; rw [e4]; change ((immOf x _ 10).bind fun imm => Except.ok (Instr.stw (fld x 30 1 == 1) (fld x 19 5) (fld x 14 5) (fld x 10 4) imm)) = _
    simp [immOf, e0, e1, e2, e3, e5, e6, sbit_of, Except.bind, Imm.literal]
  | lit v =>
    refine roundTrip_of_C rfl rfl fun x hx => ?_
    obtain ⟨(e0 : fld x 0 10 = 0#10), (e1 : fld x 10 4 = ord), (e2 : fld x 14 5 = base), (e3 : fld x 19 5 = rd), (e4 : fld x 24 6 = 41#6), (e5 : fld x 30 1 = BitVec.ofBool sp), (e6 : fld x 31 1 = 1#1), -⟩ := fmt14 sp rd base ord v 0 41 hx rfl
    delta decodeC; rw [e4]; change ((immOf x _ 10).bind fun imm => Except.ok (Instr.stw (fld x 30 1 == 1) (fld x 19 5) (fld x 14 5) (fld x 10 4) imm)) = _
    simp [immOf, e0, e1, e2, e3, e5, e6, sbit_of, Except.bind, Imm.literal]

theorem std (sp : Bool) (rd : BitVec 5) (base : BitVec 5) (ord : BitVec 4) (imm : Imm 10) : Statement (.std sp rd base ord imm) := by
  cases imm with
  | field v =>
    refine roundTrip_of_C rfl rfl fun x hx => ?_
    obtain ⟨(e0 : fld x 0 10 = v), (e1 : fld x 10 4 = ord), (e2 : fld x 14 5 = base), (e3 : fld x 19 5 = rd), (e4 : fld x 24 6 = 42#6), (e5 : fld x 30 1 = BitVec.ofBool sp), (e6 : fld x 31 1 = 0#1), -⟩ := fmt13 sp rd base ord v 42 0 hx rfl
    delta decodeC; rw [e4]; change ((immOf x _ 10).bind fun imm => Except.ok (Instr.std (fld x 30 1 == 1) (fld x 19 5) (fld x 14 5) (fld x 10 4) imm)) = _
    simp [immOf, e0, e1, e2, e3, e5, e6, sbit_of, Except.bind, Imm.literal]
  | lit v =>
    refine roundTrip_of_C rfl rfl fun x hx => ?_
    obtain ⟨(e0 : fld x 0 10 = 0#10), (e1 : fld x 10 4 = ord), (e2 : fld x 14 5 = base), (e3 : fld x 19 5 = rd), (e4 : fld x 24 6 = 42#6), (e5 : fld x 30 1 = BitVec.ofBool sp), (e6 : fld x 31 1 = 1#1), -⟩ := fmt14 sp rd base ord v 0 42 hx rfl
    delta decodeC; rw [e4]; change ((immOf x _ 10).bind fun imm => Except.ok (Instr.std (fld x 30 1 == 1) (fld x 19 5) (fld x 14 5) (fld x 10 4) imm)) = _
    simp [immOf, e0, e1, e2, e3, e5, e6, sbit_of, Except.bind, Imm.literal]

theorem stref (sp : Bool) (rd : BitVec 5) (base : BitVec 5) (ord : BitVec 4) (imm : Imm 10) : Statement (.stref sp rd base ord imm) := by
  cases imm with
  | field v =>
    refine roundTrip_of_C rfl rfl fun x hx => ?_
    obtain ⟨(e0 : fld x 0 10 = v), (e1 : fld x 10 4 = ord), (e2 : fld x 14 5 = base), (e3 : fld x 19 5 = rd), (e4 : fld x 24 6 = 43#6), (e5 : fld x 30 1 = BitVec.ofBool sp), (e6 : fld x 31 1 = 0#1), -⟩ := fmt13 sp rd base ord v 43 0 hx rfl
    delta decodeC; rw [e4]; change ((immOf x _ 10).bind fun imm => Except.ok (Instr.stref (fld x 30 1 == 1) (fld x 19 5) (fld x 14 5) (fld x 10 4) imm)) = _
    simp [immOf, e0, e1, e2, e3, e5, e6, sbit_of, Except.bind, Imm.literal]
  | lit v =>
    refine roundTrip_of_C rfl rfl fun x hx => ?_
    obtain ⟨(e0 : fld x 0 10 = 0#10), (e1 : fld x 10 4 = ord), (e2 : fld x 14 5 = base), (e3 : fld x 19 5 = rd), (e4 : fld x 24 6 = 43#6), (e5 : fld x 30 1 = BitVec.ofBool sp), (e6 : fld x 31 1 = 1#1), -⟩ := fmt14 sp rd base ord v 0 43 hx rfl
    delta decodeC; rw [e4]; change ((immOf x _ 10).bind fun imm => Except.ok (Instr.stref (fld x 30 1 == 1) (fld x 19 5) (fld x 14 5) (fld x 10 4) imm)) = _
    simp [immOf, e0, e1, e2, e3, e5, e6, sbit_of, Except.bind, Imm.literal]

theorem ldt (sp : Bool) (rd : BitVec 5) (base : BitVec 5) (ord : BitVec 4) (imm : Imm 10) : Statement (.ldt sp rd base ord imm) := by
  cases imm with
  | field v =>
    refine roundTrip_of_C rfl rfl fun x hx => ?_
    obtain ⟨(e0 : fld x 0 10 = v), (e1 : fld x 10 4 = ord), (e2 : fld x 14 5 = base), (e3 : fld x 19 5 = rd), (e4 : fld x 24 6 = 44#6), (e5 : fld x 30 1 = BitVec.ofBool sp), (e6 : fld x 31 1 = 0#1), -⟩ := fmt13 sp rd base ord v 44 0 hx rfl
    delta decodeC; rw [e4]; change ((immOf x _ 10).bind fun imm => Except.ok (Instr.ldt (fld x 30 1 == 1) (fld x 19 5) (fld x 14 5) (fld x 10 4) imm)) = _
    simp [immOf, e0, e1, e2, e3, e5, e6, sbit_of, Except.bind, Imm.literal]
  | lit v =>
    refine roundTrip_of_C rfl rfl fun x hx => ?_
    obtain ⟨(e0 : fld x 0 10 = 0#10), (e1 : fld x 10 4 = ord), (e2 : fld x 14 5 = base), (e3 : fld x 19 5 = rd), (e4 : fld x 24 6 = 44#6), (e5 : fld x 30 1 = BitVec.ofBool sp), (e6 : fld x 31 1 = 1#1), -⟩ := fmt14 sp rd base ord v 0 44 hx rfl
    delta decodeC; rw [e4]; change ((immOf x _ 10).bind fun imm => Except.ok (Instr.ldt (fld x 30 1 == 1) (fld x 19 5) (fld x 14 5) (fld x 10 4) imm)) = _
    simp [immOf, e0, e1, e2, e3, e5, e6, sbit_of, Except.bind, Imm.literal]

theorem vld (sp : Bool) (vd : BitVec 5) (base : BitVec 5) (ord : BitVec 4) (len : BitVec 6) (mk : BitVec 3) (disp : Option (BitVec 32)) : Statement (.vld sp vd base ord len mk disp) := by
  cases disp with
  | none =>
    refine roundTrip_of_C rfl rfl fun x hx => ?_
    obtain ⟨(e0 : fld x 0 1 = 0#1), (e1 : fld x 1 3 = mk), (e2 : fld x 4 6 = len), (e3 : fld x 10 4 = ord), (e4 : fld x 14 5 = base), (e5 : fld x 19 5 = vd), (e6 : fld x 24 6 = 45#6), (e7 : fld x 30 1 = BitVec.ofBool sp), (e8 : fld x 31 1 = 0#1), -⟩ := fmt15 sp vd base ord len mk 0 45 0 hx rfl
    delta decodeC; rw [e6]; change (if fld x 0 1 = 0 then Except.ok (Instr.vld (fld x 30 1 == 1) (fld x 19 5) (fld x 14 5) (fld x 10 4) (fld x 4 6) (fld x 1 3) (dispOf x _)) else Except.error DecodeError.reservedField) = _
    simp [dispOf, e0, e1, e2, e3, e4, e5, e7, e8, sbit_of, dispLiteral]
  | some v =>
    refine roundTrip_of_C rfl rfl fun x hx => ?_
    obtain ⟨(e0 : fld x 0 1 = 0#1), (e1 : fld x 1 3 = mk), (e2 : fld x 4 6 = len), (e3 : fld x 10 4 = ord), (e4 : fld x 14 5 = base), (e5 : fld x 19 5 = vd), (e6 : fld x 24 6 = 45#6), (e7 : fld x 30 1 = BitVec.ofBool sp), (e8 : fld x 31 1 = 1#1), -⟩ := fmt16 sp vd base ord len mk v 0 45 hx rfl
    delta decodeC; rw [e6]; change (if fld x 0 1 = 0 then Except.ok (Instr.vld (fld x 30 1 == 1) (fld x 19 5) (fld x 14 5) (fld x 10 4) (fld x 4 6) (fld x 1 3) (dispOf x _)) else Except.error DecodeError.reservedField) = _
    simp [dispOf, e0, e1, e2, e3, e4, e5, e7, e8, sbit_of, dispLiteral]

theorem vst (sp : Bool) (vd : BitVec 5) (base : BitVec 5) (ord : BitVec 4) (len : BitVec 6) (mk : BitVec 3) (disp : Option (BitVec 32)) : Statement (.vst sp vd base ord len mk disp) := by
  cases disp with
  | none =>
    refine roundTrip_of_C rfl rfl fun x hx => ?_
    obtain ⟨(e0 : fld x 0 1 = 0#1), (e1 : fld x 1 3 = mk), (e2 : fld x 4 6 = len), (e3 : fld x 10 4 = ord), (e4 : fld x 14 5 = base), (e5 : fld x 19 5 = vd), (e6 : fld x 24 6 = 46#6), (e7 : fld x 30 1 = BitVec.ofBool sp), (e8 : fld x 31 1 = 0#1), -⟩ := fmt15 sp vd base ord len mk 0 46 0 hx rfl
    delta decodeC; rw [e6]; change (if fld x 0 1 = 0 then Except.ok (Instr.vst (fld x 30 1 == 1) (fld x 19 5) (fld x 14 5) (fld x 10 4) (fld x 4 6) (fld x 1 3) (dispOf x _)) else Except.error DecodeError.reservedField) = _
    simp [dispOf, e0, e1, e2, e3, e4, e5, e7, e8, sbit_of, dispLiteral]
  | some v =>
    refine roundTrip_of_C rfl rfl fun x hx => ?_
    obtain ⟨(e0 : fld x 0 1 = 0#1), (e1 : fld x 1 3 = mk), (e2 : fld x 4 6 = len), (e3 : fld x 10 4 = ord), (e4 : fld x 14 5 = base), (e5 : fld x 19 5 = vd), (e6 : fld x 24 6 = 46#6), (e7 : fld x 30 1 = BitVec.ofBool sp), (e8 : fld x 31 1 = 1#1), -⟩ := fmt16 sp vd base ord len mk v 0 46 hx rfl
    delta decodeC; rw [e6]; change (if fld x 0 1 = 0 then Except.ok (Instr.vst (fld x 30 1 == 1) (fld x 19 5) (fld x 14 5) (fld x 10 4) (fld x 4 6) (fld x 1 3) (dispOf x _)) else Except.error DecodeError.reservedField) = _
    simp [dispOf, e0, e1, e2, e3, e4, e5, e7, e8, sbit_of, dispLiteral]

theorem vldx (sp : Bool) (vd : BitVec 5) (base : BitVec 5) (ord : BitVec 4) (vi : BitVec 5) (e8 : BitVec 1) (mk : BitVec 3) (disp : Option (BitVec 32)) : Statement (.vldx sp vd base ord vi e8 mk disp) := by
  cases disp with
  | none =>
    refine roundTrip_of_C rfl rfl fun x hx => ?_
    obtain ⟨(e0 : fld x 0 1 = 0#1), (e1 : fld x 1 3 = mk), (e2 : fld x 4 1 = e8), (e3 : fld x 5 5 = vi), (e4 : fld x 10 4 = ord), (e5 : fld x 14 5 = base), (e6 : fld x 19 5 = vd), (e7 : fld x 24 6 = 47#6), (e8 : fld x 30 1 = BitVec.ofBool sp), (e9 : fld x 31 1 = 0#1), -⟩ := fmt17 sp vd base ord vi e8 mk 0 47 0 hx rfl
    delta decodeC; rw [e7]; change (if fld x 0 1 = 0 then Except.ok (Instr.vldx (fld x 30 1 == 1) (fld x 19 5) (fld x 14 5) (fld x 10 4) (fld x 5 5) (fld x 4 1) (fld x 1 3) (dispOf x _)) else Except.error DecodeError.reservedField) = _
    simp [dispOf, e0, e1, e2, e3, e4, e5, e6, e8, e9, sbit_of, dispLiteral]
  | some v =>
    refine roundTrip_of_C rfl rfl fun x hx => ?_
    obtain ⟨(e0 : fld x 0 1 = 0#1), (e1 : fld x 1 3 = mk), (e2 : fld x 4 1 = e8), (e3 : fld x 5 5 = vi), (e4 : fld x 10 4 = ord), (e5 : fld x 14 5 = base), (e6 : fld x 19 5 = vd), (e7 : fld x 24 6 = 47#6), (e8 : fld x 30 1 = BitVec.ofBool sp), (e9 : fld x 31 1 = 1#1), -⟩ := fmt18 sp vd base ord vi e8 mk v 0 47 hx rfl
    delta decodeC; rw [e7]; change (if fld x 0 1 = 0 then Except.ok (Instr.vldx (fld x 30 1 == 1) (fld x 19 5) (fld x 14 5) (fld x 10 4) (fld x 5 5) (fld x 4 1) (fld x 1 3) (dispOf x _)) else Except.error DecodeError.reservedField) = _
    simp [dispOf, e0, e1, e2, e3, e4, e5, e6, e8, e9, sbit_of, dispLiteral]

theorem vstx (sp : Bool) (vd : BitVec 5) (base : BitVec 5) (ord : BitVec 4) (vi : BitVec 5) (e8 : BitVec 1) (mk : BitVec 3) (disp : Option (BitVec 32)) : Statement (.vstx sp vd base ord vi e8 mk disp) := by
  cases disp with
  | none =>
    refine roundTrip_of_C rfl rfl fun x hx => ?_
    obtain ⟨(e0 : fld x 0 1 = 0#1), (e1 : fld x 1 3 = mk), (e2 : fld x 4 1 = e8), (e3 : fld x 5 5 = vi), (e4 : fld x 10 4 = ord), (e5 : fld x 14 5 = base), (e6 : fld x 19 5 = vd), (e7 : fld x 24 6 = 48#6), (e8 : fld x 30 1 = BitVec.ofBool sp), (e9 : fld x 31 1 = 0#1), -⟩ := fmt17 sp vd base ord vi e8 mk 0 48 0 hx rfl
    delta decodeC; rw [e7]; change (if fld x 0 1 = 0 then Except.ok (Instr.vstx (fld x 30 1 == 1) (fld x 19 5) (fld x 14 5) (fld x 10 4) (fld x 5 5) (fld x 4 1) (fld x 1 3) (dispOf x _)) else Except.error DecodeError.reservedField) = _
    simp [dispOf, e0, e1, e2, e3, e4, e5, e6, e8, e9, sbit_of, dispLiteral]
  | some v =>
    refine roundTrip_of_C rfl rfl fun x hx => ?_
    obtain ⟨(e0 : fld x 0 1 = 0#1), (e1 : fld x 1 3 = mk), (e2 : fld x 4 1 = e8), (e3 : fld x 5 5 = vi), (e4 : fld x 10 4 = ord), (e5 : fld x 14 5 = base), (e6 : fld x 19 5 = vd), (e7 : fld x 24 6 = 48#6), (e8 : fld x 30 1 = BitVec.ofBool sp), (e9 : fld x 31 1 = 1#1), -⟩ := fmt18 sp vd base ord vi e8 mk v 0 48 hx rfl
    delta decodeC; rw [e7]; change (if fld x 0 1 = 0 then Except.ok (Instr.vstx (fld x 30 1 == 1) (fld x 19 5) (fld x 14 5) (fld x 10 4) (fld x 5 5) (fld x 4 1) (fld x 1 3) (dispOf x _)) else Except.error DecodeError.reservedField) = _
    simp [dispOf, e0, e1, e2, e3, e4, e5, e6, e8, e9, sbit_of, dispLiteral]

theorem amoadd (sp : Bool) (rd : BitVec 5) (ra : BitVec 5) (rb : BitVec 5) (ord : BitVec 4) (w : BitVec 1) : Statement (.amoadd sp rd ra rb ord w) := by
  refine roundTrip_of_C rfl rfl fun x hx => ?_
  obtain ⟨(e0 : fld x 0 1 = w), (e1 : fld x 1 4 = ord), (e2 : fld x 5 4 = 0#4), (e3 : fld x 9 5 = rb), (e4 : fld x 14 5 = ra), (e5 : fld x 19 5 = rd), (e6 : fld x 24 6 = 49#6), (e7 : fld x 30 1 = BitVec.ofBool sp), (e8 : fld x 31 1 = 0#1), -⟩ := fmt19 sp rd ra rb ord w 0 49 0 hx rfl
  delta decodeC; rw [e6]; change (if fld x 31 1 = 1 then Except.error DecodeError.literalNotAccepted else decodeC31 x) = _
  rw [if_neg (by rw [e8]; decide)]; delta decodeC31; rw [e2]; change (Except.ok (Instr.amoadd (fld x 30 1 == 1) (fld x 19 5) (fld x 14 5) (fld x 9 5) (fld x 1 4) (fld x 0 1))) = _
  simp [e0, e1, e3, e4, e5, e7, sbit_of]

theorem amoand (sp : Bool) (rd : BitVec 5) (ra : BitVec 5) (rb : BitVec 5) (ord : BitVec 4) (w : BitVec 1) : Statement (.amoand sp rd ra rb ord w) := by
  refine roundTrip_of_C rfl rfl fun x hx => ?_
  obtain ⟨(e0 : fld x 0 1 = w), (e1 : fld x 1 4 = ord), (e2 : fld x 5 4 = 1#4), (e3 : fld x 9 5 = rb), (e4 : fld x 14 5 = ra), (e5 : fld x 19 5 = rd), (e6 : fld x 24 6 = 49#6), (e7 : fld x 30 1 = BitVec.ofBool sp), (e8 : fld x 31 1 = 0#1), -⟩ := fmt19 sp rd ra rb ord w 1 49 0 hx rfl
  delta decodeC; rw [e6]; change (if fld x 31 1 = 1 then Except.error DecodeError.literalNotAccepted else decodeC31 x) = _
  rw [if_neg (by rw [e8]; decide)]; delta decodeC31; rw [e2]; change (Except.ok (Instr.amoand (fld x 30 1 == 1) (fld x 19 5) (fld x 14 5) (fld x 9 5) (fld x 1 4) (fld x 0 1))) = _
  simp [e0, e1, e3, e4, e5, e7, sbit_of]

theorem amoor (sp : Bool) (rd : BitVec 5) (ra : BitVec 5) (rb : BitVec 5) (ord : BitVec 4) (w : BitVec 1) : Statement (.amoor sp rd ra rb ord w) := by
  refine roundTrip_of_C rfl rfl fun x hx => ?_
  obtain ⟨(e0 : fld x 0 1 = w), (e1 : fld x 1 4 = ord), (e2 : fld x 5 4 = 2#4), (e3 : fld x 9 5 = rb), (e4 : fld x 14 5 = ra), (e5 : fld x 19 5 = rd), (e6 : fld x 24 6 = 49#6), (e7 : fld x 30 1 = BitVec.ofBool sp), (e8 : fld x 31 1 = 0#1), -⟩ := fmt19 sp rd ra rb ord w 2 49 0 hx rfl
  delta decodeC; rw [e6]; change (if fld x 31 1 = 1 then Except.error DecodeError.literalNotAccepted else decodeC31 x) = _
  rw [if_neg (by rw [e8]; decide)]; delta decodeC31; rw [e2]; change (Except.ok (Instr.amoor (fld x 30 1 == 1) (fld x 19 5) (fld x 14 5) (fld x 9 5) (fld x 1 4) (fld x 0 1))) = _
  simp [e0, e1, e3, e4, e5, e7, sbit_of]

theorem amoxor (sp : Bool) (rd : BitVec 5) (ra : BitVec 5) (rb : BitVec 5) (ord : BitVec 4) (w : BitVec 1) : Statement (.amoxor sp rd ra rb ord w) := by
  refine roundTrip_of_C rfl rfl fun x hx => ?_
  obtain ⟨(e0 : fld x 0 1 = w), (e1 : fld x 1 4 = ord), (e2 : fld x 5 4 = 3#4), (e3 : fld x 9 5 = rb), (e4 : fld x 14 5 = ra), (e5 : fld x 19 5 = rd), (e6 : fld x 24 6 = 49#6), (e7 : fld x 30 1 = BitVec.ofBool sp), (e8 : fld x 31 1 = 0#1), -⟩ := fmt19 sp rd ra rb ord w 3 49 0 hx rfl
  delta decodeC; rw [e6]; change (if fld x 31 1 = 1 then Except.error DecodeError.literalNotAccepted else decodeC31 x) = _
  rw [if_neg (by rw [e8]; decide)]; delta decodeC31; rw [e2]; change (Except.ok (Instr.amoxor (fld x 30 1 == 1) (fld x 19 5) (fld x 14 5) (fld x 9 5) (fld x 1 4) (fld x 0 1))) = _
  simp [e0, e1, e3, e4, e5, e7, sbit_of]

theorem amomin (sp : Bool) (rd : BitVec 5) (ra : BitVec 5) (rb : BitVec 5) (ord : BitVec 4) (w : BitVec 1) : Statement (.amomin sp rd ra rb ord w) := by
  refine roundTrip_of_C rfl rfl fun x hx => ?_
  obtain ⟨(e0 : fld x 0 1 = w), (e1 : fld x 1 4 = ord), (e2 : fld x 5 4 = 4#4), (e3 : fld x 9 5 = rb), (e4 : fld x 14 5 = ra), (e5 : fld x 19 5 = rd), (e6 : fld x 24 6 = 49#6), (e7 : fld x 30 1 = BitVec.ofBool sp), (e8 : fld x 31 1 = 0#1), -⟩ := fmt19 sp rd ra rb ord w 4 49 0 hx rfl
  delta decodeC; rw [e6]; change (if fld x 31 1 = 1 then Except.error DecodeError.literalNotAccepted else decodeC31 x) = _
  rw [if_neg (by rw [e8]; decide)]; delta decodeC31; rw [e2]; change (Except.ok (Instr.amomin (fld x 30 1 == 1) (fld x 19 5) (fld x 14 5) (fld x 9 5) (fld x 1 4) (fld x 0 1))) = _
  simp [e0, e1, e3, e4, e5, e7, sbit_of]

theorem amomax (sp : Bool) (rd : BitVec 5) (ra : BitVec 5) (rb : BitVec 5) (ord : BitVec 4) (w : BitVec 1) : Statement (.amomax sp rd ra rb ord w) := by
  refine roundTrip_of_C rfl rfl fun x hx => ?_
  obtain ⟨(e0 : fld x 0 1 = w), (e1 : fld x 1 4 = ord), (e2 : fld x 5 4 = 5#4), (e3 : fld x 9 5 = rb), (e4 : fld x 14 5 = ra), (e5 : fld x 19 5 = rd), (e6 : fld x 24 6 = 49#6), (e7 : fld x 30 1 = BitVec.ofBool sp), (e8 : fld x 31 1 = 0#1), -⟩ := fmt19 sp rd ra rb ord w 5 49 0 hx rfl
  delta decodeC; rw [e6]; change (if fld x 31 1 = 1 then Except.error DecodeError.literalNotAccepted else decodeC31 x) = _
  rw [if_neg (by rw [e8]; decide)]; delta decodeC31; rw [e2]; change (Except.ok (Instr.amomax (fld x 30 1 == 1) (fld x 19 5) (fld x 14 5) (fld x 9 5) (fld x 1 4) (fld x 0 1))) = _
  simp [e0, e1, e3, e4, e5, e7, sbit_of]

theorem amominu (sp : Bool) (rd : BitVec 5) (ra : BitVec 5) (rb : BitVec 5) (ord : BitVec 4) (w : BitVec 1) : Statement (.amominu sp rd ra rb ord w) := by
  refine roundTrip_of_C rfl rfl fun x hx => ?_
  obtain ⟨(e0 : fld x 0 1 = w), (e1 : fld x 1 4 = ord), (e2 : fld x 5 4 = 6#4), (e3 : fld x 9 5 = rb), (e4 : fld x 14 5 = ra), (e5 : fld x 19 5 = rd), (e6 : fld x 24 6 = 49#6), (e7 : fld x 30 1 = BitVec.ofBool sp), (e8 : fld x 31 1 = 0#1), -⟩ := fmt19 sp rd ra rb ord w 6 49 0 hx rfl
  delta decodeC; rw [e6]; change (if fld x 31 1 = 1 then Except.error DecodeError.literalNotAccepted else decodeC31 x) = _
  rw [if_neg (by rw [e8]; decide)]; delta decodeC31; rw [e2]; change (Except.ok (Instr.amominu (fld x 30 1 == 1) (fld x 19 5) (fld x 14 5) (fld x 9 5) (fld x 1 4) (fld x 0 1))) = _
  simp [e0, e1, e3, e4, e5, e7, sbit_of]

theorem amomaxu (sp : Bool) (rd : BitVec 5) (ra : BitVec 5) (rb : BitVec 5) (ord : BitVec 4) (w : BitVec 1) : Statement (.amomaxu sp rd ra rb ord w) := by
  refine roundTrip_of_C rfl rfl fun x hx => ?_
  obtain ⟨(e0 : fld x 0 1 = w), (e1 : fld x 1 4 = ord), (e2 : fld x 5 4 = 7#4), (e3 : fld x 9 5 = rb), (e4 : fld x 14 5 = ra), (e5 : fld x 19 5 = rd), (e6 : fld x 24 6 = 49#6), (e7 : fld x 30 1 = BitVec.ofBool sp), (e8 : fld x 31 1 = 0#1), -⟩ := fmt19 sp rd ra rb ord w 7 49 0 hx rfl
  delta decodeC; rw [e6]; change (if fld x 31 1 = 1 then Except.error DecodeError.literalNotAccepted else decodeC31 x) = _
  rw [if_neg (by rw [e8]; decide)]; delta decodeC31; rw [e2]; change (Except.ok (Instr.amomaxu (fld x 30 1 == 1) (fld x 19 5) (fld x 14 5) (fld x 9 5) (fld x 1 4) (fld x 0 1))) = _
  simp [e0, e1, e3, e4, e5, e7, sbit_of]

theorem amoswap (sp : Bool) (rd : BitVec 5) (ra : BitVec 5) (rb : BitVec 5) (ord : BitVec 4) (w : BitVec 1) : Statement (.amoswap sp rd ra rb ord w) := by
  refine roundTrip_of_C rfl rfl fun x hx => ?_
  obtain ⟨(e0 : fld x 0 1 = w), (e1 : fld x 1 4 = ord), (e2 : fld x 5 4 = 8#4), (e3 : fld x 9 5 = rb), (e4 : fld x 14 5 = ra), (e5 : fld x 19 5 = rd), (e6 : fld x 24 6 = 49#6), (e7 : fld x 30 1 = BitVec.ofBool sp), (e8 : fld x 31 1 = 0#1), -⟩ := fmt19 sp rd ra rb ord w 8 49 0 hx rfl
  delta decodeC; rw [e6]; change (if fld x 31 1 = 1 then Except.error DecodeError.literalNotAccepted else decodeC31 x) = _
  rw [if_neg (by rw [e8]; decide)]; delta decodeC31; rw [e2]; change (Except.ok (Instr.amoswap (fld x 30 1 == 1) (fld x 19 5) (fld x 14 5) (fld x 9 5) (fld x 1 4) (fld x 0 1))) = _
  simp [e0, e1, e3, e4, e5, e7, sbit_of]

theorem amocas (sp : Bool) (rd : BitVec 5) (ra : BitVec 5) (rb : BitVec 5) (ord : BitVec 4) (w : BitVec 1) : Statement (.amocas sp rd ra rb ord w) := by
  refine roundTrip_of_C rfl rfl fun x hx => ?_
  obtain ⟨(e0 : fld x 0 1 = w), (e1 : fld x 1 4 = ord), (e2 : fld x 5 4 = 9#4), (e3 : fld x 9 5 = rb), (e4 : fld x 14 5 = ra), (e5 : fld x 19 5 = rd), (e6 : fld x 24 6 = 49#6), (e7 : fld x 30 1 = BitVec.ofBool sp), (e8 : fld x 31 1 = 0#1), -⟩ := fmt19 sp rd ra rb ord w 9 49 0 hx rfl
  delta decodeC; rw [e6]; change (if fld x 31 1 = 1 then Except.error DecodeError.literalNotAccepted else decodeC31 x) = _
  rw [if_neg (by rw [e8]; decide)]; delta decodeC31; rw [e2]; change (Except.ok (Instr.amocas (fld x 30 1 == 1) (fld x 19 5) (fld x 14 5) (fld x 9 5) (fld x 1 4) (fld x 0 1))) = _
  simp [e0, e1, e3, e4, e5, e7, sbit_of]

theorem amofadd (sp : Bool) (rd : BitVec 5) (ra : BitVec 5) (rb : BitVec 5) (ord : BitVec 4) : Statement (.amofadd sp rd ra rb ord) := by
  refine roundTrip_of_C rfl rfl fun x hx => ?_
  obtain ⟨(e0 : fld x 0 1 = 0#1), (e1 : fld x 1 4 = ord), (e2 : fld x 5 4 = 10#4), (e3 : fld x 9 5 = rb), (e4 : fld x 14 5 = ra), (e5 : fld x 19 5 = rd), (e6 : fld x 24 6 = 49#6), (e7 : fld x 30 1 = BitVec.ofBool sp), (e8 : fld x 31 1 = 0#1), -⟩ := fmt20 sp rd ra rb ord 0 10 49 0 hx rfl
  delta decodeC; rw [e6]; change (if fld x 31 1 = 1 then Except.error DecodeError.literalNotAccepted else decodeC31 x) = _
  rw [if_neg (by rw [e8]; decide)]; delta decodeC31; rw [e2]; change (if fld x 0 1 = 0 then Except.ok (Instr.amofadd (fld x 30 1 == 1) (fld x 19 5) (fld x 14 5) (fld x 9 5) (fld x 1 4)) else Except.error DecodeError.reservedField) = _
  simp [e0, e1, e3, e4, e5, e7, sbit_of]

theorem amofaddv (sp : Bool) (vd : BitVec 5) (base : BitVec 5) (ord : BitVec 4) (len : BitVec 6) (mk : BitVec 3) (disp : Option (BitVec 32)) : Statement (.amofaddv sp vd base ord len mk disp) := by
  cases disp with
  | none =>
    refine roundTrip_of_C rfl rfl fun x hx => ?_
    obtain ⟨(e0 : fld x 0 1 = 0#1), (e1 : fld x 1 3 = mk), (e2 : fld x 4 6 = len), (e3 : fld x 10 4 = ord), (e4 : fld x 14 5 = base), (e5 : fld x 19 5 = vd), (e6 : fld x 24 6 = 50#6), (e7 : fld x 30 1 = BitVec.ofBool sp), (e8 : fld x 31 1 = 0#1), -⟩ := fmt15 sp vd base ord len mk 0 50 0 hx rfl
    delta decodeC; rw [e6]; change (if fld x 0 1 = 0 then Except.ok (Instr.amofaddv (fld x 30 1 == 1) (fld x 19 5) (fld x 14 5) (fld x 10 4) (fld x 4 6) (fld x 1 3) (dispOf x _)) else Except.error DecodeError.reservedField) = _
    simp [dispOf, e0, e1, e2, e3, e4, e5, e7, e8, sbit_of, dispLiteral]
  | some v =>
    refine roundTrip_of_C rfl rfl fun x hx => ?_
    obtain ⟨(e0 : fld x 0 1 = 0#1), (e1 : fld x 1 3 = mk), (e2 : fld x 4 6 = len), (e3 : fld x 10 4 = ord), (e4 : fld x 14 5 = base), (e5 : fld x 19 5 = vd), (e6 : fld x 24 6 = 50#6), (e7 : fld x 30 1 = BitVec.ofBool sp), (e8 : fld x 31 1 = 1#1), -⟩ := fmt16 sp vd base ord len mk v 0 50 hx rfl
    delta decodeC; rw [e6]; change (if fld x 0 1 = 0 then Except.ok (Instr.amofaddv (fld x 30 1 == 1) (fld x 19 5) (fld x 14 5) (fld x 10 4) (fld x 4 6) (fld x 1 3) (dispOf x _)) else Except.error DecodeError.reservedField) = _
    simp [dispOf, e0, e1, e2, e3, e4, e5, e7, e8, sbit_of, dispLiteral]

theorem fence (sp : Bool) (rd : BitVec 5) (ord : BitVec 4) : Statement (.fence sp rd ord) := by
  refine roundTrip_of_C rfl rfl fun x hx => ?_
  obtain ⟨(e0 : fld x 0 4 = 0#4), (e1 : fld x 4 6 = 0#6), (e2 : fld x 10 4 = ord), (e3 : fld x 14 5 = 0#5), (e4 : fld x 19 5 = rd), (e5 : fld x 24 6 = 51#6), (e6 : fld x 30 1 = BitVec.ofBool sp), (e7 : fld x 31 1 = 0#1), -⟩ := fmt21 sp rd ord 0 0 0 51 0 hx rfl
  delta decodeC; rw [e5]; change (if fld x 31 1 = 1 then Except.error DecodeError.literalNotAccepted else decodeC33 x) = _
  rw [if_neg (by rw [e7]; decide)]; delta decodeC33; rw [e0]; change (if fld x 4 6 = 0 then if fld x 14 5 = 0 then Except.ok (Instr.fence (fld x 30 1 == 1) (fld x 19 5) (fld x 10 4)) else Except.error DecodeError.reservedField else Except.error DecodeError.reservedField) = _
  simp [e1, e2, e3, e4, e6, sbit_of]

theorem pub (sp : Bool) (rd : BitVec 5) (ra : BitVec 5) (scope : BitVec 2) : Statement (.pub sp rd ra scope) := by
  refine roundTrip_of_C rfl rfl fun x hx => ?_
  obtain ⟨(e0 : fld x 0 4 = 1#4), (e1 : fld x 4 6 = 0#6), (e2 : fld x 10 2 = scope), (e3 : fld x 12 2 = 2#2), (e4 : fld x 14 5 = ra), (e5 : fld x 19 5 = rd), (e6 : fld x 24 6 = 51#6), (e7 : fld x 30 1 = BitVec.ofBool sp), (e8 : fld x 31 1 = 0#1), -⟩ := fmt22 sp rd ra scope 1 0 2 51 0 hx rfl
  delta decodeC; rw [e6]; change (if fld x 31 1 = 1 then Except.error DecodeError.literalNotAccepted else decodeC33 x) = _
  rw [if_neg (by rw [e8]; decide)]; delta decodeC33; rw [e0]; change (if fld x 4 6 = 0 then if fld x 12 2 = 2 then Except.ok (Instr.pub (fld x 30 1 == 1) (fld x 19 5) (fld x 14 5) (fld x 10 2)) else Except.error DecodeError.operandCode else Except.error DecodeError.reservedField) = _
  simp [e1, e2, e3, e4, e5, e7, sbit_of]

theorem pref (sp : Bool) (ra : BitVec 5) (lvl : BitVec 4) (rb : BitVec 5) : Statement (.pref sp ra lvl rb) := by
  refine roundTrip_of_C rfl rfl fun x hx => ?_
  obtain ⟨(e0 : fld x 0 4 = 2#4), (e1 : fld x 4 1 = 0#1), (e2 : fld x 5 5 = rb), (e3 : fld x 10 4 = lvl), (e4 : fld x 14 5 = ra), (e5 : fld x 19 5 = 0#5), (e6 : fld x 24 6 = 51#6), (e7 : fld x 30 1 = BitVec.ofBool sp), (e8 : fld x 31 1 = 0#1), -⟩ := fmt23 sp ra lvl rb 2 0 0 51 0 hx rfl
  delta decodeC; rw [e6]; change (if fld x 31 1 = 1 then Except.error DecodeError.literalNotAccepted else decodeC33 x) = _
  rw [if_neg (by rw [e8]; decide)]; delta decodeC33; rw [e0]; change (if fld x 4 1 = 0 then if fld x 19 5 = 0 then Except.ok (Instr.pref (fld x 30 1 == 1) (fld x 14 5) (fld x 10 4) (fld x 5 5)) else Except.error DecodeError.reservedField else Except.error DecodeError.reservedField) = _
  simp [e1, e2, e3, e4, e5, e7, sbit_of]

theorem resq (sp : Bool) (rd : BitVec 5) (ra : BitVec 5) (lvl : BitVec 4) (rb : BitVec 5) : Statement (.resq sp rd ra lvl rb) := by
  refine roundTrip_of_C rfl rfl fun x hx => ?_
  obtain ⟨(e0 : fld x 0 4 = 3#4), (e1 : fld x 4 1 = 0#1), (e2 : fld x 5 5 = rb), (e3 : fld x 10 4 = lvl), (e4 : fld x 14 5 = ra), (e5 : fld x 19 5 = rd), (e6 : fld x 24 6 = 51#6), (e7 : fld x 30 1 = BitVec.ofBool sp), (e8 : fld x 31 1 = 0#1), -⟩ := fmt24 sp rd ra lvl rb 3 0 51 0 hx rfl
  delta decodeC; rw [e6]; change (if fld x 31 1 = 1 then Except.error DecodeError.literalNotAccepted else decodeC33 x) = _
  rw [if_neg (by rw [e8]; decide)]; delta decodeC33; rw [e0]; change (if fld x 4 1 = 0 then Except.ok (Instr.resq (fld x 30 1 == 1) (fld x 19 5) (fld x 14 5) (fld x 10 4) (fld x 5 5)) else Except.error DecodeError.reservedField) = _
  simp [e1, e2, e3, e4, e5, e7, sbit_of]

theorem cln (sp : Bool) (ra : BitVec 5) (ord : BitVec 4) (rb : BitVec 5) : Statement (.cln sp ra ord rb) := by
  refine roundTrip_of_C rfl rfl fun x hx => ?_
  obtain ⟨(e0 : fld x 0 4 = 4#4), (e1 : fld x 4 1 = 0#1), (e2 : fld x 5 5 = rb), (e3 : fld x 10 4 = ord), (e4 : fld x 14 5 = ra), (e5 : fld x 19 5 = 0#5), (e6 : fld x 24 6 = 51#6), (e7 : fld x 30 1 = BitVec.ofBool sp), (e8 : fld x 31 1 = 0#1), -⟩ := fmt23 sp ra ord rb 4 0 0 51 0 hx rfl
  delta decodeC; rw [e6]; change (if fld x 31 1 = 1 then Except.error DecodeError.literalNotAccepted else decodeC33 x) = _
  rw [if_neg (by rw [e8]; decide)]; delta decodeC33; rw [e0]; change (if fld x 4 1 = 0 then if fld x 19 5 = 0 then Except.ok (Instr.cln (fld x 30 1 == 1) (fld x 14 5) (fld x 10 4) (fld x 5 5)) else Except.error DecodeError.reservedField else Except.error DecodeError.reservedField) = _
  simp [e1, e2, e3, e4, e5, e7, sbit_of]

theorem inv (sp : Bool) (ra : BitVec 5) (ord : BitVec 4) (rb : BitVec 5) : Statement (.inv sp ra ord rb) := by
  refine roundTrip_of_C rfl rfl fun x hx => ?_
  obtain ⟨(e0 : fld x 0 4 = 5#4), (e1 : fld x 4 1 = 0#1), (e2 : fld x 5 5 = rb), (e3 : fld x 10 4 = ord), (e4 : fld x 14 5 = ra), (e5 : fld x 19 5 = 0#5), (e6 : fld x 24 6 = 51#6), (e7 : fld x 30 1 = BitVec.ofBool sp), (e8 : fld x 31 1 = 0#1), -⟩ := fmt23 sp ra ord rb 5 0 0 51 0 hx rfl
  delta decodeC; rw [e6]; change (if fld x 31 1 = 1 then Except.error DecodeError.literalNotAccepted else decodeC33 x) = _
  rw [if_neg (by rw [e8]; decide)]; delta decodeC33; rw [e0]; change (if fld x 4 1 = 0 then if fld x 19 5 = 0 then Except.ok (Instr.inv (fld x 30 1 == 1) (fld x 14 5) (fld x 10 4) (fld x 5 5)) else Except.error DecodeError.reservedField else Except.error DecodeError.reservedField) = _
  simp [e1, e2, e3, e4, e5, e7, sbit_of]

theorem setc (sp : Bool) (ra : BitVec 5) (ctr : BitVec 6) : Statement (.setc sp ra ctr) := by
  refine roundTrip_of_C rfl rfl fun x hx => ?_
  obtain ⟨(e0 : fld x 0 4 = 0#4), (e1 : fld x 4 4 = 0#4), (e2 : fld x 8 6 = ctr), (e3 : fld x 14 5 = ra), (e4 : fld x 19 5 = 0#5), (e5 : fld x 24 6 = 56#6), (e6 : fld x 30 1 = BitVec.ofBool sp), (e7 : fld x 31 1 = 0#1), -⟩ := fmt25 sp ra ctr 0 0 0 56 0 hx rfl
  delta decodeC; rw [e5]; change (if fld x 31 1 = 1 then Except.error DecodeError.literalNotAccepted else decodeC38 x) = _
  rw [if_neg (by rw [e7]; decide)]; delta decodeC38; rw [e0]; change (if fld x 4 4 = 0 then if fld x 19 5 = 0 then Except.ok (Instr.setc (fld x 30 1 == 1) (fld x 14 5) (fld x 8 6)) else Except.error DecodeError.reservedField else Except.error DecodeError.reservedField) = _
  simp [e1, e2, e3, e4, e6, sbit_of]

theorem decc (sp : Bool) (ra : BitVec 5) (ctr : BitVec 6) : Statement (.decc sp ra ctr) := by
  refine roundTrip_of_C rfl rfl fun x hx => ?_
  obtain ⟨(e0 : fld x 0 4 = 1#4), (e1 : fld x 4 4 = 0#4), (e2 : fld x 8 6 = ctr), (e3 : fld x 14 5 = ra), (e4 : fld x 19 5 = 0#5), (e5 : fld x 24 6 = 56#6), (e6 : fld x 30 1 = BitVec.ofBool sp), (e7 : fld x 31 1 = 0#1), -⟩ := fmt25 sp ra ctr 1 0 0 56 0 hx rfl
  delta decodeC; rw [e5]; change (if fld x 31 1 = 1 then Except.error DecodeError.literalNotAccepted else decodeC38 x) = _
  rw [if_neg (by rw [e7]; decide)]; delta decodeC38; rw [e0]; change (if fld x 4 4 = 0 then if fld x 19 5 = 0 then Except.ok (Instr.decc (fld x 30 1 == 1) (fld x 14 5) (fld x 8 6)) else Except.error DecodeError.reservedField else Except.error DecodeError.reservedField) = _
  simp [e1, e2, e3, e4, e6, sbit_of]

theorem getc (sp : Bool) (rd : BitVec 5) (ctr : BitVec 6) : Statement (.getc sp rd ctr) := by
  refine roundTrip_of_C rfl rfl fun x hx => ?_
  obtain ⟨(e0 : fld x 0 4 = 2#4), (e1 : fld x 4 4 = 0#4), (e2 : fld x 8 6 = ctr), (e3 : fld x 14 5 = 0#5), (e4 : fld x 19 5 = rd), (e5 : fld x 24 6 = 56#6), (e6 : fld x 30 1 = BitVec.ofBool sp), (e7 : fld x 31 1 = 0#1), -⟩ := fmt26 sp rd ctr 2 0 0 56 0 hx rfl
  delta decodeC; rw [e5]; change (if fld x 31 1 = 1 then Except.error DecodeError.literalNotAccepted else decodeC38 x) = _
  rw [if_neg (by rw [e7]; decide)]; delta decodeC38; rw [e0]; change (if fld x 4 4 = 0 then if fld x 14 5 = 0 then Except.ok (Instr.getc (fld x 30 1 == 1) (fld x 19 5) (fld x 8 6)) else Except.error DecodeError.reservedField else Except.error DecodeError.reservedField) = _
  simp [e1, e2, e3, e4, e6, sbit_of]

theorem waitc (sp : Bool) (rd : BitVec 5) (ctr : BitVec 6) : Statement (.waitc sp rd ctr) := by
  refine roundTrip_of_C rfl rfl fun x hx => ?_
  obtain ⟨(e0 : fld x 0 4 = 3#4), (e1 : fld x 4 4 = 0#4), (e2 : fld x 8 6 = ctr), (e3 : fld x 14 5 = 0#5), (e4 : fld x 19 5 = rd), (e5 : fld x 24 6 = 56#6), (e6 : fld x 30 1 = BitVec.ofBool sp), (e7 : fld x 31 1 = 0#1), -⟩ := fmt26 sp rd ctr 3 0 0 56 0 hx rfl
  delta decodeC; rw [e5]; change (if fld x 31 1 = 1 then Except.error DecodeError.literalNotAccepted else decodeC38 x) = _
  rw [if_neg (by rw [e7]; decide)]; delta decodeC38; rw [e0]; change (if fld x 4 4 = 0 then if fld x 14 5 = 0 then Except.ok (Instr.waitc (fld x 30 1 == 1) (fld x 19 5) (fld x 8 6)) else Except.error DecodeError.reservedField else Except.error DecodeError.reservedField) = _
  simp [e1, e2, e3, e4, e6, sbit_of]

theorem bindc (sp : Bool) (rd : BitVec 5) (ra : BitVec 5) (ctr : BitVec 6) : Statement (.bindc sp rd ra ctr) := by
  refine roundTrip_of_C rfl rfl fun x hx => ?_
  obtain ⟨(e0 : fld x 0 4 = 4#4), (e1 : fld x 4 4 = 0#4), (e2 : fld x 8 6 = ctr), (e3 : fld x 14 5 = ra), (e4 : fld x 19 5 = rd), (e5 : fld x 24 6 = 56#6), (e6 : fld x 30 1 = BitVec.ofBool sp), (e7 : fld x 31 1 = 0#1), -⟩ := fmt27 sp rd ra ctr 4 0 56 0 hx rfl
  delta decodeC; rw [e5]; change (if fld x 31 1 = 1 then Except.error DecodeError.literalNotAccepted else decodeC38 x) = _
  rw [if_neg (by rw [e7]; decide)]; delta decodeC38; rw [e0]; change (if fld x 4 4 = 0 then Except.ok (Instr.bindc (fld x 30 1 == 1) (fld x 19 5) (fld x 14 5) (fld x 8 6)) else Except.error DecodeError.reservedField) = _
  simp [e1, e2, e3, e4, e6, sbit_of]

theorem exit (sp : Bool) : Statement (.exit sp) := by
  refine roundTrip_of_C rfl rfl fun x hx => ?_
  obtain ⟨(e0 : fld x 0 4 = 5#4), (e1 : fld x 4 20 = 0#20), (e2 : fld x 24 6 = 56#6), (e3 : fld x 30 1 = BitVec.ofBool sp), (e4 : fld x 31 1 = 0#1), -⟩ := fmt28 sp 5 0 56 0 hx rfl
  delta decodeC; rw [e2]; change (if fld x 31 1 = 1 then Except.error DecodeError.literalNotAccepted else decodeC38 x) = _
  rw [if_neg (by rw [e4]; decide)]; delta decodeC38; rw [e0]; change (if fld x 4 20 = 0 then Except.ok (Instr.exit (fld x 30 1 == 1)) else Except.error DecodeError.reservedField) = _
  simp [e1, e3, sbit_of]

theorem yield (sp : Bool) : Statement (.yield sp) := by
  refine roundTrip_of_C rfl rfl fun x hx => ?_
  obtain ⟨(e0 : fld x 0 4 = 6#4), (e1 : fld x 4 20 = 0#20), (e2 : fld x 24 6 = 56#6), (e3 : fld x 30 1 = BitVec.ofBool sp), (e4 : fld x 31 1 = 0#1), -⟩ := fmt28 sp 6 0 56 0 hx rfl
  delta decodeC; rw [e2]; change (if fld x 31 1 = 1 then Except.error DecodeError.literalNotAccepted else decodeC38 x) = _
  rw [if_neg (by rw [e4]; decide)]; delta decodeC38; rw [e0]; change (if fld x 4 20 = 0 then Except.ok (Instr.yield (fld x 30 1 == 1)) else Except.error DecodeError.reservedField) = _
  simp [e1, e3, sbit_of]

theorem launch (sp : Bool) (rd : BitVec 5) (ra : BitVec 5) : Statement (.launch sp rd ra) := by
  refine roundTrip_of_C rfl rfl fun x hx => ?_
  obtain ⟨(e0 : fld x 0 4 = 7#4), (e1 : fld x 4 10 = 0#10), (e2 : fld x 14 5 = ra), (e3 : fld x 19 5 = rd), (e4 : fld x 24 6 = 56#6), (e5 : fld x 30 1 = BitVec.ofBool sp), (e6 : fld x 31 1 = 0#1), -⟩ := fmt29 sp rd ra 7 0 56 0 hx rfl
  delta decodeC; rw [e4]; change (if fld x 31 1 = 1 then Except.error DecodeError.literalNotAccepted else decodeC38 x) = _
  rw [if_neg (by rw [e6]; decide)]; delta decodeC38; rw [e0]; change (if fld x 4 10 = 0 then Except.ok (Instr.launch (fld x 30 1 == 1) (fld x 19 5) (fld x 14 5)) else Except.error DecodeError.reservedField) = _
  simp [e1, e2, e3, e5, sbit_of]

theorem cancel (sp : Bool) (rd : BitVec 5) (ra : BitVec 5) (op : BitVec 4) : Statement (.cancel sp rd ra op) := by
  refine roundTrip_of_C rfl rfl fun x hx => ?_
  obtain ⟨(e0 : fld x 0 4 = 8#4), (e1 : fld x 4 4 = op), (e2 : fld x 8 6 = 0#6), (e3 : fld x 14 5 = ra), (e4 : fld x 19 5 = rd), (e5 : fld x 24 6 = 56#6), (e6 : fld x 30 1 = BitVec.ofBool sp), (e7 : fld x 31 1 = 0#1), -⟩ := fmt30 sp rd ra op 8 0 56 0 hx rfl
  delta decodeC; rw [e5]; change (if fld x 31 1 = 1 then Except.error DecodeError.literalNotAccepted else decodeC38 x) = _
  rw [if_neg (by rw [e7]; decide)]; delta decodeC38; rw [e0]; change (if fld x 8 6 = 0 then Except.ok (Instr.cancel (fld x 30 1 == 1) (fld x 19 5) (fld x 14 5) (fld x 4 4)) else Except.error DecodeError.reservedField) = _
  simp [e1, e2, e3, e4, e6, sbit_of]

theorem bar (sp : Bool) (ra : BitVec 5) (bar : BitVec 3) : Statement (.bar sp ra bar) := by
  refine roundTrip_of_C rfl rfl fun x hx => ?_
  obtain ⟨(e0 : fld x 0 4 = 9#4), (e1 : fld x 4 3 = bar), (e2 : fld x 7 7 = 0#7), (e3 : fld x 14 5 = ra), (e4 : fld x 19 5 = 0#5), (e5 : fld x 24 6 = 56#6), (e6 : fld x 30 1 = BitVec.ofBool sp), (e7 : fld x 31 1 = 0#1), -⟩ := fmt31 sp ra bar 9 0 0 56 0 hx rfl
  delta decodeC; rw [e5]; change (if fld x 31 1 = 1 then Except.error DecodeError.literalNotAccepted else decodeC38 x) = _
  rw [if_neg (by rw [e7]; decide)]; delta decodeC38; rw [e0]; change (if fld x 7 7 = 0 then if fld x 19 5 = 0 then Except.ok (Instr.bar (fld x 30 1 == 1) (fld x 14 5) (fld x 4 3)) else Except.error DecodeError.reservedField else Except.error DecodeError.reservedField) = _
  simp [e1, e2, e3, e4, e6, sbit_of]

theorem send (sp : Bool) (ra : BitVec 5) (rb : BitVec 5) (vp : BitVec 5) : Statement (.send sp ra rb vp) := by
  refine roundTrip_of_C rfl rfl fun x hx => ?_
  obtain ⟨(e0 : fld x 0 4 = 0#4), (e1 : fld x 4 5 = vp), (e2 : fld x 9 5 = rb), (e3 : fld x 14 5 = ra), (e4 : fld x 19 5 = 0#5), (e5 : fld x 24 6 = 57#6), (e6 : fld x 30 1 = BitVec.ofBool sp), (e7 : fld x 31 1 = 0#1), -⟩ := fmt32 sp ra rb vp 0 0 57 0 hx rfl
  delta decodeC; rw [e5]; change (if fld x 31 1 = 1 then Except.error DecodeError.literalNotAccepted else decodeC39 x) = _
  rw [if_neg (by rw [e7]; decide)]; delta decodeC39; rw [e0]; change (if fld x 19 5 = 0 then Except.ok (Instr.send (fld x 30 1 == 1) (fld x 14 5) (fld x 9 5) (fld x 4 5)) else Except.error DecodeError.reservedField) = _
  simp [e1, e2, e3, e4, e6, sbit_of]

theorem sendx (sp : Bool) (rp : BitVec 5) (ra : BitVec 5) (rb : BitVec 5) : Statement (.sendx sp rp ra rb) := by
  refine roundTrip_of_C rfl rfl fun x hx => ?_
  obtain ⟨(e0 : fld x 0 4 = 1#4), (e1 : fld x 4 5 = 0#5), (e2 : fld x 9 5 = rb), (e3 : fld x 14 5 = ra), (e4 : fld x 19 5 = rp), (e5 : fld x 24 6 = 57#6), (e6 : fld x 30 1 = BitVec.ofBool sp), (e7 : fld x 31 1 = 0#1), -⟩ := fmt33 sp rp ra rb 1 0 57 0 hx rfl
  delta decodeC; rw [e5]; change (if fld x 31 1 = 1 then Except.error DecodeError.literalNotAccepted else decodeC39 x) = _
  rw [if_neg (by rw [e7]; decide)]; delta decodeC39; rw [e0]; change (if fld x 4 5 = 0 then Except.ok (Instr.sendx (fld x 30 1 == 1) (fld x 19 5) (fld x 14 5) (fld x 9 5)) else Except.error DecodeError.reservedField) = _
  simp [e1, e2, e3, e4, e6, sbit_of]

theorem qstat (sp : Bool) (rd : BitVec 5) (q : BitVec 5) : Statement (.qstat sp rd q) := by
  refine roundTrip_of_C rfl rfl fun x hx => ?_
  obtain ⟨(e0 : fld x 0 4 = 2#4), (e1 : fld x 4 5 = q), (e2 : fld x 9 10 = 0#10), (e3 : fld x 19 5 = rd), (e4 : fld x 24 6 = 57#6), (e5 : fld x 30 1 = BitVec.ofBool sp), (e6 : fld x 31 1 = 0#1), -⟩ := fmt34 sp rd q 2 0 57 0 hx rfl
  delta decodeC; rw [e4]; change (if fld x 31 1 = 1 then Except.error DecodeError.literalNotAccepted else decodeC39 x) = _
  rw [if_neg (by rw [e6]; decide)]; delta decodeC39; rw [e0]; change (if fld x 9 10 = 0 then Except.ok (Instr.qstat (fld x 30 1 == 1) (fld x 19 5) (fld x 4 5)) else Except.error DecodeError.reservedField) = _
  simp [e1, e2, e3, e5, sbit_of]

theorem qresv (sp : Bool) (rd : BitVec 5) (ra : BitVec 5) (rb : BitVec 5) : Statement (.qresv sp rd ra rb) := by
  refine roundTrip_of_C rfl rfl fun x hx => ?_
  obtain ⟨(e0 : fld x 0 4 = 3#4), (e1 : fld x 4 5 = 0#5), (e2 : fld x 9 5 = rb), (e3 : fld x 14 5 = ra), (e4 : fld x 19 5 = rd), (e5 : fld x 24 6 = 57#6), (e6 : fld x 30 1 = BitVec.ofBool sp), (e7 : fld x 31 1 = 0#1), -⟩ := fmt33 sp rd ra rb 3 0 57 0 hx rfl
  delta decodeC; rw [e5]; change (if fld x 31 1 = 1 then Except.error DecodeError.literalNotAccepted else decodeC39 x) = _
  rw [if_neg (by rw [e7]; decide)]; delta decodeC39; rw [e0]; change (if fld x 4 5 = 0 then Except.ok (Instr.qresv (fld x 30 1 == 1) (fld x 19 5) (fld x 14 5) (fld x 9 5)) else Except.error DecodeError.reservedField) = _
  simp [e1, e2, e3, e4, e6, sbit_of]

theorem enq (sp : Bool) (rd : BitVec 5) (ra : BitVec 5) (rb : BitVec 5) (eng : BitVec 5) : Statement (.enq sp rd ra rb eng) := by
  refine roundTrip_of_C rfl rfl fun x hx => ?_
  obtain ⟨(e0 : fld x 0 4 = 4#4), (e1 : fld x 4 5 = eng), (e2 : fld x 9 5 = rb), (e3 : fld x 14 5 = ra), (e4 : fld x 19 5 = rd), (e5 : fld x 24 6 = 57#6), (e6 : fld x 30 1 = BitVec.ofBool sp), (e7 : fld x 31 1 = 0#1), -⟩ := fmt35 sp rd ra rb eng 4 57 0 hx rfl
  delta decodeC; rw [e5]; change (if fld x 31 1 = 1 then Except.error DecodeError.literalNotAccepted else decodeC39 x) = _
  rw [if_neg (by rw [e7]; decide)]; delta decodeC39; rw [e0]; change (Except.ok (Instr.enq (fld x 30 1 == 1) (fld x 19 5) (fld x 14 5) (fld x 9 5) (fld x 4 5))) = _
  simp [e1, e2, e3, e4, e6, sbit_of]

theorem jobq (sp : Bool) (rd : BitVec 5) (ra : BitVec 5) : Statement (.jobq sp rd ra) := by
  refine roundTrip_of_C rfl rfl fun x hx => ?_
  obtain ⟨(e0 : fld x 0 4 = 5#4), (e1 : fld x 4 10 = 0#10), (e2 : fld x 14 5 = ra), (e3 : fld x 19 5 = rd), (e4 : fld x 24 6 = 57#6), (e5 : fld x 30 1 = BitVec.ofBool sp), (e6 : fld x 31 1 = 0#1), -⟩ := fmt29 sp rd ra 5 0 57 0 hx rfl
  delta decodeC; rw [e4]; change (if fld x 31 1 = 1 then Except.error DecodeError.literalNotAccepted else decodeC39 x) = _
  rw [if_neg (by rw [e6]; decide)]; delta decodeC39; rw [e0]; change (if fld x 4 10 = 0 then Except.ok (Instr.jobq (fld x 30 1 == 1) (fld x 19 5) (fld x 14 5)) else Except.error DecodeError.reservedField) = _
  simp [e1, e2, e3, e5, sbit_of]

theorem jobw (sp : Bool) (rd : BitVec 5) (ra : BitVec 5) : Statement (.jobw sp rd ra) := by
  refine roundTrip_of_C rfl rfl fun x hx => ?_
  obtain ⟨(e0 : fld x 0 4 = 6#4), (e1 : fld x 4 10 = 0#10), (e2 : fld x 14 5 = ra), (e3 : fld x 19 5 = rd), (e4 : fld x 24 6 = 57#6), (e5 : fld x 30 1 = BitVec.ofBool sp), (e6 : fld x 31 1 = 0#1), -⟩ := fmt29 sp rd ra 6 0 57 0 hx rfl
  delta decodeC; rw [e4]; change (if fld x 31 1 = 1 then Except.error DecodeError.literalNotAccepted else decodeC39 x) = _
  rw [if_neg (by rw [e6]; decide)]; delta decodeC39; rw [e0]; change (if fld x 4 10 = 0 then Except.ok (Instr.jobw (fld x 30 1 == 1) (fld x 19 5) (fld x 14 5)) else Except.error DecodeError.reservedField) = _
  simp [e1, e2, e3, e5, sbit_of]

theorem glean (sp : Bool) (rd : BitVec 5) (ra : BitVec 5) : Statement (.glean sp rd ra) := by
  refine roundTrip_of_C rfl rfl fun x hx => ?_
  obtain ⟨(e0 : fld x 0 4 = 0#4), (e1 : fld x 4 10 = 0#10), (e2 : fld x 14 5 = ra), (e3 : fld x 19 5 = rd), (e4 : fld x 24 6 = 58#6), (e5 : fld x 30 1 = BitVec.ofBool sp), (e6 : fld x 31 1 = 0#1), -⟩ := fmt29 sp rd ra 0 0 58 0 hx rfl
  delta decodeC; rw [e4]; change (if fld x 31 1 = 1 then Except.error DecodeError.literalNotAccepted else decodeC3A x) = _
  rw [if_neg (by rw [e6]; decide)]; delta decodeC3A; rw [e0]; change (if fld x 4 10 = 0 then Except.ok (Instr.glean (fld x 30 1 == 1) (fld x 19 5) (fld x 14 5)) else Except.error DecodeError.reservedField) = _
  simp [e1, e2, e3, e5, sbit_of]

theorem gstat (sp : Bool) (rd : BitVec 5) (ra : BitVec 5) (op : BitVec 5) : Statement (.gstat sp rd ra op) := by
  refine roundTrip_of_C rfl rfl fun x hx => ?_
  obtain ⟨(e0 : fld x 0 4 = 1#4), (e1 : fld x 4 5 = op), (e2 : fld x 9 5 = 0#5), (e3 : fld x 14 5 = ra), (e4 : fld x 19 5 = rd), (e5 : fld x 24 6 = 58#6), (e6 : fld x 30 1 = BitVec.ofBool sp), (e7 : fld x 31 1 = 0#1), -⟩ := fmt36 sp rd ra op 1 0 58 0 hx rfl
  delta decodeC; rw [e5]; change (if fld x 31 1 = 1 then Except.error DecodeError.literalNotAccepted else decodeC3A x) = _
  rw [if_neg (by rw [e7]; decide)]; delta decodeC3A; rw [e0]; change (if fld x 9 5 = 0 then Except.ok (Instr.gstat (fld x 30 1 == 1) (fld x 19 5) (fld x 14 5) (fld x 4 5)) else Except.error DecodeError.reservedField) = _
  simp [e1, e2, e3, e4, e6, sbit_of]

theorem ydecl (sp : Bool) (rd : BitVec 5) (ra : BitVec 5) : Statement (.ydecl sp rd ra) := by
  refine roundTrip_of_C rfl rfl fun x hx => ?_
  obtain ⟨(e0 : fld x 0 4 = 2#4), (e1 : fld x 4 10 = 0#10), (e2 : fld x 14 5 = ra), (e3 : fld x 19 5 = rd), (e4 : fld x 24 6 = 58#6), (e5 : fld x 30 1 = BitVec.ofBool sp), (e6 : fld x 31 1 = 0#1), -⟩ := fmt29 sp rd ra 2 0 58 0 hx rfl
  delta decodeC; rw [e4]; change (if fld x 31 1 = 1 then Except.error DecodeError.literalNotAccepted else decodeC3A x) = _
  rw [if_neg (by rw [e6]; decide)]; delta decodeC3A; rw [e0]; change (if fld x 4 10 = 0 then Except.ok (Instr.ydecl (fld x 30 1 == 1) (fld x 19 5) (fld x 14 5)) else Except.error DecodeError.reservedField) = _
  simp [e1, e2, e3, e5, sbit_of]

theorem plbinv (sp : Bool) (rd : BitVec 5) (ra : BitVec 5) (rb : BitVec 5) (f : BitVec 5) : Statement (.plbinv sp rd ra rb f) := by
  refine roundTrip_of_C rfl rfl fun x hx => ?_
  obtain ⟨(e0 : fld x 0 4 = 0#4), (e1 : fld x 4 5 = f), (e2 : fld x 9 5 = rb), (e3 : fld x 14 5 = ra), (e4 : fld x 19 5 = rd), (e5 : fld x 24 6 = 59#6), (e6 : fld x 30 1 = BitVec.ofBool sp), (e7 : fld x 31 1 = 0#1), -⟩ := fmt35 sp rd ra rb f 0 59 0 hx rfl
  delta decodeC; rw [e5]; change (if fld x 31 1 = 1 then Except.error DecodeError.literalNotAccepted else decodeC3B x) = _
  rw [if_neg (by rw [e7]; decide)]; delta decodeC3B; rw [e0]; change (Except.ok (Instr.plbinv (fld x 30 1 == 1) (fld x 19 5) (fld x 14 5) (fld x 9 5) (fld x 4 5))) = _
  simp [e1, e2, e3, e4, e6, sbit_of]

theorem htw (sp : Bool) (rd : BitVec 5) (ra : BitVec 5) (rb : BitVec 5) : Statement (.htw sp rd ra rb) := by
  refine roundTrip_of_C rfl rfl fun x hx => ?_
  obtain ⟨(e0 : fld x 0 4 = 1#4), (e1 : fld x 4 5 = 0#5), (e2 : fld x 9 5 = rb), (e3 : fld x 14 5 = ra), (e4 : fld x 19 5 = rd), (e5 : fld x 24 6 = 59#6), (e6 : fld x 30 1 = BitVec.ofBool sp), (e7 : fld x 31 1 = 0#1), -⟩ := fmt33 sp rd ra rb 1 0 59 0 hx rfl
  delta decodeC; rw [e5]; change (if fld x 31 1 = 1 then Except.error DecodeError.literalNotAccepted else decodeC3B x) = _
  rw [if_neg (by rw [e7]; decide)]; delta decodeC3B; rw [e0]; change (if fld x 4 5 = 0 then Except.ok (Instr.htw (fld x 30 1 == 1) (fld x 19 5) (fld x 14 5) (fld x 9 5)) else Except.error DecodeError.reservedField) = _
  simp [e1, e2, e3, e4, e6, sbit_of]

theorem wmap (sp : Bool) (rd : BitVec 5) (ra : BitVec 5) (rb : BitVec 5) (n : BitVec 5) : Statement (.wmap sp rd ra rb n) := by
  refine roundTrip_of_C rfl rfl fun x hx => ?_
  obtain ⟨(e0 : fld x 0 4 = 2#4), (e1 : fld x 4 5 = n), (e2 : fld x 9 5 = rb), (e3 : fld x 14 5 = ra), (e4 : fld x 19 5 = rd), (e5 : fld x 24 6 = 59#6), (e6 : fld x 30 1 = BitVec.ofBool sp), (e7 : fld x 31 1 = 0#1), -⟩ := fmt35 sp rd ra rb n 2 59 0 hx rfl
  delta decodeC; rw [e5]; change (if fld x 31 1 = 1 then Except.error DecodeError.literalNotAccepted else decodeC3B x) = _
  rw [if_neg (by rw [e7]; decide)]; delta decodeC3B; rw [e0]; change (Except.ok (Instr.wmap (fld x 30 1 == 1) (fld x 19 5) (fld x 14 5) (fld x 9 5) (fld x 4 5))) = _
  simp [e1, e2, e3, e4, e6, sbit_of]

theorem wunmap (sp : Bool) (rd : BitVec 5) (rb : BitVec 5) (n : BitVec 5) : Statement (.wunmap sp rd rb n) := by
  refine roundTrip_of_C rfl rfl fun x hx => ?_
  obtain ⟨(e0 : fld x 0 4 = 3#4), (e1 : fld x 4 5 = n), (e2 : fld x 9 5 = rb), (e3 : fld x 14 5 = 0#5), (e4 : fld x 19 5 = rd), (e5 : fld x 24 6 = 59#6), (e6 : fld x 30 1 = BitVec.ofBool sp), (e7 : fld x 31 1 = 0#1), -⟩ := fmt37 sp rd rb n 3 0 59 0 hx rfl
  delta decodeC; rw [e5]; change (if fld x 31 1 = 1 then Except.error DecodeError.literalNotAccepted else decodeC3B x) = _
  rw [if_neg (by rw [e7]; decide)]; delta decodeC3B; rw [e0]; change (if fld x 14 5 = 0 then Except.ok (Instr.wunmap (fld x 30 1 == 1) (fld x 19 5) (fld x 9 5) (fld x 4 5)) else Except.error DecodeError.reservedField) = _
  simp [e1, e2, e3, e4, e6, sbit_of]

theorem cbld (sp : Bool) (ra : BitVec 5) (bank : BitVec 5) : Statement (.cbld sp ra bank) := by
  refine roundTrip_of_C rfl rfl fun x hx => ?_
  obtain ⟨(e0 : fld x 0 4 = 4#4), (e1 : fld x 4 5 = bank), (e2 : fld x 9 5 = 0#5), (e3 : fld x 14 5 = ra), (e4 : fld x 19 5 = 0#5), (e5 : fld x 24 6 = 59#6), (e6 : fld x 30 1 = BitVec.ofBool sp), (e7 : fld x 31 1 = 0#1), -⟩ := fmt38 sp ra bank 4 0 0 59 0 hx rfl
  delta decodeC; rw [e5]; change (if fld x 31 1 = 1 then Except.error DecodeError.literalNotAccepted else decodeC3B x) = _
  rw [if_neg (by rw [e7]; decide)]; delta decodeC3B; rw [e0]; change (if fld x 9 5 = 0 then if fld x 19 5 = 0 then Except.ok (Instr.cbld (fld x 30 1 == 1) (fld x 14 5) (fld x 4 5)) else Except.error DecodeError.reservedField else Except.error DecodeError.reservedField) = _
  simp [e1, e2, e3, e4, e6, sbit_of]

theorem syr (sp : Bool) (rd : BitVec 5) (num : BitVec 10) : Statement (.syr sp rd num) := by
  refine roundTrip_of_C rfl rfl fun x hx => ?_
  obtain ⟨(e0 : fld x 0 4 = 0#4), (e1 : fld x 4 10 = num), (e2 : fld x 14 5 = 0#5), (e3 : fld x 19 5 = rd), (e4 : fld x 24 6 = 60#6), (e5 : fld x 30 1 = BitVec.ofBool sp), (e6 : fld x 31 1 = 0#1), -⟩ := fmt39 sp rd num 0 0 60 0 hx rfl
  delta decodeC; rw [e4]; change (if fld x 31 1 = 1 then Except.error DecodeError.literalNotAccepted else decodeC3C x) = _
  rw [if_neg (by rw [e6]; decide)]; delta decodeC3C; rw [e0]; change (if fld x 14 5 = 0 then Except.ok (Instr.syr (fld x 30 1 == 1) (fld x 19 5) (fld x 4 10)) else Except.error DecodeError.reservedField) = _
  simp [e1, e2, e3, e5, sbit_of]

theorem syw (sp : Bool) (ra : BitVec 5) (num : BitVec 10) : Statement (.syw sp ra num) := by
  refine roundTrip_of_C rfl rfl fun x hx => ?_
  obtain ⟨(e0 : fld x 0 4 = 1#4), (e1 : fld x 4 10 = num), (e2 : fld x 14 5 = ra), (e3 : fld x 19 5 = 0#5), (e4 : fld x 24 6 = 60#6), (e5 : fld x 30 1 = BitVec.ofBool sp), (e6 : fld x 31 1 = 0#1), -⟩ := fmt40 sp ra num 1 0 60 0 hx rfl
  delta decodeC; rw [e4]; change (if fld x 31 1 = 1 then Except.error DecodeError.literalNotAccepted else decodeC3C x) = _
  rw [if_neg (by rw [e6]; decide)]; delta decodeC3C; rw [e0]; change (if fld x 19 5 = 0 then Except.ok (Instr.syw (fld x 30 1 == 1) (fld x 14 5) (fld x 4 10)) else Except.error DecodeError.reservedField) = _
  simp [e1, e2, e3, e5, sbit_of]

theorem trap (sp : Bool) (ra : BitVec 5) (code : BitVec 10) : Statement (.trap sp ra code) := by
  refine roundTrip_of_C rfl rfl fun x hx => ?_
  obtain ⟨(e0 : fld x 0 4 = 2#4), (e1 : fld x 4 10 = code), (e2 : fld x 14 5 = ra), (e3 : fld x 19 5 = 0#5), (e4 : fld x 24 6 = 60#6), (e5 : fld x 30 1 = BitVec.ofBool sp), (e6 : fld x 31 1 = 0#1), -⟩ := fmt40 sp ra code 2 0 60 0 hx rfl
  delta decodeC; rw [e4]; change (if fld x 31 1 = 1 then Except.error DecodeError.literalNotAccepted else decodeC3C x) = _
  rw [if_neg (by rw [e6]; decide)]; delta decodeC3C; rw [e0]; change (if fld x 19 5 = 0 then Except.ok (Instr.trap (fld x 30 1 == 1) (fld x 14 5) (fld x 4 10)) else Except.error DecodeError.reservedField) = _
  simp [e1, e2, e3, e5, sbit_of]

theorem brk (sp : Bool) (code : BitVec 10) : Statement (.brk sp code) := by
  refine roundTrip_of_C rfl rfl fun x hx => ?_
  obtain ⟨(e0 : fld x 0 4 = 3#4), (e1 : fld x 4 10 = code), (e2 : fld x 14 10 = 0#10), (e3 : fld x 24 6 = 60#6), (e4 : fld x 30 1 = BitVec.ofBool sp), (e5 : fld x 31 1 = 0#1), -⟩ := fmt41 sp code 3 0 60 0 hx rfl
  delta decodeC; rw [e3]; change (if fld x 31 1 = 1 then Except.error DecodeError.literalNotAccepted else decodeC3C x) = _
  rw [if_neg (by rw [e5]; decide)]; delta decodeC3C; rw [e0]; change (if fld x 14 10 = 0 then Except.ok (Instr.brk (fld x 30 1 == 1) (fld x 4 10)) else Except.error DecodeError.reservedField) = _
  simp [e1, e2, e4, sbit_of]

theorem waite (sp : Bool) (rd : BitVec 5) (ra : BitVec 5) (event : BitVec 10) : Statement (.waite sp rd ra event) := by
  refine roundTrip_of_C rfl rfl fun x hx => ?_
  obtain ⟨(e0 : fld x 0 4 = 4#4), (e1 : fld x 4 10 = event), (e2 : fld x 14 5 = ra), (e3 : fld x 19 5 = rd), (e4 : fld x 24 6 = 60#6), (e5 : fld x 30 1 = BitVec.ofBool sp), (e6 : fld x 31 1 = 0#1), -⟩ := fmt42 sp rd ra event 4 60 0 hx rfl
  delta decodeC; rw [e4]; change (if fld x 31 1 = 1 then Except.error DecodeError.literalNotAccepted else decodeC3C x) = _
  rw [if_neg (by rw [e6]; decide)]; delta decodeC3C; rw [e0]; change (Except.ok (Instr.waite (fld x 30 1 == 1) (fld x 19 5) (fld x 14 5) (fld x 4 10))) = _
  simp [e1, e2, e3, e5, sbit_of]

theorem resume (sp : Bool) (rd : BitVec 5) (ra : BitVec 5) (action : BitVec 10) : Statement (.resume sp rd ra action) := by
  refine roundTrip_of_C rfl rfl fun x hx => ?_
  obtain ⟨(e0 : fld x 0 4 = 5#4), (e1 : fld x 4 10 = action), (e2 : fld x 14 5 = ra), (e3 : fld x 19 5 = rd), (e4 : fld x 24 6 = 60#6), (e5 : fld x 30 1 = BitVec.ofBool sp), (e6 : fld x 31 1 = 0#1), -⟩ := fmt42 sp rd ra action 5 60 0 hx rfl
  delta decodeC; rw [e4]; change (if fld x 31 1 = 1 then Except.error DecodeError.literalNotAccepted else decodeC3C x) = _
  rw [if_neg (by rw [e6]; decide)]; delta decodeC3C; rw [e0]; change (Except.ok (Instr.resume (fld x 30 1 == 1) (fld x 19 5) (fld x 14 5) (fld x 4 10))) = _
  simp [e1, e2, e3, e5, sbit_of]

theorem nopa : Statement (.nopa) := by
  exact roundTrip_of_A rfl rfl fun w hw => by subst hw; rfl

theorem vadd (vd : BitVec 6) (va : BitVec 6) (vb : BitVec 6) (ty : BitVec 4) (rm : BitVec 3) : Statement (.vadd vd va vb ty rm) := by
  refine roundTrip_of_A rfl rfl fun x hx => ?_
  obtain ⟨(e0 : fld x 0 3 = rm), (e1 : fld x 3 4 = ty), (e2 : fld x 7 6 = vb), (e3 : fld x 13 6 = va), (e4 : fld x 19 6 = vd), (e5 : fld x 25 7 = 1#7), -⟩ := fmt43 vd va vb ty rm 1 hx rfl
  delta decodeA; rw [e5]; change (Except.ok (Instr.vadd (fld x 19 6) (fld x 13 6) (fld x 7 6) (fld x 3 4) (fld x 0 3))) = _
  simp [e0, e1, e2, e3, e4]

theorem vsub (vd : BitVec 6) (va : BitVec 6) (vb : BitVec 6) (ty : BitVec 4) (rm : BitVec 3) : Statement (.vsub vd va vb ty rm) := by
  refine roundTrip_of_A rfl rfl fun x hx => ?_
  obtain ⟨(e0 : fld x 0 3 = rm), (e1 : fld x 3 4 = ty), (e2 : fld x 7 6 = vb), (e3 : fld x 13 6 = va), (e4 : fld x 19 6 = vd), (e5 : fld x 25 7 = 2#7), -⟩ := fmt43 vd va vb ty rm 2 hx rfl
  delta decodeA; rw [e5]; change (Except.ok (Instr.vsub (fld x 19 6) (fld x 13 6) (fld x 7 6) (fld x 3 4) (fld x 0 3))) = _
  simp [e0, e1, e2, e3, e4]

theorem vmul (vd : BitVec 6) (va : BitVec 6) (vb : BitVec 6) (ty : BitVec 4) (rm : BitVec 3) : Statement (.vmul vd va vb ty rm) := by
  refine roundTrip_of_A rfl rfl fun x hx => ?_
  obtain ⟨(e0 : fld x 0 3 = rm), (e1 : fld x 3 4 = ty), (e2 : fld x 7 6 = vb), (e3 : fld x 13 6 = va), (e4 : fld x 19 6 = vd), (e5 : fld x 25 7 = 3#7), -⟩ := fmt43 vd va vb ty rm 3 hx rfl
  delta decodeA; rw [e5]; change (Except.ok (Instr.vmul (fld x 19 6) (fld x 13 6) (fld x 7 6) (fld x 3 4) (fld x 0 3))) = _
  simp [e0, e1, e2, e3, e4]

theorem vfma (vd : BitVec 5) (va : BitVec 6) (vb : BitVec 6) (ty : BitVec 4) (rm : BitVec 3) : Statement (.vfma vd va vb ty rm) := by
  refine roundTrip_of_A rfl rfl fun x hx => ?_
  obtain ⟨(e0 : fld x 0 3 = rm), (e1 : fld x 3 4 = ty), (e2 : fld x 7 6 = vb), (e3 : fld x 13 6 = va), (e4 : fld x 19 5 = vd), (e5 : fld x 24 1 = 0#1), (e6 : fld x 25 7 = 4#7), -⟩ := fmt44 vd va vb ty rm 0 4 hx rfl
  delta decodeA; rw [e6]; change (if fld x 24 1 = 0 then Except.ok (Instr.vfma (fld x 19 5) (fld x 13 6) (fld x 7 6) (fld x 3 4) (fld x 0 3)) else Except.error DecodeError.reservedField) = _
  simp [e0, e1, e2, e3, e4, e5]

theorem vfms (vd : BitVec 5) (va : BitVec 6) (vb : BitVec 6) (ty : BitVec 4) (rm : BitVec 3) : Statement (.vfms vd va vb ty rm) := by
  refine roundTrip_of_A rfl rfl fun x hx => ?_
  obtain ⟨(e0 : fld x 0 3 = rm), (e1 : fld x 3 4 = ty), (e2 : fld x 7 6 = vb), (e3 : fld x 13 6 = va), (e4 : fld x 19 5 = vd), (e5 : fld x 24 1 = 0#1), (e6 : fld x 25 7 = 5#7), -⟩ := fmt44 vd va vb ty rm 0 5 hx rfl
  delta decodeA; rw [e6]; change (if fld x 24 1 = 0 then Except.ok (Instr.vfms (fld x 19 5) (fld x 13 6) (fld x 7 6) (fld x 3 4) (fld x 0 3)) else Except.error DecodeError.reservedField) = _
  simp [e0, e1, e2, e3, e4, e5]

theorem vfnma (vd : BitVec 5) (va : BitVec 6) (vb : BitVec 6) (ty : BitVec 4) (rm : BitVec 3) : Statement (.vfnma vd va vb ty rm) := by
  refine roundTrip_of_A rfl rfl fun x hx => ?_
  obtain ⟨(e0 : fld x 0 3 = rm), (e1 : fld x 3 4 = ty), (e2 : fld x 7 6 = vb), (e3 : fld x 13 6 = va), (e4 : fld x 19 5 = vd), (e5 : fld x 24 1 = 0#1), (e6 : fld x 25 7 = 6#7), -⟩ := fmt44 vd va vb ty rm 0 6 hx rfl
  delta decodeA; rw [e6]; change (if fld x 24 1 = 0 then Except.ok (Instr.vfnma (fld x 19 5) (fld x 13 6) (fld x 7 6) (fld x 3 4) (fld x 0 3)) else Except.error DecodeError.reservedField) = _
  simp [e0, e1, e2, e3, e4, e5]

theorem vmin (vd : BitVec 6) (va : BitVec 6) (vb : BitVec 6) (ty : BitVec 4) : Statement (.vmin vd va vb ty) := by
  refine roundTrip_of_A rfl rfl fun x hx => ?_
  obtain ⟨(e0 : fld x 0 3 = 0#3), (e1 : fld x 3 4 = ty), (e2 : fld x 7 6 = vb), (e3 : fld x 13 6 = va), (e4 : fld x 19 6 = vd), (e5 : fld x 25 7 = 7#7), -⟩ := fmt45 vd va vb ty 0 7 hx rfl
  delta decodeA; rw [e5]; change (if fld x 0 3 = 0 then Except.ok (Instr.vmin (fld x 19 6) (fld x 13 6) (fld x 7 6) (fld x 3 4)) else Except.error DecodeError.reservedField) = _
  simp [e0, e1, e2, e3, e4]

theorem vmax (vd : BitVec 6) (va : BitVec 6) (vb : BitVec 6) (ty : BitVec 4) : Statement (.vmax vd va vb ty) := by
  refine roundTrip_of_A rfl rfl fun x hx => ?_
  obtain ⟨(e0 : fld x 0 3 = 0#3), (e1 : fld x 3 4 = ty), (e2 : fld x 7 6 = vb), (e3 : fld x 13 6 = va), (e4 : fld x 19 6 = vd), (e5 : fld x 25 7 = 8#7), -⟩ := fmt45 vd va vb ty 0 8 hx rfl
  delta decodeA; rw [e5]; change (if fld x 0 3 = 0 then Except.ok (Instr.vmax (fld x 19 6) (fld x 13 6) (fld x 7 6) (fld x 3 4)) else Except.error DecodeError.reservedField) = _
  simp [e0, e1, e2, e3, e4]

theorem vabs (vd : BitVec 6) (va : BitVec 6) (ty : BitVec 4) : Statement (.vabs vd va ty) := by
  refine roundTrip_of_A rfl rfl fun x hx => ?_
  obtain ⟨(e0 : fld x 0 3 = 0#3), (e1 : fld x 3 4 = ty), (e2 : fld x 7 6 = 0#6), (e3 : fld x 13 6 = va), (e4 : fld x 19 6 = vd), (e5 : fld x 25 7 = 9#7), -⟩ := fmt46 vd va ty 0 0 9 hx rfl
  delta decodeA; rw [e5]; change (if fld x 0 3 = 0 then if fld x 7 6 = 0 then Except.ok (Instr.vabs (fld x 19 6) (fld x 13 6) (fld x 3 4)) else Except.error DecodeError.reservedField else Except.error DecodeError.reservedField) = _
  simp [e0, e1, e2, e3, e4]

theorem vneg (vd : BitVec 6) (va : BitVec 6) (ty : BitVec 4) : Statement (.vneg vd va ty) := by
  refine roundTrip_of_A rfl rfl fun x hx => ?_
  obtain ⟨(e0 : fld x 0 3 = 0#3), (e1 : fld x 3 4 = ty), (e2 : fld x 7 6 = 0#6), (e3 : fld x 13 6 = va), (e4 : fld x 19 6 = vd), (e5 : fld x 25 7 = 10#7), -⟩ := fmt46 vd va ty 0 0 10 hx rfl
  delta decodeA; rw [e5]; change (if fld x 0 3 = 0 then if fld x 7 6 = 0 then Except.ok (Instr.vneg (fld x 19 6) (fld x 13 6) (fld x 3 4)) else Except.error DecodeError.reservedField else Except.error DecodeError.reservedField) = _
  simp [e0, e1, e2, e3, e4]

theorem vrcp (vd : BitVec 6) (va : BitVec 6) (ty : BitVec 4) (rm : BitVec 3) : Statement (.vrcp vd va ty rm) := by
  refine roundTrip_of_A rfl rfl fun x hx => ?_
  obtain ⟨(e0 : fld x 0 3 = rm), (e1 : fld x 3 4 = ty), (e2 : fld x 7 6 = 0#6), (e3 : fld x 13 6 = va), (e4 : fld x 19 6 = vd), (e5 : fld x 25 7 = 11#7), -⟩ := fmt47 vd va ty rm 0 11 hx rfl
  delta decodeA; rw [e5]; change (if fld x 7 6 = 0 then Except.ok (Instr.vrcp (fld x 19 6) (fld x 13 6) (fld x 3 4) (fld x 0 3)) else Except.error DecodeError.reservedField) = _
  simp [e0, e1, e2, e3, e4]

theorem vrsq (vd : BitVec 6) (va : BitVec 6) (ty : BitVec 4) (rm : BitVec 3) : Statement (.vrsq vd va ty rm) := by
  refine roundTrip_of_A rfl rfl fun x hx => ?_
  obtain ⟨(e0 : fld x 0 3 = rm), (e1 : fld x 3 4 = ty), (e2 : fld x 7 6 = 0#6), (e3 : fld x 13 6 = va), (e4 : fld x 19 6 = vd), (e5 : fld x 25 7 = 12#7), -⟩ := fmt47 vd va ty rm 0 12 hx rfl
  delta decodeA; rw [e5]; change (if fld x 7 6 = 0 then Except.ok (Instr.vrsq (fld x 19 6) (fld x 13 6) (fld x 3 4) (fld x 0 3)) else Except.error DecodeError.reservedField) = _
  simp [e0, e1, e2, e3, e4]

theorem vexp2 (vd : BitVec 6) (va : BitVec 6) (ty : BitVec 4) (rm : BitVec 3) : Statement (.vexp2 vd va ty rm) := by
  refine roundTrip_of_A rfl rfl fun x hx => ?_
  obtain ⟨(e0 : fld x 0 3 = rm), (e1 : fld x 3 4 = ty), (e2 : fld x 7 6 = 0#6), (e3 : fld x 13 6 = va), (e4 : fld x 19 6 = vd), (e5 : fld x 25 7 = 13#7), -⟩ := fmt47 vd va ty rm 0 13 hx rfl
  delta decodeA; rw [e5]; change (if fld x 7 6 = 0 then Except.ok (Instr.vexp2 (fld x 19 6) (fld x 13 6) (fld x 3 4) (fld x 0 3)) else Except.error DecodeError.reservedField) = _
  simp [e0, e1, e2, e3, e4]

theorem vlog2 (vd : BitVec 6) (va : BitVec 6) (ty : BitVec 4) (rm : BitVec 3) : Statement (.vlog2 vd va ty rm) := by
  refine roundTrip_of_A rfl rfl fun x hx => ?_
  obtain ⟨(e0 : fld x 0 3 = rm), (e1 : fld x 3 4 = ty), (e2 : fld x 7 6 = 0#6), (e3 : fld x 13 6 = va), (e4 : fld x 19 6 = vd), (e5 : fld x 25 7 = 14#7), -⟩ := fmt47 vd va ty rm 0 14 hx rfl
  delta decodeA; rw [e5]; change (if fld x 7 6 = 0 then Except.ok (Instr.vlog2 (fld x 19 6) (fld x 13 6) (fld x 3 4) (fld x 0 3)) else Except.error DecodeError.reservedField) = _
  simp [e0, e1, e2, e3, e4]

theorem viadd (vd : BitVec 6) (va : BitVec 6) (vb : BitVec 6) (ty : BitVec 4) : Statement (.viadd vd va vb ty) := by
  refine roundTrip_of_A rfl rfl fun x hx => ?_
  obtain ⟨(e0 : fld x 0 3 = 0#3), (e1 : fld x 3 4 = ty), (e2 : fld x 7 6 = vb), (e3 : fld x 13 6 = va), (e4 : fld x 19 6 = vd), (e5 : fld x 25 7 = 16#7), -⟩ := fmt45 vd va vb ty 0 16 hx rfl
  delta decodeA; rw [e5]; change (if fld x 0 3 = 0 then Except.ok (Instr.viadd (fld x 19 6) (fld x 13 6) (fld x 7 6) (fld x 3 4)) else Except.error DecodeError.reservedField) = _
  simp [e0, e1, e2, e3, e4]

theorem visub (vd : BitVec 6) (va : BitVec 6) (vb : BitVec 6) (ty : BitVec 4) : Statement (.visub vd va vb ty) := by
  refine roundTrip_of_A rfl rfl fun x hx => ?_
  obtain ⟨(e0 : fld x 0 3 = 0#3), (e1 : fld x 3 4 = ty), (e2 : fld x 7 6 = vb), (e3 : fld x 13 6 = va), (e4 : fld x 19 6 = vd), (e5 : fld x 25 7 = 17#7), -⟩ := fmt45 vd va vb ty 0 17 hx rfl
  delta decodeA; rw [e5]; change (if fld x 0 3 = 0 then Except.ok (Instr.visub (fld x 19 6) (fld x 13 6) (fld x 7 6) (fld x 3 4)) else Except.error DecodeError.reservedField) = _
  simp [e0, e1, e2, e3, e4]

theorem vimul (vd : BitVec 6) (va : BitVec 6) (vb : BitVec 6) (ty : BitVec 4) : Statement (.vimul vd va vb ty) := by
  refine roundTrip_of_A rfl rfl fun x hx => ?_
  obtain ⟨(e0 : fld x 0 3 = 0#3), (e1 : fld x 3 4 = ty), (e2 : fld x 7 6 = vb), (e3 : fld x 13 6 = va), (e4 : fld x 19 6 = vd), (e5 : fld x 25 7 = 18#7), -⟩ := fmt45 vd va vb ty 0 18 hx rfl
  delta decodeA; rw [e5]; change (if fld x 0 3 = 0 then Except.ok (Instr.vimul (fld x 19 6) (fld x 13 6) (fld x 7 6) (fld x 3 4)) else Except.error DecodeError.reservedField) = _
  simp [e0, e1, e2, e3, e4]

theorem vimulh (vd : BitVec 6) (va : BitVec 6) (vb : BitVec 6) (ty : BitVec 4) : Statement (.vimulh vd va vb ty) := by
  refine roundTrip_of_A rfl rfl fun x hx => ?_
  obtain ⟨(e0 : fld x 0 3 = 0#3), (e1 : fld x 3 4 = ty), (e2 : fld x 7 6 = vb), (e3 : fld x 13 6 = va), (e4 : fld x 19 6 = vd), (e5 : fld x 25 7 = 19#7), -⟩ := fmt45 vd va vb ty 0 19 hx rfl
  delta decodeA; rw [e5]; change (if fld x 0 3 = 0 then Except.ok (Instr.vimulh (fld x 19 6) (fld x 13 6) (fld x 7 6) (fld x 3 4)) else Except.error DecodeError.reservedField) = _
  simp [e0, e1, e2, e3, e4]

theorem vand (vd : BitVec 6) (va : BitVec 6) (vb : BitVec 6) (ty : BitVec 4) : Statement (.vand vd va vb ty) := by
  refine roundTrip_of_A rfl rfl fun x hx => ?_
  obtain ⟨(e0 : fld x 0 3 = 0#3), (e1 : fld x 3 4 = ty), (e2 : fld x 7 6 = vb), (e3 : fld x 13 6 = va), (e4 : fld x 19 6 = vd), (e5 : fld x 25 7 = 20#7), -⟩ := fmt45 vd va vb ty 0 20 hx rfl
  delta decodeA; rw [e5]; change (if fld x 0 3 = 0 then Except.ok (Instr.vand (fld x 19 6) (fld x 13 6) (fld x 7 6) (fld x 3 4)) else Except.error DecodeError.reservedField) = _
  simp [e0, e1, e2, e3, e4]

theorem vor (vd : BitVec 6) (va : BitVec 6) (vb : BitVec 6) (ty : BitVec 4) : Statement (.vor vd va vb ty) := by
  refine roundTrip_of_A rfl rfl fun x hx => ?_
  obtain ⟨(e0 : fld x 0 3 = 0#3), (e1 : fld x 3 4 = ty), (e2 : fld x 7 6 = vb), (e3 : fld x 13 6 = va), (e4 : fld x 19 6 = vd), (e5 : fld x 25 7 = 21#7), -⟩ := fmt45 vd va vb ty 0 21 hx rfl
  delta decodeA; rw [e5]; change (if fld x 0 3 = 0 then Except.ok (Instr.vor (fld x 19 6) (fld x 13 6) (fld x 7 6) (fld x 3 4)) else Except.error DecodeError.reservedField) = _
  simp [e0, e1, e2, e3, e4]

theorem vxor (vd : BitVec 6) (va : BitVec 6) (vb : BitVec 6) (ty : BitVec 4) : Statement (.vxor vd va vb ty) := by
  refine roundTrip_of_A rfl rfl fun x hx => ?_
  obtain ⟨(e0 : fld x 0 3 = 0#3), (e1 : fld x 3 4 = ty), (e2 : fld x 7 6 = vb), (e3 : fld x 13 6 = va), (e4 : fld x 19 6 = vd), (e5 : fld x 25 7 = 22#7), -⟩ := fmt45 vd va vb ty 0 22 hx rfl
  delta decodeA; rw [e5]; change (if fld x 0 3 = 0 then Except.ok (Instr.vxor (fld x 19 6) (fld x 13 6) (fld x 7 6) (fld x 3 4)) else Except.error DecodeError.reservedField) = _
  simp [e0, e1, e2, e3, e4]

theorem vshl (vd : BitVec 6) (va : BitVec 6) (vb : BitVec 6) (ty : BitVec 4) : Statement (.vshl vd va vb ty) := by
  refine roundTrip_of_A rfl rfl fun x hx => ?_
  obtain ⟨(e0 : fld x 0 3 = 0#3), (e1 : fld x 3 4 = ty), (e2 : fld x 7 6 = vb), (e3 : fld x 13 6 = va), (e4 : fld x 19 6 = vd), (e5 : fld x 25 7 = 23#7), -⟩ := fmt45 vd va vb ty 0 23 hx rfl
  delta decodeA; rw [e5]; change (if fld x 0 3 = 0 then Except.ok (Instr.vshl (fld x 19 6) (fld x 13 6) (fld x 7 6) (fld x 3 4)) else Except.error DecodeError.reservedField) = _
  simp [e0, e1, e2, e3, e4]

theorem vshr (vd : BitVec 6) (va : BitVec 6) (vb : BitVec 6) (ty : BitVec 4) : Statement (.vshr vd va vb ty) := by
  refine roundTrip_of_A rfl rfl fun x hx => ?_
  obtain ⟨(e0 : fld x 0 3 = 0#3), (e1 : fld x 3 4 = ty), (e2 : fld x 7 6 = vb), (e3 : fld x 13 6 = va), (e4 : fld x 19 6 = vd), (e5 : fld x 25 7 = 24#7), -⟩ := fmt45 vd va vb ty 0 24 hx rfl
  delta decodeA; rw [e5]; change (if fld x 0 3 = 0 then Except.ok (Instr.vshr (fld x 19 6) (fld x 13 6) (fld x 7 6) (fld x 3 4)) else Except.error DecodeError.reservedField) = _
  simp [e0, e1, e2, e3, e4]

theorem vsra (vd : BitVec 6) (va : BitVec 6) (vb : BitVec 6) (ty : BitVec 4) : Statement (.vsra vd va vb ty) := by
  refine roundTrip_of_A rfl rfl fun x hx => ?_
  obtain ⟨(e0 : fld x 0 3 = 0#3), (e1 : fld x 3 4 = ty), (e2 : fld x 7 6 = vb), (e3 : fld x 13 6 = va), (e4 : fld x 19 6 = vd), (e5 : fld x 25 7 = 25#7), -⟩ := fmt45 vd va vb ty 0 25 hx rfl
  delta decodeA; rw [e5]; change (if fld x 0 3 = 0 then Except.ok (Instr.vsra (fld x 19 6) (fld x 13 6) (fld x 7 6) (fld x 3 4)) else Except.error DecodeError.reservedField) = _
  simp [e0, e1, e2, e3, e4]

theorem vimin (vd : BitVec 6) (va : BitVec 6) (vb : BitVec 6) (ty : BitVec 4) : Statement (.vimin vd va vb ty) := by
  refine roundTrip_of_A rfl rfl fun x hx => ?_
  obtain ⟨(e0 : fld x 0 3 = 0#3), (e1 : fld x 3 4 = ty), (e2 : fld x 7 6 = vb), (e3 : fld x 13 6 = va), (e4 : fld x 19 6 = vd), (e5 : fld x 25 7 = 26#7), -⟩ := fmt45 vd va vb ty 0 26 hx rfl
  delta decodeA; rw [e5]; change (if fld x 0 3 = 0 then Except.ok (Instr.vimin (fld x 19 6) (fld x 13 6) (fld x 7 6) (fld x 3 4)) else Except.error DecodeError.reservedField) = _
  simp [e0, e1, e2, e3, e4]

theorem vimax (vd : BitVec 6) (va : BitVec 6) (vb : BitVec 6) (ty : BitVec 4) : Statement (.vimax vd va vb ty) := by
  refine roundTrip_of_A rfl rfl fun x hx => ?_
  obtain ⟨(e0 : fld x 0 3 = 0#3), (e1 : fld x 3 4 = ty), (e2 : fld x 7 6 = vb), (e3 : fld x 13 6 = va), (e4 : fld x 19 6 = vd), (e5 : fld x 25 7 = 27#7), -⟩ := fmt45 vd va vb ty 0 27 hx rfl
  delta decodeA; rw [e5]; change (if fld x 0 3 = 0 then Except.ok (Instr.vimax (fld x 19 6) (fld x 13 6) (fld x 7 6) (fld x 3 4)) else Except.error DecodeError.reservedField) = _
  simp [e0, e1, e2, e3, e4]

theorem vfcmp (vd : BitVec 6) (va : BitVec 6) (vb : BitVec 6) (ty : BitVec 4) (cond : BitVec 3) : Statement (.vfcmp vd va vb ty cond) := by
  refine roundTrip_of_A rfl rfl fun x hx => ?_
  obtain ⟨(e0 : fld x 0 3 = cond), (e1 : fld x 3 4 = ty), (e2 : fld x 7 6 = vb), (e3 : fld x 13 6 = va), (e4 : fld x 19 6 = vd), (e5 : fld x 25 7 = 28#7), -⟩ := fmt43 vd va vb ty cond 28 hx rfl
  delta decodeA; rw [e5]; change (Except.ok (Instr.vfcmp (fld x 19 6) (fld x 13 6) (fld x 7 6) (fld x 3 4) (fld x 0 3))) = _
  simp [e0, e1, e2, e3, e4]

theorem vicmp (vd : BitVec 6) (va : BitVec 6) (vb : BitVec 6) (ty : BitVec 4) (cond : BitVec 3) : Statement (.vicmp vd va vb ty cond) := by
  refine roundTrip_of_A rfl rfl fun x hx => ?_
  obtain ⟨(e0 : fld x 0 3 = cond), (e1 : fld x 3 4 = ty), (e2 : fld x 7 6 = vb), (e3 : fld x 13 6 = va), (e4 : fld x 19 6 = vd), (e5 : fld x 25 7 = 29#7), -⟩ := fmt43 vd va vb ty cond 29 hx rfl
  delta decodeA; rw [e5]; change (Except.ok (Instr.vicmp (fld x 19 6) (fld x 13 6) (fld x 7 6) (fld x 3 4) (fld x 0 3))) = _
  simp [e0, e1, e2, e3, e4]

theorem vsel (vd : BitVec 6) (va : BitVec 6) (vb : BitVec 6) (ty : BitVec 4) (mk : BitVec 3) : Statement (.vsel vd va vb ty mk) := by
  refine roundTrip_of_A rfl rfl fun x hx => ?_
  obtain ⟨(e0 : fld x 0 3 = mk), (e1 : fld x 3 4 = ty), (e2 : fld x 7 6 = vb), (e3 : fld x 13 6 = va), (e4 : fld x 19 6 = vd), (e5 : fld x 25 7 = 30#7), -⟩ := fmt43 vd va vb ty mk 30 hx rfl
  delta decodeA; rw [e5]; change (Except.ok (Instr.vsel (fld x 19 6) (fld x 13 6) (fld x 7 6) (fld x 3 4) (fld x 0 3))) = _
  simp [e0, e1, e2, e3, e4]

theorem mand (vd : BitVec 6) (va : BitVec 6) (vb : BitVec 6) : Statement (.mand vd va vb) := by
  refine roundTrip_of_A rfl rfl fun x hx => ?_
  obtain ⟨(e0 : fld x 0 7 = 0#7), (e1 : fld x 7 6 = vb), (e2 : fld x 13 6 = va), (e3 : fld x 19 6 = vd), (e4 : fld x 25 7 = 32#7), -⟩ := fmt48 vd va vb 0 32 hx rfl
  delta decodeA; rw [e4]; change (if fld x 0 7 = 0 then Except.ok (Instr.mand (fld x 19 6) (fld x 13 6) (fld x 7 6)) else Except.error DecodeError.reservedField) = _
  simp [e0, e1, e2, e3]

theorem mor (vd : BitVec 6) (va : BitVec 6) (vb : BitVec 6) : Statement (.mor vd va vb) := by
  refine roundTrip_of_A rfl rfl fun x hx => ?_
  obtain ⟨(e0 : fld x 0 7 = 0#7), (e1 : fld x 7 6 = vb), (e2 : fld x 13 6 = va), (e3 : fld x 19 6 = vd), (e4 : fld x 25 7 = 33#7), -⟩ := fmt48 vd va vb 0 33 hx rfl
  delta decodeA; rw [e4]; change (if fld x 0 7 = 0 then Except.ok (Instr.mor (fld x 19 6) (fld x 13 6) (fld x 7 6)) else Except.error DecodeError.reservedField) = _
  simp [e0, e1, e2, e3]

theorem mxor (vd : BitVec 6) (va : BitVec 6) (vb : BitVec 6) : Statement (.mxor vd va vb) := by
  refine roundTrip_of_A rfl rfl fun x hx => ?_
  obtain ⟨(e0 : fld x 0 7 = 0#7), (e1 : fld x 7 6 = vb), (e2 : fld x 13 6 = va), (e3 : fld x 19 6 = vd), (e4 : fld x 25 7 = 34#7), -⟩ := fmt48 vd va vb 0 34 hx rfl
  delta decodeA; rw [e4]; change (if fld x 0 7 = 0 then Except.ok (Instr.mxor (fld x 19 6) (fld x 13 6) (fld x 7 6)) else Except.error DecodeError.reservedField) = _
  simp [e0, e1, e2, e3]

theorem mnot (vd : BitVec 6) (va : BitVec 6) : Statement (.mnot vd va) := by
  refine roundTrip_of_A rfl rfl fun x hx => ?_
  obtain ⟨(e0 : fld x 0 13 = 0#13), (e1 : fld x 13 6 = va), (e2 : fld x 19 6 = vd), (e3 : fld x 25 7 = 35#7), -⟩ := fmt49 vd va 0 35 hx rfl
  delta decodeA; rw [e3]; change (if fld x 0 13 = 0 then Except.ok (Instr.mnot (fld x 19 6) (fld x 13 6)) else Except.error DecodeError.reservedField) = _
  simp [e0, e1, e2]

theorem mpop (vd : BitVec 5) (va : BitVec 6) : Statement (.mpop vd va) := by
  refine roundTrip_of_A rfl rfl fun x hx => ?_
  obtain ⟨(e0 : fld x 0 13 = 0#13), (e1 : fld x 13 6 = va), (e2 : fld x 19 5 = vd), (e3 : fld x 24 1 = 0#1), (e4 : fld x 25 7 = 36#7), -⟩ := fmt50 vd va 0 0 36 hx rfl
  delta decodeA; rw [e4]; change (if fld x 0 13 = 0 then if fld x 24 1 = 0 then Except.ok (Instr.mpop (fld x 19 5) (fld x 13 6)) else Except.error DecodeError.reservedField else Except.error DecodeError.reservedField) = _
  simp [e0, e1, e2, e3]

theorem mfirst (vd : BitVec 5) (va : BitVec 6) : Statement (.mfirst vd va) := by
  refine roundTrip_of_A rfl rfl fun x hx => ?_
  obtain ⟨(e0 : fld x 0 13 = 0#13), (e1 : fld x 13 6 = va), (e2 : fld x 19 5 = vd), (e3 : fld x 24 1 = 0#1), (e4 : fld x 25 7 = 37#7), -⟩ := fmt50 vd va 0 0 37 hx rfl
  delta decodeA; rw [e4]; change (if fld x 0 13 = 0 then if fld x 24 1 = 0 then Except.ok (Instr.mfirst (fld x 19 5) (fld x 13 6)) else Except.error DecodeError.reservedField else Except.error DecodeError.reservedField) = _
  simp [e0, e1, e2, e3]

theorem vbcast (vd : BitVec 6) (va : BitVec 6) (k : BitVec 6) (ty : BitVec 4) : Statement (.vbcast vd va k ty) := by
  refine roundTrip_of_A rfl rfl fun x hx => ?_
  obtain ⟨(e0 : fld x 0 3 = 0#3), (e1 : fld x 3 4 = ty), (e2 : fld x 7 6 = k), (e3 : fld x 13 6 = va), (e4 : fld x 19 6 = vd), (e5 : fld x 25 7 = 40#7), -⟩ := fmt45 vd va k ty 0 40 hx rfl
  delta decodeA; rw [e5]; change (if fld x 0 3 = 0 then Except.ok (Instr.vbcast (fld x 19 6) (fld x 13 6) (fld x 7 6) (fld x 3 4)) else Except.error DecodeError.reservedField) = _
  simp [e0, e1, e2, e3, e4]

theorem vextr (vd : BitVec 5) (va : BitVec 6) (k : BitVec 6) (ty : BitVec 4) : Statement (.vextr vd va k ty) := by
  refine roundTrip_of_A rfl rfl fun x hx => ?_
  obtain ⟨(e0 : fld x 0 3 = 0#3), (e1 : fld x 3 4 = ty), (e2 : fld x 7 6 = k), (e3 : fld x 13 6 = va), (e4 : fld x 19 5 = vd), (e5 : fld x 24 1 = 0#1), (e6 : fld x 25 7 = 41#7), -⟩ := fmt51 vd va k ty 0 0 41 hx rfl
  delta decodeA; rw [e6]; change (if fld x 0 3 = 0 then if fld x 24 1 = 0 then Except.ok (Instr.vextr (fld x 19 5) (fld x 13 6) (fld x 7 6) (fld x 3 4)) else Except.error DecodeError.reservedField else Except.error DecodeError.reservedField) = _
  simp [e0, e1, e2, e3, e4, e5]

theorem vins (vd : BitVec 6) (va : BitVec 6) (k : BitVec 6) (ty : BitVec 4) : Statement (.vins vd va k ty) := by
  refine roundTrip_of_A rfl rfl fun x hx => ?_
  obtain ⟨(e0 : fld x 0 3 = 0#3), (e1 : fld x 3 4 = ty), (e2 : fld x 7 6 = k), (e3 : fld x 13 6 = va), (e4 : fld x 19 6 = vd), (e5 : fld x 25 7 = 42#7), -⟩ := fmt45 vd va k ty 0 42 hx rfl
  delta decodeA; rw [e5]; change (if fld x 0 3 = 0 then Except.ok (Instr.vins (fld x 19 6) (fld x 13 6) (fld x 7 6) (fld x 3 4)) else Except.error DecodeError.reservedField) = _
  simp [e0, e1, e2, e3, e4]

theorem vperm (vd : BitVec 6) (va : BitVec 6) (vb : BitVec 6) (ty : BitVec 4) : Statement (.vperm vd va vb ty) := by
  refine roundTrip_of_A rfl rfl fun x hx => ?_
  obtain ⟨(e0 : fld x 0 3 = 0#3), (e1 : fld x 3 4 = ty), (e2 : fld x 7 6 = vb), (e3 : fld x 13 6 = va), (e4 : fld x 19 6 = vd), (e5 : fld x 25 7 = 43#7), -⟩ := fmt45 vd va vb ty 0 43 hx rfl
  delta decodeA; rw [e5]; change (if fld x 0 3 = 0 then Except.ok (Instr.vperm (fld x 19 6) (fld x 13 6) (fld x 7 6) (fld x 3 4)) else Except.error DecodeError.reservedField) = _
  simp [e0, e1, e2, e3, e4]

theorem vrot (vd : BitVec 6) (va : BitVec 6) (k : BitVec 6) (ty : BitVec 4) : Statement (.vrot vd va k ty) := by
  refine roundTrip_of_A rfl rfl fun x hx => ?_
  obtain ⟨(e0 : fld x 0 3 = 0#3), (e1 : fld x 3 4 = ty), (e2 : fld x 7 6 = k), (e3 : fld x 13 6 = va), (e4 : fld x 19 6 = vd), (e5 : fld x 25 7 = 44#7), -⟩ := fmt45 vd va k ty 0 44 hx rfl
  delta decodeA; rw [e5]; change (if fld x 0 3 = 0 then Except.ok (Instr.vrot (fld x 19 6) (fld x 13 6) (fld x 7 6) (fld x 3 4)) else Except.error DecodeError.reservedField) = _
  simp [e0, e1, e2, e3, e4]

theorem vslide (vd : BitVec 6) (va : BitVec 6) (k : BitVec 6) (ty : BitVec 4) : Statement (.vslide vd va k ty) := by
  refine roundTrip_of_A rfl rfl fun x hx => ?_
  obtain ⟨(e0 : fld x 0 3 = 0#3), (e1 : fld x 3 4 = ty), (e2 : fld x 7 6 = k), (e3 : fld x 13 6 = va), (e4 : fld x 19 6 = vd), (e5 : fld x 25 7 = 45#7), -⟩ := fmt45 vd va k ty 0 45 hx rfl
  delta decodeA; rw [e5]; change (if fld x 0 3 = 0 then Except.ok (Instr.vslide (fld x 19 6) (fld x 13 6) (fld x 7 6) (fld x 3 4)) else Except.error DecodeError.reservedField) = _
  simp [e0, e1, e2, e3, e4]

theorem vzip (vd : BitVec 6) (va : BitVec 6) (vb : BitVec 6) (ty : BitVec 4) (h : BitVec 3) : Statement (.vzip vd va vb ty h) := by
  refine roundTrip_of_A rfl rfl fun x hx => ?_
  obtain ⟨(e0 : fld x 0 3 = h), (e1 : fld x 3 4 = ty), (e2 : fld x 7 6 = vb), (e3 : fld x 13 6 = va), (e4 : fld x 19 6 = vd), (e5 : fld x 25 7 = 46#7), -⟩ := fmt43 vd va vb ty h 46 hx rfl
  delta decodeA; rw [e5]; change (Except.ok (Instr.vzip (fld x 19 6) (fld x 13 6) (fld x 7 6) (fld x 3 4) (fld x 0 3))) = _
  simp [e0, e1, e2, e3, e4]

theorem vunzip (vd : BitVec 6) (va : BitVec 6) (vb : BitVec 6) (ty : BitVec 4) (h : BitVec 3) : Statement (.vunzip vd va vb ty h) := by
  refine roundTrip_of_A rfl rfl fun x hx => ?_
  obtain ⟨(e0 : fld x 0 3 = h), (e1 : fld x 3 4 = ty), (e2 : fld x 7 6 = vb), (e3 : fld x 13 6 = va), (e4 : fld x 19 6 = vd), (e5 : fld x 25 7 = 47#7), -⟩ := fmt43 vd va vb ty h 47 hx rfl
  delta decodeA; rw [e5]; change (Except.ok (Instr.vunzip (fld x 19 6) (fld x 13 6) (fld x 7 6) (fld x 3 4) (fld x 0 3))) = _
  simp [e0, e1, e2, e3, e4]

theorem vrsum (vd : BitVec 5) (va : BitVec 6) (ty : BitVec 4) (rm : BitVec 3) : Statement (.vrsum vd va ty rm) := by
  refine roundTrip_of_A rfl rfl fun x hx => ?_
  obtain ⟨(e0 : fld x 0 3 = rm), (e1 : fld x 3 4 = ty), (e2 : fld x 7 6 = 0#6), (e3 : fld x 13 6 = va), (e4 : fld x 19 5 = vd), (e5 : fld x 24 1 = 0#1), (e6 : fld x 25 7 = 48#7), -⟩ := fmt52 vd va ty rm 0 0 48 hx rfl
  delta decodeA; rw [e6]; change (if fld x 7 6 = 0 then if fld x 24 1 = 0 then Except.ok (Instr.vrsum (fld x 19 5) (fld x 13 6) (fld x 3 4) (fld x 0 3)) else Except.error DecodeError.reservedField else Except.error DecodeError.reservedField) = _
  simp [e0, e1, e2, e3, e4, e5]

theorem vrmax (vd : BitVec 5) (va : BitVec 6) (ty : BitVec 4) : Statement (.vrmax vd va ty) := by
  refine roundTrip_of_A rfl rfl fun x hx => ?_
  obtain ⟨(e0 : fld x 0 3 = 0#3), (e1 : fld x 3 4 = ty), (e2 : fld x 7 6 = 0#6), (e3 : fld x 13 6 = va), (e4 : fld x 19 5 = vd), (e5 : fld x 24 1 = 0#1), (e6 : fld x 25 7 = 49#7), -⟩ := fmt53 vd va ty 0 0 0 49 hx rfl
  delta decodeA; rw [e6]; change (if fld x 0 3 = 0 then if fld x 7 6 = 0 then if fld x 24 1 = 0 then Except.ok (Instr.vrmax (fld x 19 5) (fld x 13 6) (fld x 3 4)) else Except.error DecodeError.reservedField else Except.error DecodeError.reservedField else Except.error DecodeError.reservedField) = _
  simp [e0, e1, e2, e3, e4, e5]

theorem vrmin (vd : BitVec 5) (va : BitVec 6) (ty : BitVec 4) : Statement (.vrmin vd va ty) := by
  refine roundTrip_of_A rfl rfl fun x hx => ?_
  obtain ⟨(e0 : fld x 0 3 = 0#3), (e1 : fld x 3 4 = ty), (e2 : fld x 7 6 = 0#6), (e3 : fld x 13 6 = va), (e4 : fld x 19 5 = vd), (e5 : fld x 24 1 = 0#1), (e6 : fld x 25 7 = 50#7), -⟩ := fmt53 vd va ty 0 0 0 50 hx rfl
  delta decodeA; rw [e6]; change (if fld x 0 3 = 0 then if fld x 7 6 = 0 then if fld x 24 1 = 0 then Except.ok (Instr.vrmin (fld x 19 5) (fld x 13 6) (fld x 3 4)) else Except.error DecodeError.reservedField else Except.error DecodeError.reservedField else Except.error DecodeError.reservedField) = _
  simp [e0, e1, e2, e3, e4, e5]

theorem virsum (vd : BitVec 5) (va : BitVec 6) (ty : BitVec 4) : Statement (.virsum vd va ty) := by
  refine roundTrip_of_A rfl rfl fun x hx => ?_
  obtain ⟨(e0 : fld x 0 3 = 0#3), (e1 : fld x 3 4 = ty), (e2 : fld x 7 6 = 0#6), (e3 : fld x 13 6 = va), (e4 : fld x 19 5 = vd), (e5 : fld x 24 1 = 0#1), (e6 : fld x 25 7 = 51#7), -⟩ := fmt53 vd va ty 0 0 0 51 hx rfl
  delta decodeA; rw [e6]; change (if fld x 0 3 = 0 then if fld x 7 6 = 0 then if fld x 24 1 = 0 then Except.ok (Instr.virsum (fld x 19 5) (fld x 13 6) (fld x 3 4)) else Except.error DecodeError.reservedField else Except.error DecodeError.reservedField else Except.error DecodeError.reservedField) = _
  simp [e0, e1, e2, e3, e4, e5]

theorem vdot4 (vd : BitVec 5) (va : BitVec 6) (vb : BitVec 6) (ty : BitVec 4) (rm : BitVec 3) : Statement (.vdot4 vd va vb ty rm) := by
  refine roundTrip_of_A rfl rfl fun x hx => ?_
  obtain ⟨(e0 : fld x 0 3 = rm), (e1 : fld x 3 4 = ty), (e2 : fld x 7 6 = vb), (e3 : fld x 13 6 = va), (e4 : fld x 19 5 = vd), (e5 : fld x 24 1 = 0#1), (e6 : fld x 25 7 = 52#7), -⟩ := fmt44 vd va vb ty rm 0 52 hx rfl
  delta decodeA; rw [e6]; change (if fld x 24 1 = 0 then Except.ok (Instr.vdot4 (fld x 19 5) (fld x 13 6) (fld x 7 6) (fld x 3 4) (fld x 0 3)) else Except.error DecodeError.reservedField) = _
  simp [e0, e1, e2, e3, e4, e5]

theorem vdot2 (vd : BitVec 5) (va : BitVec 6) (vb : BitVec 6) (ty : BitVec 4) (rm : BitVec 3) : Statement (.vdot2 vd va vb ty rm) := by
  refine roundTrip_of_A rfl rfl fun x hx => ?_
  obtain ⟨(e0 : fld x 0 3 = rm), (e1 : fld x 3 4 = ty), (e2 : fld x 7 6 = vb), (e3 : fld x 13 6 = va), (e4 : fld x 19 5 = vd), (e5 : fld x 24 1 = 0#1), (e6 : fld x 25 7 = 53#7), -⟩ := fmt44 vd va vb ty rm 0 53 hx rfl
  delta decodeA; rw [e6]; change (if fld x 24 1 = 0 then Except.ok (Instr.vdot2 (fld x 19 5) (fld x 13 6) (fld x 7 6) (fld x 3 4) (fld x 0 3)) else Except.error DecodeError.reservedField) = _
  simp [e0, e1, e2, e3, e4, e5]

theorem vcvt (vd : BitVec 6) (va : BitVec 6) (part : BitVec 2) (src : BitVec 4) (ty : BitVec 4) (rm : BitVec 3) : Statement (.vcvt vd va part src ty rm) := by
  refine roundTrip_of_A rfl rfl fun x hx => ?_
  obtain ⟨(e0 : fld x 0 3 = rm), (e1 : fld x 3 4 = ty), (e2 : fld x 7 4 = src), (e3 : fld x 11 2 = part), (e4 : fld x 13 6 = va), (e5 : fld x 19 6 = vd), (e6 : fld x 25 7 = 56#7), -⟩ := fmt54 vd va part src ty rm 56 hx rfl
  delta decodeA; rw [e6]; change (Except.ok (Instr.vcvt (fld x 19 6) (fld x 13 6) (fld x 11 2) (fld x 7 4) (fld x 3 4) (fld x 0 3))) = _
  simp [e0, e1, e2, e3, e4, e5]

theorem vpack (vd : BitVec 6) (va : BitVec 6) (vb : BitVec 6) (ty : BitVec 4) : Statement (.vpack vd va vb ty) := by
  refine roundTrip_of_A rfl rfl fun x hx => ?_
  obtain ⟨(e0 : fld x 0 3 = 0#3), (e1 : fld x 3 4 = ty), (e2 : fld x 7 6 = vb), (e3 : fld x 13 6 = va), (e4 : fld x 19 6 = vd), (e5 : fld x 25 7 = 57#7), -⟩ := fmt45 vd va vb ty 0 57 hx rfl
  delta decodeA; rw [e5]; change (if fld x 0 3 = 0 then Except.ok (Instr.vpack (fld x 19 6) (fld x 13 6) (fld x 7 6) (fld x 3 4)) else Except.error DecodeError.reservedField) = _
  simp [e0, e1, e2, e3, e4]

theorem vunpack (vd : BitVec 6) (va : BitVec 6) (part : BitVec 6) (ty : BitVec 4) : Statement (.vunpack vd va part ty) := by
  refine roundTrip_of_A rfl rfl fun x hx => ?_
  obtain ⟨(e0 : fld x 0 3 = 0#3), (e1 : fld x 3 4 = ty), (e2 : fld x 7 6 = part), (e3 : fld x 13 6 = va), (e4 : fld x 19 6 = vd), (e5 : fld x 25 7 = 58#7), -⟩ := fmt45 vd va part ty 0 58 hx rfl
  delta decodeA; rw [e5]; change (if fld x 0 3 = 0 then Except.ok (Instr.vunpack (fld x 19 6) (fld x 13 6) (fld x 7 6) (fld x 3 4)) else Except.error DecodeError.reservedField) = _
  simp [e0, e1, e2, e3, e4]

theorem vqnt (vd : BitVec 6) (va : BitVec 6) (gs : BitVec 4) (ty : BitVec 4) (rm : BitVec 3) : Statement (.vqnt vd va gs ty rm) := by
  refine roundTrip_of_A rfl rfl fun x hx => ?_
  obtain ⟨(e0 : fld x 0 3 = rm), (e1 : fld x 3 4 = ty), (e2 : fld x 7 4 = gs), (e3 : fld x 11 2 = 3#2), (e4 : fld x 13 6 = va), (e5 : fld x 19 6 = vd), (e6 : fld x 25 7 = 59#7), -⟩ := fmt55 vd va gs ty rm 3 59 hx rfl
  delta decodeA; rw [e6]; change (if fld x 11 2 = 3 then Except.ok (Instr.vqnt (fld x 19 6) (fld x 13 6) (fld x 7 4) (fld x 3 4) (fld x 0 3)) else Except.error DecodeError.operandCode) = _
  simp [e0, e1, e2, e3, e4, e5]

theorem vpopx (vd : BitVec 5) (va : BitVec 6) (vb : BitVec 6) : Statement (.vpopx vd va vb) := by
  refine roundTrip_of_A rfl rfl fun x hx => ?_
  obtain ⟨(e0 : fld x 0 7 = 0#7), (e1 : fld x 7 6 = vb), (e2 : fld x 13 6 = va), (e3 : fld x 19 5 = vd), (e4 : fld x 24 1 = 0#1), (e5 : fld x 25 7 = 60#7), -⟩ := fmt56 vd va vb 0 0 60 hx rfl
  delta decodeA; rw [e5]; change (if fld x 0 7 = 0 then if fld x 24 1 = 0 then Except.ok (Instr.vpopx (fld x 19 5) (fld x 13 6) (fld x 7 6)) else Except.error DecodeError.reservedField else Except.error DecodeError.reservedField) = _
  simp [e0, e1, e2, e3, e4]

theorem vcompr (vd : BitVec 6) (va : BitVec 6) (vb : BitVec 6) (ty : BitVec 4) : Statement (.vcompr vd va vb ty) := by
  refine roundTrip_of_A rfl rfl fun x hx => ?_
  obtain ⟨(e0 : fld x 0 3 = 0#3), (e1 : fld x 3 4 = ty), (e2 : fld x 7 6 = vb), (e3 : fld x 13 6 = va), (e4 : fld x 19 6 = vd), (e5 : fld x 25 7 = 61#7), -⟩ := fmt45 vd va vb ty 0 61 hx rfl
  delta decodeA; rw [e5]; change (if fld x 0 3 = 0 then Except.ok (Instr.vcompr (fld x 19 6) (fld x 13 6) (fld x 7 6) (fld x 3 4)) else Except.error DecodeError.reservedField) = _
  simp [e0, e1, e2, e3, e4]

theorem vexpnd (vd : BitVec 6) (va : BitVec 6) (vb : BitVec 6) (ty : BitVec 4) : Statement (.vexpnd vd va vb ty) := by
  refine roundTrip_of_A rfl rfl fun x hx => ?_
  obtain ⟨(e0 : fld x 0 3 = 0#3), (e1 : fld x 3 4 = ty), (e2 : fld x 7 6 = vb), (e3 : fld x 13 6 = va), (e4 : fld x 19 6 = vd), (e5 : fld x 25 7 = 62#7), -⟩ := fmt45 vd va vb ty 0 62 hx rfl
  delta decodeA; rw [e5]; change (if fld x 0 3 = 0 then Except.ok (Instr.vexpnd (fld x 19 6) (fld x 13 6) (fld x 7 6) (fld x 3 4)) else Except.error DecodeError.reservedField) = _
  simp [e0, e1, e2, e3, e4]

theorem vcbd (vd : BitVec 6) (va : BitVec 6) (bank : BitVec 1) (start : BitVec 5) (ty : BitVec 4) : Statement (.vcbd vd va bank start ty) := by
  refine roundTrip_of_A rfl rfl fun x hx => ?_
  obtain ⟨(e0 : fld x 0 3 = 0#3), (e1 : fld x 3 4 = ty), (e2 : fld x 7 5 = start), (e3 : fld x 12 1 = bank), (e4 : fld x 13 6 = va), (e5 : fld x 19 6 = vd), (e6 : fld x 25 7 = 63#7), -⟩ := fmt57 vd va bank start ty 0 63 hx rfl
  delta decodeA; rw [e6]; change (if fld x 0 3 = 0 then Except.ok (Instr.vcbd (fld x 19 6) (fld x 13 6) (fld x 12 1) (fld x 7 5) (fld x 3 4)) else Except.error DecodeError.reservedField) = _
  simp [e0, e1, e2, e3, e4, e5]

theorem mmaE4e4 (acc : BitVec 2) (ga : BitVec 5) (latch : BitVec 1) (stride : BitVec 6) : Statement (.mmaE4e4 acc ga latch stride) := by
  refine roundTrip_of_A rfl rfl fun x hx => ?_
  obtain ⟨(e0 : fld x 0 6 = stride), (e1 : fld x 6 1 = 0#1), (e2 : fld x 7 1 = latch), (e3 : fld x 8 5 = 0#5), (e4 : fld x 13 5 = ga), (e5 : fld x 18 1 = 0#1), (e6 : fld x 19 2 = acc), (e7 : fld x 21 4 = 12#4), (e8 : fld x 25 7 = 64#7), -⟩ := fmt58 acc ga latch stride 0 0 0 12 64 hx rfl
  delta decodeA; rw [e8]; change (if fld x 6 1 = 0 then if fld x 8 5 = 0 then if fld x 18 1 = 0 then if fld x 21 4 = 12 then Except.ok (Instr.mmaE4e4 (fld x 19 2) (fld x 13 5) (fld x 7 1) (fld x 0 6)) else Except.error DecodeError.operandCode else Except.error DecodeError.reservedField else Except.error DecodeError.reservedField else Except.error DecodeError.reservedField) = _
  simp [e0, e1, e2, e3, e4, e5, e6, e7]

theorem mmaE4e5 (acc : BitVec 2) (ga : BitVec 5) (latch : BitVec 1) (stride : BitVec 6) : Statement (.mmaE4e5 acc ga latch stride) := by
  refine roundTrip_of_A rfl rfl fun x hx => ?_
  obtain ⟨(e0 : fld x 0 6 = stride), (e1 : fld x 6 1 = 0#1), (e2 : fld x 7 1 = latch), (e3 : fld x 8 5 = 0#5), (e4 : fld x 13 5 = ga), (e5 : fld x 18 1 = 0#1), (e6 : fld x 19 2 = acc), (e7 : fld x 21 4 = 12#4), (e8 : fld x 25 7 = 65#7), -⟩ := fmt58 acc ga latch stride 0 0 0 12 65 hx rfl
  delta decodeA; rw [e8]; change (if fld x 6 1 = 0 then if fld x 8 5 = 0 then if fld x 18 1 = 0 then if fld x 21 4 = 12 then Except.ok (Instr.mmaE4e5 (fld x 19 2) (fld x 13 5) (fld x 7 1) (fld x 0 6)) else Except.error DecodeError.operandCode else Except.error DecodeError.reservedField else Except.error DecodeError.reservedField else Except.error DecodeError.reservedField) = _
  simp [e0, e1, e2, e3, e4, e5, e6, e7]

theorem mmaE5e4 (acc : BitVec 2) (ga : BitVec 5) (latch : BitVec 1) (stride : BitVec 6) : Statement (.mmaE5e4 acc ga latch stride) := by
  refine roundTrip_of_A rfl rfl fun x hx => ?_
  obtain ⟨(e0 : fld x 0 6 = stride), (e1 : fld x 6 1 = 0#1), (e2 : fld x 7 1 = latch), (e3 : fld x 8 5 = 0#5), (e4 : fld x 13 5 = ga), (e5 : fld x 18 1 = 0#1), (e6 : fld x 19 2 = acc), (e7 : fld x 21 4 = 12#4), (e8 : fld x 25 7 = 66#7), -⟩ := fmt58 acc ga latch stride 0 0 0 12 66 hx rfl
  delta decodeA; rw [e8]; change (if fld x 6 1 = 0 then if fld x 8 5 = 0 then if fld x 18 1 = 0 then if fld x 21 4 = 12 then Except.ok (Instr.mmaE5e4 (fld x 19 2) (fld x 13 5) (fld x 7 1) (fld x 0 6)) else Except.error DecodeError.operandCode else Except.error DecodeError.reservedField else Except.error DecodeError.reservedField else Except.error DecodeError.reservedField) = _
  simp [e0, e1, e2, e3, e4, e5, e6, e7]

theorem mmaE5e5 (acc : BitVec 2) (ga : BitVec 5) (latch : BitVec 1) (stride : BitVec 6) : Statement (.mmaE5e5 acc ga latch stride) := by
  refine roundTrip_of_A rfl rfl fun x hx => ?_
  obtain ⟨(e0 : fld x 0 6 = stride), (e1 : fld x 6 1 = 0#1), (e2 : fld x 7 1 = latch), (e3 : fld x 8 5 = 0#5), (e4 : fld x 13 5 = ga), (e5 : fld x 18 1 = 0#1), (e6 : fld x 19 2 = acc), (e7 : fld x 21 4 = 12#4), (e8 : fld x 25 7 = 67#7), -⟩ := fmt58 acc ga latch stride 0 0 0 12 67 hx rfl
  delta decodeA; rw [e8]; change (if fld x 6 1 = 0 then if fld x 8 5 = 0 then if fld x 18 1 = 0 then if fld x 21 4 = 12 then Except.ok (Instr.mmaE5e5 (fld x 19 2) (fld x 13 5) (fld x 7 1) (fld x 0 6)) else Except.error DecodeError.operandCode else Except.error DecodeError.reservedField else Except.error DecodeError.reservedField else Except.error DecodeError.reservedField) = _
  simp [e0, e1, e2, e3, e4, e5, e6, e7]

theorem mmaBf16 (acc : BitVec 2) (ga : BitVec 5) (latch : BitVec 1) (stride : BitVec 6) : Statement (.mmaBf16 acc ga latch stride) := by
  refine roundTrip_of_A rfl rfl fun x hx => ?_
  obtain ⟨(e0 : fld x 0 6 = stride), (e1 : fld x 6 1 = 0#1), (e2 : fld x 7 1 = latch), (e3 : fld x 8 5 = 0#5), (e4 : fld x 13 5 = ga), (e5 : fld x 18 1 = 0#1), (e6 : fld x 19 2 = acc), (e7 : fld x 21 4 = 12#4), (e8 : fld x 25 7 = 68#7), -⟩ := fmt58 acc ga latch stride 0 0 0 12 68 hx rfl
  delta decodeA; rw [e8]; change (if fld x 6 1 = 0 then if fld x 8 5 = 0 then if fld x 18 1 = 0 then if fld x 21 4 = 12 then Except.ok (Instr.mmaBf16 (fld x 19 2) (fld x 13 5) (fld x 7 1) (fld x 0 6)) else Except.error DecodeError.operandCode else Except.error DecodeError.reservedField else Except.error DecodeError.reservedField else Except.error DecodeError.reservedField) = _
  simp [e0, e1, e2, e3, e4, e5, e6, e7]

theorem mmaF16 (acc : BitVec 2) (ga : BitVec 5) (latch : BitVec 1) (stride : BitVec 6) : Statement (.mmaF16 acc ga latch stride) := by
  refine roundTrip_of_A rfl rfl fun x hx => ?_
  obtain ⟨(e0 : fld x 0 6 = stride), (e1 : fld x 6 1 = 0#1), (e2 : fld x 7 1 = latch), (e3 : fld x 8 5 = 0#5), (e4 : fld x 13 5 = ga), (e5 : fld x 18 1 = 0#1), (e6 : fld x 19 2 = acc), (e7 : fld x 21 4 = 12#4), (e8 : fld x 25 7 = 69#7), -⟩ := fmt58 acc ga latch stride 0 0 0 12 69 hx rfl
  delta decodeA; rw [e8]; change (if fld x 6 1 = 0 then if fld x 8 5 = 0 then if fld x 18 1 = 0 then if fld x 21 4 = 12 then Except.ok (Instr.mmaF16 (fld x 19 2) (fld x 13 5) (fld x 7 1) (fld x 0 6)) else Except.error DecodeError.operandCode else Except.error DecodeError.reservedField else Except.error DecodeError.reservedField else Except.error DecodeError.reservedField) = _
  simp [e0, e1, e2, e3, e4, e5, e6, e7]

theorem mmaE3m2 (acc : BitVec 2) (ga : BitVec 5) (latch : BitVec 1) (stride : BitVec 6) : Statement (.mmaE3m2 acc ga latch stride) := by
  refine roundTrip_of_A rfl rfl fun x hx => ?_
  obtain ⟨(e0 : fld x 0 6 = stride), (e1 : fld x 6 1 = 0#1), (e2 : fld x 7 1 = latch), (e3 : fld x 8 5 = 0#5), (e4 : fld x 13 5 = ga), (e5 : fld x 18 1 = 0#1), (e6 : fld x 19 2 = acc), (e7 : fld x 21 4 = 12#4), (e8 : fld x 25 7 = 70#7), -⟩ := fmt58 acc ga latch stride 0 0 0 12 70 hx rfl
  delta decodeA; rw [e8]; change (if fld x 6 1 = 0 then if fld x 8 5 = 0 then if fld x 18 1 = 0 then if fld x 21 4 = 12 then Except.ok (Instr.mmaE3m2 (fld x 19 2) (fld x 13 5) (fld x 7 1) (fld x 0 6)) else Except.error DecodeError.operandCode else Except.error DecodeError.reservedField else Except.error DecodeError.reservedField else Except.error DecodeError.reservedField) = _
  simp [e0, e1, e2, e3, e4, e5, e6, e7]

theorem mmaE2m3 (acc : BitVec 2) (ga : BitVec 5) (latch : BitVec 1) (stride : BitVec 6) : Statement (.mmaE2m3 acc ga latch stride) := by
  refine roundTrip_of_A rfl rfl fun x hx => ?_
  obtain ⟨(e0 : fld x 0 6 = stride), (e1 : fld x 6 1 = 0#1), (e2 : fld x 7 1 = latch), (e3 : fld x 8 5 = 0#5), (e4 : fld x 13 5 = ga), (e5 : fld x 18 1 = 0#1), (e6 : fld x 19 2 = acc), (e7 : fld x 21 4 = 12#4), (e8 : fld x 25 7 = 71#7), -⟩ := fmt58 acc ga latch stride 0 0 0 12 71 hx rfl
  delta decodeA; rw [e8]; change (if fld x 6 1 = 0 then if fld x 8 5 = 0 then if fld x 18 1 = 0 then if fld x 21 4 = 12 then Except.ok (Instr.mmaE2m3 (fld x 19 2) (fld x 13 5) (fld x 7 1) (fld x 0 6)) else Except.error DecodeError.operandCode else Except.error DecodeError.reservedField else Except.error DecodeError.reservedField else Except.error DecodeError.reservedField) = _
  simp [e0, e1, e2, e3, e4, e5, e6, e7]

theorem mmaE2m1 (acc : BitVec 2) (ga : BitVec 5) (latch : BitVec 1) (stride : BitVec 6) : Statement (.mmaE2m1 acc ga latch stride) := by
  refine roundTrip_of_A rfl rfl fun x hx => ?_
  obtain ⟨(e0 : fld x 0 6 = stride), (e1 : fld x 6 1 = 0#1), (e2 : fld x 7 1 = latch), (e3 : fld x 8 5 = 0#5), (e4 : fld x 13 5 = ga), (e5 : fld x 18 1 = 0#1), (e6 : fld x 19 2 = acc), (e7 : fld x 21 4 = 12#4), (e8 : fld x 25 7 = 72#7), -⟩ := fmt58 acc ga latch stride 0 0 0 12 72 hx rfl
  delta decodeA; rw [e8]; change (if fld x 6 1 = 0 then if fld x 8 5 = 0 then if fld x 18 1 = 0 then if fld x 21 4 = 12 then Except.ok (Instr.mmaE2m1 (fld x 19 2) (fld x 13 5) (fld x 7 1) (fld x 0 6)) else Except.error DecodeError.operandCode else Except.error DecodeError.reservedField else Except.error DecodeError.reservedField else Except.error DecodeError.reservedField) = _
  simp [e0, e1, e2, e3, e4, e5, e6, e7]

theorem mmaCb2e4 (acc : BitVec 2) (ga : BitVec 5) (latch : BitVec 1) (bank : BitVec 1) (stride : BitVec 6) : Statement (.mmaCb2e4 acc ga latch bank stride) := by
  refine roundTrip_of_A rfl rfl fun x hx => ?_
  obtain ⟨(e0 : fld x 0 6 = stride), (e1 : fld x 6 1 = bank), (e2 : fld x 7 1 = latch), (e3 : fld x 8 5 = 0#5), (e4 : fld x 13 5 = ga), (e5 : fld x 18 1 = 0#1), (e6 : fld x 19 2 = acc), (e7 : fld x 21 4 = 12#4), (e8 : fld x 25 7 = 73#7), -⟩ := fmt59 acc ga latch bank stride 0 0 12 73 hx rfl
  delta decodeA; rw [e8]; change (if fld x 8 5 = 0 then if fld x 18 1 = 0 then if fld x 21 4 = 12 then Except.ok (Instr.mmaCb2e4 (fld x 19 2) (fld x 13 5) (fld x 7 1) (fld x 6 1) (fld x 0 6)) else Except.error DecodeError.operandCode else Except.error DecodeError.reservedField else Except.error DecodeError.reservedField) = _
  simp [e0, e1, e2, e3, e4, e5, e6, e7]

theorem mmaS8 (acc : BitVec 2) (ga : BitVec 5) (latch : BitVec 1) (stride : BitVec 6) : Statement (.mmaS8 acc ga latch stride) := by
  refine roundTrip_of_A rfl rfl fun x hx => ?_
  obtain ⟨(e0 : fld x 0 6 = stride), (e1 : fld x 6 1 = 0#1), (e2 : fld x 7 1 = latch), (e3 : fld x 8 5 = 0#5), (e4 : fld x 13 5 = ga), (e5 : fld x 18 1 = 0#1), (e6 : fld x 19 2 = acc), (e7 : fld x 21 4 = 12#4), (e8 : fld x 25 7 = 74#7), -⟩ := fmt58 acc ga latch stride 0 0 0 12 74 hx rfl
  delta decodeA; rw [e8]; change (if fld x 6 1 = 0 then if fld x 8 5 = 0 then if fld x 18 1 = 0 then if fld x 21 4 = 12 then Except.ok (Instr.mmaS8 (fld x 19 2) (fld x 13 5) (fld x 7 1) (fld x 0 6)) else Except.error DecodeError.operandCode else Except.error DecodeError.reservedField else Except.error DecodeError.reservedField else Except.error DecodeError.reservedField) = _
  simp [e0, e1, e2, e3, e4, e5, e6, e7]

theorem mmaCb2bf (acc : BitVec 2) (ga : BitVec 5) (latch : BitVec 1) (bank : BitVec 1) (stride : BitVec 6) : Statement (.mmaCb2bf acc ga latch bank stride) := by
  refine roundTrip_of_A rfl rfl fun x hx => ?_
  obtain ⟨(e0 : fld x 0 6 = stride), (e1 : fld x 6 1 = bank), (e2 : fld x 7 1 = latch), (e3 : fld x 8 5 = 0#5), (e4 : fld x 13 5 = ga), (e5 : fld x 18 1 = 0#1), (e6 : fld x 19 2 = acc), (e7 : fld x 21 4 = 12#4), (e8 : fld x 25 7 = 75#7), -⟩ := fmt59 acc ga latch bank stride 0 0 12 75 hx rfl
  delta decodeA; rw [e8]; change (if fld x 8 5 = 0 then if fld x 18 1 = 0 then if fld x 21 4 = 12 then Except.ok (Instr.mmaCb2bf (fld x 19 2) (fld x 13 5) (fld x 7 1) (fld x 6 1) (fld x 0 6)) else Except.error DecodeError.operandCode else Except.error DecodeError.reservedField else Except.error DecodeError.reservedField) = _
  simp [e0, e1, e2, e3, e4, e5, e6, e7]

theorem mzero (acc : BitVec 2) : Statement (.mzero acc) := by
  refine roundTrip_of_A rfl rfl fun x hx => ?_
  obtain ⟨(e0 : fld x 0 19 = 0#19), (e1 : fld x 19 2 = acc), (e2 : fld x 21 4 = 12#4), (e3 : fld x 25 7 = 80#7), -⟩ := fmt60 acc 0 12 80 hx rfl
  delta decodeA; rw [e3]; change (if fld x 0 19 = 0 then if fld x 21 4 = 12 then Except.ok (Instr.mzero (fld x 19 2)) else Except.error DecodeError.operandCode else Except.error DecodeError.reservedField) = _
  simp [e0, e1, e2]

theorem mst (acc : BitVec 2) (ga : BitVec 5) (ty : BitVec 4) (rm : BitVec 3) : Statement (.mst acc ga ty rm) := by
  refine roundTrip_of_A rfl rfl fun x hx => ?_
  obtain ⟨(e0 : fld x 0 3 = rm), (e1 : fld x 3 4 = ty), (e2 : fld x 7 6 = 0#6), (e3 : fld x 13 5 = ga), (e4 : fld x 18 1 = 0#1), (e5 : fld x 19 2 = acc), (e6 : fld x 21 4 = 12#4), (e7 : fld x 25 7 = 81#7), -⟩ := fmt61 acc ga ty rm 0 0 12 81 hx rfl
  delta decodeA; rw [e7]; change (if fld x 7 6 = 0 then if fld x 18 1 = 0 then if fld x 21 4 = 12 then Except.ok (Instr.mst (fld x 19 2) (fld x 13 5) (fld x 3 4) (fld x 0 3)) else Except.error DecodeError.operandCode else Except.error DecodeError.reservedField else Except.error DecodeError.reservedField) = _
  simp [e0, e1, e2, e3, e4, e5, e6]

theorem mld (acc : BitVec 2) (ga : BitVec 5) (ty : BitVec 4) : Statement (.mld acc ga ty) := by
  refine roundTrip_of_A rfl rfl fun x hx => ?_
  obtain ⟨(e0 : fld x 0 3 = 0#3), (e1 : fld x 3 4 = ty), (e2 : fld x 7 6 = 0#6), (e3 : fld x 13 5 = ga), (e4 : fld x 18 1 = 0#1), (e5 : fld x 19 2 = acc), (e6 : fld x 21 4 = 12#4), (e7 : fld x 25 7 = 82#7), -⟩ := fmt62 acc ga ty 0 0 0 12 82 hx rfl
  delta decodeA; rw [e7]; change (if fld x 0 3 = 0 then if fld x 7 6 = 0 then if fld x 18 1 = 0 then if fld x 21 4 = 12 then Except.ok (Instr.mld (fld x 19 2) (fld x 13 5) (fld x 3 4)) else Except.error DecodeError.operandCode else Except.error DecodeError.reservedField else Except.error DecodeError.reservedField else Except.error DecodeError.reservedField) = _
  simp [e0, e1, e2, e3, e4, e5, e6]

theorem bldMemory (ga : BitVec 5) (latch : BitVec 1) : Statement (.bldMemory ga latch) := by
  refine roundTrip_of_A rfl rfl fun x hx => ?_
  obtain ⟨(e0 : fld x 0 7 = 0#7), (e1 : fld x 7 1 = latch), (e2 : fld x 8 5 = 0#5), (e3 : fld x 13 5 = ga), (e4 : fld x 18 1 = 0#1), (e5 : fld x 19 6 = 0#6), (e6 : fld x 25 7 = 83#7), -⟩ := fmt63 ga latch 0 0 0 0 83 hx rfl
  delta decodeA; rw [e6]; change (if fld x 18 1 = 0 then if fld x 0 7 = 0 then if fld x 8 5 = 0 then if fld x 19 6 = 0 then Except.ok (Instr.bldMemory (fld x 13 5) (fld x 7 1)) else Except.error DecodeError.reservedField else Except.error DecodeError.reservedField else Except.error DecodeError.reservedField else if fld x 0 7 = 0 then if fld x 8 5 = 0 then if fld x 16 2 = 0 then if fld x 19 6 = 0 then Except.ok (Instr.bldQueue (fld x 13 3) (fld x 7 1)) else Except.error DecodeError.reservedField else Except.error DecodeError.reservedField else Except.error DecodeError.reservedField else Except.error DecodeError.reservedField) = _
  simp [e0, e1, e2, e3, e4, e5]

theorem bldQueue (q : BitVec 3) (latch : BitVec 1) : Statement (.bldQueue q latch) := by
  refine roundTrip_of_A rfl rfl fun x hx => ?_
  obtain ⟨(e0 : fld x 0 7 = 0#7), (e1 : fld x 7 1 = latch), (e2 : fld x 8 5 = 0#5), (e3 : fld x 13 3 = q), (e4 : fld x 16 2 = 0#2), (e5 : fld x 18 1 = 1#1), (e6 : fld x 19 6 = 0#6), (e7 : fld x 25 7 = 83#7), -⟩ := fmt64 q latch 0 0 0 1 0 83 hx rfl
  delta decodeA; rw [e7]; change (if fld x 18 1 = 0 then if fld x 0 7 = 0 then if fld x 8 5 = 0 then if fld x 19 6 = 0 then Except.ok (Instr.bldMemory (fld x 13 5) (fld x 7 1)) else Except.error DecodeError.reservedField else Except.error DecodeError.reservedField else Except.error DecodeError.reservedField else if fld x 0 7 = 0 then if fld x 8 5 = 0 then if fld x 16 2 = 0 then if fld x 19 6 = 0 then Except.ok (Instr.bldQueue (fld x 13 3) (fld x 7 1)) else Except.error DecodeError.reservedField else Except.error DecodeError.reservedField else Except.error DecodeError.reservedField else Except.error DecodeError.reservedField) = _
  simp [e0, e1, e2, e3, e4, e5, e6]

theorem bpass (latch : BitVec 1) : Statement (.bpass latch) := by
  refine roundTrip_of_A rfl rfl fun x hx => ?_
  obtain ⟨(e0 : fld x 0 7 = 0#7), (e1 : fld x 7 1 = latch), (e2 : fld x 8 17 = 0#17), (e3 : fld x 25 7 = 84#7), -⟩ := fmt65 latch 0 0 84 hx rfl
  delta decodeA; rw [e3]; change (if fld x 0 7 = 0 then if fld x 8 17 = 0 then Except.ok (Instr.bpass (fld x 7 1)) else Except.error DecodeError.reservedField else Except.error DecodeError.reservedField) = _
  simp [e0, e1, e2]

theorem bwait (latch : BitVec 1) : Statement (.bwait latch) := by
  refine roundTrip_of_A rfl rfl fun x hx => ?_
  obtain ⟨(e0 : fld x 0 7 = 0#7), (e1 : fld x 7 1 = latch), (e2 : fld x 8 17 = 0#17), (e3 : fld x 25 7 = 85#7), -⟩ := fmt65 latch 0 0 85 hx rfl
  delta decodeA; rw [e3]; change (if fld x 0 7 = 0 then if fld x 8 17 = 0 then Except.ok (Instr.bwait (fld x 7 1)) else Except.error DecodeError.reservedField else Except.error DecodeError.reservedField) = _
  simp [e0, e1, e2]

theorem machineCheck (h : Nat) : Statement (.machineCheck h) := ⟨fun _ _ h => (nomatch h), fun _ h => nomatch h⟩

theorem scrubWord (c : Nat) : Statement (.scrubWord c) := ⟨fun _ _ h => (nomatch h), fun _ h => nomatch h⟩

theorem mmaComplete (c : Nat) : Statement (.mmaComplete c) := ⟨fun _ _ h => (nomatch h), fun _ h => nomatch h⟩

theorem seamHandoffBegin (c : Nat) (l : Bool) : Statement (.seamHandoffBegin c l) := ⟨fun _ _ h => (nomatch h), fun _ h => nomatch h⟩

theorem seamArrivalLanded (c : Nat) (l : Bool) : Statement (.seamArrivalLanded c l) := ⟨fun _ _ h => (nomatch h), fun _ h => nomatch h⟩

theorem ballastMma (c : Nat) : Statement (.ballastMma c) := ⟨fun _ _ h => (nomatch h), fun _ h => nomatch h⟩

theorem pageWalkComplete (c : Nat) : Statement (.pageWalkComplete c) := ⟨fun _ _ h => (nomatch h), fun _ h => nomatch h⟩

theorem fillArrives (c : Nat) : Statement (.fillArrives c) := ⟨fun _ _ h => (nomatch h), fun _ h => nomatch h⟩

theorem idleCoalesce (c st : Nat) : Statement (.idleCoalesce c st) := ⟨fun _ _ h => (nomatch h), fun _ h => nomatch h⟩

theorem homeStore (h : Nat) : Statement (.homeStore h) := ⟨fun _ _ h => (nomatch h), fun _ h => nomatch h⟩

theorem homeFill (h : Nat) : Statement (.homeFill h) := ⟨fun _ _ h => (nomatch h), fun _ h => nomatch h⟩

theorem homeWriteback (h : Nat) : Statement (.homeWriteback h) := ⟨fun _ _ h => (nomatch h), fun _ h => nomatch h⟩

theorem farAtomic (h : Nat) : Statement (.farAtomic h) := ⟨fun _ _ h => (nomatch h), fun _ h => nomatch h⟩

theorem amoGroupTimeout (h : Nat) : Statement (.amoGroupTimeout h) := ⟨fun _ _ h => (nomatch h), fun _ h => nomatch h⟩

theorem invalidate (k : Nat) : Statement (.invalidate k) := ⟨fun _ _ h => (nomatch h), fun _ h => nomatch h⟩

theorem remoteInvalidate (dev region lo hi : Nat) : Statement (.remoteInvalidate dev region lo hi) := ⟨fun _ _ h => (nomatch h), fun _ h => nomatch h⟩

theorem invalidateAck (h : Nat) : Statement (.invalidateAck h) := ⟨fun _ _ h => (nomatch h), fun _ h => nomatch h⟩

theorem invalidateTimeout (h party : Nat) : Statement (.invalidateTimeout h party) := ⟨fun _ _ h => (nomatch h), fun _ h => nomatch h⟩

theorem ackReceived (h : Nat) : Statement (.ackReceived h) := ⟨fun _ _ h => (nomatch h), fun _ h => nomatch h⟩

theorem egressCombineTimeout (k : Nat) : Statement (.egressCombineTimeout k) := ⟨fun _ _ h => (nomatch h), fun _ h => nomatch h⟩

theorem boltStore (k : Nat) : Statement (.boltStore k) := ⟨fun _ _ h => (nomatch h), fun _ h => nomatch h⟩

theorem boltRead (k : Nat) : Statement (.boltRead k) := ⟨fun _ _ h => (nomatch h), fun _ h => nomatch h⟩

theorem forwardedWindowAccess (c : Nat) : Statement (.forwardedWindowAccess c) := ⟨fun _ _ h => (nomatch h), fun _ h => nomatch h⟩

theorem wunmapDrainComplete (c n : Nat) : Statement (.wunmapDrainComplete c n) := ⟨fun _ _ h => (nomatch h), fun _ h => nomatch h⟩

theorem sowerWalkStep (k : Nat) : Statement (.sowerWalkStep k) := ⟨fun _ _ h => (nomatch h), fun _ h => nomatch h⟩

theorem publicationNotice (k : Nat) : Statement (.publicationNotice k) := ⟨fun _ _ h => (nomatch h), fun _ h => nomatch h⟩

theorem pubComplete (h : Nat) : Statement (.pubComplete h) := ⟨fun _ _ h => (nomatch h), fun _ h => nomatch h⟩

theorem messageArrival (c : Nat) : Statement (.messageArrival c) := ⟨fun _ _ h => (nomatch h), fun _ h => nomatch h⟩

theorem channelPacketArrival (c : Nat) : Statement (.channelPacketArrival c) := ⟨fun _ _ h => (nomatch h), fun _ h => nomatch h⟩

theorem countModeArrival (c : Nat) : Statement (.countModeArrival c) := ⟨fun _ _ h => (nomatch h), fun _ h => nomatch h⟩

theorem taskDispatch (h : Nat) : Statement (.taskDispatch h) := ⟨fun _ _ h => (nomatch h), fun _ h => nomatch h⟩

theorem dequeAgeing (c : Nat) : Statement (.dequeAgeing c) := ⟨fun _ _ h => (nomatch h), fun _ h => nomatch h⟩

theorem drillCycle (d : Nat) : Statement (.drillCycle d) := ⟨fun _ _ h => (nomatch h), fun _ h => nomatch h⟩

theorem preemptionRequest (h : Nat) (dest : Option Nat) : Statement (.preemptionRequest h dest) := ⟨fun _ _ h => (nomatch h), fun _ h => nomatch h⟩

theorem forcedSave (h : Nat) : Statement (.forcedSave h) := ⟨fun _ _ h => (nomatch h), fun _ h => nomatch h⟩

theorem registerContextArrival (c : Nat) : Statement (.registerContextArrival c) := ⟨fun _ _ h => (nomatch h), fun _ h => nomatch h⟩

theorem loadReplyForwarded (c : Nat) : Statement (.loadReplyForwarded c) := ⟨fun _ _ h => (nomatch h), fun _ h => nomatch h⟩

theorem copy (e : Nat) : Statement (.copy e) := ⟨fun _ _ h => (nomatch h), fun _ h => nomatch h⟩

theorem copyChunk (e : Nat) : Statement (.copyChunk e) := ⟨fun _ _ h => (nomatch h), fun _ h => nomatch h⟩

theorem allReduce (e : Nat) (others : List (List Byte)) : Statement (.allReduce e others) := ⟨fun _ _ h => (nomatch h), fun _ h => nomatch h⟩

theorem reduceScatter (e : Nat) (others : List (List Byte)) : Statement (.reduceScatter e others) := ⟨fun _ _ h => (nomatch h), fun _ h => nomatch h⟩

theorem allGather (e : Nat) (others : List (List Byte)) : Statement (.allGather e others) := ⟨fun _ _ h => (nomatch h), fun _ h => nomatch h⟩

theorem broadcast (e : Nat) (others : List (List Byte)) : Statement (.broadcast e others) := ⟨fun _ _ h => (nomatch h), fun _ h => nomatch h⟩

theorem mediaDecode (e : Nat) : Statement (.mediaDecode e) := ⟨fun _ _ h => (nomatch h), fun _ h => nomatch h⟩

theorem jobComplete (e : Nat) : Statement (.jobComplete e) := ⟨fun _ _ h => (nomatch h), fun _ h => nomatch h⟩

theorem gleanerVisit (k slot : Nat) : Statement (.gleanerVisit k slot) := ⟨fun _ _ h => (nomatch h), fun _ h => nomatch h⟩

theorem gleanerPassStart (k slot : Nat) : Statement (.gleanerPassStart k slot) := ⟨fun _ _ h => (nomatch h), fun _ h => nomatch h⟩

theorem rampSlotBoundary : Statement (.rampSlotBoundary) := ⟨fun _ _ h => (nomatch h), fun _ h => nomatch h⟩

theorem waiteDeadline (h : Nat) : Statement (.waiteDeadline h) := ⟨fun _ _ h => (nomatch h), fun _ h => nomatch h⟩

theorem hostWrite (path : HostPath) (off : Nat) (data : List Byte) : Statement (.hostWrite path off data) := ⟨fun _ _ h => (nomatch h), fun _ h => nomatch h⟩

theorem hostRead (path : HostPath) (off len : Nat) : Statement (.hostRead path off len) := ⟨fun _ _ h => (nomatch h), fun _ h => nomatch h⟩

theorem doorbellWrite (size : Nat) (value : BitVec 32) : Statement (.doorbellWrite size value) := ⟨fun _ _ h => (nomatch h), fun _ h => nomatch h⟩

theorem ownerCas (m : Master) (expected new : BitVec 64) : Statement (.ownerCas m expected new) := ⟨fun _ _ h => (nomatch h), fun _ h => nomatch h⟩

theorem hostLaunch (m : Master) (p : BitVec 4) (value : BitVec 64) : Statement (.hostLaunch m p value) := ⟨fun _ _ h => (nomatch h), fun _ h => nomatch h⟩

theorem hostResume (m : Master) (handle action : BitVec 64) : Statement (.hostResume m handle action) := ⟨fun _ _ h => (nomatch h), fun _ h => nomatch h⟩

theorem trapAcknowledge (m : Master) (p : BitVec 4) : Statement (.trapAcknowledge m p) := ⟨fun _ _ h => (nomatch h), fun _ h => nomatch h⟩

theorem hostTrapDelivery (c : Nat) : Statement (.hostTrapDelivery c) := ⟨fun _ _ h => (nomatch h), fun _ h => nomatch h⟩

theorem partitionWrite (m : Master) (p : BitVec 4) (w0 w1 w2 w3 : BitVec 64) : Statement (.partitionWrite m p w0 w1 w2 w3) := ⟨fun _ _ h => (nomatch h), fun _ h => nomatch h⟩

theorem samplingPulse (m : Option Master) : Statement (.samplingPulse m) := ⟨fun _ _ h => (nomatch h), fun _ h => nomatch h⟩

theorem samplingPeriod : Statement (.samplingPeriod) := ⟨fun _ _ h => (nomatch h), fun _ h => nomatch h⟩

theorem debugHalt (m : Option Master) (k : Nat) : Statement (.debugHalt m k) := ⟨fun _ _ h => (nomatch h), fun _ h => nomatch h⟩

theorem debugRegisterWrite (m : Master) (h : Nat) (r : DebugReg) : Statement (.debugRegisterWrite m h r) := ⟨fun _ _ h => (nomatch h), fun _ h => nomatch h⟩

theorem registerWrite (m : Master) (off : Nat) (value : BitVec 64) : Statement (.registerWrite m off value) := ⟨fun _ _ h => (nomatch h), fun _ h => nomatch h⟩

theorem linkPortFailure (p : Nat) : Statement (.linkPortFailure p) := ⟨fun _ _ h => (nomatch h), fun _ h => nomatch h⟩

theorem linkFailoverTimeout (p : Nat) : Statement (.linkFailoverTimeout p) := ⟨fun _ _ h => (nomatch h), fun _ h => nomatch h⟩

theorem powerOn (img : Image) : Statement (.powerOn img) := ⟨fun _ _ h => (nomatch h), fun _ h => nomatch h⟩

theorem deviceReset : Statement (.deviceReset) := ⟨fun _ _ h => (nomatch h), fun _ h => nomatch h⟩

theorem unitReady (u : DevUnit) : Statement (.unitReady u) := ⟨fun _ _ h => (nomatch h), fun _ h => nomatch h⟩

theorem unitMappedOut (u : DevUnit) : Statement (.unitMappedOut u) := ⟨fun _ _ h => (nomatch h), fun _ h => nomatch h⟩

theorem fatalError (cause : BitVec 64) : Statement (.fatalError cause) := ⟨fun _ _ h => (nomatch h), fun _ h => nomatch h⟩

theorem dumpResendRequest (off len : Nat) : Statement (.dumpResendRequest off len) := ⟨fun _ _ h => (nomatch h), fun _ h => nomatch h⟩

theorem clusterResume (m : Master) (k : Nat) : Statement (.clusterResume m k) := ⟨fun _ _ h => (nomatch h), fun _ h => nomatch h⟩

theorem softError (t : ErrTarget) : Statement (.softError t) := ⟨fun _ _ h => (nomatch h), fun _ h => nomatch h⟩

theorem plbinvDrop (p : PlbDrop) : Statement (.plbinvDrop p) := ⟨fun _ _ h => (nomatch h), fun _ h => nomatch h⟩

theorem peerReadCompletion (data : List Byte) : Statement (.peerReadCompletion data) := ⟨fun _ _ h => (nomatch h), fun _ h => nomatch h⟩

theorem malformedCommand (e : Nat) : Statement (.malformedCommand e) := ⟨fun _ _ h => (nomatch h), fun _ h => nomatch h⟩

end Sys2Proof.Laws.RoundTrip
end

