-- ==== Sys2Proof/Safety.lean ====
section
/-! DEFINITION. The terms in which statements are made: when an instruction of a hart issues, what its retirement makes of its effect, and the
results that the rules give the groups of instructions, written from the rules' own words. -/

namespace Sys2Proof.Machine

/-! ### Issue and retirement -/

/-- The instruction stands in the C slot, or in the A slot (R37). -/
def standsInC (i : Instr) : Bool := (encodeC i).isSome
def standsInA (i : Instr) : Bool := (encodeA i).isSome

/-- Instruction i issues in this state (R40, R71, R73, R75): the hart runs, the fields are legal, the registers are allocated and not pending,
and no register word is in error. -/
def State.ready (s : State) (i : Instr) : Bool :=
  s.mayIssue && wellFormed i && s.me.allocated (uses i) && !s.me.awaits (uses i) && s.me.errs.isEmpty && s.me.lostWord.isNone

/-- The bundle retires with the effect t (R41): `sp` is its S bit, `jump` where a taken transfer goes. -/
def State.finish (t : State) (sp : Bool) (jump : Option Word := none) : State := t.forgetAbsent.retire jump sp

/-- The bundle waits on a queue that has no entry for it, or takes none (R255). -/
def State.blockOnQueue (s : State) : State := (s.setMe { s.me with wait := if s.me.wait = .none then .queue else s.me.wait }).block

/-- The step of s, in which time has gone on to r and it is core n's cycle, is its hart k's turn with the outcome v (R14, R255, R321): the core is
with that hart, and stays with it or, when it stalled, goes on to the next; or the hart is the first that waits on a queue, and issues. The arrivals
of a barrier that was completed retire too. -/
def State.comesTo (s r : State) (n k : Nat) (v : State) : Prop :=
  let stalled := (v.hart (4 * n + k)).run = .blocked
  let done (u : State) : Prop := step s = .next (u.resumeAll (r.releasedIn u (n / 16)))
  let turn := r.queueWaiters n = [] ∧ k = (r.core n).turn % 4
  (turn → ¬ stalled → done (v.stayWith n k)) ∧ (turn → stalled → done (v.issueFrom n 3 ((k + 1) % 4))) ∧
    ((r.queueWaiters n).head? = some (4 * n + k) → ¬ stalled → done v)

/-- The hart that issues is to try its bundle: it may issue, and nothing comes before that (R151, R318). -/
def State.tries (s : State) : Prop := s.mayIssue = true ∧ s.me.cancelled = false ∧ s.me.mchecks = []

/-- Its bundle's words are there: its pc may be fetched, no home or other device holds the bytes, nor those of a mask bundle that it has (R84). -/
def State.fetches (s : State) (w0 w1 : BitVec 32) : Prop :=
  s.checkByte s.cur .fetch s.me.pc.toNat = .pass ∧ s.peekHeld s.cur s.me.pc.toNat 8 = false ∧
    s.fetch s.cur s.me.pc.toNat = some (w0, w1) ∧ (bit w0 30 = true → ∀ k, k < 8 → s.mustAsk s.cur (s.me.pc.toNat + 8 + k) = false)

/-! ### Results of the scalar groups -/

/-- A condition as a register value. -/
def truth (p : Prop) [Decidable p] : Word := if p then 1 else 0

/-- Bits [63:32] or [31:0] of a word. -/
def upper (x : Word) : Nat := x.toNat / 2 ^ 32
def lower (x : Word) : Nat := x.toNat % 2 ^ 32

/-- Destination and result of the integer group, the immediate group and LEA, from the registers before the bundle (R78, R79, R80). -/
def scalarResult (x : Hart) : Instr → Option (BitVec 5 × Word)
  | .add _ rd ra rb => some (rd, word ((x.getG ra).toNat + (x.getG rb).toNat))
  | .sub _ rd ra rb => some (rd, BitVec.ofInt 64 ((x.getG ra).toInt - (x.getG rb).toInt))
  | .and _ rd ra rb => some (rd, x.getG ra &&& x.getG rb)
  | .or _ rd ra rb => some (rd, x.getG ra ||| x.getG rb)
  | .xor _ rd ra rb => some (rd, x.getG ra ^^^ x.getG rb)
  | .andn _ rd ra rb => some (rd, x.getG ra &&& ~~~ x.getG rb)
  | .sll _ rd ra rb => some (rd, word ((x.getG ra).toNat * 2 ^ ((x.getG rb).toNat % 64)))
  | .srl _ rd ra rb => some (rd, word ((x.getG ra).toNat / 2 ^ ((x.getG rb).toNat % 64)))
  | .sra _ rd ra rb => some (rd, BitVec.ofInt 64 ((x.getG ra).toInt / 2 ^ ((x.getG rb).toNat % 64)))
  | .slt _ rd ra rb => some (rd, truth ((x.getG ra).toInt < (x.getG rb).toInt))
  | .sltu _ rd ra rb => some (rd, truth ((x.getG ra).toNat < (x.getG rb).toNat))
  | .min _ rd ra rb => some (rd, BitVec.ofInt 64 (min (x.getG ra).toInt (x.getG rb).toInt))
  | .max _ rd ra rb => some (rd, BitVec.ofInt 64 (max (x.getG ra).toInt (x.getG rb).toInt))
  | .minu _ rd ra rb => some (rd, word (min (x.getG ra).toNat (x.getG rb).toNat))
  | .maxu _ rd ra rb => some (rd, word (max (x.getG ra).toNat (x.getG rb).toNat))
  | .mul _ rd ra rb => some (rd, word ((x.getG ra).toNat * (x.getG rb).toNat))
  | .mulh _ rd ra rb => some (rd, BitVec.ofInt 64 ((x.getG ra).toInt * (x.getG rb).toInt / 2 ^ 64))
  | .mulhu _ rd ra rb => some (rd, word ((x.getG ra).toNat * (x.getG rb).toNat / 2 ^ 64))
  | .div _ rd ra rb => some (rd,
      if (x.getG rb).toNat = 0 then BitVec.allOnes 64
      else if (x.getG ra).toInt = -2 ^ 63 ∧ (x.getG rb).toInt = -1 then x.getG ra
      else BitVec.ofInt 64 ((x.getG ra).toInt.tdiv (x.getG rb).toInt))
  | .divu _ rd ra rb => some (rd,
      if (x.getG rb).toNat = 0 then BitVec.allOnes 64 else word ((x.getG ra).toNat / (x.getG rb).toNat))
  | .rem _ rd ra rb => some (rd,
      if (x.getG rb).toNat = 0 then x.getG ra
      else if (x.getG ra).toInt = -2 ^ 63 ∧ (x.getG rb).toInt = -1 then 0
      else BitVec.ofInt 64 ((x.getG ra).toInt - (x.getG rb).toInt * (x.getG ra).toInt.tdiv (x.getG rb).toInt))
  | .remu _ rd ra rb => some (rd,
      if (x.getG rb).toNat = 0 then x.getG ra
      else word ((x.getG ra).toNat - (x.getG rb).toNat * ((x.getG ra).toNat / (x.getG rb).toNat)))
  | .clz _ rd ra => some (rd, word (leadingZeros (x.getG ra)))
  | .ctz _ rd ra => some (rd, word (lowestSet (x.getG ra)))
  | .popc _ rd ra => some (rd, word (popcount (x.getG ra)))
  | .sel _ rd ra rb => some (rd, if x.getG rd = 0 then x.getG rb else x.getG ra)
  | .addi _ rd ra i => some (rd, word ((x.getG ra).toNat + (immWord i).toNat))
  | .andi _ rd ra i => some (rd, x.getG ra &&& immWord i)
  | .ori _ rd ra i => some (rd, x.getG ra ||| immWord i)
  | .xori _ rd ra i => some (rd, x.getG ra ^^^ immWord i)
  | .slti _ rd ra i => some (rd, truth ((x.getG ra).toInt < (immWord i).toInt))
  | .sltiu _ rd ra i => some (rd, truth ((x.getG ra).toNat < (immWord i).toNat))
  | .slli _ rd ra n => some (rd, word ((x.getG ra).toNat * 2 ^ n.toNat))
  | .srli _ rd ra n => some (rd, word ((x.getG ra).toNat / 2 ^ n.toNat))
  | .srai _ rd ra n => some (rd, BitVec.ofInt 64 ((x.getG ra).toInt / 2 ^ n.toNat))
  | .lui _ rd ra i => some (rd, word (lower (immWord i) * 2 ^ 32 + lower (x.getG ra)))
  | .li _ rd v => some (rd, BitVec.ofInt 64 v.toInt)
  | .lea _ rd ra rb scale disp => some (rd, BitVec.ofInt 64 ((x.getG ra).toInt + (x.getG rb).toInt * 2 ^ scale.toNat + disp.toInt))
  | _ => none

/-- Whether a conditional branch is taken, and its target (R42, R81). -/
def branchRule (x : Hart) : Instr → Option (Bool × Word)
  | .beq _ ra rb off => some (decide (x.getG ra = x.getG rb), branchTarget x.pc off)
  | .bne _ ra rb off => some (decide (x.getG ra ≠ x.getG rb), branchTarget x.pc off)
  | .blt _ ra rb off => some (decide ((x.getG ra).toInt < (x.getG rb).toInt), branchTarget x.pc off)
  | .bge _ ra rb off => some (decide ((x.getG rb).toInt ≤ (x.getG ra).toInt), branchTarget x.pc off)
  | .bltu _ ra rb off => some (decide ((x.getG ra).toNat < (x.getG rb).toNat), branchTarget x.pc off)
  | .bgeu _ ra rb off => some (decide ((x.getG rb).toNat ≤ (x.getG ra).toNat), branchTarget x.pc off)
  | _ => none

/-! ### Loads, stores and atomics -/

/-- The scalar loads of R213: destination, base, ord, displacement, bytes, sign extension. -/
def scalarLoad : Instr → Option (BitVec 5 × BitVec 5 × BitVec 4 × Imm 10 × Nat × Bool)
  | .ldb _ rd b o imm => some (rd, b, o, imm, 1, true)
  | .ldbu _ rd b o imm => some (rd, b, o, imm, 1, false)
  | .ldh _ rd b o imm => some (rd, b, o, imm, 2, true)
  | .ldhu _ rd b o imm => some (rd, b, o, imm, 2, false)
  | .ldw _ rd b o imm => some (rd, b, o, imm, 4, true)
  | .ldwu _ rd b o imm => some (rd, b, o, imm, 4, false)
  | .ldd _ rd b o imm => some (rd, b, o, imm, 8, false)
  | _ => none

/-- The scalar stores of R213: source, base, ord, displacement, bytes. -/
def scalarStore : Instr → Option (BitVec 5 × BitVec 5 × BitVec 4 × Imm 10 × Nat)
  | .stb _ rd b o imm => some (rd, b, o, imm, 1)
  | .sth _ rd b o imm => some (rd, b, o, imm, 2)
  | .stw _ rd b o imm => some (rd, b, o, imm, 4)
  | .std _ rd b o imm => some (rd, b, o, imm, 8)
  | _ => none

/-- The AMO group of R220 but AMOFADDV: operation, destination, address and operand registers, ord, bytes. -/
def amoShape : Instr → Option (AmoOp × BitVec 5 × BitVec 5 × BitVec 5 × BitVec 4 × Nat)
  | .amoadd _ rd ra rb o w => some (.add, rd, ra, rb, o, if w = 0 then 4 else 8)
  | .amoand _ rd ra rb o w => some (.and, rd, ra, rb, o, if w = 0 then 4 else 8)
  | .amoor _ rd ra rb o w => some (.or, rd, ra, rb, o, if w = 0 then 4 else 8)
  | .amoxor _ rd ra rb o w => some (.xor, rd, ra, rb, o, if w = 0 then 4 else 8)
  | .amomin _ rd ra rb o w => some (.min, rd, ra, rb, o, if w = 0 then 4 else 8)
  | .amomax _ rd ra rb o w => some (.max, rd, ra, rb, o, if w = 0 then 4 else 8)
  | .amominu _ rd ra rb o w => some (.minu, rd, ra, rb, o, if w = 0 then 4 else 8)
  | .amomaxu _ rd ra rb o w => some (.maxu, rd, ra, rb, o, if w = 0 then 4 else 8)
  | .amoswap _ rd ra rb o w => some (.swap, rd, ra, rb, o, if w = 0 then 4 else 8)
  | .amocas _ rd ra rb o w => some (.cas, rd, ra, rb, o, if w = 0 then 4 else 8)
  | .amofadd _ rd ra rb o => some (.fadd, rd, ra, rb, o, 4)
  | _ => none

/-- The runs of bytes that an access of the scalar and AMO groups reads or writes, and its kind (R209, R213, R219, R220). -/
def accessRuns (x : Hart) (i : Instr) : Option (Kind × Nat × Nat) :=
  match scalarLoad i with
  | some (_, b, _, imm, n, _) => some (.load, (x.getG b + immWord imm).toNat, n)
  | none => match scalarStore i with
    | some (_, b, _, imm, n) => some (.store, (x.getG b + immWord imm).toNat, n)
    | none => match amoShape i with
      | some (_, _, ra, _, _, n) => if (x.getG ra).toNat % n = 0 then some (.atomic, (x.getG ra).toNat, n) else none
      | none => match i with
        | .ldt _ _ b _ imm => some (.load, (x.getG b + immWord imm).toNat / 8 * 8, 8)
        | .stref _ _ b _ imm => some (.store, (x.getG b + immWord imm).toNat, 8)
        | _ => none

/-- The new value of an integer atomic on w-bit operands, as the table of R220 gives it: x the old value, b the operand, e the expected. -/
def amoTable (op : AmoOp) (w : Nat) (x b e : BitVec w) : BitVec w :=
  match op with
  | .add => x + b
  | .and => x &&& b
  | .or => x ||| b
  | .xor => x ^^^ b
  | .min => if b.toInt < x.toInt then b else x
  | .max => if x.toInt < b.toInt then b else x
  | .minu => if b.toNat < x.toNat then b else x
  | .maxu => if x.toNat < b.toNat then b else x
  | .swap => b
  | .cas => if x = e then b else x
  | .fadd => x

/-- The n-byte number at offset o of a core's local memory. -/
def Core.localNum (c : Core) (o n : Nat) : Nat := ofBytes ((List.range n).map (fun k => c.localByte (o + k)))

/-- A run of n > 0 bytes at address a lies in the implemented part of the core-local window (R203, R205). -/
def inLocal (a n : Nat) : Prop := localBase ≤ a ∧ a + n ≤ localBase + localSize

/-- No near-buffer entry meets the run. -/
def Hart.clearOf (x : Hart) (a n : Nat) : Prop := ∀ e ∈ x.near, overlaps e.addr e.data.length a n = false

/-- Nothing of the device that memory is made of has changed but core c's local memory, which is now that of t. -/
def State.onlyLocal (s t : State) (c : Nat) : Prop :=
  t.mem = s.mem ∧ t.memTags = s.memTags ∧ t.homes = s.homes ∧ t.clusters = s.clusters ∧ (∀ d, d ≠ c → t.core d = s.core d)
    ∧ (t.core c).nc = (s.core c).nc ∧ (t.core c).plb = (s.core c).plb ∧ (t.core c).queues = (s.core c).queues
    ∧ (t.core c).ctr = (s.core c).ctr ∧ (t.core c).acc = (s.core c).acc ∧ t.mgmt = s.mgmt

/-- The system registers of the hart that issues (R68, R69): none where no register has the number. -/
def sysValue (s : State) (n : Nat) : Option Word :=
  let x := s.me
  let c := s.core (coreOf s.cur)
  [(0x000, word (s.devnum * 16384 + s.cur % 16384)), (0x001, x.task), (0x002, x.domain), (0x003, word (s.partOf (clusterOf s.cur))),
    (0x004, x.prio), (0x008, x.cause), (0x009, x.faddr), (0x00A, x.trappc), (0x00B, x.regmask), (0x010, x.fflags), (0x011, x.rng),
    (0x012, x.lmflag), (0x013, x.lmaddr), (0x018, s.time), (0x019, c.ballast), (0x01A, word (x.stores.length % 65536)),
    (0x020, word (c.qminShared.toNat * 2 ^ 32 + x.qmin.toNat)), (0x021, word (c.qcapShared.toNat * 2 ^ 32 + x.qcap.toNat)),
    (0x022, x.stktop), (0x023, x.ctxbase), (0x024, c.regerr)].lookup n

/-- The registers of a hart that programs read and write are those of y but for g[rd]. -/
def Hart.keeps (x y : Hart) (rd : BitVec 5) : Prop :=
  (∀ r, r ≠ rd → x.getG r = y.getG r) ∧ x.v = y.v ∧ x.m = y.m ∧ x.pc = y.pc ∧ x.fflags = y.fflags ∧ x.rng = y.rng
    ∧ x.cause = y.cause ∧ x.faddr = y.faddr ∧ x.trappc = y.trappc ∧ x.domain = y.domain ∧ x.regmask = y.regmask ∧ x.prio = y.prio
    ∧ x.task = y.task ∧ x.qmin = y.qmin ∧ x.qcap = y.qcap ∧ x.stktop = y.stktop ∧ x.ctxbase = y.ctxbase

/-- The same but for v[vd]. -/
def Hart.keepsBut (x y : Hart) (vd : BitVec 5) : Prop :=
  x.g = y.g ∧ (∀ r, r ≠ vd → x.getV r = y.getV r) ∧ x.m = y.m ∧ x.pc = y.pc ∧ x.fflags = y.fflags ∧ x.rng = y.rng
    ∧ x.cause = y.cause ∧ x.faddr = y.faddr ∧ x.trappc = y.trappc ∧ x.domain = y.domain ∧ x.regmask = y.regmask ∧ x.prio = y.prio
    ∧ x.task = y.task ∧ x.qmin = y.qmin ∧ x.qcap = y.qcap ∧ x.stktop = y.stktop ∧ x.ctxbase = y.ctxbase

/-- A load of local memory into v[vd] has come to t: the hart's other registers, every other hart and all of memory are as before. -/
def State.loadedLocal (s t : State) (vd : BitVec 5) : Prop :=
  t.me.keepsBut s.me vd ∧ (∀ h, h ≠ s.cur → t.hart h = s.hart h) ∧ s.onlyLocal t (coreOf s.cur)
    ∧ (t.core (coreOf s.cur)).loc = (s.core (coreOf s.cur)).loc

/-- A store to local memory of the addresses of `ps` has come to t: every register, every other hart and core are as before, and, where no window is
registered, so reads every other address for every hart. -/
def State.storedLocal (s t : State) (ps : List Nat) : Prop :=
  t.me.keeps s.me 0 ∧ (∀ h, h ≠ s.cur → t.hart h = s.hart h) ∧ s.onlyLocal t (coreOf s.cur)
    ∧ ((∀ h, (s.home h).windows = []) → ∀ h p, ¬ (coreOf h = coreOf s.cur ∧ p ∈ ps) → t.peekByte h p = s.peekByte h p)

/-! ### The A slot -/

/-- Where the vector v of an A instruction goes (R26, R66, R254): register d is written, or queue d - 32 takes it at its tail, or, where the
queue takes nothing, the bundle waits. `s` is the state with the operands read. -/
def writesVec (pre s : State) (d : BitVec 6) (v : Vec) (r : Result) : Prop :=
  let cid := coreOf pre.cur
  let k := queueAt pre.cur (d.toNat - 32)
  (d.toNat < 32 → r = .next ((s.modMe (fun x => x.setV (d.setWidth 5) v)).finish false)) ∧
  (32 ≤ d.toNat → queueTakes pre (s.core cid) cid k 1 = true → ∃ t : State, r = .next (t.finish false) ∧
    (t.core cid).queue k = (s.core cid).queue k ++ [v] ∧ (∀ j, j ≠ k → (t.core cid).queue j = (s.core cid).queue j) ∧
    t.me.g = s.me.g ∧ t.me.v = s.me.v ∧ t.me.m = s.me.m ∧ t.me.fflags = s.me.fflags ∧ t.me.rng = s.me.rng ∧ t.mem = s.mem) ∧
  (32 ≤ d.toNat → queueTakes pre (s.core cid) cid k 1 = false → r = .next pre.blockOnQueue)

/-- The flags of a result raised and its draws made (R101, R102). -/
def State.flagged (s pre : State) (r : VRes) : State := s.modMe (fun x => x.settle pre.me.rng r)

/-- A w-bit number read as two's complement. -/
def signedOf (w x : Nat) : Int := if 2 ^ (w - 1) ≤ x then (x : Int) - 2 ^ w else x

/-- An element read as its type says: signed for s types (R98). -/
def intOf (t : Ty) (x : Nat) : Int := if t.signed then signedOf t.width x else x

/-- Float instructions of two sources (R107): destination, sources, type, rounding code, element result with flags from draw and elements. -/
def floatTwo : Instr → Option (BitVec 6 × BitVec 6 × BitVec 6 × BitVec 4 × BitVec 3 × (Nat → Nat → Nat → Nat × Flags))
  | .vadd d a b ty rm => some (d, a, b, ty, rm, fun dr x y =>
      let p := fdecode (Ty.of ty) x
      let q := fdecode (Ty.of ty) y
      arith (Ty.of ty) rm dr [p, q] (sumVals rm [p, q]))
  | .vsub d a b ty rm => some (d, a, b, ty, rm, fun dr x y =>
      let p := fdecode (Ty.of ty) x
      let q := fdecode (Ty.of ty) y
      arith (Ty.of ty) rm dr [p, q] (sumVals rm [p, q.neg]))
  | .vmul d a b ty rm => some (d, a, b, ty, rm, fun dr x y =>
      let p := fdecode (Ty.of ty) x
      let q := fdecode (Ty.of ty) y
      arith (Ty.of ty) rm dr [p, q] (mulVals p q))
  | .vmin d a b ty => some (d, a, b, ty, 0, fun _ x y =>
      let p := fdecode (Ty.of ty) x
      let q := fdecode (Ty.of ty) y
      (if p.isNan && q.isNan then (Ty.of ty).nanBits else if p.isNan then y else if q.isNan then x else if q.ltZ p then y else x,
        if p.isSig || q.isSig then flagInvalid else 0))
  | .vmax d a b ty => some (d, a, b, ty, 0, fun _ x y =>
      let p := fdecode (Ty.of ty) x
      let q := fdecode (Ty.of ty) y
      (if p.isNan && q.isNan then (Ty.of ty).nanBits else if p.isNan then y else if q.isNan then x else if p.ltZ q then y else x,
        if p.isSig || q.isSig then flagInvalid else 0))
  | _ => none

/-- Float instructions of one source (R109). -/
def floatOne : Instr → Option (BitVec 6 × BitVec 6 × BitVec 4 × BitVec 3 × (Nat → Nat → Nat × Flags))
  | .vabs d a ty => some (d, a, ty, 0, fun _ x => (x % 2 ^ ((Ty.of ty).ebits + (Ty.of ty).mbits), 0))
  | .vneg d a ty => some (d, a, ty, 0, fun _ x => (x ^^^ 2 ^ ((Ty.of ty).ebits + (Ty.of ty).mbits), 0))
  | .vrcp d a ty rm => some (d, a, ty, rm, fun dr x => rcp (Ty.of ty) rm dr (fdecode (Ty.of ty) x))
  | .vrsq d a ty rm => some (d, a, ty, rm, fun dr x => rsq (Ty.of ty) rm dr (fdecode (Ty.of ty) x))
  | .vexp2 d a ty rm => some (d, a, ty, rm, fun dr x => exp2 (Ty.of ty) rm dr (fdecode (Ty.of ty) x))
  | .vlog2 d a ty rm => some (d, a, ty, rm, fun dr x => log2 (Ty.of ty) rm dr (fdecode (Ty.of ty) x))
  | _ => none

/-- The multiply-adds of R108: register, sources, type, rounding code, sign of the product, sign of the addend. -/
def fusedShape : Instr → Option (BitVec 5 × BitVec 6 × BitVec 6 × BitVec 4 × BitVec 3 × Bool × Bool)
  | .vfma d a b ty rm => some (d, a, b, ty, rm, false, false)
  | .vfms d a b ty rm => some (d, a, b, ty, rm, false, true)
  | .vfnma d a b ty rm => some (d, a, b, ty, rm, true, false)
  | _ => none

/-- The integer group of R110: the exact integer from the elements' encodings, of which the result is the low w bits. -/
def intTwo : Instr → Option (BitVec 6 × BitVec 6 × BitVec 6 × BitVec 4 × (Nat → Nat → Int))
  | .viadd d a b ty => some (d, a, b, ty, fun x y => (x : Int) + y)
  | .visub d a b ty => some (d, a, b, ty, fun x y => (x : Int) - y)
  | .vimul d a b ty => some (d, a, b, ty, fun x y => (x : Int) * y)
  | .vimulh d a b ty => some (d, a, b, ty, fun x y => intOf (Ty.of ty) x * intOf (Ty.of ty) y / 2 ^ (Ty.of ty).width)
  | .vand d a b ty => some (d, a, b, ty, fun x y => ((x &&& y : Nat) : Int))
  | .vor d a b ty => some (d, a, b, ty, fun x y => ((x ||| y : Nat) : Int))
  | .vxor d a b ty => some (d, a, b, ty, fun x y => ((x ^^^ y : Nat) : Int))
  | .vshl d a b ty => some (d, a, b, ty, fun x y => (x : Int) * 2 ^ (y % (Ty.of ty).width))
  | .vshr d a b ty => some (d, a, b, ty, fun x y => (x : Int) / 2 ^ (y % (Ty.of ty).width))
  | .vsra d a b ty => some (d, a, b, ty, fun x y => signedOf (Ty.of ty).width x / 2 ^ (y % (Ty.of ty).width))
  | .vimin d a b ty => some (d, a, b, ty, fun x y => min (intOf (Ty.of ty) x) (intOf (Ty.of ty) y))
  | .vimax d a b ty => some (d, a, b, ty, fun x y => max (intOf (Ty.of ty) x) (intOf (Ty.of ty) y))
  | _ => none

/-- Elements moved from two sources (R112, R114): the encoding of element i from those of A and B. -/
def moveTwo (x : Hart) : Instr → Option (BitVec 6 × BitVec 6 × BitVec 6 × BitVec 4 × ((Nat → Nat) → (Nat → Nat) → Nat → Nat))
  | .vsel d a b ty k => some (d, a, b, ty, fun p q i =>
      if (x.getM k).getLsbD (if (Ty.of ty).lanes = 128 then i / 2 else i) then p i else q i)
  | .vperm d a b ty => some (d, a, b, ty, fun p q i => p (q i % (Ty.of ty).lanes))
  | .vzip d a b ty h => some (d, a, b, ty, fun p q i =>
      if i % 2 = 0 then p (i / 2 + h.toNat * ((Ty.of ty).lanes / 2)) else q (i / 2 + h.toNat * ((Ty.of ty).lanes / 2)))
  | .vunzip d a b ty h => some (d, a, b, ty, fun p q i =>
      if i < (Ty.of ty).lanes / 2 then p (2 * i + h.toNat) else q (2 * (i - (Ty.of ty).lanes / 2) + h.toNat))
  | _ => none

/-- Elements moved from one source and, for VINS and VSLIDE, the old vd (R114): `old` gives its elements. -/
def moveOne : Instr → Option (BitVec 6 × BitVec 6 × BitVec 4 × ((Nat → Nat) → (Nat → Nat) → Nat → Nat))
  | .vbcast d a k ty => some (d, a, ty, fun p _ _ => p k.toNat)
  | .vrot d a k ty => some (d, a, ty, fun p _ i => p ((i + k.toNat) % (Ty.of ty).lanes))
  | .vslide d a k ty => some (d, a, ty, fun p old i =>
      if i + k.toNat < (Ty.of ty).lanes then p (i + k.toNat) else old (i + k.toNat - (Ty.of ty).lanes))
  | .vins d a k ty => some (d, a, ty, fun p old i => if i = k.toNat then p 0 else old i)
  | _ => none

/-- A condition of R53 on two integers. -/
def intCond (cond : Nat) (x y : Int) : Bool :=
  match cond with
  | 0 => decide (x = y) | 1 => decide (x ≠ y) | 2 => decide (x < y) | 3 => decide (x ≤ y) | 4 => decide (y < x) | _ => decide (y ≤ x)

/-- Whether a float condition of R53 holds, and whether it raises invalid (R111). -/
def floatCond (cond : Nat) (x y : FVal) : Bool × Bool :=
  let nan := x.isNan || y.isNan
  let sig := x.isSig || y.isSig
  match cond with
  | 0 => (!nan && !x.lt y && !y.lt x, sig)
  | 1 => (nan || x.lt y || y.lt x, sig)
  | 2 => (!nan && x.lt y, nan)
  | 3 => (!nan && !y.lt x, nan)
  | 4 => (!nan && y.lt x, nan)
  | 5 => (!nan && !x.lt y, nan)
  | 6 => (!nan, sig)
  | _ => (nan, sig)

/-- A mask operand, code 40 to 47 (R51). -/
def maskNamed (x : Hart) (a : BitVec 6) : Word := x.getM (BitVec.ofNat 3 (a.toNat - 40))

/-- The MMA instructions (R127): how A and B are read and the depth, accumulator, address register, latch, bank and row stride. -/
def mmaShape : Instr → Option (Pair × BitVec 2 × BitVec 5 × BitVec 1 × BitVec 1 × BitVec 6)
  | .mmaE4e4 acc ga l st => some (⟨.e4m3, .e4m3, 64⟩, acc, ga, l, 0, st)
  | .mmaE4e5 acc ga l st => some (⟨.e4m3, .e5m2, 64⟩, acc, ga, l, 0, st)
  | .mmaE5e4 acc ga l st => some (⟨.e5m2, .e4m3, 64⟩, acc, ga, l, 0, st)
  | .mmaE5e5 acc ga l st => some (⟨.e5m2, .e5m2, 64⟩, acc, ga, l, 0, st)
  | .mmaBf16 acc ga l st => some (⟨.bf16, .bf16, 32⟩, acc, ga, l, 0, st)
  | .mmaF16 acc ga l st => some (⟨.f16, .f16, 32⟩, acc, ga, l, 0, st)
  | .mmaE3m2 acc ga l st => some (⟨.e3m2, .e3m2, 64⟩, acc, ga, l, 0, st)
  | .mmaE2m3 acc ga l st => some (⟨.e2m3, .e2m3, 64⟩, acc, ga, l, 0, st)
  | .mmaE2m1 acc ga l st => some (⟨.e2m1, .e2m1, 128⟩, acc, ga, l, 0, st)
  | .mmaCb2e4 acc ga l b st => some (⟨.cb2, .e4m3, 64⟩, acc, ga, l, b, st)
  | .mmaS8 acc ga l st => some (⟨.s8, .s8, 64⟩, acc, ga, l, 0, st)
  | .mmaCb2bf acc ga l b st => some (⟨.cb2, .bf16, 32⟩, acc, ga, l, b, st)
  | _ => none

/-- The number that a finite value stands for. -/
def FVal.toRat : FVal → Rat
  | .num s m e => (if s then -1 else 1) * m * 2 ^ e
  | _ => 0

/-- A zero of negative sign. -/
def FVal.isNegZero : FVal → Bool
  | .num s m _ => s && m == 0
  | _ => false

/-- mma_word of R131: what it makes of the old word and a row and a column of values, with the flags that it sets. Finite operands make one exact sum,
which is rounded once. -/
def MmaWordIs (old : Nat) (xs ys : List FVal) (r : Nat × Flags) : Prop :=
  let c := fdecode .f32 old
  let products := List.zipWith mulVals xs ys
  let operands := c :: (xs ++ ys)
  let terms := c :: products.filterMap id
  let nan := ∃ v ∈ operands, FVal.isNan v = true
  let clash := none ∈ products ∨ (FVal.inf true ∈ terms ∧ FVal.inf false ∈ terms)
  let sum : Rat := c.toRat + (List.zipWith (fun x y => FVal.toRat x * FVal.toRat y) xs ys).sum
  (nan → r = (0x7FC00000, if operands.any FVal.isSig then flagInvalid else 0)) ∧
  (¬ nan → clash → r = (0x7FC00000, flagInvalid)) ∧
  (¬ nan → ¬ clash → ∀ s : Bool, FVal.inf s ∈ terms → r = (if s then 0xFF800000 else 0x7F800000, 0)) ∧
  (¬ nan → ¬ clash → FVal.inf true ∉ terms → FVal.inf false ∉ terms →
    (sum = 0 → r = (if terms.all FVal.isNegZero then 0x80000000 else 0, 0)) ∧
    (sum ≠ 0 → ∃ (m : Nat) (e : Int), (FVal.num (decide (sum < 0)) m e).toRat = sum ∧ r = roundTo .f32 0 0 (decide (sum < 0)) m e false))

/-- The core once hart h's task holds its matrix unit: as it is where it has the claim, else with the values at claim (R124, R125). -/
def Core.claimedBy (c : Core) (h : Nat) : Core :=
  if c.claim = some h then c
  else { c with claim := some h, acc := Vector.replicate 4 0, bl := Vector.replicate 2 ⟨.closed, 0, false, false, none⟩ }

/-- The same device as s: every unit that a statement about waiting could ask about is as it was. -/
def State.alike (s t : State) : Prop :=
  (∀ c, t.core c = s.core c) ∧ t.harts = s.harts ∧ t.clusters = s.clusters ∧ t.homes = s.homes ∧ t.dies = s.dies ∧ t.mem = s.mem
    ∧ t.memTags = s.memTags ∧ t.mgmt = s.mgmt ∧ t.agenda = s.agenda ∧ t.out = s.out ∧ t.cur = s.cur ∧ t.time = s.time

/-! ### Events -/

/-- The request r stands at the head of home h's input, and nothing holds it back, is to be performed before it, refuses it or forwards it
(R187, R189, R206, R223). -/
def State.serves (s : State) (h : Nat) (r : Req) (rest : List Req) : Prop :=
  (s.home h).input = r :: rest ∧ s.homeBlocked h [] r = false ∧ (∀ g ∈ (s.home h).groups, g.closedBy r = false)
    ∧ s.refusesReq h r = false ∧ s.windowOf h r.region = none

/-- The idle engine e takes the command c at the head of its queue for the event ev (R271). -/
def State.takes (s : State) (e : Nat) (ev : Event) (c : Cmd) (rest : List Cmd) : Prop :=
  (s.engine e).job = none ∧ (s.engine e).queue = c :: rest ∧ commandEvent e c.words = ev ∧ (s.engine e).parked = false

/-- The command c has become the engine's job, which runs. -/
def State.started (s : State) (e : Nat) (c : Cmd) (rest : List Cmd) : State :=
  s.setEngine e { s.engine e with queue := rest, job := some ⟨c, 0, 0, 0, false, none⟩, states := put c.id.toNat 1 (s.engine e).states }

end Sys2Proof.Machine
end

