-- ==== Sys2Proof/Certificates/Slice0/Obligations.lean ====
section
/-! DEFINITION. The statements about the model, for the provers. Each says which rules of spec/ it formalises. -/

open Sys2Proof Sys2Proof.Machine

/-! ### Reset, decoding, steps, memory -/

/-- R68, R298, R300, R124. What these rules give no reset value is the model's choice: logs 1 (the values of g, v, m and acc, the latches' state,
memory's bytes, time) and 2 name each value that stands here. -/
def Obligations.ResetState : Prop :=
  (∀ h, let x := State.reset.hart h
    x.run = .free ∧ x.job = none ∧ x.regmask = BitVec.allOnes 64 ∧ x.rng = 0x9E3779B97F4A7C15 ∧ x.qmin = 0x04040404 ∧ x.qcap = 0x10101010 ∧
    x.stktop = word (0x00FF000000018000 - 0x1000 * (h % 4)) ∧ x.task = 0 ∧ x.domain = 0 ∧ x.prio = 0 ∧ x.cause = 0 ∧ x.faddr = 0 ∧
    x.trappc = 0 ∧ x.fflags = 0 ∧ x.lmflag = 0 ∧ x.lmaddr = 0 ∧ x.ctxbase = 0 ∧ x.stores = [] ∧ x.loads = [] ∧
    (∀ r, x.getG r = 0) ∧ (∀ r, x.getV r = 0) ∧ (∀ r, r ≠ 0 → x.getM r = 0)) ∧
  (∀ c, let x := State.reset.core c
    (∀ e, x.handler? e = none) ∧ x.windows = [] ∧ x.plb = [] ∧ x.bind = [] ∧ (∀ k, x.queue k = []) ∧ x.runq = [] ∧ x.deque = [] ∧
    (∀ n, x.count n = 0) ∧ x.cb0 = 0 ∧ x.cb1 = 0 ∧ x.claim = none ∧ x.ballast = 0 ∧ x.regerr = 0 ∧ x.forwards = [] ∧
    (∀ n : Fin 4, x.acc[n] = 0) ∧ (∀ l, (x.latch l).st = .closed)) ∧
  State.reset.time = 0 ∧ Memory.wf State.reset.mem ∧ (∀ a, readByte State.reset.mem a = 0)

/-- The worked words of R78, R80, R213, R220, R224, R304, R259, R289, R108, R111, R135, and every major that R57 reserves. -/
def Obligations.WorkedWordsDecode : Prop :=
  decodeC 0x01218E0F 0 = .ok (.mul false 4 6 7) ∧ decodeC 0x0D298F90 0 = .ok (.lea false 5 6 7 3 16) ∧
  decodeC 0x2A518008 0 = .ok (.std false 10 6 0 (.field 8)) ∧ decodeC 0x31018E0D 0 = .ok (.amoadd false 0 6 7 6 1) ∧
  decodeC 0x33383C00 0 = .ok (.fence false 7 15) ∧ decodeC 0x38018500 0 = .ok (.setc false 6 5) ∧
  decodeC 0x39029640 0 = .ok (.send false 10 11 4) ∧ decodeC 0x3B394C20 0 = .ok (.plbinv false 7 5 6 2) ∧
  decodeA 0x08188080 = .ok (.vfma 3 4 1 0 0) ∧ decodeA 0x39508282 = .ok (.vfcmp 42 4 5 0 2) ∧
  decodeA 0x8180A083 = .ok (.mmaE4e4 0 5 1 3) ∧
  (∀ (w lit : BitVec 32) (i : Instr),
    (fld w 24 6).toNat ∈ [0x0E, 0x0F, 0x1A, 0x1B, 0x1C, 0x1D, 0x1E, 0x1F, 0x34, 0x35, 0x36, 0x37, 0x3D, 0x3E, 0x3F] → decodeC w lit ≠ .ok i) ∧
  (∀ (w : BitVec 32) (i : Instr), (fld w 25 7).toNat ∈ [0x0F, 0x1F, 0x26, 0x27, 0x36, 0x37, 0x4C, 0x4D, 0x4E, 0x4F] ∨ 0x56 ≤ (fld w 25 7).toNat →
    decodeA w ≠ .ok i)

/-- The encoding tables of R37 to R57, both slots, all 192 instructions of the slots. -/
def Obligations.EncodingsRoundTrip : Prop :=
  (∀ (i : Instr) (w l : BitVec 32), encodeC i = some (w, l) → decodeC w l = .ok i) ∧
  (∀ (i : Instr) (w : BitVec 32), encodeA i = some w → decodeA w = .ok i) ∧
  (∀ (i j : Instr) (w l : BitVec 32), encodeC i = some (w, l) → encodeC j = some (w, l) → i = j) ∧
  (∀ (i j : Instr) (w : BitVec 32), encodeA i = some w → encodeA j = some w → i = j)

/-- R37, R40, R41, R42, R84, R90, R354, R379; R14, R255, R321 by `comesTo`. That a bundle at a breakpoint which halts waits to be met again is the
model's choice (log 17); so are whose turn it is (log 4) and that an illegal pair traps with the slot bit of the C slot (log 38). -/
def Obligations.StepRunsTheDecodedInstruction : Prop :=
  (∀ (s : State) (rest : List Move) (n k : Nat), s.sched = .core n :: rest →
    let r : State := { s.tick with sched := rest }
    let t : State := { r with cur := 4 * n + k }
    t.tries →
    (∀ (w0 w1 : BitVec 32) (c a : Instr), t.fetches w0 w1 → t.atBreakpoint = false → decodeBundle w0 w1 = .ok (c, a) →
      (∀ i, (a = .nopa ∧ standsInC c = true ∧ i = c) ∨ (c = .nopc ∧ standsInA a = true ∧ i = a) →
        ∃ u : State, exec i t = .next u ∧ s.comesTo r n k u) ∧
      (t.ready c = true → t.ready a = true → pairIllegal c a = true →
        s.comesTo r n k (t.forgetAbsent.trapHere false (safePoint c) .illegal 0 0)) ∧
      (t.ready c = true → t.ready a = true → pairIllegal c a = false →
        (∀ (rd : BitVec 5) (w : Word) (d p q : BitVec 6) (ty : BitVec 4) (f : Nat → Nat → Int) (x y : Vec) (u : State),
          scalarResult t.me c = some (rd, w) → intTwo a = some (d, p, q, ty, f) → d.toNat < 32 → (Src.of p).queue? = none → (Src.of q).queue? = none →
          readTwo t t (elems (Ty.of ty)) (elems (Ty.of ty)) p q = some (x, y, u) →
          s.comesTo r n k ((t.setMe ((t.me.setG rd w).setV (d.setWidth 5) (pureElems (Ty.of ty).width (Ty.of ty).lanes
            (fun j => BitVec.ofInt (Ty.of ty).width (f (elemOf (Ty.of ty) x j) (elemOf (Ty.of ty) y j)))))).finish (safePoint c))) ∧
        (∀ (taken : Bool) (target : Word) (d p q : BitVec 6) (ty : BitVec 4) (f : Nat → Nat → Int) (x y : Vec) (u : State),
          branchRule t.me c = some (taken, target) → intTwo a = some (d, p, q, ty, f) → d.toNat < 32 → (Src.of p).queue? = none →
          (Src.of q).queue? = none → readTwo t t (elems (Ty.of ty)) (elems (Ty.of ty)) p q = some (x, y, u) →
          s.comesTo r n k ((t.setMe (t.me.setV (d.setWidth 5) (pureElems (Ty.of ty).width (Ty.of ty).lanes
            (fun j => BitVec.ofInt (Ty.of ty).width (f (elemOf (Ty.of ty) x j) (elemOf (Ty.of ty) y j)))))).finish (safePoint c)
              (if taken then some target else none))) ∧
        (sharesBank c a = false → isYield c = false →
          (∀ z code fa, slotOp c t t = .trap z code fa → s.comesTo r n k (t.forgetAbsent.trapHere false (safePoint c) z code fa)) ∧
          (∀ u j z code fa, slotOp c t t = .ok u j → slotOp a t u = .trap z code fa →
            s.comesTo r n k (t.forgetAbsent.trapHere true (safePoint c) z code fa))))) ∧
    (∀ z, t.checkByte t.cur .fetch t.me.pc.toNat = .fail z →
      s.comesTo r n k ((t.withdraw t.cur).parkAs t.cur false z 0 t.me.pc t.me.pc 0 (.bundle false))) ∧
    (∀ w0 w1, t.fetches w0 w1 → t.atBreakpoint = true →
      ((t.cluster (clusterOf t.cur)).dbg.haltOnBp = true → s.comesTo r n k (t.haltCluster (clusterOf t.cur)).block) ∧
      ((t.cluster (clusterOf t.cur)).dbg.haltOnBp = false → s.comesTo r n k (t.forgetAbsent.trapHere false (bit w0 30) .breakpoint 0 0)))) ∧
  (∀ (s : State) (rest : List Move) (n : Nat) (e : Event), s.sched = .event n :: rest →
    let r : State := { s.tick with sched := rest }
    let t : State := { r with agenda := r.agenda.eraseIdx n }
    r.agenda[n]? = some e →
    (portOf e = none → step s = execEvent e t) ∧ (∀ c, portOf e = some c → step s = execEvent e (t.resumeAll (t.queueWaiters c)))) ∧
  (∀ (s : State) (h : Nat), execEvent (.homeStore h) s = exec (.homeStore h) s ∧ execEvent (.ackReceived h) s = exec (.ackReceived h) s ∧
    execEvent (.machineCheck h) s = exec (.machineCheck h) s ∧ execEvent (.messageArrival h) s = exec (.messageArrival h) s ∧
    execEvent (.copyChunk h) s = exec (.copyChunk h) s)

/-- R149, R152: every trap is a next state of the device. No instruction of the model ends in a fault or a refusal. -/
def Obligations.EveryStepAnswers : Prop :=
  (∀ s : State, ∃ t : State, step s = .next t) ∧ (∀ (i : Instr) (s : State), ∃ t : State, exec i s = .next t)

/-- R4, R6. That every operation keeps the canonical form is a lemma of Laws/Memory.lean. -/
def Obligations.MemoryReadsWhatWasWritten : Prop :=
  (∀ (m : List Host.Cell) (a : Nat) (bs : List Byte), Memory.wf m →
    readBytes (writeBytes m a bs) a bs.length = bs ∧ (∀ p, p < a ∨ a + bs.length ≤ p → readByte (writeBytes m a bs) p = readByte m p)) ∧
  (∀ (m : List Host.Cell) (a p : Nat) (b : Byte), Memory.wf m → readByte (writeByte m a b) p = if p = a then b else readByte m p) ∧
  (∀ m m' : List Host.Cell, Memory.wf m → Memory.wf m' → (∀ a, readByte m a = readByte m' a) → m = m')

/-- R57, R71, R75; R72, R73 on the word of one g register. What SECDED makes of three flips or more, and that a flip of the parity bit alone is
counted as a correction, are the model's choices (log 51). -/
def Obligations.IllegalAndPendingDoNotIssue : Prop :=
  ∀ (s : State) (i : Instr), standsInC i = true ∨ standsInA i = true →
    (s.mayIssue = false → exec i s = .next s) ∧
    (s.mayIssue = true → wellFormed i = false ∨ s.me.allocated (uses i) = false →
      exec i s = .next (s.forgetAbsent.trapHere (standsInA i) (safePoint i) .illegal 0 0)) ∧
    (s.mayIssue = true → wellFormed i = true → s.me.allocated (uses i) = true → s.me.awaits (uses i) = true → exec i s = .next s.block) ∧
    (∀ (sp : Bool) (rd ra : BitVec 5) (imm : Imm 14) (e : RegErr) (w : Nat), i = .addi sp rd ra imm → s.mayIssue = true → wellFormed i = true →
      s.me.allocated (uses i) = true → s.me.awaits (uses i) = false → s.me.lostWord = none → s.me.errs = [e] → e.file = 0 → e.index = ra.toNat →
      ra ≠ 0 → e.word = w → w < 2 → sp = false ∨ s.me.preempt = none →
      let mirror := ra ≠ 16 ∧ bit s.me.regmask (ra.toNat ^^^ 16) = false
      let right := s.me.getG ra ^^^ (zext e.data <<< (32 * w))
      (e.poisoned = false → e.parityBits % 2 = 0 →
        exec i s = .next ((s.setMe (s.me.setG rd (word ((s.me.getG ra).toNat + (immWord imm).toNat)))).finish sp)) ∧
      (e.poisoned = false → e.parityBits % 2 = 1 → mirror ∨ e.secdedBits ≤ 1 → ∃ t : State, exec i s = .next t ∧ t.me.errs = [] ∧
        (rd ≠ 0 → t.me.getG rd = word (right.toNat + (immWord imm).toNat)) ∧ (rd ≠ ra → t.me.getG ra = right) ∧
        (∀ q, q ≠ rd → q ≠ ra → t.me.getG q = s.me.getG q) ∧ t.me.v = s.me.v ∧ t.me.pc = s.me.pc + (if sp then 16 else 8) ∧
        (t.core (coreOf s.cur)).regerr = regerrAdd (s.core (coreOf s.cur)).regerr 1 false) ∧
      (e.poisoned = true ∨ (e.parityBits % 2 = 1 ∧ ¬ mirror ∧ 2 ≤ e.secdedBits) →
        exec i s = .next ((s.setMe s.me).forgetAbsent.trapHere false sp .regUncorrectable 0 (word (16 * ra.toNat + w)))))

/-- R33, R41, R160, R309. With the statements of the register instructions, this is their frame: every byte of memory reads as before. A mask bundle that
cannot be read names no live register, which is the model's choice (log 56). -/
def Obligations.RetirementKeepsTheRest : Prop :=
  (∀ (t : State) (sp : Bool) (j : Option Word), sp = false ∨ t.me.preempt = none ∨ t.me.cancelled = true ∨ t.me.busy.isSome = true →
    let u := t.finish sp j
    let still := sp && t.me.busy.isSome
    u.me = { t.me with pc := j.getD (t.me.pc + if sp then 16 else 8), run := .running, wait := .none, reads := if still then t.me.reads else [], opened := none, safeAt := if still then some t.me.pc else none } ∧
    (∀ h, h ≠ t.cur → u.hart h = t.hart h) ∧ (∀ h a, t.reachesOut a = false → u.peekByte h a = t.peekByte h a) ∧ u.mem = t.mem ∧ u.homes = t.homes ∧
    u.clusters = t.clusters ∧ u.agenda = t.agenda ∧ u.cur = t.cur ∧
    (∀ c, (u.core c).queues = (t.core c).queues ∧ (u.core c).ctr = (t.core c).ctr ∧ (u.core c).acc = (t.core c).acc ∧ (u.core c).loc = (t.core c).loc)) ∧
  (∀ (t : State) (j : Option Word), t.me.preempt.isSome = true → t.me.cancelled = false → t.me.busy = none →
    let u := t.forgetAbsent
    let masks := (u.fetch t.cur (t.me.pc + 8).toNat).getD (0, 0)
    let pc := j.getD (t.me.pc + 16)
    t.finish true j = (u.setMe { t.me with pc := pc, run := .running, wait := .none, reads := [], opened := none, safeAt := none }).save t.cur pc masks.1 masks.2 false) ∧
  (∀ (t : State) (h : Nat) (pc : Word), (t.hart h).preempt.isSome = true → (t.hart h).cancelled = false → (t.hart h).safeAt = some pc →
    let masks := (t.fetch h (pc + 8).toNat).getD (0, 0)
    t.unbusy h = (t.setHart h { t.hart h with busy := none, safeAt := none, reads := [] }).save h (t.hart h).pc masks.1 masks.2 false) ∧
  (∀ (s : State) (x : Hart) (h a : Nat), s.reachesOut a = false → (s.setMe x).peekByte h a = s.peekByte h a) ∧
  (∀ s : State, s.ready .nopc = true → exec .nopc s = .next (s.finish false))

/-! ### Scalar groups and control flow -/

/-- R78, R79, R80. The result is `scalarResult`, the tables of the rules; the whole next state is given, so that everything else is unchanged. -/
def Obligations.ScalarGroupsWriteTheirResults : Prop :=
  ∀ (s : State) (i : Instr) (rd : BitVec 5) (w : Word), scalarResult s.me i = some (rd, w) → s.ready i = true →
    exec i s = .next ((s.setMe (s.me.setG rd w)).finish (safePoint i))

/-- R81. -/
def Obligations.BranchesCompareAndGo : Prop :=
  ∀ (s : State) (i : Instr) (taken : Bool) (target : Word), branchRule s.me i = some (taken, target) → s.ready i = true →
    exec i s = .next (s.finish (safePoint i) (if taken then some target else none))

/-- R82, R83. -/
def Obligations.JumpsLinkAndLoopsCount : Prop :=
  (∀ (s : State) (sp : Bool) (rd : BitVec 5) (off : Imm 19), s.ready (.jal sp rd off) = true →
    exec (.jal sp rd off) s = .next ((s.setMe (s.me.setG rd (s.me.pc + if sp then 16 else 8))).finish sp
      (some (s.me.pc + word (8 * (immWord off).toNat))))) ∧
  (∀ (s : State) (sp : Bool) (rd ra : BitVec 5) (imm : Imm 14), s.ready (.jalr sp rd ra imm) = true →
    exec (.jalr sp rd ra imm) s = .next ((s.setMe (s.me.setG rd (s.me.pc + if sp then 16 else 8))).finish sp
      (some (word ((s.me.getG ra + immWord imm).toNat / 8 * 8))))) ∧
  (∀ (s : State) (sp : Bool) (ra : BitVec 5) (off : Imm 14), s.ready (.loop sp ra off) = true →
    exec (.loop sp ra off) s = .next ((s.setMe (s.me.setG ra (s.me.getG ra - 1))).finish sp
      (if s.me.getG ra = 1 then none else some (s.me.pc + word (8 * (immWord off).toNat))))) ∧
  (∀ (s : State) (sp : Bool) (off : Imm 14), s.mayIssue = true →
    exec (.loop sp 0 off) s = .next (s.forgetAbsent.trapHere false sp .illegal 0 0))

/-- R85, R86, R28. That a FORK whose g3 is not allocated issues like any other, and copies what g3 holds, is the model's choice (log 58). -/
def Obligations.ForkQueuesItsArm : Prop :=
  ∀ (s : State) (sp : Bool) (ctr : BitVec 6) (n : BitVec 4) (off : Imm 14), s.ready (.fork sp ctr n off) = true →
    let i : Instr := .fork sp ctr n off
    let c := s.core (coreOf s.cur)
    let arm := forkTask s ctr.toNat n.toNat (branchTarget s.me.pc off)
    (c.count ctr.toNat = 2 ^ 40 - 1 → exec i s = .next (s.forgetAbsent.trapHere false sp .counter 0 (zext ctr))) ∧
    (c.count ctr.toNat ≠ 2 ^ 40 - 1 → c.deque.length < 32 →
      ∃ t : State, exec i s = .next (t.finish sp) ∧ (t.core (coreOf s.cur)).count ctr.toNat = c.count ctr.toNat + 1 ∧
        (t.core (coreOf s.cur)).deque = c.deque ++ [(s.cycle, arm)] ∧ (t.core (coreOf s.cur)).runq = c.runq ∧ t.harts = s.harts ∧ t.mem = s.mem) ∧
    (c.count ctr.toNat ≠ 2 ^ 40 - 1 → ¬ c.deque.length < 32 → c.room = true →
      ∃ t : State, exec i s = .next (t.finish sp) ∧ (t.core (coreOf s.cur)).count ctr.toNat = c.count ctr.toNat + 1 ∧
        (t.core (coreOf s.cur)).runq = c.runq ++ [(s.cycle, arm)] ∧ (t.core (coreOf s.cur)).deque = c.deque ∧ t.harts = s.harts ∧ t.mem = s.mem) ∧
    (c.count ctr.toNat ≠ 2 ^ 40 - 1 → ¬ c.deque.length < 32 → c.room = false → exec i s = .next s.block)

/-! ### Loads, stores and atomics -/

/-- R212, R213. What such a load binds and such a store leaves is said by `LocalLoadsAndStores` and the home's statements. That a load waits behind an
overlapping access whatever its kind, and a store behind any open load, are the model's choices (logs 24 and 25). -/
def Obligations.ScalarAccessesIssue : Prop :=
  (∀ (s : State) (i : Instr) (rd b : BitVec 5) (o : BitVec 4) (imm : Imm 10) (n : Nat) (sg : Bool),
    scalarLoad i = some (rd, b, o, imm, n, sg) → s.ready i = true →
    let a := (s.me.getG b + immWord imm).toNat
    s.plbCheck s.cur .load a n = .pass → s.watchHit s.cur .load [(a, n)] = none →
    (s.me.loadHeld [(a, n)] = true → exec i s = .next s.block) ∧
    (s.me.loadHeld [(a, n)] = false →
      exec i s = .next ((s.loadNow s.cur (.g rd n sg) (decide (o.toNat < 4)) (decide (o.toNat / 4 = 2)) true [⟨a, n, 0, 0⟩]).finish (safePoint i)))) ∧
  (∀ (s : State) (i : Instr) (rd b : BitVec 5) (o : BitVec 4) (imm : Imm 10) (n : Nat),
    scalarStore i = some (rd, b, o, imm, n) → s.ready i = true →
    let a := (s.me.getG b + immWord imm).toNat
    s.plbCheck s.cur .store a n = .pass → s.watchHit s.cur .store [(a, n)] = none →
    (s.me.storeHeld (decide (o.toNat / 4 = 2)) = true → exec i s = .next s.block) ∧
    (s.me.storeHeld (decide (o.toNat / 4 = 2)) = false →
      exec i s = .next ((s.store s.cur a n (cellsAt a (toBytes (s.me.getG rd) n)) false).finish (safePoint i))))

/-- R213, R203. The near-buffer premise rules out states that no run reaches: local bytes are never held there (R183). The last clause is the
frame by the model's read of one byte; a window registered over the bytes would alias them (R206). -/
def Obligations.LocalLoadsAndStores : Prop :=
  (∀ (s : State) (i : Instr) (rd b : BitVec 5) (o : BitVec 4) (imm : Imm 10) (n : Nat) (sg : Bool),
    scalarLoad i = some (rd, b, o, imm, n, sg) → s.ready i = true →
    let a := (s.me.getG b + immWord imm).toNat
    let c := coreOf s.cur
    inLocal a n → s.me.loadHeld [(a, n)] = false → s.me.clearOf a n → s.watchHit s.cur .load [(a, n)] = none →
    ∃ t : State, exec i s = .next (t.finish (safePoint i)) ∧
      t.me.getG rd = (if rd = 0 then 0
        else if sg then (BitVec.ofNat (8 * n) ((s.core c).localNum (a - localBase) n)).signExtend 64
        else word ((s.core c).localNum (a - localBase) n)) ∧
      t.me.keeps s.me rd ∧ (∀ h, h ≠ s.cur → t.hart h = s.hart h) ∧ s.onlyLocal t c ∧ (t.core c).loc = (s.core c).loc) ∧
  (∀ (s : State) (i : Instr) (rd b : BitVec 5) (o : BitVec 4) (imm : Imm 10) (n : Nat),
    scalarStore i = some (rd, b, o, imm, n) → s.ready i = true →
    let a := (s.me.getG b + immWord imm).toNat
    let c := coreOf s.cur
    inLocal a n → s.me.storeHeld (decide (o.toNat / 4 = 2)) = false → s.watchHit s.cur .store [(a, n)] = none →
    ∃ t : State, exec i s = .next (t.finish (safePoint i)) ∧
      (∀ k, (t.core c).localByte k =
        if a - localBase ≤ k ∧ k < a - localBase + n then lane (s.me.getG rd) (k - (a - localBase)) 8 else (s.core c).localByte k) ∧
      t.me.keeps s.me 0 ∧ (∀ h, h ≠ s.cur → t.hart h = s.hart h) ∧ s.onlyLocal t c ∧
      ((∀ h, (s.home h).windows = []) → ∀ h p, ¬ (coreOf h = c ∧ a ≤ p ∧ p < a + n) → t.peekByte h p = s.peekByte h p))

/-- R218, R219. `arenaBit` is what the core's PLB says of the granule: none where it must be walked for, some none outside an arena page. -/
def Obligations.ReferencesStoreAndTest : Prop :=
  (∀ (s : State) (sp : Bool) (rd b : BitVec 5) (o : BitVec 4) (imm : Imm 10), s.ready (.stref sp rd b o imm) = true →
    let i : Instr := .stref sp rd b o imm
    let a := (s.me.getG b + immWord imm).toNat
    let v := (s.me.getG rd).toNat
    let checks := a % 8 = 0 ∧ (s.core (coreOf s.cur)).classOf a = .shared
    s.plbCheck s.cur .store a 8 = .pass →
    (checks → s.arenaBit s.cur v = some (some false) → exec i s = .next (s.forgetAbsent.trapHere false sp .escape 0 (word a))) ∧
    (checks → s.arenaBit s.cur v = none → exec i s = .next (s.requestWalks s.cur [v]).block) ∧
    ((checks → s.arenaBit s.cur v = some none ∨ s.arenaBit s.cur v = some (some true)) → s.watchHit s.cur .store [(a, 8)] = none →
      s.me.storeHeld (decide (o.toNat / 4 = 2)) = false →
      exec i s = .next ((s.store s.cur a 8 (cellsAt a (toBytes (s.me.getG rd) 8)) (decide (a % 8 = 0))).finish sp))) ∧
  (∀ (s : State) (sp : Bool) (rd b : BitVec 5) (o : BitVec 4) (imm : Imm 10), s.ready (.ldt sp rd b o imm) = true →
    let i : Instr := .ldt sp rd b o imm
    let a := (s.me.getG b + immWord imm).toNat / 8 * 8
    let c := coreOf s.cur
    s.plbCheck s.cur .load a 8 = .pass → s.watchHit s.cur .load [(a, 8)] = none → s.me.loadHeld [(a, 8)] = false →
    let t := s.loadNow s.cur (.tag rd) false (decide (o.toNat / 4 = 2)) false [⟨a, 8, 0, 0⟩]
    exec i s = .next (t.finish sp) ∧
      (inLocal a 8 → t.me.getG rd = 0 ∧ t.me.keeps s.me rd ∧ s.onlyLocal t c ∧ (t.core c).loc = (s.core c).loc))

/-- R214, R215, R232, R203. That a load waits behind an overlapping access, and a store behind any open load, are the model's choices (logs 24 and
25); that a VST waits to issue for the private bytes of its hull that are not there is read from R214 and R359 (log 69). The near-buffer premise rules out states that no run reaches. -/
def Obligations.VectorAccessesIssue : Prop :=
  (∀ (s : State) (sp : Bool) (vd b : BitVec 5) (o : BitVec 4) (len : BitVec 6) (mk : BitVec 3) (disp : Option (BitVec 32)),
    let i : Instr := .vld sp vd b o len mk disp
    let a := (s.me.getG b + dispWord disp).toNat
    let runs := maskRuns (s.me.getM mk) (len.toNat + 1)
    let ext := runs.map (fun r => (a + r.1, r.2))
    s.ready i = true → s.checkProbes s.cur .load (ext.flatMap (fun r => probes r.1 r.2)) = .pass → s.watchHit s.cur .load ext = none →
    s.me.loadHeld ext = false →
      exec i s = .next ((s.loadNow s.cur (.v vd) (decide (o.toNat < 4)) (decide (o.toNat / 4 = 2)) (runs.length == 1)
        (runs.map (fun r => ⟨a + r.1, r.2, r.1, 0⟩))).finish sp) ∧
      ((∀ r ∈ runs, inLocal (a + r.1) r.2 ∧ s.me.clearOf (a + r.1) r.2) → ∃ t : State, exec i s = .next (t.finish sp) ∧ s.loadedLocal t vd ∧
        ∀ j, j < 64 → lane (t.me.getV vd) j 8 =
          if j ≤ len.toNat ∧ (s.me.getM mk).getLsbD j = true then (s.core (coreOf s.cur)).localByte (a + j - localBase) else 0)) ∧
  (∀ (s : State) (sp : Bool) (vd b : BitVec 5) (o : BitVec 4) (len : BitVec 6) (mk : BitVec 3) (disp : Option (BitVec 32)) (j k : Nat)
      (rest : List (Nat × Nat)),
    let i : Instr := .vst sp vd b o len mk disp
    let a := (s.me.getG b + dispWord disp).toNat
    let runs := maskRuns (s.me.getM mk) (len.toNat + 1)
    let ext := runs.map (fun r => (a + r.1, r.2))
    s.ready i = true →
    (runs = [] → exec i s = .next (s.finish sp)) ∧
    (runs = (j, k) :: rest → s.checkProbes s.cur .store (ext.flatMap (fun r => probes r.1 r.2)) = .pass →
      s.watchHit s.cur .store ext = none → s.me.storeHeld (decide (o.toNat / 4 = 2)) = false →
      let n := (runs.getLast?.getD (j, k)).1 + (runs.getLast?.getD (j, k)).2 - j
      let cells := runs.flatMap (fun r => (List.range r.2).map (fun q => (a + r.1 + q, lane (s.me.getV vd) (r.1 + q) 8)))
      let absent := s.awaitHulls s.cur (s.dataPieces s.cur (a + j) n cells) cells
      (absent = none → exec i s = .next ((s.store s.cur (a + j) n cells false).finish sp)) ∧
      (∀ u, absent = some u → exec i s = .next u.block)) ∧
    (runs ≠ [] → s.watchHit s.cur .store ext = none → s.me.storeHeld (decide (o.toNat / 4 = 2)) = false → (∀ r ∈ runs, inLocal (a + r.1) r.2) →
      ∃ t : State, exec i s = .next (t.finish sp) ∧ s.storedLocal t (runs.flatMap (fun r => (List.range r.2).map (fun q => a + r.1 + q))) ∧
        ∀ p, (t.core (coreOf s.cur)).localByte p =
          if a ≤ localBase + p ∧ localBase + p - a ≤ len.toNat ∧ (s.me.getM mk).getLsbD (localBase + p - a) = true
          then lane (s.me.getV vd) (localBase + p - a) 8 else (s.core (coreOf s.cur)).localByte p)) ∧
  (∀ (s : State) (sp : Bool) (vd b : BitVec 5) (o : BitVec 4) (vi : BitVec 5) (e8 : BitVec 1) (mk : BitVec 3) (disp : Option (BitVec 32)),
    let i : Instr := .vldx sp vd b o vi e8 mk disp
    let z := if e8 = 0 then 4 else 8
    let es := elemAddrs s b disp vi e8 mk
    let ext := es.map (fun e => (e.2, z))
    s.ready i = true → s.checkProbes s.cur .load (ext.flatMap (fun r => probes r.1 r.2)) = .pass → s.watchHit s.cur .load ext = none →
    s.me.loadHeld ext = false →
      exec i s = .next ((s.loadNow s.cur (.v vd) (decide (o.toNat < 4)) (decide (o.toNat / 4 = 2)) true
        (es.map (fun e => ⟨e.2, z, z * e.1, e.1⟩))).finish sp) ∧
      ((∀ e ∈ es, inLocal e.2 z ∧ s.me.clearOf e.2 z) → ∃ t : State, exec i s = .next (t.finish sp) ∧ s.loadedLocal t vd ∧
        (∀ e ∈ es, (lane (t.me.getV vd) e.1 (8 * z)).toNat = (s.core (coreOf s.cur)).localNum (e.2 - localBase) z) ∧
        ∀ k, k < 64 / z → (∀ e ∈ es, e.1 ≠ k) → lane (t.me.getV vd) k (8 * z) = 0)) ∧
  (∀ (s : State) (sp : Bool) (vd b : BitVec 5) (o : BitVec 4) (vi : BitVec 5) (e8 : BitVec 1) (mk : BitVec 3) (disp : Option (BitVec 32)),
    let i : Instr := .vstx sp vd b o vi e8 mk disp
    let z := if e8 = 0 then 4 else 8
    let es := elemAddrs s b disp vi e8 mk
    let ext := es.map (fun e => (e.2, z))
    s.ready i = true →
    (es = [] → exec i s = .next (s.finish sp)) ∧
    (es ≠ [] → s.checkProbes s.cur .store (ext.flatMap (fun r => probes r.1 r.2)) = .pass → s.watchHit s.cur .store ext = none →
      s.me.storeHeld (decide (o.toNat / 4 = 2)) = false →
      exec i s = .next ((es.foldl (fun t e =>
        t.store s.cur e.2 z (cellsAt e.2 (toBytes (lane (s.me.getV vd) e.1 (8 * z)) z)) false) (s.rangeOfAll s.cur ext)).finish sp)) ∧
    (es ≠ [] → s.watchHit s.cur .store ext = none → s.me.storeHeld (decide (o.toNat / 4 = 2)) = false → (∀ e ∈ es, inLocal e.2 z) →
      ∃ t : State, exec i s = .next (t.finish sp) ∧ s.storedLocal t (es.flatMap (fun e => (List.range z).map (fun q => e.2 + q))) ∧
        ∀ p, (t.core (coreOf s.cur)).localByte p =
          match (es.filter (fun e => decide (e.2 ≤ localBase + p ∧ localBase + p < e.2 + z))).getLast? with
          | some e => lane (s.me.getV vd) (z * e.1 + (localBase + p - e.2)) 8
          | none => (s.core (coreOf s.cur)).localByte p))

/-- R220 to R223, R232. That an atomic waits behind any open load (log 25), that it waits to issue for the private bytes it lacks (log 69), and which
checks AMOFADDV makes with no element selected (log 21), are the model's choices. -/
def Obligations.AtomicsIssue : Prop :=
  (∀ (s : State) (i : Instr) (op : AmoOp) (rd ra rb : BitVec 5) (o : BitVec 4) (n : Nat), amoShape i = some (op, rd, ra, rb, o, n) →
    s.ready i = true →
    let a := (s.me.getG ra).toNat
    let ar := decide (o.toNat / 4 = 3)
    let posted := (decide (op = .add) || decide (op = .fadd)) && decide (rd = 0) && !ar
    (a % n ≠ 0 → exec i s = .next (s.forgetAbsent.trapHere false (safePoint i) .misaligned 0 (word a))) ∧
    (a % n = 0 → s.plbCheck s.cur .atomic a n = .pass → s.watchHit s.cur .atomic [(a, n)] = none →
      let absent := s.awaitHulls s.cur [(a, n)] []
      (s.me.storeHeld ar = true → exec i s = .next s.block) ∧
      (s.me.storeHeld ar = false → (∀ u, absent = some u → exec i s = .next u.block) ∧ (absent = none → exec i s = .next
        ((s.atomic s.cur a op n (s.me.getG rb) (s.me.getG rd) (if posted then none else some rd) ar posted).finish (safePoint i)))))) ∧
  (∀ (s : State) (sp : Bool) (vd b : BitVec 5) (o : BitVec 4) (len : BitVec 6) (mk : BitVec 3) (disp : Option (BitVec 32)),
    let i : Instr := .amofaddv sp vd b o len mk disp
    let a := (s.me.getG b + dispWord disp).toNat
    let n := len.toNat + 1
    let es := (List.range (n / 4)).filter (fun k => (s.me.getM mk).getLsbD k)
    let ext := es.map (fun k => (a + 4 * k, 4))
    let ar := decide (o.toNat / 4 = 3)
    s.ready i = true →
    (n % 4 ≠ 0 ∨ (es ≠ [] ∧ a % 4 ≠ 0) → exec i s = .next (s.forgetAbsent.trapHere false sp .misaligned 0 (word a))) ∧
    (n % 4 = 0 → es = [] → exec i s = .next (s.finish sp)) ∧
    (n % 4 = 0 → a % 4 = 0 → es ≠ [] → s.checkProbes s.cur .atomic (ext.flatMap (fun r => probes r.1 r.2)) = .pass →
      s.watchHit s.cur .atomic ext = none → s.me.storeHeld ar = false →
      let absent := s.awaitHulls s.cur ext []
      (∀ u, absent = some u → exec i s = .next u.block) ∧
      (absent = none → exec i s = .next ((es.foldl (fun t k =>
        t.atomicOn (s.core (coreOf s.cur)).nc s.cur (a + 4 * k) .fadd 4 ((lane (s.me.getV vd) k 32).setWidth 64) 0 none ar (!ar)) s).finish sp))))

/-- R220, R221. -/
def Obligations.LocalAtomicsExchange : Prop :=
  ∀ (s : State) (i : Instr) (op : AmoOp) (rd ra rb : BitVec 5) (o : BitVec 4) (n : Nat), amoShape i = some (op, rd, ra, rb, o, n) →
    op ≠ .fadd → s.ready i = true →
    let a := (s.me.getG ra).toNat
    let c := coreOf s.cur
    let old : BitVec (8 * n) := BitVec.ofNat (8 * n) ((s.core c).localNum (a - localBase) n)
    a % n = 0 → inLocal a n → s.watchHit s.cur .atomic [(a, n)] = none → s.me.storeHeld (decide (o.toNat / 4 = 3)) = false →
    ∃ t : State, exec i s = .next (t.finish (safePoint i)) ∧
      (t.core c).localNum (a - localBase) n
        = (amoTable op (8 * n) old ((s.me.getG rb).setWidth (8 * n)) ((s.me.getG rd).setWidth (8 * n))).toNat ∧
      t.me.getG rd = (if rd = 0 then 0 else old.signExtend 64) ∧
      (∀ k, ¬ (a - localBase ≤ k ∧ k < a - localBase + n) → (t.core c).localByte k = (s.core c).localByte k) ∧
      t.me.keeps s.me rd ∧ s.onlyLocal t c

/-- R209, R287, R354. -/
def Obligations.FailedChecksPerformNothing : Prop :=
  ∀ (s : State) (i : Instr) (k : Kind) (a n : Nat), accessRuns s.me i = some (k, a, n) → s.ready i = true →
    (∀ c p, s.plbCheck s.cur k a n = .fail c p → exec i s = .next (s.forgetAbsent.trapHere false (safePoint i) c 0 (word p))) ∧
    (∀ ps, s.plbCheck s.cur k a n = .miss ps → exec i s = .next (s.requestWalks s.cur ps).block) ∧
    (∀ p, s.plbCheck s.cur k a n = .pass → s.watchHit s.cur k [(a, n)] = some p → (s.cluster (clusterOf s.cur)).dbg.haltOnWatch = false →
      (∀ sp rd b o imm, i = .stref sp rd b o imm → a % 8 ≠ 0) →
      exec i s = .next (s.forgetAbsent.trapHere false (safePoint i) .watch 0 (word p)))

/-! ### The memory group -/

/-- R224, R36. The status is computed from what failed since the last FENCE, and recovery mode decides whether it is shown. That FENCE itself
waits for the binding of earlier loads is the model's way of ordering them (log 20). -/
def Obligations.FenceOrdersAndReports : Prop :=
  ∀ (s : State) (sp : Bool) (rd : BitVec 5) (o : BitVec 4), s.ready (.fence sp rd o) = true →
    let i : Instr := .fence sp rd o
    let x := s.me
    let f := x.fenceAcc
    let status : Word := if s.recovery (clusterOf s.cur) then
      word (min f.count 255 * 256 + (if f.poison then 4 else 0) + (if f.refused then 2 else 0) + (if f.lost then 1 else 0)) else 0
    (x.loads ≠ [] ∨ x.fence.isSome = true → exec i s = .next s.block) ∧
    (x.loads = [] → x.fence = none → x.stores = [] → ∃ t : State, exec i s = .next (t.finish sp) ∧
      t.me.getG rd = (if rd = 0 then 0 else status) ∧ t.me.fence = none ∧ t.me.near = [] ∧ t.me.keeps x rd) ∧
    (x.loads = [] → x.fence = none → x.stores ≠ [] → ∃ t : State, exec i s = .next (t.finish sp) ∧
      t.me.fence = some ⟨rd, decide (o.toNat / 4 = 3)⟩ ∧ t.me.near = [] ∧ t.me.stores = x.stores ∧ t.me.keeps x 0)

/-- R225, R226. -/
def Obligations.PubWalks : Prop :=
  ∀ (s : State) (sp : Bool) (rd ra : BitVec 5) (scope : BitVec 2), s.ready (.pub sp rd ra scope) = true →
    let i : Instr := .pub sp rd ra scope
    let v := s.me.getG ra
    let k := clusterOf s.cur
    let cl := s.cluster k
    let cookie := v.toNat / 2 ^ 60 = 15 ∧ v.toNat / 2 ^ 20 % 2 ^ 40 = 0
    let slot := v.toNat % 16
    let live (w : SowerWalk) := w.suspended = true ∧ (find slot cl.slotGen).getD 0 = v.toNat / 16 % 2 ^ 16
    (cookie → (∀ w, find slot cl.walks = some w → ¬ live w) →
      exec i s = .next ((s.setMe (s.me.setG rd 0xE000000000000000)).finish sp)) ∧
    (cookie → ∀ w, find slot cl.walks = some w → live w → ∃ t : State, exec i s = .next (t.finish sp) ∧
      (find slot (t.cluster k).walks).map (fun y => (y.hid, y.frames, y.suspended, y.counted)) = some (s.cur, w.frames, false, 0) ∧
      t.me.busy = some (.pub rd) ∧ Event.sowerWalkStep k ∈ t.agenda) ∧
    (¬ cookie → s.arenaBit s.cur v.toNat = none → exec i s = .next (s.requestWalks s.cur [v.toNat]).block) ∧
    (¬ cookie → s.arenaBit s.cur v.toNat = some none → exec i s = .next (s.forgetAbsent.trapHere false sp .protection 0 v)) ∧
    (¬ cookie → ∀ p n c', s.arenaBit s.cur v.toNat = some (some p) → cl.takeSlot = some (n, c') → ∃ t : State,
      exec i s = .next (t.finish sp) ∧
      (find n (t.cluster k).walks).map (fun y => (y.hid, y.frames, y.suspended, y.counted))
        = some (s.cur, [(n, [(v.toNat / 64 * 64, 8)])], false, 0) ∧
      t.me.busy = some (.pub rd) ∧ Event.sowerWalkStep k ∈ t.agenda) ∧
    (¬ cookie → ∀ p, s.arenaBit s.cur v.toNat = some (some p) → cl.takeSlot = none → exec i s = .next s.block)

/-- R229 to R232. -/
def Obligations.CacheInstructionsAct : Prop :=
  ((∀ (s : State) (sp : Bool) (ra : BitVec 5) (lvl : BitVec 4) (rb : BitVec 5), s.ready (.pref sp ra lvl rb) = true →
    ∃ t : State, exec (.pref sp ra lvl rb) s = .next (t.finish sp) ∧ (∀ h, t.hart h = { s.hart h with loads := (t.hart h).loads, reads := (t.hart h).reads, busy := (t.hart h).busy, park := (t.hart h).park } ∧
        (t.hart h).loads.map (fun l => l.id) = (s.hart h).loads.map (fun l => l.id) ∧ (t.hart h).busy.isSome = (s.hart h).busy.isSome) ∧ t.mem = s.mem ∧ t.memTags = s.memTags ∧
      (∀ c, (t.core c).loc = (s.core c).loc) ∧ t.cur = s.cur) ∧
  (∀ (s : State) (sp : Bool) (rd ra : BitVec 5) (lvl : BitVec 4) (rb : BitVec 5), s.ready (.resq sp rd ra lvl rb) = true →
    let n := (s.me.getG rb).toNat % 2 ^ 32
    exec (.resq sp rd ra lvl rb) s = .next ((s.setMe (s.me.setG rd (word (s.resq s.cur (s.me.getG ra).toNat n lvl.toNat)))).finish sp) ∧
    (n = 0 → s.resq s.cur (s.me.getG ra).toNat n lvl.toNat = 0))) ∧
  ((∀ (s : State) (sp : Bool) (ra : BitVec 5) (o : BitVec 4) (rb : BitVec 5), s.ready (.cln sp ra o rb) = true →
    let i : Instr := .cln sp ra o rb
    let a := (s.me.getG ra).toNat
    let n := (s.me.getG rb).toNat % 2 ^ 32
    (n = 0 → exec i s = .next (s.finish sp)) ∧
    (n ≠ 0 → s.plbCheck s.cur .store a n = .pass → s.watchHit s.cur .store [(a, n)] = none →
      let r := s.clean s.cur a n (decide (o.toNat / 4 = 1)) (decide (o.toNat % 4 = 3))
      (r.2 = [] → exec i s = .next (r.1.finish sp)) ∧
      (r.2 ≠ [] → exec i s = .next ((r.1.modMe (fun x => { x with busy := some (.clean r.2) })).finish sp)))) ∧
  (∀ (s : State) (sp : Bool) (ra : BitVec 5) (o : BitVec 4) (rb : BitVec 5), s.ready (.inv sp ra o rb) = true →
    let i : Instr := .inv sp ra o rb
    let a := (s.me.getG ra).toNat
    let n := (s.me.getG rb).toNat % 2 ^ 32
    (n = 0 → exec i s = .next (s.finish sp)) ∧
    (n ≠ 0 → s.plbCheck s.cur .store a n = .pass → s.watchHit s.cur .store [(a, n)] = none →
      let r := s.invalidate s.cur a n (if o.toNat / 4 = 0 then 0 else o.toNat % 4)
      (r.2 = [] → exec i s = .next (r.1.finish sp)) ∧
      (r.2 ≠ [] → exec i s = .next ((r.1.modMe (fun x => { x with busy := some (.inv r.2) })).finish sp)) ∧
      (∀ e ∈ (r.1.hart s.cur).near, overlaps e.addr e.data.length a n = false))))

/-! ### Counters, tasks and launches -/

/-- R305, R306, R308. -/
def Obligations.CountersSetCountAndWait : Prop :=
  (∀ (s : State) (sp : Bool) (ra : BitVec 5) (ctr : BitVec 6), s.ready (.setc sp ra ctr) = true →
    let i : Instr := .setc sp ra ctr
    let c := coreOf s.cur
    let v := s.me.getG ra
    (s.me.storeHeld true = true → exec i s = .next s.block) ∧
    (s.me.storeHeld true = false → 2 ^ 40 ≤ v.toNat → exec i s = .next (s.forgetAbsent.trapHere false sp .counter 0 (word ctr.toNat))) ∧
    (s.me.storeHeld true = false → v.toNat < 2 ^ 40 → ∃ t : State, exec i s = .next (t.finish sp) ∧
      (t.core c).count ctr.toNat = v.toNat ∧ (∀ y, y ≠ ctr.toNat → (t.core c).count y = (s.core c).count y) ∧ t.me.keeps s.me 0 ∧
      (v = 0 → ∀ h, coreOf h = c → (s.hart h).wait = .ctr ctr.toNat → (t.hart h).wait = .released))) ∧
  (∀ (s : State) (sp : Bool) (ra : BitVec 5) (ctr : BitVec 6), s.ready (.decc sp ra ctr) = true →
    let i : Instr := .decc sp ra ctr
    let c := coreOf s.cur
    let n := (s.core c).count ctr.toNat
    let d := (s.me.getG ra).toNat
    (s.me.storeHeld true = true → exec i s = .next s.block) ∧
    (s.me.storeHeld true = false → n < d → exec i s = .next (s.forgetAbsent.trapHere false sp .counter 0 (word ctr.toNat))) ∧
    (s.me.storeHeld true = false → d = 0 → exec i s = .next (s.finish sp)) ∧
    (s.me.storeHeld true = false → 0 < d → d < n →
      exec i s = .next ((s.modCore c (fun y => y.setCount ctr.toNat (n - d))).finish sp)) ∧
    (s.me.storeHeld true = false → 0 < d → d = n → ((s.core c).handlerOf ctr.toNat).isSome = true → (s.core c).room = false →
      exec i s = .next s.block) ∧
    (s.me.storeHeld true = false → 0 < d → d = n → ((s.core c).handlerOf ctr.toNat).isNone = true ∨ (s.core c).room = true →
      exec i s = .next (((s.modCore c (fun y => y.setCount ctr.toNat 0)).fire c ctr.toNat (s.me.task.setWidth 32) 0 0 0 0 none).finish sp))) ∧
  (∀ (s : State) (sp : Bool) (rd : BitVec 5) (ctr : BitVec 6), s.ready (.getc sp rd ctr) = true →
    exec (.getc sp rd ctr) s = .next ((s.setMe (s.me.setG rd (word ((s.core (coreOf s.cur)).count ctr.toNat)))).finish sp)) ∧
  (∀ (s : State) (sp : Bool) (rd : BitVec 5) (ctr : BitVec 6), s.ready (.waitc sp rd ctr) = true →
    let i : Instr := .waitc sp rd ctr
    let zero := (s.core (coreOf s.cur)).count ctr.toNat = 0 ∨ s.me.wait = .released
    (zero → exec i s = .next ((s.setMe (s.me.clearNear.setG rd 1)).finish sp)) ∧
    (¬ zero → sp = true → s.me.preempt.isSome = true → exec i s = .next ((s.setMe (s.me.setG rd 2)).finish sp)) ∧
    (¬ zero → sp = false ∨ s.me.preempt = none → exec i s = .next (s.setMe { s.me with wait := .ctr ctr.toNat }).block))

/-- R307, R314, R316. That the descriptor is read as the instruction issues is the model's choice (log 11). -/
def Obligations.DescriptorsBindAndLaunch : Prop :=
  ((∀ (s : State) (sp : Bool) (rd ra : BitVec 5) (ctr : BitVec 6), s.ready (.bindc sp rd ra ctr) = true →
    let i : Instr := .bindc sp rd ra ctr
    let c := coreOf s.cur
    let x := ctr.toNat
    let a := (s.me.getG ra).toNat
    let bound := ((s.core c).handlerOf x).isSome ∨ (find x (s.core c).bind).isSome
    let held := s.me.loadHeld [(a, 64)] = true
    let asks := s.peekHeld s.cur a 64 = true
    let d := wordsOf (s.readAtIssue s.cur a 64).1
    let t := (s.readAtIssue s.cur a 64).2
    let p := s.partOf (clusterOf s.cur)
    (a = 0 → exec i s = .next (((s.modCore c (fun y => { y with bind := drop x y.bind })).modMe (fun y => y.setG rd 0)).finish sp)) ∧
    (a ≠ 0 → a % 64 ≠ 0 → exec i s = .next (s.forgetAbsent.trapHere false sp .queue 0 (word a))) ∧
    (a ≠ 0 → a % 64 = 0 → s.plbCheck s.cur .load a 64 = .pass → s.watchHit s.cur .load [(a, 64)] = none →
      (bound → exec i s = .next ((s.setMe (s.me.setG rd 1)).finish sp)) ∧
      (¬ bound → held → exec i s = .next s.block) ∧
      (¬ bound → ¬ held → asks → exec i s = .next (s.askAtIssue s.cur a 64).block) ∧
      (¬ bound → ¬ held → ¬ asks → s.malformed (dieOf s.cur) p d = true →
        exec i s = .next ((t.modMe (fun y => y.setG rd 2)).finish sp)) ∧
      (¬ bound → ¬ held → ¬ asks → s.malformed (dieOf s.cur) p d = false →
        ∃ u : State, exec i s = .next (u.finish sp) ∧ u.me.getG rd = 0 ∧
          find x (u.core c).bind = some ⟨d, s.me.domain.setWidth 16, BitVec.ofNat 4 p, s.me.task.setWidth 32⟩))) ∧
  (∀ (s : State) (sp : Bool) (rd ra : BitVec 5), s.ready (.launch sp rd ra) = true →
    let i : Instr := .launch sp rd ra
    let a := (s.me.getG ra).toNat
    let d := wordsOf (s.readAtIssue s.cur a 64).1
    let held := s.me.storeHeld true = true
    let asks := s.peekHeld s.cur a 64 = true
    let r := (s.readAtIssue s.cur a 64).2.submit (dieOf s.cur) d (s.me.domain.setWidth 16) (s.partOf (clusterOf s.cur))
    (a % 64 ≠ 0 → exec i s = .next (s.forgetAbsent.trapHere false sp .queue 0 (word a))) ∧
    (a % 64 = 0 → s.plbCheck s.cur .load a 64 = .pass → s.watchHit s.cur .load [(a, 64)] = none →
      (held → exec i s = .next s.block) ∧ (¬ held → asks → exec i s = .next (s.askAtIssue s.cur a 64).block) ∧
      (¬ held → ¬ asks → exec i s = .next ((r.1.modMe (fun y => y.setG rd (word r.2))).finish sp))))) ∧
  (∀ (s : State) (d : Nat) (desc : List Word) (dom : BitVec 16) (p : Nat),
    let w3 := dw desc 3
    let n := w3.toNat / 2 ^ 52
    let torn := (s.partWord p 0).getLsbD 61
    let busy := ((s.die d).launchCtr n).count ≠ 0
    (torn = true → s.submit d desc dom p = (s, 1)) ∧
    (torn = false → s.malformed d p desc = true → s.submit d desc dom p = (s, 2)) ∧
    (torn = false → s.malformed d p desc = false → busy → s.submit d desc dom p = (s, 3)) ∧
    (torn = false → s.malformed d p desc = false → ¬ busy → w3.toNat / 2 ^ 34 % 16 ≠ p → s.submit d desc dom p = (s, 4)) ∧
    (torn = false → s.malformed d p desc = false → ¬ busy → w3.toNat / 2 ^ 34 % 16 = p → ∃ t : State, s.submit d desc dom p = (t, 0) ∧
      (t.die d).admission = (s.die d).admission ++ [⟨desc, 0, BitVec.ofNat 4 p, dom⟩] ∧
      ((t.die d).launchCtr n).count = (dw desc 2).toNat % 2 ^ 32 + 1 ∧ Event.drillCycle d ∈ t.agenda ∧ t.harts = s.harts ∧ t.mem = s.mem))

/-- R317, R28, R147, R266, R302, R303, R315, R326, R320, R166. That EXIT waits for a stubble bit whose home holds it (log 11), and that YIELD takes a
mask bundle that cannot be read for all-zero masks (log 56), are the model's choices. -/
def Obligations.ExitFreesAndYieldSaves : Prop :=
  (∀ (s : State) (sp : Bool), s.ready (.exit sp) = true →
    let n := coreOf s.cur
    (s.me.storeHeld true = true → exec (.exit sp) s = .next s.block) ∧
    (∀ t, s.me.storeHeld true = false → s.me.job = some t → s.endWaits n t = true → exec (.exit sp) s = .next s.block) ∧
    (s.me.storeHeld true = false → (∀ t, s.me.job = some t → s.endWaits n t = false) → ∃ u : State, exec (.exit sp) s = .next u ∧
      (u.hart s.cur).run = .free ∧ (u.hart s.cur).job = none ∧ (u.hart s.cur).near = [] ∧ (u.hart s.cur).preempt = none ∧
      (u.hart s.cur).wait = .none ∧ Event.taskDispatch s.cur ∈ u.agenda ∧
      (∀ t, s.me.job = some t →
        ((s.core n).claim = some s.cur → (u.core n).claim = none ∧ ∀ l, ((u.core n).latch l).st = .closed) ∧
        (∀ j, t.join = some j → (∀ k g p q, t.kind ≠ .glean k g p q) →
          (j.cid = n → (s.core n).count j.ctr ≠ 0 → (u.core n).count j.ctr = (s.core n).count j.ctr - 1 ∧
            ((s.core n).count j.ctr = 1 → ∀ h, coreOf h = n → h ≠ s.cur → (s.hart h).wait = .ctr j.ctr → (u.hart h).wait = .released)) ∧
          (j.cid ≠ n → (u.core j.cid).port = (s.core j.cid).port ++ [.count j.ctr 4 t.corr] ∧ Event.countModeArrival j.cid ∈ u.agenda)) ∧
        (∀ l, t.launch = some l → (∀ k g p q, t.kind ≠ .glean k g p q) → ((s.die l.die).launchCtr l.lctr).count ≠ 0 →
          ((u.die l.die).launchCtr l.lctr).count = ((s.die l.die).launchCtr l.lctr).count - 1) ∧
        (∀ own e gen m x, t.kind = .handler own e gen (some m) → find e (s.core own).handlers = some x → x.gen = gen →
          find e (u.core own).handlers = some (x.giveBack m)) ∧
        (∀ k slot gen point w, t.kind = .glean k slot gen point → find slot (s.cluster k).glean = some w → w.gen = gen →
          (find slot (u.cluster k).glean).map (fun y => y.retired) = some (w.retired + 1) ∧
          (inLocal (w.mapWord point) 4 →
            let a := ((dw w.desc 7).toNat + point / 8) % 2 ^ 64 - localBase
            (u.core w.cid).localByte a = (s.core w.cid).localByte a ||| BitVec.ofNat 8 (2 ^ (point % 8))))))) ∧
  (∀ (s : State) (sp : Bool), s.ready (.yield sp) = true →
    let c := s.core (coreOf s.cur)
    let masks := if sp then (s.fetch s.cur (s.me.pc + 8).toNat).getD (0, 0) else (BitVec.allOnes 32, BitVec.allOnes 32)
    let pc := s.me.pc + if sp then 16 else 8
    let past := s.forgetAbsent.setMe { s.me with pc := pc, run := .running, wait := .none, reads := [], opened := none, safeAt := none }
    (c.runq = [] ∨ s.me.freeSlot = none → exec (.yield sp) s = .next past) ∧
    (c.runq ≠ [] → s.me.freeSlot.isSome = true → exec (.yield sp) s = .next (past.save s.cur pc masks.1 masks.2 false)))

/-- R318, R319. That a job whose counter reads zero is torn down only by a hart of its own partition is the model's reading (log 54). -/
def Obligations.CancelAnswersInOrder : Prop :=
  ∀ (s : State) (sp : Bool) (rd ra : BitVec 5) (op : BitVec 4), s.ready (.cancel sp rd ra op) = true →
    let i : Instr := .cancel sp rd ra op
    let v := (s.me.getG ra).toNat
    let level := op.toNat % 4
    let id := v % 2 ^ 12
    let d := v / 2 ^ 12 % 4
    let p := s.partOf (clusterOf s.cur)
    let x := s.dctr d (levelOf level) id
    let query := op.getLsbD 2
    let tear := op.getLsbD 3
    let bad := v / 2 ^ 14 ≠ 0 ∨ [4096, 256, 64, 16].getD level 16 ≤ id
    let other := x.owner.toNat ≠ p ∧ x.count ≠ 0
    let job := if level = 3 then id else p
    let torn := (s.partWord job 0).getLsbD 61
    let may := tear = true ∧ job = p
    let answer (w : Word) : Prop := exec i s = .next ((s.setMe (s.me.setG rd w)).finish sp)
    (bad → exec i s = .next (s.forgetAbsent.trapHere false sp .illegal 0 0)) ∧
    (¬ bad → tear = true → s.me.domain ≠ 0 → exec i s = .next (s.forgetAbsent.trapHere false sp .privileged 0 0)) ∧
    (¬ bad → (tear = true → s.me.domain = 0) →
      (other → answer (2 <<< 62)) ∧
      (¬ other → torn = true → answer (3 <<< 62)) ∧
      (¬ other → torn = false → query = true → answer (word ((if x.cancelled then 2 ^ 40 else 0) + x.count))) ∧
      (¬ other → torn = false → query = false → ¬ may → x.count = 0 → answer (1 <<< 62)) ∧
      (¬ other → torn = false → query = false → may ∨ x.count ≠ 0 →
        let t := (s.launchesUnder d level id).foldl (fun t l => t.cancelLaunch l.1 l.2) (s.setMe { s.me with run := .running })
        let u := if tear then t.tearDown job else t
        exec i s = .next ((u.modMe (fun y => y.setG rd (if x.count = 0 then 1 <<< 62 else 0))).finish sp) ∧
        (∀ h k, (s.hart h).job = some k → (s.hart h).run ≠ .free → (∃ l ∈ s.launchesUnder d level id, k.launch = some ⟨l.1, l.2⟩) →
          (u.hart h).cancelled = true ∨ (u.hart h).job = none) ∧
        (tear = true → (u.partWord job 0).getLsbD 61 = true ∧ (∀ n, (u.jobCtr n).owner.toNat = job → (u.jobCtr n).count = 0) ∧
          (∀ e n, ((u.die e).launchCtr n).owner.toNat = job → ((u.die e).launchCtr n).count = 0))))

/-- R321. -/
def Obligations.BarriersGatherAndRelease : Prop :=
  ∀ (s : State) (sp : Bool) (ra : BitVec 5) (b : BitVec 3), s.ready (.bar sp ra b) = true →
    let i : Instr := .bar sp ra b
    let k := clusterOf s.cur
    let x := s.me
    let q := if ra ≠ 0 ∧ x.getG ra ≠ 0 then (x.getG ra).toNat else x.barCount
    let gen := find b.toNat (s.cluster k).barriers
    let new := x.wait ≠ .released ∧ x.wait ≠ .bar b.toNat
    let bad := 64 < q ∨ ∃ g, gen = some g ∧ g.count ≠ q
    let fresh := new ∧ ¬ bad ∧ x.storeHeld true = false
    (x.wait = .released → exec i s = .next ((s.setMe x.clearNear).finish sp)) ∧
    (x.wait = .bar b.toNat → exec i s = .next s.block) ∧
    (new → bad → exec i s = .next (s.forgetAbsent.trapHere false sp .counter 0 (word (64 + b.toNat)))) ∧
    (new → ¬ bad → x.storeHeld true = true → exec i s = .next s.block) ∧
    (fresh → ∀ g, gen = some g → q ≤ g.arrived.length + 1 → ∃ t : State, exec i s = .next (t.finish sp) ∧
      find b.toNat (t.cluster k).barriers = none ∧ t.me.near = [] ∧
      (∀ h ∈ g.arrived, h ≠ s.cur → (t.hart h).wait = .released ∧ (t.hart h).run ≠ .blocked)) ∧
    (fresh → ∀ g, gen = some g → g.arrived.length + 1 < q → ∃ t : State, exec i s = .next t.block ∧
      find b.toNat (t.cluster k).barriers = some ⟨q, g.arrived ++ [s.cur]⟩ ∧ t.me.wait = .bar b.toNat) ∧
    (fresh → gen = none → q ≤ 1 → ∃ t : State, exec i s = .next (t.finish sp) ∧ find b.toNat (t.cluster k).barriers = none ∧
      t.me.near = [] ∧ t.me.keeps x 0) ∧
    (fresh → gen = none → 1 < q → ∃ t : State, exec i s = .next t.block ∧
      find b.toNat (t.cluster k).barriers = some ⟨q, [s.cur]⟩ ∧ t.me.wait = .bar b.toNat)

/-! ### Messages, queues, engines, the Gleaner -/

/-- R258, R259, R260. The model's choices: SENDX reads its payload whole as it issues, and waits while a home or another device holds it (log 11);
what comes back for a message to another device, so how long it is counted (log 19); and the header of a bounce (log 61). -/
def Obligations.MessagesAreSent : Prop :=
  (∀ (s : State) (sp : Bool) (ra rb vp : BitVec 5), s.ready (.send sp ra rb vp) = true →
    let i : Instr := .send sp ra rb vp
    let h0 := s.me.getG ra
    let h1 := s.me.getG rb
    let n := h0.toNat / 2 ^ 24 % 32
    (headerBad h0 h1 = true ∨ 4 < n → exec i s = .next (s.forgetAbsent.trapHere false sp .queue 0 0)) ∧
    (headerBad h0 h1 = false → n ≤ 4 → s.me.storeHeld true = true → exec i s = .next s.block) ∧
    (headerBad h0 h1 = false → n ≤ 4 → s.me.storeHeld true = false →
      exec i s = .next ((s.deliver s.cur h0 h1 (toBytes (s.me.getV vp) (16 * n)) []).finish sp))) ∧
  (∀ (s : State) (sp : Bool) (rp ra rb : BitVec 5), s.ready (.sendx sp rp ra rb) = true →
    let i : Instr := .sendx sp rp ra rb
    let h0 := s.me.getG ra
    let h1 := s.me.getG rb
    let a := (s.me.getG rp).toNat
    let n := h0.toNat / 2 ^ 24 % 32
    let open' := s.me.storeHeld true = true
    let held := s.peekHeld s.cur a (16 * n) = true
    let tags := if h0.toNat / 2 ^ 29 % 8 = 6 then (List.range (16 * n / 8)).map (fun k => decide (a % 8 = 0) && s.peekTag s.cur (a + 8 * k)) else []
    (headerBad h0 h1 = true → exec i s = .next (s.forgetAbsent.trapHere false sp .queue 0 0)) ∧
    (headerBad h0 h1 = false → (n ≠ 0 → s.plbCheck s.cur .load a (16 * n) = .pass ∧ s.watchHit s.cur .load [(a, 16 * n)] = none) →
      (open' → exec i s = .next s.block) ∧
      (¬ open' → held → exec i s = .next (s.askAtIssue s.cur a (16 * n)).block) ∧
      (¬ open' → ¬ held → exec i s = .next (((s.readAtIssue s.cur a (16 * n)).2.deliver s.cur h0 h1 (s.readAtIssue s.cur a (16 * n)).1 tags).finish sp)))) ∧
  (∀ (s : State) (h : Nat) (h0 h1 : Word) (payload : List Byte) (tags : List Bool),
    let dest := h1.toNat / 4 % 2 ^ 22
    let c := dest % 4096
    let dev := dest / 4096
    let t := s.deliver h h0 h1 payload tags
    let h1' := word (s.partOf (clusterOf h) % 16 * 2 ^ 48 + (s.location h).toNat % 2 ^ 24 * 2 ^ 24 + dest * 4)
    let dom := (s.hart h).domain.setWidth 16
    (dev = s.devnum → s.mappedOut (c / 16) = false →
      (t.core c).port = (s.core c).port ++ [.msg h0 h1' payload tags .plain (some (h, s.serial + 1)) dom] ∧
      (t.hart h).stores.length = (s.hart h).stores.length + 1 ∧ (t.agenda.length = s.agenda.length + 1)) ∧
    (dev = s.devnum → s.mappedOut (c / 16) = true → t = s.bounce c h0 h1' 6) ∧
    (dev ≠ s.devnum → 576 ≤ dev → t = s.bounce (coreOf h) h0 h1' 6) ∧
    (dev ≠ s.devnum → dev < 576 → s.portState (s.planePort (dest % 18)) = .up →
      t.out = s.out ++ [.message (dest % 18) dev (.msg h0 h1' payload tags .plain none dom)] ∧
      (t.hart h).stores.length = (s.hart h).stores.length + 1 ∧ t.mem = s.mem)) ∧
  (∀ (s : State) (c : Nat) (h0 h1 : Word) (code : Nat), h1.toNat / 2 ^ 24 % 2 ^ 24 / 16384 = s.devnum →
    let d := h1.toNat / 2 ^ 26 % 4096
    ((s.bounce c h0 h1 code).core d).port = (s.core d).port ++ [.msg (word (h0.toNat / 2 ^ 32 * 2 ^ 32 + 2 * 2 ^ 24 + 255 * 256))
      (header1 (s.partOf (c / 16)) ((s.devnum * 4096 + c) * 4) (h1.toNat / 2 ^ 26 % 2 ^ 22)) (bytesOf [h0, h1, word code, 0]) [] .bounce none 0] ∧
    (s.bounce c h0 h1 code).harts = s.harts)

/-- R267, R269. -/
def Obligations.QueuesReportAndReserve : Prop :=
  (∀ (s : State) (sp : Bool) (rd q : BitVec 5), s.ready (.qstat sp rd q) = true →
    let c := s.core (coreOf s.cur)
    let k := queueAt s.cur q.toNat
    let used := c.queues.foldl (fun t e => t + e.2.length) 0
    exec (.qstat sp rd q) s = .next ((s.setMe (s.me.setG rd (word ((if c.port = [] then 0 else 1) * 2 ^ 32 + min 255 (256 - used) * 2 ^ 24
      + min 255 (queueCap s (coreOf s.cur) k) * 2 ^ 16 + min 255 (queueMin s (coreOf s.cur) k) * 2 ^ 8 + min 255 (c.queue k).length)))).finish sp)) ∧
  (∀ (s : State) (sp : Bool) (rd ra rb : BitVec 5), s.ready (.qresv sp rd ra rb) = true →
    let i : Instr := .qresv sp rd ra rb
    let cid := coreOf s.cur
    let e := (s.me.getG ra).toNat % 256
    let n := (s.me.getG rb).toInt
    let answer (w : Word) : Prop := exec i s = .next ((s.setMe (s.me.setG rd w)).finish sp)
    let moves (h : Handler) : Prop := exec i s =
      .next (((s.modCore cid (fun c => { c with handlers := put e h c.handlers })).modMe (fun x => x.setG rd 0)).finish sp)
    ((s.core cid).handler? e = none ∨ (s.me.getG ra).toNat / 256 ≠ 0 → answer 2) ∧
    (∀ h, (s.core cid).handler? e = some h → (s.me.getG ra).toNat / 256 = 0 →
      ((h.free : Int) < n → answer 1) ∧
      (0 ≤ n → n ≤ h.free → moves { h with free := h.free - n.toNat, reserved := h.reserved + n.toNat }) ∧
      (n < 0 → moves { h with reserved := h.reserved - min n.natAbs h.reserved, free := h.free + min n.natAbs h.reserved })))

/-- R271, R274. The command is read as the instruction issues (log 11); JOBQ and JOBW are stated for engines of this device (log 6 for others). -/
def Obligations.EnginesTakeCommands : Prop :=
  (∀ (s : State) (sp : Bool) (rd ra rb e : BitVec 5), s.ready (.enq sp rd ra rb e) = true →
    let i : Instr := .enq sp rd ra rb e
    let a := (s.me.getG ra).toNat
    let bad := e.toNat < 8 ∧ rb ≠ 0 ∧ (s.me.getG rb).toNat / 2 ^ 18 ≠ 0
    let open' := s.me.storeHeld true = true
    let unread := s.peekHeld s.cur a 64 = true
    let held := open' ∨ unread
    (bad → exec i s = .next (s.forgetAbsent.trapHere false sp .illegal 0 0)) ∧
    (¬ bad → a % 64 ≠ 0 → exec i s = .next (s.forgetAbsent.trapHere false sp .queue 0 (word a))) ∧
    (¬ bad → a % 64 = 0 → s.plbCheck s.cur .load a 64 = .pass →
      (s.engineOf s.cur e rb = none → exec i s = .next (s.forgetAbsent.trapHere false sp .protection 0 (s.me.getG rb))) ∧
      (∀ n place, s.engineOf s.cur e rb = some (n, place) → s.watchHit s.cur .load [(a, 64)] = none →
        ¬ (1024 ≤ n ∧ (s.reg 0x240).getLsbD (30 + (n - 1024)) = true) →
        (open' → exec i s = .next s.block) ∧
        (¬ open' → unread → exec i s = .next (s.askAtIssue s.cur a 64).block) ∧
        (¬ held → 64 ≤ (s.engine n).queue.length ∨ s.enqTurn n s.cur = false → exec i s = .next (s.setMe { s.me with wait := .enq n }).block) ∧
        (¬ held → (s.engine n).queue.length < 64 → s.enqTurn n s.cur = true → ∃ t : State, exec i s = .next (t.finish sp) ∧
          (t.engine n).queue = (s.engine n).queue ++ [⟨wordsOf (s.readAtIssue s.cur a 64).1, s.me.domain.setWidth 16,
            BitVec.ofNat 4 (s.partOf (clusterOf s.cur)), (s.engine n).nextId, clusterOf s.cur⟩] ∧
          (t.engine n).nextId = (s.engine n).nextId + 1 ∧ find (s.engine n).nextId.toNat (t.engine n).states = some 0 ∧
          t.me.getG rd = (if rd = 0 then 0 else word (place + e.toNat * 2 ^ 16 + (s.engine n).nextId.toNat)) ∧
          commandEvent n (wordsOf (s.readAtIssue s.cur a 64).1) ∈ t.agenda)))) ∧
  (∀ (s : State) (sp : Bool) (rd ra : BitVec 5), s.ready (.jobq sp rd ra) = true →
    let i : Instr := .jobq sp rd ra
    (s.jobOf (s.me.getG ra) = none → exec i s = .next (s.forgetAbsent.trapHere false sp .queue 0 0)) ∧
    (∀ n id, s.jobOf (s.me.getG ra) = some (some n, id) →
      let st := (find id (s.engine n).states).getD 0
      exec i s = .next ((s.setMe ((if 2 ≤ st then s.me.clearNear else s.me).setG rd (word st))).finish sp))) ∧
  (∀ (s : State) (sp : Bool) (rd ra : BitVec 5), s.ready (.jobw sp rd ra) = true →
    let i : Instr := .jobw sp rd ra
    (s.jobOf (s.me.getG ra) = none → exec i s = .next (s.forgetAbsent.trapHere false sp .queue 0 0)) ∧
    (∀ n id, s.jobOf (s.me.getG ra) = some (some n, id) →
      let st := (find id (s.engine n).states).getD 0
      (2 ≤ st → exec i s = .next ((s.setMe (s.me.clearNear.setG rd (word st))).finish sp)) ∧
      (st < 2 → sp = true → s.me.preempt.isSome = true → exec i s = .next ((s.setMe (s.me.setG rd 1)).finish sp)) ∧
      (st < 2 → sp = false ∨ s.me.preempt = none → exec i s = .next s.block)))

/-- R325, R330, R335. The model's choices: GLEAN reads its descriptor whole as it issues, and waits while a home or another device holds it
(log 11); YDECL with bits 7:5 set completes (log 37). -/
def Obligations.GleanerAndYokeInstructions : Prop :=
  (∀ (s : State) (sp : Bool) (rd ra : BitVec 5), s.ready (.glean sp rd ra) = true →
    let i : Instr := .glean sp rd ra
    let a := (s.me.getG ra).toNat
    let k := clusterOf s.cur
    let d := wordsOf (s.readAtIssue s.cur a 64).1
    let t := (s.readAtIssue s.cur a 64).2
    let refused (n : Nat) : Prop := exec i s = .next ((t.modMe (fun x => x.setG rd (gleanRefused n))).finish sp)
    let bad := gleanBad d (s.mappedOut k)
    let off := s.onArena s.cur (dw d 7).toNat
    let open' := s.me.storeHeld true = true
    let unread := s.peekHeld s.cur a 64 = true
    let held := open' ∨ unread
    (∀ y, s.me.wait = .glean y → (s.cluster k).freeGlean = none → exec i s = .next s.block) ∧
    (∀ y n, s.me.wait = .glean y → (s.cluster k).freeGlean = some n →
      ((s.core (coreOf s.cur)).handler? ((dw y 0).toNat / 2 ^ 24 % 256) = none →
        exec i s = .next ((s.setMe (s.me.setG rd (gleanRefused 2))).finish sp)) ∧
      (∀ e, (s.core (coreOf s.cur)).handler? ((dw y 0).toNat / 2 ^ 24 % 256) = some e → ∃ u : State, ∃ w : GleanWalk,
        exec i s = .next (u.finish sp) ∧ find n (u.cluster k).glean = some w ∧ w.desc = y ∧ w.state = 0 ∧ Event.gleanerVisit k n ∈ u.agenda)) ∧
    ((∀ y, s.me.wait ≠ .glean y) → a % 64 ≠ 0 → exec i s = .next (s.forgetAbsent.trapHere false sp .queue 0 (word a))) ∧
    ((∀ y, s.me.wait ≠ .glean y) → a % 64 = 0 → s.plbCheck s.cur .load a 64 = .pass → s.watchHit s.cur .load [(a, 64)] = none →
      (open' → exec i s = .next s.block) ∧ (¬ open' → unread → exec i s = .next (s.askAtIssue s.cur a 64).block) ∧
      (¬ held → bad = true → refused 1) ∧ (¬ held → bad = false → off = true → refused 3) ∧
      (¬ held → bad = false → off = false → (s.cluster k).freeGlean = none →
        exec i s = .next (t.modMe (fun x => { x with wait := .glean d })).block) ∧
      (¬ held → bad = false → off = false → ∀ n, (s.cluster k).freeGlean = some n →
        ((s.core (coreOf s.cur)).handler? ((dw d 0).toNat / 2 ^ 24 % 256) = none → refused 2) ∧
        (∀ e, (s.core (coreOf s.cur)).handler? ((dw d 0).toNat / 2 ^ 24 % 256) = some e → ∃ u : State, ∃ w : GleanWalk,
          exec i s = .next (u.finish sp) ∧ find n (u.cluster k).glean = some w ∧ w.desc = d ∧ w.state = 0 ∧ w.pass = 1 ∧ w.issued = 0 ∧
          u.me.getG rd = (if rd = 0 then 0 else s.gleanHandle k w.gen n) ∧ Event.gleanerVisit k n ∈ u.agenda)))) ∧
  (∀ (s : State) (sp : Bool) (rd ra op : BitVec 5), s.ready (.gstat sp rd ra op) = true →
    let i : Instr := .gstat sp rd ra op
    let v := s.me.getG ra
    let k := clusterOf s.cur
    let n := v.toNat % 4
    let matched (w : GleanWalk) := v = s.gleanHandle k w.gen n
    ((∀ w, find n (s.cluster k).glean = some w → ¬ matched w) → exec i s = .next ((s.setMe (s.me.setG rd (3 <<< 62))).finish sp)) ∧
    (∀ w, find n (s.cluster k).glean = some w → matched w → op ≠ 1 ∨ w.state ≠ 0 →
      exec i s = .next ((s.setMe (s.me.setG rd (w.report op.toNat))).finish sp)) ∧
    (∀ w, find n (s.cluster k).glean = some w → matched w → op = 1 → w.state = 0 → ∃ u : State, ∃ w' : GleanWalk,
      exec i s = .next (u.finish sp) ∧ find n (u.cluster k).glean = some w' ∧ w'.state = 2 ∧ w'.reason = 2 ∧
      u.me.getG rd = (if rd = 0 then 0 else w'.report 1))) ∧
  (∀ (s : State) (sp : Bool) (rd ra : BitVec 5), s.ready (.ydecl sp rd ra) = true →
    let i : Instr := .ydecl sp rd ra
    let p := (s.me.getG ra).toNat
    let slope := p / 2 ^ 8 % 2 ^ 12
    let bad := p / 2 ^ 20 ≠ 0
    (bad → exec i s = .next (s.forgetAbsent.trapHere false sp .illegal 0 0)) ∧
    (¬ bad → 250 < slope → exec i s = .next ((s.setMe (s.me.setG rd 1)).finish sp)) ∧
    (∀ t, s.me.job = some t → ¬ bad → 0 < slope → slope ≤ 250 → t.launch = none → exec i s = .next ((s.setMe (s.me.setG rd 2)).finish sp)) ∧
    (∀ t, s.me.job = some t → ¬ bad → slope ≤ 250 → (slope = 0 ∨ t.launch.isSome = true) →
      let cls := p % 16
      let keep := p / 16 % 2 = 1
      let rise := 25 * cls - 25 * t.power.toNat
      let free := keep ∨ rise = 0 ∨ t.pinned = true
      (free ∨ rise ≤ (s.die (dieOf s.cur)).budget → ∃ u : State, exec i s = .next (u.finish sp) ∧
        u.me.job = some (if keep then t else { t with power := BitVec.ofNat 4 cls }) ∧ u.me.getG rd = 0 ∧
        (∀ l, t.launch = some l → slope ≠ 0 → find l.lctr (u.die l.die).slopes = some slope) ∧
        (u.die (dieOf s.cur)).budget = (s.die (dieOf s.cur)).budget - (if keep ∨ rise = 0 ∨ t.pinned = true then 0 else rise)) ∧
      (¬ free → (s.die (dieOf s.cur)).budget < rise → exec i s = .next s.block)))

/-! ### Translation, handler entries, windows -/

/-- R289, R290. -/
def Obligations.PlbinvDropsWithPrivilege : Prop :=
  ∀ (s : State) (sp : Bool) (rd ra rb f : BitVec 5), s.ready (.plbinv sp rd ra rb f) = true →
    let i : Instr := .plbinv sp rd ra rb f
    let a := (s.me.getG ra).toNat
    let v := (s.me.getG rb).toNat
    let r := if f.getLsbD 2 then s.splinter a else (s, 0)
    (s.me.domain ≠ 0 → exec i s = .next (s.forgetAbsent.trapHere false sp .privileged 0 0)) ∧
    (s.me.domain = 0 → s.me.storeHeld true = true → exec i s = .next s.block) ∧
    (s.me.domain = 0 → s.me.storeHeld true = false → v / 2 ^ 40 ≠ 0 → exec i s = .next ((s.setMe (s.me.setG rd 3)).finish sp)) ∧
    (s.me.domain = 0 → s.me.storeHeld true = false → v / 2 ^ 40 = 0 → r.2 ≠ 0 →
      exec i s = .next ((r.1.modMe (fun x => x.setG rd (word r.2))).finish sp)) ∧
    (s.me.domain = 0 → s.me.storeHeld true = false → v / 2 ^ 40 = 0 → r.2 = 0 →
      exec i s = .next (((r.1.modMe (fun x => { x with busy := some (.plbinv rd a (v % 2 ^ 40) (f.toNat % 4) none [] []) })).push
        (.plbinvDrop (.own s.cur))).finish sp))

/-- R292, R293. That the image is read whole as HTW issues, waiting for a home or another device, is the model's choice (log 11); that it waits
behind an overlapping access is log 24. -/
def Obligations.HtwInstallsHandlers : Prop :=
  ∀ (s : State) (sp : Bool) (rd ra rb : BitVec 5), s.ready (.htw sp rd ra rb) = true →
    let i : Instr := .htw sp rd ra rb
    let cid := coreOf s.cur
    let a := (s.me.getG ra).toNat
    let v := (s.me.getG rb).toNat
    let bs := (s.readAtIssue s.cur a 16).1
    let t := (s.readAtIssue s.cur a 16).2
    let w0 := wordAt bs 0
    let w1 := wordAt bs 1
    let valid := w0.getLsbD 63
    let size := (w0.toNat / 2 ^ 47 % 128 + 1) * 256
    let base := w1.toNat % 512 * 256
    let unfit := valid = true ∧ (w0.toNat / 2 ^ 44 % 8 ≠ 0 ∨ 0x18000 < base + size)
    let taken := valid = true ∧ w0.getLsbD 60 = true ∧ (s.core cid).boundElsewhere (v % 256) (w0.toNat / 2 ^ 54 % 64) = true
    let status (n : Word) : Prop := exec i s = .next ((t.modMe (fun x => x.setG rd n)).finish sp)
    (s.me.domain ≠ 0 → exec i s = .next (s.forgetAbsent.trapHere false sp .privileged 0 0)) ∧
    (s.me.domain = 0 → s.plbCheck s.cur .load a 16 = .pass → a % 16 ≠ 0 →
      exec i s = .next (s.forgetAbsent.trapHere false sp .protection 0 (word a))) ∧
    (s.me.domain = 0 → s.plbCheck s.cur .load a 16 = .pass → a % 16 = 0 → s.watchHit s.cur .load [(a, 16)] = none →
      let free := s.me.loadHeld [(a, 16)] = false ∧ s.peekHeld s.cur a 16 = false
      (s.me.loadHeld [(a, 16)] = true → exec i s = .next s.block) ∧
      (s.me.loadHeld [(a, 16)] = false → s.peekHeld s.cur a 16 = true → exec i s = .next (s.askAtIssue s.cur a 16).block) ∧ (free →
      (v / 256 ≠ 0 → status 3) ∧ (v / 256 = 0 → unfit → status 2) ∧ (v / 256 = 0 → ¬ unfit → taken → status 1) ∧
      (v / 256 = 0 → ¬ unfit → ¬ taken → ∃ u : State, exec i s = .next (u.finish sp) ∧ u.me.getG rd = 0 ∧
        (find (v % 256) (u.core cid).handlers).map (fun h => (h.w0, h.w1, h.free, h.reserved, h.off, h.charges)) = some (w0, w1, size, 0, base, []) ∧
        (∀ e, e ≠ v % 256 → find e (u.core cid).handlers = find e (s.core cid).handlers))))

/-- R294, R295, R296. A region outside memory answers 4, a busy home makes WMAP wait, and what other devices answer is free: the model's choices (logs 22
and 19). -/
def Obligations.WindowsMapAndDrain : Prop :=
  (∀ (s : State) (sp : Bool) (rd ra rb n : BitVec 5), s.ready (.wmap sp rd ra rb n) = true →
    let i : Instr := .wmap sp rd ra rb n
    let cid := coreOf s.cur
    let c := s.core cid
    let g := (s.me.getG ra).toNat
    let v := (s.me.getG rb).toNat
    let o := v % 256 * 512
    let len := v / 256 % 256 * 512
    let old := find n.toNat c.windows
    let w : Window := ⟨true, false, g, o, len, v / 2 ^ 16 % 2 == 1, none, false⟩
    let draining := old.any (fun x => x.draining)
    let bad := old.any (fun x => x.valid) = true ∨ v / 2 ^ 17 ≠ 0 ∨ len = 0 ∨ 0x18000 < o + len
    let meets := c.windows.any (fun x => x.2.valid && overlaps x.2.off x.2.len o len) = true
    let answer (k : Word) : Prop := exec i s = .next ((s.setMe (s.me.setG rd k)).finish sp)
    let regions := (List.range (len / 512)).map (fun k => g / 512 + k)
    let waits := exec i s = .next (s.setMe { s.me with wait := .wmap n.toNat w }).block
    let arena := (∃ e, c.plbAt g = some e ∧ e.arena = true) ∧ zone g = .mem
    let own := regions.filter (fun r => devOf (r * 512) == s.devnum)
    let far := regions.filter (fun r => devOf (r * 512) != s.devnum)
    let apart := ∃ r ∈ regions, zone (r * 512) ≠ .mem
    let busy := ∃ r ∈ own, (s.home (s.homeAt c (r * 512))).regionBusy r = true
    let taken := ∃ r ∈ own, (s.windowOf (s.homeAt c (r * 512)) r).isSome = true
    let registers (t : State) : State := own.foldl (fun t r => t.registerRegion cid n.toNat r) t
    let done (t : State) : State :=
      (t.modCore cid (fun x => { x with windows := put n.toNat w x.windows })).modMe (fun x => x.setG rd 0)
    let told := s.drawFree.tellWindow g len true
    (draining = true → v / 2 ^ 17 = 0 → waits) ∧ (draining = true → v / 2 ^ 17 ≠ 0 → exec i s = .next s.block) ∧
    (draining = false → bad → answer 1) ∧ (draining = false → ¬ bad → meets → answer 2) ∧
    (draining = false → ¬ bad → ¬ meets → g = 0 → exec i s =
      .next (((s.modCore cid (fun x => { x with windows := put n.toNat w x.windows })).modMe (fun x => x.setG rd 0)).finish sp)) ∧
    (draining = false → ¬ bad → ¬ meets → g ≠ 0 → s.plbCheck s.cur .store g len = .pass → s.watchHit s.cur .store [(g, len)] = none →
      (g % 512 ≠ 0 ∨ arena → answer 3) ∧
      (g % 512 = 0 → ¬ arena → apart → answer 4) ∧
      (g % 512 = 0 → ¬ arena → ¬ apart → busy → waits) ∧
      (g % 512 = 0 → ¬ arena → ¬ apart → ¬ busy → taken → answer 4) ∧
      (g % 512 = 0 → ¬ arena → ¬ apart → ¬ busy → ¬ taken → far = [] → exec i s = .next ((done (registers s)).finish sp)) ∧
      (g % 512 = 0 → ¬ arena → ¬ apart → ¬ busy → ¬ taken → far ≠ [] →
        exec i s = .next ((told.modMe (fun x => x.setG rd 4)).finish sp) ∨
        exec i s = .next ((done (far.foldl (fun t r => (t.trimAllCores r 0 512).dropNearBufs r) (registers told))).finish sp)))) ∧
  (∀ (s : State) (sp : Bool) (rd rb n : BitVec 5), s.ready (.wunmap sp rd rb n) = true →
    let i : Instr := .wunmap sp rd rb n
    let cid := coreOf s.cur
    let v := (s.me.getG rb).toNat
    let good := v = 0 ∨ v / 64 = 1
    let live (w : Window) := w.valid = true ∧ w.draining = false
    (¬ good → exec i s = .next (s.forgetAbsent.trapHere false sp .illegal 0 0)) ∧
    (good → (∀ w, find n.toNat (s.core cid).windows = some w → ¬ live w) → exec i s = .next ((s.setMe (s.me.setG rd 1)).finish sp)) ∧
    (good → ∀ w, find n.toNat (s.core cid).windows = some w → live w → ∃ t : State, exec i s = .next (t.finish sp) ∧
      find n.toNat (t.core cid).windows = some { w with draining := true, ctr := if v = 0 then none else some (v % 64) } ∧
      t.me.getG rd = 0 ∧ Event.wunmapDrainComplete cid n.toNat ∈ t.agenda))

/-! ### System registers, traps and RESUME -/

/-- R77. -/
def Obligations.PriorityWrites : Prop :=
  ∀ (s : State) (sp : Bool) (ra : BitVec 5), s.ready (.syw sp ra 4) = true →
    let i : Instr := .syw sp ra 4
    let v := s.me.getG ra
    (4 ≤ v.toNat → exec i s = .next (s.forgetAbsent.trapHere false sp .illegal 0 0)) ∧
    (v.toNat < 4 → s.me.domain ≠ 0 → s.me.prio.toNat < v.toNat → exec i s = .next (s.forgetAbsent.trapHere false sp .privileged 0 0)) ∧
    (v.toNat < 4 → s.me.domain = 0 ∨ v.toNat ≤ s.me.prio.toNat → exec i s = .next ((s.setMe { s.me with prio := v }).finish sp)) ∧
    (∀ c, (s.forgetAbsent.trapHere false sp c 0 0).me.prio = s.me.prio)

/-- R68, R70, R87, R88. The table lists every register number that is legal to SYR and SYW. That bits [5:0] of sy.ctxbase are reserved to SYW is the model's
choice (log 63). -/
def Obligations.SystemRegistersReadAndWrite : Prop :=
  (∀ (s : State) (sp : Bool) (rd : BitVec 5) (num : BitVec 10) (w : Word), sysValue s num.toNat = some w → s.ready (.syr sp rd num) = true →
    ((num = 0x010 → ∀ j, (s.core (coreOf s.cur)).mma = some j → j.hid ≠ s.cur) →
      exec (.syr sp rd num) s = .next ((s.setMe (s.me.setG rd w)).finish sp)) ∧
    (num = 0x010 → ∀ j, (s.core (coreOf s.cur)).mma = some j → j.hid = s.cur → exec (.syr sp rd num) s = .next s.block)) ∧
  (∀ (s : State) (sp : Bool) (ra : BitVec 5) (num : BitVec 10), s.ready (.syw sp ra num) = true →
    let i : Instr := .syw sp ra num
    let v := s.me.getG ra
    let n := num.toNat
    let reserved := v &&& ~~~ sysBits n ≠ 0
    let denied := (sysPrivileged n = true ∧ s.me.domain ≠ 0) ∨ (n = 4 ∧ s.me.domain ≠ 0 ∧ s.me.prio.toNat < v.toNat)
    (reserved → exec i s = .next (s.forgetAbsent.trapHere false sp .illegal 0 0)) ∧
    (¬ reserved → denied → exec i s = .next (s.forgetAbsent.trapHere false sp .privileged 0 0)) ∧
    (¬ reserved → ¬ denied → n = 0x020 → 256 < (s.writeSys s.cur n v).minima (coreOf s.cur) →
      exec i s = .next (s.forgetAbsent.trapHere false sp .queue 0 0)) ∧
    (¬ reserved → ¬ denied → (n = 0x020 → (s.writeSys s.cur n v).minima (coreOf s.cur) ≤ 256) → ∃ t : State, exec i s = .next (t.finish sp) ∧
      (n ≠ 0x011 → sysValue t n = some v) ∧
      (n = 0x011 → t.me.rng = if v = 0 then 0x9E3779B97F4A7C15 else v) ∧
      (∀ m, m ≠ n → m ≠ 0x003 → sysValue t m = sysValue s m) ∧ t.me.g = s.me.g ∧ t.me.v = s.me.v ∧ t.me.m = s.me.m ∧ t.me.pc = s.me.pc ∧
      (∀ h, h ≠ s.cur → t.hart h = s.hart h) ∧ t.mem = s.mem))

/-- R89, R91, R92, R152. That BRK with breakpoint halt enabled leaves its bundle waiting, to be met again once the cluster goes on, is the model's
choice (log 17): R89 and R354 say only that it halts the cluster. -/
def Obligations.TrapsParkAndWaitesWait : Prop :=
  ((∀ (s : State) (sp : Bool) (ra : BitVec 5) (code : BitVec 10), s.ready (.trap sp ra code) = true →
    ∃ t : State, exec (.trap sp ra code) s = .next t ∧ (t.hart s.cur).run = .parked ∧ (t.hart s.cur).cause = word (code.toNat * 256 + 15) ∧
      (t.hart s.cur).faddr = s.me.getG ra ∧ (t.hart s.cur).trappc = s.me.pc ∧ (t.hart s.cur).parkSeq = s.me.parkSeq + 1 ∧
      (t.hart s.cur).park = .bundle sp) ∧
  (∀ (s : State) (sp : Bool) (code : BitVec 10), s.ready (.brk sp code) = true →
    ((s.cluster (clusterOf s.cur)).dbg.haltOnBp = false → ∃ t : State, exec (.brk sp code) s = .next t ∧ (t.hart s.cur).run = .parked ∧
      (t.hart s.cur).cause = word (code.toNat * 256 + 12) ∧ (t.hart s.cur).faddr = 0 ∧ (t.hart s.cur).trappc = s.me.pc ∧
      (t.hart s.cur).parkSeq = s.me.parkSeq + 1 ∧ (t.hart s.cur).park = .bundle sp) ∧
    ((s.cluster (clusterOf s.cur)).dbg.haltOnBp = true → ∃ t : State, exec (.brk sp code) s = .next t.block ∧
      (∀ k, k = clusterOf s.cur ∨ k ∈ (s.cluster (clusterOf s.cur)).dbg.cross → (t.cluster k).dbg.halted = true)))) ∧
  (∀ (s : State) (sp : Bool) (rd ra : BitVec 5) (ev : BitVec 10), s.ready (.waite sp rd ra ev) = true →
    let i : Instr := .waite sp rd ra ev
    let d := s.me.getG ra
    let c := s.core (coreOf s.cur)
    let holds := (ev.toNat / 256 = 0 ∧ d.toNat ≤ s.time.toNat)
      ∨ (ev.toNat / 256 = 1 ∧ ∃ n, n < 8 ∧ ev.getLsbD n = true ∧ c.queue (queueAt s.cur n) ≠ [])
      ∨ (2 ≤ ev.toNat / 256 ∧ c.count (ev.toNat % 64) = 0) ∨ (ev.toNat / 256 = 2 ∧ s.me.wait = .released)
    let late := d ≠ 0 ∧ d.toNat ≤ s.time.toNat
    let asked := sp = true ∧ s.me.preempt.isSome = true
    let answer (w : Word) : Prop := exec i s = .next ((s.setMe (s.me.setG rd w)).finish sp)
    (holds → answer 1) ∧ (¬ holds → late → answer 0) ∧ (¬ holds → ¬ late → asked → answer 2) ∧
    (¬ holds → ¬ late → ¬ asked → ∃ t : State, exec i s = .next t.block ∧ t.me.wait = .event rd ev d ∧ t.me.g = s.me.g ∧
      (d ≠ 0 → s.me.wait ≠ .event rd ev d → Event.waiteDeadline s.cur ∈ t.agenda)))

/-- R157, R158. Locations that a copy hart shares with a core's hart are left to the model's choice of log 14; that bits [2:0] of what software has
written to sy.trappc count as zero is its choice too (log 55). -/
def Obligations.ResumeBringsHartsBack : Prop :=
  ∀ (s : State) (sp : Bool) (rd ra : BitVec 5) (action : BitVec 10), s.ready (.resume sp rd ra action) = true →
    let i : Instr := .resume sp rd ra action
    let v := s.me.getG ra
    let h := v.toNat % 2 ^ 14
    let dev := v.toNat / 2 ^ 14 % 2 ^ 10
    let seq := v.toNat / 2 ^ 32 % 2 ^ 16
    let x := s.hart h
    let bad := v.toNat / 2 ^ 48 ≠ 0 ∨ v.toNat / 2 ^ 24 % 256 ≠ 0
    let may := ¬ bad ∧ s.me.domain = 0 ∧ s.me.storeHeld true = false
    let here := dev = s.devnum ∧ dev < 576 ∧ s.partOf (clusterOf h) = s.partOf (clusterOf s.cur)
    let answer (w : Word) : Prop := exec i s = .next ((s.setMe (s.me.setG rd w)).finish sp)
    let q := x.trappc &&& ~~~ 7
    let plain := ∀ t, x.job = some t → ∀ k n g p, t.kind ≠ .glean k n g p
    (bad → exec i s = .next (s.forgetAbsent.trapHere false sp .illegal 0 0)) ∧
    (¬ bad → s.me.domain ≠ 0 → exec i s = .next (s.forgetAbsent.trapHere false sp .privileged 0 0)) ∧
    (¬ bad → s.me.domain = 0 → s.me.storeHeld true = true → exec i s = .next s.block) ∧
    (may → 576 ≤ dev ∨ (dev = s.devnum ∧ s.partOf (clusterOf h) ≠ s.partOf (clusterOf s.cur)) → answer 2) ∧
    (may → here → copyHartAt h = none → x.run ≠ .parked ∨ x.parkSeq.toNat ≠ seq → answer 1) ∧
    (may → here → x.run = .parked → x.parkSeq.toNat = seq → h ≠ s.cur → plain → ∀ b, x.park = .bundle b → action.toNat < 2 →
      ∃ t : State, exec i s = .next (t.finish sp) ∧ t.me.getG rd = 0 ∧ (t.hart h).run = .running ∧ (t.hart h).near = [] ∧
        (t.hart h).pc = (if action = 0 then q else q + if b then 16 else 8) ∧
        (t.hart h).trappc = (if action = 0 then x.trappc else (t.hart h).pc) ∧
        (t.hart h).g = x.g ∧ (t.hart h).v = x.v ∧ (t.hart h).m = x.m ∧ (t.hart h).cause = x.cause) ∧
    (may → here → x.run = .parked → x.parkSeq.toNat = seq → h ≠ s.cur → action = 2 →
      ∃ t : State, exec i s = .next (t.finish sp) ∧ t.me.getG rd = 0 ∧
        (s.mayEnd h = true → (t.hart h).run = .free ∧ (t.hart h).job = none) ∧
        (s.mayEnd h = false → (t.hart h).run = .blocked ∧ (t.hart h).cancelled = true ∧ (t.hart h).job = x.job))

/-- R152 to R155, R257. `trapService` is the partition's configuration (R345); that a service on another device which no link port can reach counts as absent
is the model's choice (log 62). -/
def Obligations.ParkingWritesTheTrapRegisters : Prop :=
  ∀ (s : State) (h : Nat) (slotA : Bool) (c : Cause) (code : BitVec 10) (faddr trappc bundle : Word) (kind : ParkKind),
    let t := s.parkAs h slotA c code faddr trappc bundle kind
    let x := s.hart h
    let y := t.hart h
    let p := s.partOf (clusterOf h)
    let payload : List Word := [word ((x.parkSeq + 1).toNat * 2 ^ 32 + (s.devnum * 16384 + h % 16384)),
      word ((if slotA then 2 ^ 18 else 0) + code.toNat * 256 + c.num), faddr, trappc, x.task,
      word (p * 65536 + x.domain.toNat % 65536), s.time, bundle]
    let svc := if s.partOf? (clusterOf h) = none then none
      else s.trapService p (match x.job with | some j => j.service | none => false)
    y.cause = word ((if slotA then 2 ^ 18 else 0) + code.toNat * 256 + c.num) ∧ y.faddr = faddr ∧ y.trappc = trappc ∧
    y.parkSeq = x.parkSeq + 1 ∧ y.run = .parked ∧ y.park = kind ∧ y.g = x.g ∧ y.v = x.v ∧ y.m = x.m ∧ y.pc = x.pc ∧ y.task = x.task ∧
    y.domain = x.domain ∧ y.fflags = x.fflags ∧ y.rng = x.rng ∧ (∀ k, k ≠ h → t.hart k = s.hart k) ∧
    ((s.cluster (clusterOf h)).dbg.trace = false → t.mem = s.mem) ∧
    (svc = none → (t.core (coreOf h)).egress = (s.core (coreOf h)).egress ++ [⟨p, payload⟩] ∧ Event.hostTrapDelivery (coreOf h) ∈ t.agenda) ∧
    (∀ e fb, svc = some (e, fb) → e / 256 % 2 ^ 22 / 4096 = s.devnum →
      let d := e / 256 % 2 ^ 22 % 4096
      (t.core d).port = (s.core d).port ++ [.msg (word (x.task.toNat % 2 ^ 32 * 2 ^ 32 + 4 * 2 ^ 24 + e % 256 * 256))
        (header1 p (s.location h).toNat (e / 256 % 2 ^ 22)) (bytesOf payload) [] (.trap p fb) none 0] ∧
      Event.messageArrival d ∈ t.agenda)

/-! ### The A slot -/

/-- R94, R101, R102: what `elementwise` and `pureElems`, which the group statements use, make of their elements. -/
def Obligations.VectorsHoldTheirElements : Prop :=
  (∀ (w n : Nat) (f : Nat → BitVec w), 0 < w → w * n ≤ 512 →
    (∀ k, k < n → lane (pureElems w n f) k w = f k) ∧ (∀ j, w * n ≤ j → (pureElems w n f).getLsbD j = false)) ∧
  (∀ (w n : Nat) (draws : Bool) (rng : Word) (f : ElemFn), 0 < w → w * n ≤ 512 →
    let r := elementwise w n draws rng f
    let state (k : Nat) : Word := if draws then rngAfter rng k else rng
    (∀ k, k < n → lane r.val k w = BitVec.ofNat w (f k (drawOf (state (k + 1)))).1) ∧
    (∀ j, w * n ≤ j → r.val.getLsbD j = false) ∧ r.rng = state n ∧
    (∀ b, r.flags.getLsbD b = (List.range n).any (fun k => (f k (drawOf (state (k + 1)))).2.getLsbD b)))

/-- R107, R109. `writesVec` says where the vector goes; NOPA, the empty A slot, is with it: it retires and changes nothing. -/
def Obligations.FloatGroupsCompute : Prop :=
  (∀ (s : State) (i : Instr) (d a b : BitVec 6) (ty : BitVec 4) (rm : BitVec 3) (f : Nat → Nat → Nat → Nat × Flags),
    floatTwo i = some (d, a, b, ty, rm, f) → s.ready i = true →
    let t := Ty.of ty
    (readTwo s s (elems t) (elems t) a b = none → exec i s = .next s.blockOnQueue) ∧
    (∀ x y u, readTwo s s (elems t) (elems t) a b = some (x, y, u) →
      let r := elementwise t.width t.lanes (rmDraws rm) s.me.rng (fun k dr => f dr (elemOf t x k) (elemOf t y k))
      writesVec s (u.flagged s r) d r.val (exec i s))) ∧
  (∀ (s : State) (i : Instr) (d a : BitVec 6) (ty : BitVec 4) (rm : BitVec 3) (f : Nat → Nat → Nat × Flags),
    floatOne i = some (d, a, ty, rm, f) → s.ready i = true →
    let t := Ty.of ty
    (readOne s s (elems t) a = none → exec i s = .next s.blockOnQueue) ∧
    (∀ x u, readOne s s (elems t) a = some (x, u) →
      let r := elementwise t.width t.lanes (rmDraws rm) s.me.rng (fun k dr => f dr (elemOf t x k))
      writesVec s (u.flagged s r) d r.val (exec i s))) ∧
  (∀ s : State, s.ready .nopa = true → exec .nopa s = .next (s.finish false))

/-- R108, R117. -/
def Obligations.AccumulatingGroupsCompute : Prop :=
  (∀ (s : State) (i : Instr) (d : BitVec 5) (a b : BitVec 6) (ty : BitVec 4) (rm : BitVec 3) (np na : Bool),
    fusedShape i = some (d, a, b, ty, rm, np, na) → s.ready i = true →
    let t := Ty.of ty
    let elem (dr x y z : Nat) : Nat × Flags :=
      let p := fdecode t x
      let q := fdecode t y
      let c := fdecode t z
      arith t rm dr [p, q, c] ((mulVals p q).bind (fun m => sumVals rm [if np then m.neg else m, if na then c.neg else c]))
    (readTwo s s (elems t) (elems t) a b = none → exec i s = .next s.blockOnQueue) ∧
    (∀ x y u, readTwo s s (elems t) (elems t) a b = some (x, y, u) →
      let r := elementwise t.width t.lanes (rmDraws rm) s.me.rng (fun k dr => elem dr (elemOf t x k) (elemOf t y k) (elemOf t (s.me.getV d) k))
      exec i s = .next (((u.flagged s r).modMe (fun h => h.setV d r.val)).finish false))) ∧
  (∀ (s : State) (i : Instr) (d : BitVec 5) (a b : BitVec 6) (ty : BitVec 4) (rm : BitVec 3) (n : Nat),
    (i = .vdot4 d a b ty rm ∧ n = 4) ∨ (i = .vdot2 d a b ty rm ∧ n = 2) → s.ready i = true →
    let t := Ty.of ty
    (readTwo s s (elems t) (elems t) a b = none → exec i s = .next s.blockOnQueue) ∧
    (∀ x y u, readTwo s s (elems t) (elems t) a b = some (x, y, u) →
      let old (k : Nat) : Nat := (lane (s.me.getV d) k 32).toNat
      let terms (k : Nat) : List (Nat × Nat) := (List.range n).map (fun j => (elemOf t x (n * k + j), elemOf t y (n * k + j)))
      let r := elementwise 32 16 (t.isFloat && rmDraws rm) s.me.rng (fun k dr =>
        if t.isFloat then dotFloat t rm dr (old k) (terms k)
        else ((((old k : Int) + ((terms k).map (fun (p : Nat × Nat) => intOf t p.1 * intOf t p.2)).sum) % 2 ^ 32).toNat, 0))
      exec i s = .next (((u.flagged s r).modMe (fun h => h.setV d r.val)).finish false)))

/-- R110. The results are stated on integers, from the rule's table. -/
def Obligations.IntegerGroupComputes : Prop :=
  ∀ (s : State) (i : Instr) (d a b : BitVec 6) (ty : BitVec 4) (f : Nat → Nat → Int), intTwo i = some (d, a, b, ty, f) → s.ready i = true →
    let t := Ty.of ty
    (readTwo s s (elems t) (elems t) a b = none → exec i s = .next s.blockOnQueue) ∧
    (∀ x y u, readTwo s s (elems t) (elems t) a b = some (x, y, u) →
      writesVec s u d (pureElems t.width t.lanes (fun k => BitVec.ofInt t.width (f (elemOf t x k) (elemOf t y k)))) (exec i s))

/-- R111, R113. -/
def Obligations.ComparesAndMasksWrite : Prop :=
  (∀ (s : State) (d a b : BitVec 6) (ty : BitVec 4) (cond : BitVec 3), s.ready (.vfcmp d a b ty cond) = true →
    let t := Ty.of ty
    (readTwo s s (elems t) (elems t) a b = none → exec (.vfcmp d a b ty cond) s = .next s.blockOnQueue) ∧
    (∀ x y u, readTwo s s (elems t) (elems t) a b = some (x, y, u) →
      let c (k : Nat) := floatCond cond.toNat (fdecode t (elemOf t x k)) (fdecode t (elemOf t y k))
      ∃ m : Word, (∀ k, m.getLsbD k = (decide (k < t.lanes) && decide (k < 64) && (c k).1)) ∧
        exec (.vfcmp d a b ty cond) s = .next ((u.modMe (fun h => (h.setM (BitVec.ofNat 3 (d.toNat - 40)) m).raise
          (if (List.range t.lanes).any (fun k => (c k).2) then flagInvalid else 0))).finish false))) ∧
  (∀ (s : State) (d a b : BitVec 6) (ty : BitVec 4) (cond : BitVec 3), s.ready (.vicmp d a b ty cond) = true →
    let t := Ty.of ty
    (readTwo s s (elems t) (elems t) a b = none → exec (.vicmp d a b ty cond) s = .next s.blockOnQueue) ∧
    (∀ x y u, readTwo s s (elems t) (elems t) a b = some (x, y, u) →
      ∃ m : Word, (∀ k, m.getLsbD k = (decide (k < t.lanes) && decide (k < 64)
          && intCond cond.toNat (intOf t (elemOf t x k)) (intOf t (elemOf t y k)))) ∧
        exec (.vicmp d a b ty cond) s = .next ((u.modMe (fun h => h.setM (BitVec.ofNat 3 (d.toNat - 40)) m)).finish false))) ∧
  (∀ (s : State) (d a b : BitVec 6), let x := maskNamed s.me a; let y := maskNamed s.me b; let md := BitVec.ofNat 3 (d.toNat - 40)
    (s.ready (.mand d a b) = true → exec (.mand d a b) s = .next ((s.setMe (s.me.setM md (x &&& y))).finish false)) ∧
    (s.ready (.mor d a b) = true → exec (.mor d a b) s = .next ((s.setMe (s.me.setM md (x ||| y))).finish false)) ∧
    (s.ready (.mxor d a b) = true → exec (.mxor d a b) s = .next ((s.setMe (s.me.setM md (x ^^^ y))).finish false)) ∧
    (s.ready (.mnot d a) = true → exec (.mnot d a) s = .next ((s.setMe (s.me.setM md (~~~ x))).finish false))) ∧
  (∀ (s : State) (rd : BitVec 5) (a : BitVec 6), let x := maskNamed s.me a
    (s.ready (.mpop rd a) = true →
      exec (.mpop rd a) s = .next ((s.setMe (s.me.setG rd (word ((List.range 64).countP (fun k => x.getLsbD k))))).finish false)) ∧
    (∀ n, (∀ k, k < n → x.getLsbD k = false) → (n < 64 ∧ x.getLsbD n = true) ∨ (n = 64 ∧ x = 0) → s.ready (.mfirst rd a) = true →
      exec (.mfirst rd a) s = .next ((s.setMe (s.me.setG rd (word n))).finish false)))

/-- R112, R114. -/
def Obligations.PermutesMoveElements : Prop :=
  (∀ (s : State) (i : Instr) (d a b : BitVec 6) (ty : BitVec 4) (f : (Nat → Nat) → (Nat → Nat) → Nat → Nat),
    moveTwo s.me i = some (d, a, b, ty, f) → s.ready i = true →
    let t := Ty.of ty
    (readTwo s s (elems t) (elems t) a b = none → exec i s = .next s.blockOnQueue) ∧
    (∀ x y u, readTwo s s (elems t) (elems t) a b = some (x, y, u) →
      writesVec s u d (pureElems t.width t.lanes (fun k => BitVec.ofNat t.width (f (elemOf t x) (elemOf t y) k))) (exec i s))) ∧
  (∀ (s : State) (i : Instr) (d a : BitVec 6) (ty : BitVec 4) (f : (Nat → Nat) → (Nat → Nat) → Nat → Nat),
    moveOne i = some (d, a, ty, f) → s.ready i = true →
    let t := Ty.of ty
    (readOne s s (elems t) a = none → exec i s = .next s.blockOnQueue) ∧
    (∀ x u, readOne s s (elems t) a = some (x, u) →
      writesVec s u d (pureElems t.width t.lanes (fun k => BitVec.ofNat t.width (f (elemOf t x) (elemOf t (s.me.getV (d.setWidth 5))) k)))
        (exec i s))) ∧
  (∀ (s : State) (rd : BitVec 5) (a k : BitVec 6) (ty : BitVec 4), s.ready (.vextr rd a k ty) = true →
    let t := Ty.of ty
    (readOne s s (elems t) a = none → exec (.vextr rd a k ty) s = .next s.blockOnQueue) ∧
    (∀ x u, readOne s s (elems t) a = some (x, u) →
      exec (.vextr rd a k ty) s = .next ((u.modMe (fun h => h.setG rd
        (if t.signed then BitVec.ofInt 64 (signedOf t.width (elemOf t x k.toNat)) else word (elemOf t x k.toNat)))).finish false)))

/-- R115, R116. `treeReduce` combines neighbours, lowest first, level by level. -/
def Obligations.ReductionsReduce : Prop :=
  (∀ (s : State) (rd : BitVec 5) (a : BitVec 6) (ty : BitVec 4) (rm : BitVec 3) (x : Vec) (u : State), s.ready (.vrsum rd a ty rm) = true →
    let t := Ty.of ty
    readOne s s (elems t) a = some (x, u) →
    let r := treeReduce (rmDraws rm) (addElem t rm) (Nat.log2 t.lanes) ((List.range t.lanes).map (elemOf t x)) 0 s.me.rng
    exec (.vrsum rd a ty rm) s = .next (((u.flagged s ⟨0, r.2.1, r.2.2⟩).modMe (fun h => h.setG rd (word r.1))).finish false)) ∧
  (∀ (s : State) (i : Instr) (rd : BitVec 5) (a : BitVec 6) (ty : BitVec 4) (larger : Bool) (x : Vec) (u : State),
    (i = .vrmax rd a ty ∧ larger = true) ∨ (i = .vrmin rd a ty ∧ larger = false) → s.ready i = true →
    let t := Ty.of ty
    readOne s s (elems t) a = some (x, u) →
    (t.isFloat = false → ∃ j, j < t.lanes ∧
      (∀ k, k < t.lanes → if larger then intOf t (elemOf t x k) ≤ intOf t (elemOf t x j) else intOf t (elemOf t x j) ≤ intOf t (elemOf t x k)) ∧
      exec i s = .next ((u.modMe (fun h => h.setG rd (BitVec.ofInt 64 (intOf t (elemOf t x j))))).finish false)) ∧
    (t.isFloat = true →
      let r := treeReduce false (fun _ => pickElem t larger) (Nat.log2 t.lanes) ((List.range t.lanes).map (elemOf t x)) 0 s.me.rng
      exec i s = .next ((u.modMe (fun h => (h.raise r.2.1).setG rd (word r.1))).finish false))) ∧
  (∀ (s : State) (rd : BitVec 5) (a : BitVec 6) (ty : BitVec 4) (x : Vec) (u : State), s.ready (.virsum rd a ty) = true →
    let t := Ty.of ty
    readOne s s (elems t) a = some (x, u) →
    exec (.virsum rd a ty) s = .next ((u.modMe (fun h => h.setG rd
      (BitVec.ofInt 64 ((List.range t.lanes).map (fun k => intOf t (elemOf t x k))).sum))).finish false))

/-- R118, R119, R120. `convert` and `clampInt` are the conversions of R103. The NaN of VQNT's scale 255 is quiet, so that invalid rises only in a
format without NaN, and VPACK raises saturate alone: both are the model's choice (log 53). -/
def Obligations.ConversionsConvert : Prop :=
  (∀ (s : State) (d a : BitVec 6) (part : BitVec 2) (src ty : BitVec 4) (rm : BitVec 3) (x : Vec) (u : State),
    s.ready (.vcvt d a part src ty rm) = true →
    let t := Ty.of ty
    let z := Ty.of src
    readOne s s (elems z) a = some (x, u) →
    let n := min z.lanes t.lanes
    let from0 := if t.lanes < z.lanes then part.toNat * n else 0
    let to0 := if z.lanes < t.lanes then part.toNat * n else 0
    ∃ r : VRes, writesVec s (u.flagged s r) d r.val (exec (.vcvt d a part src ty rm) s) ∧
      let e := elementwise t.width n (rmDraws rm) s.me.rng (fun k dr => convert t rm dr (valueOf z (elemOf z x (from0 + k))))
      r.flags = e.flags ∧ r.rng = e.rng ∧
      (∀ k, k < t.lanes → lane r.val k t.width =
        if to0 ≤ k ∧ k < to0 + n then lane e.val (k - to0) t.width else if z.lanes < t.lanes then lane (s.me.getV (d.setWidth 5)) k t.width else 0)) ∧
  (∀ (s : State) (d a b : BitVec 6) (ty : BitVec 4) (x y : Vec) (u : State), s.ready (.vpack d a b ty) = true →
    let t := Ty.of ty
    let z := if t.width = 8 then Ty.s16 else if t.width = 16 then Ty.s32 else Ty.s64
    readTwo s s (elems z) (elems z) a b = some (x, y, u) →
    let r := elementwise t.width t.lanes false s.me.rng (fun k _ => clampInt t
      (intOf z (if k < t.lanes / 2 then elemOf z x k else elemOf z y (k - t.lanes / 2))))
    writesVec s (u.flagged s r) d r.val (exec (.vpack d a b ty) s)) ∧
  (∀ (s : State) (d a part : BitVec 6) (ty : BitVec 4) (x : Vec) (u : State), s.ready (.vunpack d a part ty) = true →
    let t := Ty.of ty
    let z := unpackSource t
    readOne s s (elems z) a = some (x, u) →
    writesVec s u d (pureElems t.width t.lanes (fun k => BitVec.ofInt t.width (intOf z (elemOf z x (part.toNat * t.lanes + k)))))
      (exec (.vunpack d a part ty) s)) ∧
  (∀ (s : State) (d a : BitVec 6) (gs : BitVec 4) (ty : BitVec 4) (rm : BitVec 3) (x : Vec) (u : State), s.ready (.vqnt d a gs ty rm) = true →
    let t := Ty.of ty
    let scale := (s.me.getG (BitVec.ofNat 5 (16 + gs.toNat))).toNat % 256
    readOne s s (elems .bf16) a = some (x, u) →
    let r := elementwise t.width 32 (rmDraws rm) s.me.rng (fun k dr => convert t rm dr
      (if scale = 255 then .nan false else (fdecode .bf16 (elemOf .bf16 x k)).scale (127 - (scale : Int))))
    writesVec s (u.flagged s r) d r.val (exec (.vqnt d a gs ty rm) s))

/-- R121, R122, R123. -/
def Obligations.SparseAndCodebookInstructions : Prop :=
  (∀ (s : State) (rd : BitVec 5) (a b : BitVec 6) (x y : Vec) (u : State), s.ready (.vpopx rd a b) = true →
    readTwo s s ⟨64, 8⟩ ⟨64, 8⟩ a b = some (x, y, u) →
    exec (.vpopx rd a b) s = .next ((u.modMe (fun h => h.setG rd
      (word ((List.range 512).countP (fun k => x.getLsbD k && y.getLsbD k))))).finish false)) ∧
  (∀ (s : State) (d a b : BitVec 6) (ty : BitVec 4) (x y : Vec) (u : State), s.ready (.vcompr d a b ty) = true →
    let t := Ty.of ty
    readTwo s s (elems t) ⟨64, 8⟩ a b = some (x, y, u) →
    let rank (k : Nat) : Nat := (List.range k).countP (fun j => y.getLsbD j)
    ∃ v : Vec, writesVec s u d v (exec (.vcompr d a b ty) s) ∧
      (∀ k, k < t.lanes → y.getLsbD k = true → lane v (rank k) t.width = lane x k t.width) ∧
      (∀ j, rank t.lanes ≤ j → j < t.lanes → lane v j t.width = 0)) ∧
  (∀ (s : State) (d a b : BitVec 6) (ty : BitVec 4) (x y : Vec) (u : State), s.ready (.vexpnd d a b ty) = true →
    let t := Ty.of ty
    readTwo s s (elems t) ⟨64, 8⟩ a b = some (x, y, u) →
    let rank (k : Nat) : Nat := (List.range k).countP (fun j => y.getLsbD j)
    ∃ v : Vec, writesVec s u d v (exec (.vexpnd d a b ty) s) ∧
      (∀ k, k < t.lanes → lane v k t.width = if y.getLsbD k then lane x (rank k) t.width else 0)) ∧
  (∀ (s : State) (d a : BitVec 6) (bank : BitVec 1) (start : BitVec 5) (ty : BitVec 4), s.ready (.vcbd d a bank start ty) = true →
    let t := Ty.of ty
    let c := s.core (coreOf s.cur)
    let rows : Bank := if bank = 1 then c.cb1 else c.cb0
    let n := if t = .f32 then 2 else 4
    ((if bank = 1 then c.loading1 else c.loading0) = true → exec (.vcbd d a bank start ty) s = .next s.block) ∧
    ((if bank = 1 then c.loading1 else c.loading0) = false → ∀ x u, readOne s s (elems .cb2) a = some (x, u) →
      writesVec s u d (pureElems t.width (8 * n) (fun k =>
        let w := elemOf .cb2 x (start.toNat + k / 8)
        BitVec.ofNat t.width (fencode t 0 0 (cb2Weight w (lane rows (w / 256 % 256) 32).toNat (k % 8))).1)) (exec (.vcbd d a bank start ty) s)))

/-! ### The matrix unit -/

/-- R127 to R129, R133, R135. The product is said word by word by `ProductsAreExactAndRoundedOnce`. The model's choices: the hart whose bundle waits
for a latch that it has opened holds the claim (log 52), and the MMA waits for all of the hart's own earlier loads and stores (log 26). -/
def Obligations.MmaStartsItsProduct : Prop :=
  ∀ (s : State) (i : Instr) (p : Pair) (acc : BitVec 2) (ga : BitVec 5) (l b : BitVec 1) (st : BitVec 6),
    mmaShape i = some (p, acc, ga, l, b, st) → s.ready i = true →
    let cid := coreOf s.cur
    let c := s.core cid
    let base := (s.me.getG ga).toNat
    let runs := (List.range 32).map (fun r => (base + r * (16 * (st.toNat + 1)), p.rowBytes))
    let bad := (runs.filterMap (fun r => outsideWindow r.1 r.2)).min?
    let rows := runs.map (fun r => p.rowValues (if b = 1 then c.cb1 else c.cb0) ((List.range r.2).map (fun k => c.localByte (r.1 + k - localBase))))
    let result := p.product (c.acc.toList.getD acc.toNat 0) rows (p.columnValues (c.latch (l == 1)).data)
    let mine := bad = none ∧ c.claim = some s.cur ∧ (c.latch (l == 1)).st = .full
    let clear := c.mma = none ∧ s.me.loads = [] ∧ s.me.stores = [] ∧ (p.a = .cb2 → (if b = 1 then c.loading1 else c.loading0) = false)
    (∀ a, bad = some a → exec i s = .next (s.forgetAbsent.trapHere true false .protection 0 (word a))) ∧
    (bad = none → s.unitFree s.cur = false → exec i s = .next s.block) ∧
    (bad = none → s.unitFree s.cur = true → ¬ (c.claim = some s.cur ∧ (c.latch (l == 1)).st = .full) → ∃ t : State, exec i s = .next t.block ∧
      (t.core cid).claim = some s.cur ∧ ((t.core cid).latch (l == 1)).st ≠ .closed ∧ ((t.core cid).latch (l == 1)).st ≠ .full) ∧
    (mine → ¬ clear → ∃ t : State, exec i s = .next t.block ∧ s.alike t) ∧
    (mine → clear → ∃ t : State, exec i s = .next (t.finish false) ∧
      (t.core cid).mma = some ⟨s.cur, acc, l == 1, if p.a = .cb2 then some (b == 1) else none, result.1, result.2⟩ ∧
      Event.mmaComplete cid ∈ t.agenda ∧ (t.core cid).acc = c.acc ∧ (t.core cid).bl = c.bl ∧ (t.core cid).loc = c.loc ∧
      t.me.g = s.me.g ∧ t.me.v = s.me.v ∧ t.me.fflags = s.me.fflags)

/-- R131. `MmaWordIs` is its mma_word, with the sum as a rational number and the one rounding by `roundTo` (R100, R102). That a NaN scale sets invalid as a
signalling operand does is the rule's own; the rows hold it as one. -/
def Obligations.ProductsAreExactAndRoundedOnce : Prop :=
  ∀ (p : Pair) (old : AccWords) (rows columns : List (List FVal)), rows.length = 32 → columns.length = 32 →
    let r := p.product old rows columns
    ∃ cell : Nat → Nat → Nat × Flags,
    (∀ i j, i < 32 → j < 32 →
      let c := (lane old (32 * i + j) 32).toNat
      let xs := rows.getD i []
      let ys := columns.getD j []
      (p.a = .s8 → cell i j = ((((c : Int) + (List.zipWith (fun (x y : FVal) => x.toInteger * y.toInteger) xs ys).sum) % 2 ^ 32).toNat, 0)) ∧
      (p.a ≠ .s8 → MmaWordIs c xs ys (cell i j))) ∧
    (∀ i j, i < 32 → j < 32 → lane r.1 (32 * i + j) 32 = BitVec.ofNat 32 (cell i j).1) ∧
    (∀ b, r.2.getLsbD b = (List.range 32).any (fun i => (List.range 32).any (fun j => (cell i j).2.getLsbD b)))

/-- R124, R125, R136, R137, R138. Bytes from 0x18000 up are dropped by MST (R205). `claimedBy` is the core with the claim. That MST and MLD wait for
all of the hart's own earlier accesses is the model's choice (log 26). -/
def Obligations.AccumulatorsClearStoreAndLoad : Prop :=
  (∀ (s : State) (acc : BitVec 2), s.ready (.mzero acc) = true →
    let cid := coreOf s.cur
    (s.unitFree s.cur = false → exec (.mzero acc) s = .next s.block) ∧
    (s.unitFree s.cur = true → (s.core cid).accBusy acc = false → exec (.mzero acc) s =
      .next ((s.modCore cid (fun c => { c.claimedBy s.cur with acc := (c.claimedBy s.cur).acc.set acc.toNat 0 acc.isLt })).finish false))) ∧
  (∀ (s : State) (acc : BitVec 2) (ga : BitVec 5) (ty : BitVec 4) (rm : BitVec 3), s.ready (.mst acc ga ty rm) = true →
    let i : Instr := .mst acc ga ty rm
    let t := Ty.of ty
    let cid := coreOf s.cur
    let c := s.core cid
    let base := (s.me.getG ga).toNat
    let n := 128 * t.width
    let held := c.claimedBy s.cur
    let words := runElems (fun k dr =>
      let x := (lane (held.acc.toList.getD acc.toNat 0) k 32).toNat
      if t = .s32 then (x, 0) else if t.isFloat then convert t rm dr (fdecode .f32 x) else clampInt t (intOf .s32 x))
      (t.isFloat && rmDraws rm) 1024 0 s.me.rng
    (∀ a, outsideWindow base n = some a → exec i s = .next (s.forgetAbsent.trapHere true false .protection 0 (word a))) ∧
    (outsideWindow base n = none → s.unitFree s.cur = false → exec i s = .next s.block) ∧
    (outsideWindow base n = none → s.unitFree s.cur = true → c.accBusy acc = false → s.me.storeHeld true = false → ∃ u : State,
      exec i s = .next (u.finish false) ∧
      (∀ o, (u.core cid).localByte o = if base - localBase ≤ o ∧ o < base - localBase + n ∧ o < localSize
        then (streamBytes t.width words.1).getD (o - (base - localBase)) 0 else c.localByte o) ∧
      (u.core cid).claim = some s.cur ∧ (u.core cid).acc = held.acc ∧ (u.core cid).bl = held.bl ∧ u.me.fflags = s.me.fflags ||| words.2.1.setWidth 64 ∧ u.me.rng = words.2.2 ∧ u.me.g = s.me.g ∧ u.me.v = s.me.v)) ∧
  (∀ (s : State) (acc : BitVec 2) (ga : BitVec 5) (ty : BitVec 4), s.ready (.mld acc ga ty) = true →
    let i : Instr := .mld acc ga ty
    let t := Ty.of ty
    let cid := coreOf s.cur
    let c := s.core cid
    let base := (s.me.getG ga).toNat
    let n := 128 * t.width
    let bits := ofBytes ((List.range n).map (fun k => c.localByte (base + k - localBase)))
    (∀ a, outsideWindow base n = some a → exec i s = .next (s.forgetAbsent.trapHere true false .protection 0 (word a))) ∧
    (outsideWindow base n = none → s.unitFree s.cur = false → exec i s = .next s.block) ∧
    (outsideWindow base n = none → s.unitFree s.cur = true → c.accBusy acc = false → s.me.loads = [] → s.me.stores = [] → ∃ u : State,
      exec i s = .next (u.finish false) ∧ (u.core cid).claim = some s.cur ∧ (u.core cid).bl = (c.claimedBy s.cur).bl ∧
      (∀ k, k < 1024 → lane ((u.core cid).acc.toList.getD acc.toNat 0) k 32 = BitVec.ofNat 32 (mldWord t (bits / 2 ^ (t.width * k) % 2 ^ t.width)).1) ∧
      (∀ m : Nat, m < 4 → m ≠ acc.toNat → (u.core cid).acc.toList.getD m 0 = (c.claimedBy s.cur).acc.toList.getD m 0) ∧ (u.core cid).loc = c.loc ∧
      u.me.g = s.me.g ∧ u.me.v = s.me.v))

/-- R124, R125, R133, R134, R139 to R142. `claimedBy` is the core with the claim. The model's choices: BLD waits for a tile that is landing in an
OPEN latch (log 52), BLD from memory for all of the hart's own earlier accesses (log 26), CBLD behind an overlapping access (log 24). -/
def Obligations.LatchesAndBanksFill : Prop :=
  ((∀ (s : State) (ga : BitVec 5) (l : BitVec 1), s.ready (.bldMemory ga l) = true →
    let i : Instr := .bldMemory ga l
    let cid := coreOf s.cur
    let c := s.core cid
    let base := (s.me.getG ga).toNat
    let held := c.claimedBy s.cur
    (∀ a, outsideWindow base 2048 = some a → exec i s = .next (s.forgetAbsent.trapHere true false .protection 0 (word a))) ∧
    (outsideWindow base 2048 = none → s.unitFree s.cur = false → exec i s = .next s.block) ∧
    (outsideWindow base 2048 = none → s.unitFree s.cur = true → held.latchBusy (l == 1) = true ∨ s.me.loads ≠ [] ∨ s.me.stores ≠ [] →
      exec i s = .next s.block) ∧
    (outsideWindow base 2048 = none → s.unitFree s.cur = true → held.latchBusy (l == 1) = false → s.me.loads = [] → s.me.stores = [] → ∃ t : State,
      exec i s = .next (t.finish false) ∧ (t.core cid).claim = some s.cur ∧ ((t.core cid).latch (l == 1)).st = .full ∧
      ((t.core cid).latch (l == 1)).data = BitVec.ofNat 16384 (ofBytes ((List.range 2048).map (fun k => c.localByte (base + k - localBase)))) ∧
      (t.core cid).latch (l != 1) = held.latch (l != 1) ∧ (t.core cid).acc = held.acc ∧ t.me.g = s.me.g ∧ t.me.v = s.me.v)) ∧
  (∀ (s : State) (q : BitVec 3) (l : BitVec 1), s.ready (.bldQueue q l) = true →
    let i : Instr := .bldQueue q l
    let cid := coreOf s.cur
    let c := s.core cid
    let k := queueAt s.cur q.toNat
    let es := (c.queue k).take 32
    let held := c.claimedBy s.cur
    (queueCap s cid k < 32 → exec i s = .next (s.forgetAbsent.trapHere true false .queue 0 (word q.toNat))) ∧
    (32 ≤ queueCap s cid k → s.unitFree s.cur = true → held.latchBusy (l == 1) = false → es.length = 32 → ∃ t : State,
      exec i s = .next (t.finish false) ∧ (t.core cid).claim = some s.cur ∧ ((t.core cid).latch (l == 1)).st = .full ∧
      ((t.core cid).latch (l == 1)).data = BitVec.ofNat 16384 (ofBytes (es.flatMap (fun e => toBytes e 64))) ∧
      (t.core cid).queue k = (c.queue k).drop 32 ∧ (t.core cid).acc = held.acc) ∧
    (32 ≤ queueCap s cid k → s.unitFree s.cur = false → exec i s = .next s.block) ∧
    (32 ≤ queueCap s cid k → s.unitFree s.cur = true → es.length < 32 → exec i s = .next s.blockOnQueue) ∧
    (32 ≤ queueCap s cid k → s.unitFree s.cur = true → held.latchBusy (l == 1) = true → es.length = 32 → exec i s = .next s.block)) ∧
  (∀ (s : State) (l : BitVec 1),
    let cid := coreOf s.cur
    let c := s.core cid
    let mine := c.claim = some s.cur
    (s.ready (.bpass l) = true → mine → (c.latch (l == 1)).st = .full → ∃ t : State, exec (.bpass l) s = .next (t.finish false) ∧
      ((t.core cid).latch (l == 1)).st = .sending ∧ ((t.core cid).latch (l == 1)).pass = true ∧
      ((t.core cid).latch (l == 1)).data = (c.latch (l == 1)).data ∧ Event.seamHandoffBegin cid (l == 1) ∈ t.agenda) ∧
    (s.ready (.bwait l) = true → mine → (c.latch (l == 1)).st = .full → ∃ t : State, exec (.bwait l) s = .next (t.finish false) ∧ s.alike t) ∧
    (∀ i, i = .bpass l ∨ i = .bwait l → s.ready i = true →
      (s.unitFree s.cur = true → ((c.claimedBy s.cur).latch (l == 1)).st = .closed → ∃ t : State, exec i s = .next t.block ∧
        (t.core cid).claim = some s.cur ∧ ((t.core cid).latch (l == 1)).st = .opened ∧ (t.core cid).acc = (c.claimedBy s.cur).acc) ∧
      (s.unitFree s.cur = false → exec i s = .next s.block)))) ∧
  (∀ (s : State) (sp : Bool) (ra b : BitVec 5), s.ready (.cbld sp ra b) = true →
    let i : Instr := .cbld sp ra b
    let cid := coreOf s.cur
    let c := s.core cid
    let a := (s.me.getG ra).toNat
    let one := b == 1
    let inUse := c.mma.any (fun j => j.bank == some one) = true ∨ (if one then c.loading1 else c.loading0) = true
    let marked := s.modCore cid (fun y => if one then { y with loading1 := true } else { y with loading0 := true })
    s.plbCheck s.cur .load a 1024 = .pass → s.watchHit s.cur .load [(a, 1024)] = none →
    (inUse → exec i s = .next s.block) ∧
    (¬ inUse → s.me.loadHeld [(a, 1024)] = true → exec i s = .next s.block) ∧
    (¬ inUse → s.me.loadHeld [(a, 1024)] = false →
      let t := marked.loadNow s.cur (.bank one) true false false [⟨a, 1024, 0, 0⟩]
      exec i s = .next (t.finish sp) ∧
      (inLocal a 1024 → s.me.clearOf a 1024 → s.me.wait ≠ .bank one → (if one then (t.core cid).cb1 else (t.core cid).cb0) = BitVec.ofNat 8192 (c.localNum (a - localBase) 1024) ∧
        (if one then (t.core cid).loading1 else (t.core cid).loading0) = false)))

/-! ### Events -/

/-- R189, R190, R221, R223, R231. The model's choices: a write-back is dropped where the home's translation is gone (log 35), and one with poison is
acknowledged to its CLN as failed (log 57). -/
def Obligations.HomesServeTheirRequests : Prop :=
  (∀ (s : State) (h hid id a : Nat) (bs : List Byte) (ref : Bool) (rest : List Req),
    let region := a / 512
    let t := (s.modHome h (fun y => { y with input := rest })).homeMerge h region (a % 512) .shared bs (if ref then 1 <<< (a % 512 / 8) else 0) 0
    s.serves h (.store hid id a (cellsAt a bs) ref) rest → bs ≠ [] → a % 512 + bs.length ≤ 512 →
    ((s.home h).dir.find? (fun e => e.region == region) = none →
      exec (.homeStore h) s = .next (t.ackHart hid id 0 none a)) ∧
    (∀ e, (s.home h).dir.find? (fun e => e.region == region) = some e → (∃ k, k < 256 ∧ bit e.clusters k = true) → ∃ u : State,
      exec (.homeStore h) s = .next u ∧ (u.hart hid).acks = (s.hart hid).acks ∧
      (∃ w, (u.home h).waits = (s.home h).waits ++ [w] ∧ w.writers = [(hid, id)] ∧ w.region = region ∧
        (∀ k, k ∈ w.clusters ↔ k < 256 ∧ bit e.clusters k = true)) ∧
      (∀ k, k < 256 → bit e.clusters k = true →
        (h, Down.inval ⟨some h, region, a % 512, a % 512 + bs.length⟩) ∈ (u.cluster k).down ∧ Event.invalidate k ∈ u.agenda))) ∧
  (∀ (s : State) (h : Nat) (ms : List (Nat × Option Asker)) (a n : Nat) (shared : BitVec 8) (cache : Bool) (rest : List Req),
    s.serves h (.fill ms a n shared cache) rest →
    (shared ≠ 0 → cache = true → ∀ u, s.awaitDir h [a / 512] = some u → exec (.homeFill h) s = .next (u.push (.homeFill h))) ∧
    ((shared ≠ 0 → cache = true → ∀ e ∈ s.dirVictims h [a / 512], e.devices s.devnum = []) → ∃ t : State, exec (.homeFill h) s = .next t ∧
      let sent (m : Nat × Option Asker) (r : Reply) : Prop := r.addr = a ∧ r.shared = shared ∧ r.cache = cache ∧ r.asks = m.2.toList ∧
        (m.1 < 4096 → (h, Down.reply m.1 r) ∈ (t.cluster (m.1 / 16)).down) ∧
        (4096 ≤ m.1 → s.portState (s.planePort (planeOf a)) = .up → OutMsg.fillReply (m.1 / 4096 - 1) (m.1 % 4096) r ∈ t.out)
      (∀ u, (s.modHome h (fun y => { y with input := rest })).homeFetch h (a / 512) (a % 512) (a % 512 + n) shared = some u → ∀ m ∈ ms,
        ∃ r, sent m r ∧ r.refused = false ∧
          r.data = (List.range n).map (fun k => (heldByte (u.home h).entries (a / 512) (a % 512 + k)).getD 0)) ∧
      ((s.modHome h (fun y => { y with input := rest })).homeFetch h (a / 512) (a % 512) (a % 512 + n) shared = none → ∀ m ∈ ms,
        ∃ r, sent m r ∧ r.refused = true))) ∧
  (∀ (s : State) (h c a : Nat) (data : List Byte) (tags : BitVec 64) (cls : Cls) (poison : BitVec 32) (ack : Option (Nat × Nat)) (rest : List Req),
    let t := s.modHome h (fun y => { y with input := rest })
    let merged := if (s.physOf h a).isSome = true then t.homeMerge h (a / 512) (a % 512) cls data tags poison else t
    s.serves h (.writeback c a data tags cls poison ack) rest →
    (ack = none → exec (.homeWriteback h) s = .next merged) ∧
    (∀ hid id, ack = some (hid, id) → exec (.homeWriteback h) s = .next (merged.ackHart hid id 0 (if poison = 0 then none else some .poison) a))) ∧
  (∀ (s : State) (h hid id a n : Nat) (rest : List Req), s.serves h (.clean hid id a n) rest → ∃ t : State,
    (t.home h).entries = cleanAll (s.home h).entries (a / 512) (a % 512) (a % 512 + n) ∧
    exec (.homeWriteback h) s = .next ((t.settleHome h (a / 512) (a % 512) (a % 512 + n)).ackHart hid id 0 none a)) ∧
  (∀ (s : State) (h hid id a z : Nat) (op : AmoOp) (b old : Word) (posted : Bool) (rest : List Req),
    let r : Req := .atomic hid id a op z b old posted
    let region := a / 512
    let lo := a % 512
    let t := s.modHome h (fun y => { y with input := rest })
    s.serves h r rest →
    (posted = false → (s.home h).dir.find? (fun e => e.region == region) = none → 0 < z → ∀ u, t.homeFetch h region lo (lo + z) allShared = some u →
      heldPoison (u.home h).entries region lo (lo + z) = 0 →
      let x := ofBytes ((List.range z).map (fun k => (heldByte (u.home h).entries region (lo + k)).getD 0))
      exec (.farAtomic h) s = .next ((u.homeMerge h region lo .shared (toBytes (word (amoNew op z x (b.toNat % 2 ^ (8 * z)) old.toNat)) z) 0 0).ackHart
        hid id (amoResult op z x) none a)) ∧
    (posted = true → (∀ g ∈ (s.home h).groups, g.takes r = false) → exec (.farAtomic h) s = .next
      ((t.modHome h (fun y => { y with groups := y.groups ++ [⟨a, z, op == .fadd, s.cycle, [(hid, id, b)]⟩] })).push (.amoGroupTimeout h))) ∧
    (posted = true → ∀ g, (s.home h).groups = [g] → g.takes r = true → g.members.length < 63 → exec (.farAtomic h) s = .next
      (t.modHome h (fun y => { y with groups := [{ g with members := g.members ++ [(hid, id, b)] }] })))) ∧
  (∀ (s : State) (h : Nat) (g : Group), (s.home h).groups = [g] → (s.home h).waits = [] →
    let region := g.addr / 512
    let lo := g.addr % 512
    let t := s.modHome h (fun y => { y with groups := [] })
    (s.cycle < g.since + 64 → exec (.amoGroupTimeout h) s = .next (s.push (.amoGroupTimeout h))) ∧
    (g.since + 64 ≤ s.cycle → g.float = false → 0 < g.size → (s.home h).dir.find? (fun e => e.region == region) = none →
      ∀ u, t.homeFetch h region lo (lo + g.size) allShared = some u → heldPoison (u.home h).entries region lo (lo + g.size) = 0 →
      let x := ofBytes ((List.range g.size).map (fun k => (heldByte (u.home h).entries region (lo + k)).getD 0))
      let sum := (x + (g.members.map (fun m => m.2.2.toNat % 2 ^ (8 * g.size))).foldl (· + ·) 0) % 2 ^ (8 * g.size)
      exec (.amoGroupTimeout h) s = .next ((u.homeMerge h region lo .shared (toBytes (word sum) g.size) 0 0).ackAll
        (g.members.map (fun m => (m.1, m.2.1))) 0 none g.addr)))

/-- R180, R182, R184, R189 to R193, R270, R283, R287. -/
def Obligations.SharersAndAnswersMove : Prop :=
  (∀ (s : State) (k h : Nat) (v : Inval) (rest : List (Nat × Down)), takeDown Down.isInval (s.cluster k).down = some (.inval v, rest) →
    v.home = some h → ∃ (t : State) (gone : Bool), exec (.invalidate k) s = .next t ∧ (t.cluster k).down = rest ∧ (t.home h).acks = (s.home h).acks ++ [(v.region, k, gone)] ∧
    Event.invalidateAck h ∈ t.agenda ∧
    (∀ n ∈ (s.cluster k).sharers v.region, ∀ e ∈ (t.core (16 * k + n)).nc, e.region = v.region → e.cls = .shared →
      ¬ (max e.lo v.lo < min e.hi v.hi))) ∧
  (∀ (s : State) (dev region lo hi : Nat),
    (find region s.remoteFilter = none → exec (.remoteInvalidate dev region lo hi) s =
      .next (s.sendOut (planeOf (region * 512)) (.remoteAck dev region false) .nothing)) ∧
    (∀ b, find region s.remoteFilter = some b → (∃ k, k < 256 ∧ bit b k = true) → ∃ t : State,
      exec (.remoteInvalidate dev region lo hi) s = .next t ∧ t.out = s.out ∧
      (∀ k, k < 256 → bit b k = true → (deviceSender dev, Down.inval ⟨none, region, lo, hi⟩) ∈ (t.cluster k).down ∧ Event.invalidate k ∈ t.agenda))) ∧
  (∀ (s : State) (h region p : Nat) (gone : Bool) (rest : List (Nat × Nat × Bool)), (s.home h).acks = (region, p, gone) :: rest → p < 256 →
    (∀ w, (s.home h).waits = [w] → w.region = region → w.clusters = [p] → w.remotes = [] → ∃ t : State, exec (.invalidateAck h) s = .next t ∧
      (t.home h).acks = rest ∧ (t.home h).waits = [] ∧ (t.home h).entries = (s.home h).entries ∧
      (∀ x ∈ w.writers, x.1 < 16384 → (⟨x.2, w.value, w.failed, w.addr, none⟩ : Ack) ∈ (t.hart x.1).acks)) ∧
    ((s.home h).waits = [] → ∃ t : State, exec (.invalidateAck h) s = .next t ∧ (t.home h).acks = rest ∧ (t.home h).waits = [] ∧ t.harts = s.harts) ∧
    (gone = true → s.clusterHolds p region = false → ∃ t : State, exec (.invalidateAck h) s = .next t ∧
      ∀ e ∈ (t.home h).dir, e.region = region → bit e.clusters p = false)) ∧
  (∀ (s : State) (h p : Nat), p < 256 →
    ((∀ w ∈ (s.home h).waits, p ∉ w.clusters) → exec (.invalidateTimeout h p) s = .next s) ∧
    (∀ w, (s.home h).waits = [w] → w.clusters = [p] → w.remotes = [] → ∃ t : State, exec (.invalidateTimeout h p) s = .next t ∧
      p ∈ (t.home h).fenced ∧ (t.home h).waits = [] ∧
      (∀ x ∈ w.writers, x.1 < 16384 → (⟨x.2, w.value, some .lost, w.addr, none⟩ : Ack) ∈ (t.hart x.1).acks)) ∧
    (∀ w, (s.home h).waits = [w] → p ∈ w.clusters → (∃ q ∈ w.clusters, q ≠ p) ∨ w.remotes ≠ [] → ∃ t : State,
      exec (.invalidateTimeout h p) s = .next t ∧ p ∈ (t.home h).fenced ∧
      (t.home h).waits = [{ w with clusters := w.clusters.filter (· != p), failed := some .lost }] ∧ t.harts = s.harts)) ∧
  (∀ (s : State) (h : Nat) (a : Ack) (rest : List Ack) (p : PStore), h < 2 ^ 26 → (s.hart h).acks = a :: rest →
    (s.hart h).stores.find? (fun q => q.id == a.id) = some p → a.failed = none → (s.hart h).fence = none →
    (∀ ids, (s.hart h).busy = some (.clean ids) ∨ (s.hart h).busy = some (.inv ids) → a.id ∉ ids) →
    (∀ r b n c g ids far, (s.hart h).busy = some (.plbinv r b n c g ids far) → a.id ∉ far) → ∃ t : State, exec (.ackReceived h) s = .next t ∧ (t.hart h).acks = rest ∧
    (1 < p.pieces → (t.hart h).stores = (s.hart h).stores.map (fun q => if q.id = a.id then { p with pieces := p.pieces - 1 } else q) ∧
      (t.hart h).g = (s.hart h).g) ∧
    (p.pieces ≤ 1 → (t.hart h).stores = (s.hart h).stores.filter (fun q => q.id != a.id) ∧
      (p.ret = none → (t.hart h).g = (s.hart h).g) ∧
      (∀ r n sg, p.ret = some (r, n, sg) → p.fails = [] → r ≠ 0 → (t.hart h).getG r = a.value))) ∧
  (∀ (s : State) (u : Nat) (a : UnitAck) (rest : List UnitAck), (s.postedOf u).acks = a :: rest → ∃ t : State,
    exec (.ackReceived (2 ^ 26 + u)) s = .next t ∧ (t.postedOf u).left = (s.postedOf u).left - 1 ∧ (t.postedOf u).acks = rest ∧
    (t.postedOf u).bytes = (s.postedOf u).bytes ++ a.bytes ∧ t.harts = s.harts) ∧
  (∀ (s : State) (c : Nat) (r : Reply) (rest : List (Nat × Down)), takeDown (Down.isReplyTo c) (s.cluster (c / 16)).down = some (.reply c r, rest) →
    let u := s.modCluster (c / 16) (fun x => { x with down := rest })
    let lands (u : State) (gone : List (Nat × Nat)) : State :=
      (if r.cache = true ∧ r.refused = false ∧ r.shared ≠ 0 then u.enterFilter c (r.addr / 512) else u).fillNear c r gone
    (r.asks = [] → (s.core c).fills = [] → exec (.fillArrives c) s = .next (lands u [])) ∧
    (r.asks = [] → ∀ f, (s.core c).fills = [f] → f.addr = r.addr → f.len = r.data.length →
      exec (.fillArrives c) s = .next (lands (u.modCore c (fun x => { x with fills := [] })) f.gone)) ∧
    (∀ (h id p n : Nat) (rd : BitVec 5) (sg : Bool) (l : PLoad), r.asks = [⟨h, id, p⟩] → (s.hart h).loads = [l] → l.id = id → l.dest = .g rd n sg →
      l.wants = (List.range n).map (fun k => ⟨r.addr + k, k, p, none⟩) → r.data.length = n → r.refused = false → r.poison = 0 → r.cache = false →
      ∃ t : State, exec (.fillArrives c) s = .next t ∧ (t.cluster (c / 16)).down = rest ∧ (t.hart h).loads = [] ∧
      (rd ≠ 0 → (t.hart h).getG rd =
        if sg then BitVec.signExtend 64 (BitVec.ofNat (8 * n) (ofBytes r.data)) else word (ofBytes r.data)))) ∧
  (∀ (s : State) (k hm since : Nat) (r : Req) (rest : List (Nat × Req × Nat)), (s.cluster k).egress = (hm, r, since) :: rest →
    let u := (s.modCluster k (fun c => { c with egress := rest })).routeFrom k hm r
    (since + 64 ≤ s.cycle → exec (.egressCombineTimeout k) s = .next u ∧
      (hm < 4096 → u = (s.modCluster k (fun c => { c with egress := rest })).intoHome hm r)) ∧
    (s.cycle < since + 64 → rest = [] → ∀ ms a n cls b, r = .fill ms a n cls b → ms.length < 16 →
      exec (.egressCombineTimeout k) s = .next (s.push (.egressCombineTimeout k)))) ∧
  (∀ (s : State) (c st : Nat) (x y : RangeEntry), 0 < x.len → 0 < y.len → x.joins y = true →
    (c < 4096 → (s.core c).nc = [x, y] → ncSet x.region = st →
      exec (.idleCoalesce c st) s = .next (s.modCore c (fun z => { z with nc := [x.join y] })).drawFree) ∧
    (4096 ≤ c → (s.home (c - 4096)).entries = [x, y] → homeSet x.region = st →
      exec (.idleCoalesce c st) s = .next (s.modHome (c - 4096) (fun z => { z with entries := [x.join y] })).drawFree)) ∧
  (∀ (s : State) (c st : Nat), c < 4096 → (∀ x ∈ (s.core c).nc, ∀ y ∈ (s.core c).nc, ncSet x.region = st → x.joins y = false) → ∃ t : State,
    exec (.idleCoalesce c st) s = .next t ∧ (t.core c).nc = (s.core c).nc ∧ t.harts = s.harts ∧ t.homes = s.homes ∧ t.agenda = s.agenda) ∧
  (∀ (s : State) (c : Nat) (w : WalkReq) (rest : List WalkReq), (s.core c).walks = w :: rest → ∃ t : State,
    exec (.pageWalkComplete c) s = .next t ∧ (t.core c).walks = rest ∧ t.harts = s.harts ∧
    (∀ l, s.walkUnit (c / 1024) w.addr = some l → l.plb ∈ (t.core c).plb ∧ (t.core c).absent = (s.core c).absent) ∧
    (s.walkUnit (c / 1024) w.addr = none → (t.core c).plb = (s.core c).plb ∧
      (w.hid = noHart → (t.core c).absent = (s.core c).absent) ∧ (w.hid ≠ noHart → (w.hid, w.addr / 4096) ∈ (t.core c).absent)))

/-- R33, R197 to R200, R206, R208, R225, R226, R228, R287, R290, R296. What other devices answer, and when, is the outside's (log 19). -/
def Obligations.BoltsWindowsAndWalksAct : Prop :=
  (∀ (b b' : Bolt) (n o : Nat) (bs : List Byte) (tag : Bool), o + bs.length ≤ 128 → b.store n (cellsAt (128 * n + o) bs) tag = some b' →
    (∀ k, k < bs.length → b'.byteAt (128 * n + o + k) = bs.getD k 0) ∧
    (∀ x, x < 128 * n + o ∨ 128 * n + o + bs.length ≤ x → b'.byteAt x = b.byteAt x)) ∧
  (∀ (s : State) (k hid id a : Nat) (data : List (Nat × Byte)) (ref : Bool) (rest : List Req),
    let r : Req := .store hid id a data ref
    let b : Bolt := { (s.cluster k).bolt with input := rest }
    (s.cluster k).bolt.input = r :: rest → s.owns (s.partOf (coreOf hid / 16)) r.bounds.1 = true →
    (∀ b', b.storeAll (s.boltBaseOf k) data ref = some b' →
      exec (.boltStore k) s = .next ((s.modCluster k (fun c => { c with bolt := b' })).ackHart hid id 0 none a)) ∧
    (b.storeAll (s.boltBaseOf k) data ref = none →
      exec (.boltStore k) s = .next ((s.modCluster k (fun c => { c with bolt := b })).ackHart hid id 0 (some .refused) a))) ∧
  (∀ (s : State) (k a n : Nat) (m : Nat × Option Asker) (shared : BitVec 8) (cache : Bool) (rest : List Req), m.1 < 4096 →
    let r : Req := .fill [m] a n shared cache
    (s.cluster k).bolt.input = r :: rest → s.owns (s.partOf (m.1 / 16)) a = true → ∃ t : State,
    exec (.boltRead k) s = .next t ∧ (t.cluster k).bolt.blocks = (s.cluster k).bolt.blocks ∧ (t.cluster k).bolt.input = rest ∧
    ∃ y, (boltSender k, Down.reply m.1 y) ∈ (t.cluster (m.1 / 16)).down ∧ y.addr = a ∧ y.refused = false ∧ y.cache = false ∧ y.asks = m.2.toList ∧
      y.data = (List.range n).map (fun j => (s.cluster k).bolt.byteAt (a - s.boltBaseOf k + j))) ∧
  (∀ (s : State) (c h n a id hid : Nat) (w : Window) (rest : List (Nat × Req)) (bs : List Byte) (ref : Bool),
    let r : Req := .store hid id a (cellsAt a bs) ref
    let own := h < deviceSender 0 ∧ s.windowOf h r.region = some (c, n)
    let far := deviceSender 0 ≤ h ∧ (s.core c).windows = [(n, w)] ∧ w.holds r.bounds.1 = true ∧ w.away = false
    (s.core c).fwd = (h, r) :: rest → own ∨ far → find n (s.core c).windows = some w → w.base ≤ a →
    w.off + (a - w.base) + bs.length ≤ localSize → hid < 16384 → ∃ t : State, exec (.forwardedWindowAccess c) s = .next t ∧ (t.core c).fwd = rest ∧
    (∀ k, k < bs.length → (t.core c).localByte (w.off + (a - w.base) + k) = bs.getD k 0) ∧
    (t.hart hid).acks = (s.hart hid).acks ++ [⟨id, 0, none, a, none⟩] ∧ t.mem = s.mem) ∧
  (∀ (s : State) (c h n a len : Nat) (w : Window) (rest : List (Nat × Req)) (m : Nat × Option Asker) (shared : BitVec 8) (cache : Bool),
    m.1 < 4096 →
    let r : Req := .fill [m] a len shared cache
    let own := h < deviceSender 0 ∧ s.windowOf h r.region = some (c, n)
    let far := deviceSender 0 ≤ h ∧ (s.core c).windows = [(n, w)] ∧ w.holds a = true ∧ w.away = false
    (s.core c).fwd = (h, r) :: rest → own ∨ far → find n (s.core c).windows = some w → w.base ≤ a → ∃ t : State,
    exec (.forwardedWindowAccess c) s = .next t ∧ (t.core c).fwd = rest ∧ (t.core c).loc = (s.core c).loc ∧
    ∃ y, (h, Down.reply m.1 y) ∈ (t.cluster (m.1 / 16)).down ∧ y.addr = a ∧ y.cache = false ∧ y.refused = false ∧ y.asks = m.2.toList ∧
      y.data = (List.range len).map (fun k => (s.core c).localByte (w.off + (a - w.base) + k))) ∧
  (∀ (s : State) (c n : Nat) (w : Window), find n (s.core c).windows = some w → w.draining = true → (s.core c).wmaps = [] →
    (s.windowBusy c n w = true → exec (.wunmapDrainComplete c n) s = .next (s.push (.wunmapDrainComplete c n))) ∧
    let here := s.spansOut w = false ∨ w.away = true
    (s.windowBusy c n w = false → ¬ here → ∃ t : State, exec (.wunmapDrainComplete c n) s = .next t ∧
      find n (t.core c).windows = some { w with away := true } ∧ Event.wunmapDrainComplete c n ∈ t.agenda) ∧
    (s.windowBusy c n w = false → here → s.settled (windowUnit c) = false → exec (.wunmapDrainComplete c n) s = .next (s.push (.wunmapDrainComplete c n))) ∧
    (s.windowBusy c n w = false → here → s.settled (windowUnit c) = true → w.ctr = none → ∃ t : State,
      exec (.wunmapDrainComplete c n) s = .next t ∧ find n (t.core c).windows = none) ∧
    (s.windowBusy c n w = false → s.settled (windowUnit c) = true → w.base = 0 → ∀ x, w.ctr = some x →
      exec (.wunmapDrainComplete c n) s = .next ((s.modCore c (fun y => { y with windows := drop n y.windows })).countAt c x 2 0))) ∧
  (∀ (s : State) (k n : Nat) (w : SowerWalk), (s.cluster k).servedWalk = some (n, w) →
    (w.frames = [] → ∃ t : State, exec (.sowerWalkStep k) s = .next t ∧ (find n (t.cluster k).walks).any (fun x => x.result == some 0) = true ∧
      (∀ j ∈ s.noticeClusters k w.scope, (⟨16 * k + n, w.pages, w.away⟩ : Notice) ∈ (t.cluster j).notices ∧ Event.publicationNotice j ∈ t.agenda)) ∧
    (∀ slot o below others, w.frames = (slot, (o, 8) :: below) :: others → s.pubBit k w.away o ≠ some false →
      exec (.sowerWalkStep k) s = .next ((s.modCluster k (fun c => { c with walks := put n { w with frames := (slot, below) :: others } c.walks })).push
        (.sowerWalkStep k))) ∧
    (∀ slot o below others, w.frames = (slot, (o, 8) :: below) :: others → s.pubBit k w.away o = some false → w.counted = 4096 →
      w.hid ≠ noHart → cookie n ((find n (s.cluster k).slotGen).getD 0) ≠ 0 → ∃ t : State, exec (.sowerWalkStep k) s = .next t ∧
      (find n (t.cluster k).walks).any (fun x => x.result == some (cookie n ((find n (s.cluster k).slotGen).getD 0))) = true ∧
      Event.pubComplete w.hid ∈ t.agenda)) ∧
  (∀ (s : State) (k p : Nat) (v : Notice) (rest : List Notice), (s.cluster k).notices = v :: rest → v.pages = [p] → devOf (p * 4096) = s.devnum → ∃ t : State,
    exec (.publicationNotice k) s = .next t ∧ (t.cluster k).notices = rest ∧
    (∀ c l, c < 16 → s.walkUnit ((16 * k + c) / 1024) (p * 4096) = some l → ∀ e ∈ (t.core (16 * k + c)).plb, e.covers (p * 4096) = true →
      ∀ g, bit l.plb.mask g = true → bit e.mask g = true) ∧
    (∀ w, find (v.walk % 16) (s.cluster (v.walk / 16)).walks = some w → w.waiting = [k] → w.hid ≠ noHart →
      Event.pubComplete w.hid ∈ t.agenda)) ∧
  (∀ (s : State) (h n : Nat) (rd : BitVec 5) (w : SowerWalk) (r : Word), (s.hart h).busy = some (.pub rd) → (s.cluster (clusterOf h)).walks = [(n, w)] →
    w.hid = h → w.result = some r → w.suspended = false → w.waiting = [] →
    let clear := (s.hart h).stores = [] ∧ s.settled (sowerUnit (clusterOf h) n) = true
    (r = 0 → ¬ clear → exec (.pubComplete h) s = .next (s.push (.pubComplete h))) ∧
    (r ≠ 0 ∨ clear → ∀ pc, (s.hart h).safeAt = some pc → (s.hart h).preempt.isSome = true → ∃ (u : State) (gl vl : BitVec 32),
      exec (.pubComplete h) s = .next (u.save h (s.hart h).pc gl vl false) ∧ (u.hart h).busy = none ∧ (rd ≠ 0 → (u.hart h).getG rd = r)) ∧
    (r ≠ 0 ∨ clear → (s.hart h).safeAt = none ∨ (s.hart h).preempt = none → ∃ t : State, exec (.pubComplete h) s = .next t ∧ (t.hart h).busy = none ∧
      (rd ≠ 0 → (t.hart h).getG rd = r) ∧
      (isCookie r = false → (t.cluster (clusterOf h)).walks = []) ∧
      (isCookie r = true → find n (t.cluster (clusterOf h)).walks = some { w with suspended := true, result := none }))) ∧
  (∀ (s : State) (h base len scope : Nat) (rd : BitVec 5), (s.hart h).busy = some (.plbinv rd base len scope none [] []) →
    (s.hart h).safeAt = none ∨ (s.hart h).preempt = none →
    let cs := s.scopeCores h scope
    let dropped (e : PlbEntry) := pageMeets e.page e.size base len = true ∧ ∃ c ∈ cs, e ∈ (s.core c).plb
    (scope ≠ 3 → (∀ e, dropped e → s.writebackTo cs (e.page * 4096) e.size = false ∧ ∀ c ∈ cs, s.accessesAt c (e.page * 4096) e.size = []) → ∃ t : State, exec (.plbinvDrop (.own h)) s = .next t ∧
      (t.hart h).busy = none ∧ (t.hart h).getG rd = 0 ∧ (∀ c ∈ cs, ∀ e ∈ (t.core c).plb, pageMeets e.page e.size base len = false)) ∧
    (scope = 3 ∨ (∃ e c, dropped e ∧ c ∈ cs ∧ s.accessesAt c (e.page * 4096) e.size ≠ []) → ∃ t : State,
      exec (.plbinvDrop (.own h)) s = .next t ∧ (t.hart h).g = (s.hart h).g ∧ (t.hart h).busy.isSome = true ∧ Event.plbinvDrop (.own h) ∈ t.agenda ∧
      (scope = 3 → ∃ gone ids id, (t.hart h).busy = some (.plbinv rd base len 3 (some gone) ids [id])) ∧
      (∀ c ∈ cs, ∀ e ∈ (t.core c).plb, pageMeets e.page e.size base len = false))) ∧
  (∀ (s : State) (hid : Nat) (d : FarDrop), 16384 ≤ hid → hid < 2 ^ 26 →
    (s.farDrops = [] → ∃ t : State, exec (.plbinvDrop (.far hid d)) s = .next t ∧ Event.plbinvDrop (.far hid d) ∈ t.agenda ∧ t.out = s.out ∧
      t.farDrops.map (fun w => (w.hid, w.drop)) = [(hid, d)] ∧ (∀ c, ∀ e ∈ (t.core c).plb, pageMeets e.page e.size d.base d.len = false)) ∧
    (∀ w, s.farDrops = [w] → w.hid = hid → w.drop = d →
      (s.underDropped s.usedCores w.gone w.ids = true → exec (.plbinvDrop (.far hid d)) s = .next (s.push (.plbinvDrop (.far hid d)))) ∧
      (s.underDropped s.usedCores w.gone w.ids = false → exec (.plbinvDrop (.far hid d)) s =
        .next (({ s with farDrops := [] } : State).sendOut (planeOf d.base) (.storeAck (hid / 16384 - 1) (hid % 16384) ⟨d.id, 0, none, d.base, none⟩) .nothing))))

/-- R91, R160, R162, R167, R169, R261, R263, R264, R268, R310, R311, R316. -/
def Obligations.ArrivalsAndTasksMove : Prop :=
  (∀ (s : State) (c : Nat) (h0 h1 : Word) (payload : List Byte) (tags : List Bool) (domain : BitVec 16) (rest : List Arrival),
    let e := hdrHandler h0
    let x := hdrCtr h0
    let d := hdrDecrement h0
    let n := (s.core c).count x
    let m := alignUp payload.length 16
    (s.core c).port = .msg h0 h1 payload tags .plain none domain :: rest → hdrChannel h0 = false → s.mappedOut (c / 16) = false →
    hdrPart h1 = s.partOf (c / 16) → hdrXform h0 = 0 →
    (∀ hd, (s.core c).handler? e = some hd → hd.off + m ≤ ringBase hd.w1 + ringSize hd.w0 → m ≤ ringSize hd.w0 → m ≤ hd.free →
      hd.off + payload.length ≤ localSize → d < n → ∃ t : State, exec (.messageArrival c) s = .next t ∧ (t.core c).port = rest ∧
      (∀ k, k < payload.length → (t.core c).localByte (hd.off + k) = payload.getD k 0) ∧ (t.core c).count x = n - d ∧
      ∃ hd', find e (t.core c).handlers = some hd' ∧ hd'.off = hd.off + m ∧ hd'.free + hd'.reserved + m = hd.free + hd.reserved) ∧
    ((s.core c).handler? e = none → hdrSource h1 / 16384 = s.devnum → hdrSource h1 / 4 % 4096 ≠ c → ∃ (t : State) (b0 b1 : Word),
      exec (.messageArrival c) s = .next t ∧ (t.core c).port = rest ∧ hdrHandler b0 = 255 ∧
      (t.core (hdrSource h1 / 4 % 4096)).port = (s.core (hdrSource h1 / 4 % 4096)).port ++ [.msg b0 b1 (bytesOf [h0, h1, 1, 0]) [] .bounce none 0])) ∧
  (∀ (s : State) (c : Nat) (h0 h1 : Word) (payload : List Byte) (tags : List Bool) (kind : MsgKind) (domain : BitVec 16) (rest : List Arrival),
    let x := hdrCtr h0
    let q := 4 * (hdrRoute h0 / 4 % 4) + hdrRoute h0 % 4
    let n := (payload.length + 63) / 64
    (s.core c).port = .msg h0 h1 payload tags kind none domain :: rest → hdrChannel h0 = true → s.mappedOut (c / 16) = false →
    hdrPart h1 = s.partOf (c / 16) → hdrXform h0 = 0 → n ≤ queueCap s c q → (0 < n → queueTakes s (s.core c) c q n = true) →
    hdrDecrement h0 < (s.core c).count x → ∃ t : State, exec (.channelPacketArrival c) s = .next t ∧ (t.core c).port = rest ∧
    (t.core c).queue q = (s.core c).queue q ++ (List.range n).map (fun k => BitVec.ofNat 512 (ofBytes ((payload.drop (64 * k)).take 64))) ∧
    (t.core c).count x = (s.core c).count x - hdrDecrement h0) ∧
  (∀ (s : State) (c x source : Nat) (corr : BitVec 32) (rest : List Arrival), (s.core c).port = .count x source corr :: rest → x < 64 →
    1 < (s.core c).count x → ∃ t : State, exec (.countModeArrival c) s = .next t ∧ (t.core c).port = rest ∧
    (t.core c).count x = (s.core c).count x - 1 ∧ (∀ y, y ≠ x → (t.core c).count y = (s.core c).count y) ∧ t.harts = s.harts) ∧
  (∀ (s : State) (h : Nat), (s.hart h).run = .free → s.fatal = false → (s.core (coreOf h)).ending = [] →
    s.mappedOut (clusterOf h) = false → (s.cluster (clusterOf h)).dbg.halted = false →
    (∀ e, s.nextReady h = some e → e.2.saved = none → ∃ t : State, exec (.taskDispatch h) s = .next t ∧
      (t.core (coreOf h)).runq = removeFirst (fun y => y == e) (s.core (coreOf h)).runq ∧ (t.hart h).run = .running ∧
      (t.hart h).job = some e.2 ∧ (t.hart h).pc = e.2.entry ∧ (t.hart h).getG 2 = (s.hart h).stktop ∧ (t.hart h).getG 3 = e.2.g3) ∧
    (∀ e rest, (s.core (coreOf h)).runq = [] → (s.core (coreOf h)).deque = rest ++ [e] → e.2.saved = none → ∃ t : State,
      exec (.taskDispatch h) s = .next t ∧ (t.core (coreOf h)).deque = rest ∧ (t.hart h).run = .running ∧ (t.hart h).job = some e.2) ∧
    ((s.core (coreOf h)).runq = [] → (∀ v, v / 16 = clusterOf h → (s.core v).deque = []) → exec (.taskDispatch h) s = .next s)) ∧
  (∀ (s : State) (c : Nat) (e : Nat × Task) (rest : List (Nat × Task)), (s.core c).deque = e :: rest →
    (e.1 + 4096 ≤ s.cycle → (s.core c).room = true → ∃ t : State, exec (.dequeAgeing c) s = .next t ∧ (t.core c).deque = rest ∧
      (t.core c).runq = (s.core c).runq ++ [(s.cycle, e.2)] ∧ t.harts = s.harts) ∧
    (s.cycle < e.1 + 4096 → exec (.dequeAgeing c) s = .next (s.push (.dequeAgeing c)))) ∧
  (∀ (s : State) (d : Nat), ((s.die d).admission = [] → exec (.drillCycle d) s = .next s) ∧
    (∀ l : Launch,
      let w3 := dw l.desc 3
      let place := placement (s.eligible d l.part.toNat l.desc) (bf w3 25 2) l.next
      let cid := (64 * d + place.1) * 16 + place.2
      (s.die d).admission = [l] → bit w3 27 = true → s.eligible d l.part.toNat l.desc ≠ [] →
      (∀ n, n < 4 → bf (dw l.desc 5) (16 * n) 16 / 2 ^ 15 = 1 → ((s.die d).graphCtr (bf (dw l.desc 5) (16 * n) 16 % 256)).count = 0) →
      s.isReady (64 * d + place.1) = true → (s.core cid).room = true → ∃ t : State,
      exec (.drillCycle d) s = .next t ∧ (t.core cid).runq = (s.core cid).runq ++ [(s.cycle, s.launchTask d l l.next)] ∧
      (t.die d).admission = if l.next = bf (dw l.desc 2) 0 32 then [] else [{ l with next := l.next + 1 }])) ∧
  (∀ (s : State) (h : Nat) (dest : Option Nat),
    let asks := ((s.hart h).run = .running ∨ (s.hart h).run = .blocked) ∧ (s.hart h).job.isSome = true ∧ (s.hart h).freeSlot.isSome = true ∧
      (s.hart h).preempt = none
    (¬ asks → exec (.preemptionRequest h dest) s = .next s) ∧
    (asks → dest = none → exec (.preemptionRequest h dest) s = .next ((s.modHart h (fun y => { y with preempt := some s.time })).push (.forcedSave h))) ∧
    (asks → ∃ t : State, exec (.preemptionRequest h dest) s = .next t ∧ (t.hart h).preempt = some s.time ∧ Event.forcedSave h ∈ t.agenda)) ∧
  (∀ (s : State) (h n : Nat) (t0 : Word) (j : Task),
    let x := s.hart h
    let base := x.ctxbase.toNat + 0x6000 * n
    let img := s.saveImage h x.pc (BitVec.allOnes 32) (BitVec.allOnes 32) true false
    x.preempt = some t0 → x.job = some j →
    (s.time.toNat < t0.toNat + 100000 → exec (.forcedSave h) s = .next (s.push (.forcedSave h))) ∧
    (t0.toNat + 100000 ≤ s.time.toNat → x.run = .running → x.busy = none → x.fence = none → x.cancelled = false →
      (s.cluster (clusterOf h)).dbg.halted = false → x.wait = .none → x.mchecks = [] → x.loads = [] → (∀ p ∈ x.stores, p.ret = none) → x.migrate = none →
      x.freeSlot = some n → (s.core (coreOf h)).claim ≠ some h → (s.core (coreOf h)).room = true →
      s.imageFault x.dom .store base (img.map (fun p => (p.1, p.2.length))) = none → ∃ t : State, exec (.forcedSave h) s = .next t ∧
      (t.hart h).run = .free ∧ (t.hart h).job = none ∧ bit (t.hart h).slots n = true ∧
      (t.core (coreOf h)).runq = (s.core (coreOf h)).runq ++ [(s.cycle, { x.record j with saved := some ⟨h, n, base, x.pc⟩ })])) ∧
  (∀ (s : State) (c : Nat) (m : CtxMsg) (rest : List CtxMsg), (s.core c).ctxIn = m :: rest → ∃ t : State,
    exec (.registerContextArrival c) s = .next t ∧ (t.core c).ctxIn = rest ∧ (t.core c).reservedRunq = (s.core c).reservedRunq - 1 ∧
    (t.core c).runq = (s.core c).runq ++ [(s.cycle, m.task)]) ∧
  (∀ (s : State) (c id : Nat) (r : Reply) (rest : List (Nat × Reply)), (s.core c).lateReplies = (id, r) :: rest →
    (s.tasksAt c = [] → (∀ k, k < 4 → ∀ l ∈ (s.hart (4 * c + k)).loads, l.id ≠ id) →
      ((∀ f ∈ (s.core c).forwards, id ∉ f.ids) → ∃ t : State, exec (.loadReplyForwarded c) s = .next t ∧
        (t.core c).lateReplies = rest ∧ t.harts = s.harts ∧ t.homes = s.homes) ∧
      (∀ (d k n : Nat) (rd : BitVec 5) (sg : Bool) (l : PLoad), (∃ f ∈ (s.core c).forwards, id ∈ f.ids) → k < 4 →
      (∀ e, e ≠ d → s.lateWanted e id = false) → (s.hart (4 * d + k)).loads = [l] → l.id = id → l.dest = .g rd n sg →
      (∀ j, j < 4 → j ≠ k → (s.hart (4 * d + j)).loads = []) → (∀ q ∈ r.asks, q.id = id ∧ q.piece = 0) →
      l.wants = (List.range n).map (fun i => ⟨r.addr + i, i, 0, none⟩) → r.data.length = n → r.refused = false → r.poison = 0 →
      ∃ t : State, exec (.loadReplyForwarded c) s = .next t ∧ (t.core c).lateReplies = rest ∧ (t.hart (4 * d + k)).loads = [] ∧
      (rd ≠ 0 → (t.hart (4 * d + k)).getG rd =
        if sg then BitVec.signExtend 64 (BitVec.ofNat (8 * n) (ofBytes r.data)) else word (ofBytes r.data))))) ∧
  (∀ (s : State) (h : Nat) (rd : BitVec 5) (ev : BitVec 10) (d : Word), (s.hart h).wait = .event rd ev d →
    (d.toNat ≤ s.time.toNat → (s.hart h).run = .blocked →
      exec (.waiteDeadline h) s = .next (s.modHart h (fun x => { x with run := .running }))) ∧
    (s.time.toNat < d.toNat → exec (.waiteDeadline h) s = .next (s.push (.waiteDeadline h))))

/-- R72 to R74, R133 to R135, R148, R151, R194, R325, R328, R329, R331 to R333. That SECDED detects more than two flips and never miscorrects them is
the model's choice (log 51); so is which participants of a barrier are late, `laggards`, as barrier and hart (log 42). -/
def Obligations.UnitsActOnTheirOwn : Prop :=
  (∀ (s : State) (h : Nat),
    let x := s.hart h
    (x.mchecks = [] → exec (.machineCheck h) s = .next s) ∧
    (x.mchecks ≠ [] → x.run = .parked → exec (.machineCheck h) s = .next (s.push (.machineCheck h))) ∧
    (∀ a rest, x.mchecks = a :: rest → x.run = .running → x.busy = none → x.fence = none → x.cancelled = false →
      (s.cluster (clusterOf h)).dbg.halted = false → x.wait = .none → ∃ t : State, exec (.machineCheck h) s = .next t ∧
      (t.hart h).run = .parked ∧ (t.hart h).cause = causeWord false 0 .machineCheck ∧ (t.hart h).faddr = word a ∧
      (t.hart h).trappc = x.pc ∧ (t.hart h).mchecks = rest ∧ (t.hart h).parkSeq = x.parkSeq + 1 ∧ (t.hart h).g = x.g ∧
      (t.hart h).v = x.v ∧ (t.hart h).m = x.m)) ∧
  (∀ (s : State) (h index w : Nat) (flips : BitVec 40), index ≠ 0 → index < 32 → w < 2 → flips ≠ 0 → (s.hart h).errs = [] → ∃ t : State,
    exec (.softError (.regWord h 0 index w flips)) s = .next t ∧
    (t.hart h).g.toList.getD index 0 = (s.hart h).g.toList.getD index 0 ^^^
      (if bit (s.hart h).regmask index then zext (flips.setWidth 32) <<< (32 * w) else 0) ∧
    (∀ j, j ≠ index → (t.hart h).g.toList.getD j 0 = (s.hart h).g.toList.getD j 0) ∧
    (t.hart h).errs = [⟨0, index, w, flips, false⟩] ∧ (t.hart h).v = (s.hart h).v ∧ t.cores = s.cores ∧ t.mem = s.mem) ∧
  (∀ (s : State) (c n g : Nat), exec (.softError (.nearGranule c n g true)) s = .next s ∧ exec (.softError (.homeGranule c n g true)) s = .next s) ∧
  (∀ (s : State) (k n : Nat), n < 32768 → ∃ t : State, exec (.softError (.boltBlock k n false)) s = .next t ∧
    ((t.cluster k).bolt.block n).poison = true ∧ ∀ o, (t.cluster k).bolt.byteAt o = (s.cluster k).bolt.byteAt o) ∧
  (∀ (s : State) (c : Nat),
    let pos := (s.core c).scrubPos
    let h := 4 * c + pos / 592
    ((s.hart h).errs = [] → exec (.scrubWord c) s = .next (s.modCore c (fun x => { x with scrubPos := (pos + 1) % 2368 }))) ∧
    (∀ e, (s.hart h).errs = [e] → e.poisoned = false → (e.parityBits % 2 = 1 ∨ e.secdedBits ≠ 0) → scrubPlace (pos % 592) = (e.file, e.index, e.word) →
      (s.hart h).twinned e.file e.index = false → ∃ t : State, exec (.scrubWord c) s = .next t ∧ (t.core c).scrubPos = (pos + 1) % 2368 ∧
      (e.secdedBits ≤ 1 → t.hart h =
        { (if (s.hart h).holdsWord e.file e.index then (s.hart h).flip e.file e.index e.word e.data else s.hart h) with errs := [] } ∧
        (t.core c).regerr = regerrAdd (s.core c).regerr 1 false) ∧
      (1 < e.secdedBits → t.hart h = { (s.hart h) with errs := [{ e with poisoned := true }] } ∧
        (t.core c).regerr = regerrAdd (s.core c).regerr 0 true))) ∧
  (∀ (s : State) (c : Nat), ((s.core c).mma = none → exec (.mmaComplete c) s = .next s) ∧
    (∀ j, (s.core c).mma = some j → ∃ t : State, exec (.mmaComplete c) s = .next t ∧ (t.core c).mma = none ∧
      ((s.core c).claim = some j.hid → (t.core c).acc.toList.getD j.acc.toNat 0 = j.result ∧
        (t.hart j.hid).fflags = (s.hart j.hid).fflags ||| zext j.flags ∧
        ∀ m : Nat, m < 4 → m ≠ j.acc.toNat → (t.core c).acc.toList.getD m 0 = (s.core c).acc.toList.getD m 0) ∧
      ((s.core c).claim ≠ some j.hid → (t.core c).acc = (s.core c).acc ∧ t.harts = s.harts))) ∧
  (∀ (s : State) (c : Nat) (l : Bool),
    (s.handoffReady c l = true → ∃ t : State, exec (.seamHandoffBegin c l) s = .next t ∧ ((t.core c).latch l).pass = false ∧
      ((t.core c).latch l).out = true ∧ ((t.core (seamNext c)).latch l).landing = some ((s.core c).latch l).data ∧
      Event.seamArrivalLanded (seamNext c) l ∈ t.agenda) ∧
    (s.handoffReady c l = false → ((s.core c).latch l).pass = true → exec (.seamHandoffBegin c l) s = .next (s.push (.seamHandoffBegin c l))) ∧
    (((s.core c).latch l).pass = false → exec (.seamHandoffBegin c l) s = .next s)) ∧
  (∀ (s : State) (c : Nat) (l : Bool),
    (((s.core c).latch l).landing = none → exec (.seamArrivalLanded c l) s = .next s) ∧
    (∀ d, ((s.core c).latch l).landing = some d → (s.core c).claim.isSome = true → ∃ t : State,
      exec (.seamArrivalLanded c l) s = .next t ∧ ((t.core c).latch l).st = .full ∧ ((t.core c).latch l).data = d ∧
      ((t.core c).latch l).landing = none ∧ ((t.core (seamPrev c)).latch l).out = false)) ∧
  (∀ (s : State) (c : Nat),
    let falls := Config.idlePower < s.floor ∧ Config.livePower s.cycle < s.floor
    (¬ falls ∨ (s.core c).mma.isSome = true ∨ s.runsPinned c = true ∨ s.mappedOut (c / 16) = true ∨ s.fatal = true →
      exec (.ballastMma c) s = .next s) ∧
    (falls → (s.core c).mma = none → s.runsPinned c = false → s.mappedOut (c / 16) = false → s.fatal = false →
      exec (.ballastMma c) s =
        .next ((s.modCore c (fun x => { x with ballast := (x.ballast + 1) &&& 0xFFFFFFFFFFFF })).setReg 0x320 (s.reg 0x320 + 1)))) ∧
  (∀ s : State, ∃ t : State, exec .rampSlotBoundary s = .next t ∧ t.slot = s.slot + 1 ∧ t.floor = Config.modulePower s.slot - 250000 ∧
    (∀ d, d < 4 → (t.die d).budget ≤ 62500) ∧
    ((∀ k ∈ s.clusters, s.laggards k.1 = []) → ∀ d, d < 4 → (t.die d).budget = 62500) ∧
    (∀ k b h x, s.clusters.map (fun y => y.1) = [k] → s.laggards k = [(b, h)] → (∀ d, d < 4 → (s.die d).launches = []) → s.core (coreOf h) = x →
      x.clamped = [] → x.clockMHz < 2100 → coreOf h / 1024 < 4 →
      (t.core (coreOf h)).clockMHz = x.clockMHz + 100 ∧ (b, h) ∈ (t.core (coreOf h)).boosts ∧
      ∀ d, d < 4 → (t.die d).budget = if d = coreOf h / 1024 then 62475 else 62500)) ∧
  (∀ (s : State) (k slot : Nat) (w : GleanWalk), find slot (s.cluster k).glean = some w →
    (w.state ≠ 0 → exec (.gleanerVisit k slot) s = .next s) ∧
    (∀ i rest,
      let m := ((dw w.desc 7).toNat + i / 8) % 2 ^ 64
      let n := ((dw w.desc 1).toNat + 4 * i) % 2 ^ 64
      let u := gleanUnit k slot w.gen
      w.state = 0 → w.issuing = none → w.reissue = [] → w.todo = i :: rest → s.devHeld false m 1 = false →
      (∀ x, s.allowedExt w.domain .load m 1 = none → s.gather u [(m, 1)] = some x → exec (.gleanerVisit k slot) s = .next (x.push (.gleanerVisit k slot))) ∧
      (s.gather u [(m, 1)] = none → s.gleanRead u w m 1 = none → ∃ t : State, exec (.gleanerVisit k slot) s = .next t ∧
        (find slot (t.cluster k).glean).any (fun y => y.state == 2 && y.reason == 4) = true) ∧
      (∀ b, s.gather u [(m, 1)] = none → s.gleanRead u w m 1 = some b → b / 2 ^ (i % 8) % 2 = 1 →
        1 < (s.core w.cid).count (bf (dw w.desc 0) 40 6) → ∃ t : State, exec (.gleanerVisit k slot) s = .next t ∧
        (find slot (t.cluster k).glean).any (fun y => y.retired == w.retired + 1 && y.todo == rest && !y.deferred.contains i) = true ∧
        (t.core w.cid).count (bf (dw w.desc 0) 40 6) = (s.core w.cid).count (bf (dw w.desc 0) 40 6) - 1) ∧
      (∀ b idx, s.gather u [(m, 1)] = none → s.gleanRead u w m 1 = some b → b / 2 ^ (i % 8) % 2 = 0 → s.devHeld false n 4 = false →
        s.gather u [(n, 4)] = none → s.gleanRead u w n 4 = some idx → (gleanOperand w.desc 0 idx).2 = 0 → (gleanOperand w.desc 1 idx).2 = 0 → w.pinned = true →
        (s.gleanCore k w = none → ∃ t : State, exec (.gleanerVisit k slot) s = .next t ∧ Event.gleanerVisit k slot ∈ t.agenda ∧
          (find slot (t.cluster k).glean).any (fun y => y.issued == w.issued && y.todo == i :: rest && y.issuing.any (fun p => p.point == i)) = true ∧
          t.cores = s.cores) ∧
        (∀ c, s.gleanCore k w = some c → ∃ t : State, exec (.gleanerVisit k slot) s = .next t ∧
          (t.core (16 * k + c)).runq = (s.core (16 * k + c)).runq ++ [(s.cycle, s.pointTask k slot w i idx)] ∧
          (find slot (t.cluster k).glean).any (fun y => y.issued == w.issued + 1 && y.outstanding == w.outstanding + 1 && y.todo == rest) = true)))) ∧
  (∀ (s : State) (k slot : Nat) (w : GleanWalk), find slot (s.cluster k).glean = some w →
    (w.state ≠ 0 ∨ w.passOpen = true ∨ w.deferred = [] → exec (.gleanerPassStart k slot) s = .next s) ∧
    (w.state = 0 → w.passOpen = false → w.deferred ≠ [] → s.cycle < w.passStart + 512 →
      exec (.gleanerPassStart k slot) s = .next (s.push (.gleanerPassStart k slot))) ∧
    (w.state = 0 → w.passOpen = false → w.deferred ≠ [] → w.passStart + 512 ≤ s.cycle → ∃ t : State,
      exec (.gleanerPassStart k slot) s = .next t ∧ Event.gleanerVisit k slot ∈ t.agenda ∧
      find slot (t.cluster k).glean = some { w with pass := w.pass + 1, passStart := s.cycle, passOpen := true, todo := w.deferred }))

/-- R271 to R278, R350 to R352. The model's choices: what a unit reads and stores at once (log 11), the engines' open points (log 14), and what other
devices answer (log 19). -/
def Obligations.EnginesRunTheirJobs : Prop :=
  (∀ (s : State) (e : Nat) (c : Cmd) (rest : List Cmd), s.takes e (.malformedCommand e) c rest → ∃ t : State,
    exec (.malformedCommand e) s = .next t ∧ (t.engine e).job = some ⟨c, 0, 0, 2, true, none⟩ ∧ (t.engine e).queue = rest ∧
    Event.jobComplete e ∈ t.agenda ∧ t.mem = s.mem ∧ t.homes = s.homes ∧ t.cores = s.cores) ∧
  (∀ (s : State) (e : Nat) (c : Cmd) (rest : List Cmd), s.takes e (.copy e) c rest →
    (c.len = 0 → ∃ t : State, exec (.copy e) s = .next t ∧ (t.engine e).job = some ⟨c, 0, 0, 0, true, none⟩ ∧ Event.jobComplete e ∈ t.agenda) ∧
    (c.len ≠ 0 → c.xform = 5 → c.len % 128 ≠ 0 → ∃ t : State, exec (.copy e) s = .next t ∧
      (t.engine e).job = some ⟨c, 0, 0, 2, true, none⟩ ∧ Event.jobComplete e ∈ t.agenda) ∧
    (c.len ≠ 0 → c.xform ≠ 5 ∨ c.len % 128 = 0 → exec (.copy e) s = .next ((s.started e c rest).push (.copyChunk e)))) ∧
  (∀ (s : State) (e : Nat) (j : Job),
    let c := j.cmd
    let n := min 512 (c.len - j.done)
    let bs := (List.range n).map (fun i => (s.unitByte (readUnit e) (c.src + (j.done + i))).getD 0)
    let far := s.gather (readUnit e) (s.readPieces c (c.src + j.done) n)
    let u := s.modJob e (fun _ => j)
    (s.engine e).job = some j → j.ended = false → (s.engine e).parked = false → (s.cluster (e / 4)).dbg.halted = false → c.xform = 0 →
    c.tagp = false → j.held = none → overlaps c.src c.len c.dst c.len = false →
    s.devHeld false (c.src + j.done) n = false →
    (∀ v, far = some v → exec (.copyChunk e) s = .next (v.push (.copyChunk e))) ∧ (far = none →
    s.devHeld true (c.dst + j.written) n = false → s.engineFault e c .store (c.dst + j.written) n = none →
    (s.engineFault e c .load (c.src + j.done) n = none → c.len ≤ j.done + n →
      exec (.copyChunk e) s = .next ((u.chunkWrite e (c.dst + j.written) bs []).endJob e 0 (j.written + n))) ∧
    (s.engineFault e c .load (c.src + j.done) n = none → j.done + n < c.len → exec (.copyChunk e) s = .next
      (((u.chunkWrite e (c.dst + j.written) bs []).modJob e (fun j => { j with done := j.done + n, written := j.written + n })).push (.copyChunk e))) ∧
    (∀ a, s.engineFault e c .load (c.src + j.done) n = some a → ∃ t : State, exec (.copyChunk e) s = .next t ∧ (t.engine e).parked = true ∧
      (t.engine e).faddr = word a ∧ (t.engine e).parkSeq = (s.engine e).parkSeq + 1 ∧ t.homes = s.homes))) ∧
  (∀ (s : State) (e : Nat) (others : List (List Byte)) (c : Cmd) (rest : List Cmd) (i : Instr) (ev : Event) (z size : Nat)
    (out : State → Nat → Nat → List Byte) (reads : Nat → Bool) (rooted : Bool),
    let root := bf (dw c.words 6) 48 16
    let g := bf (dw c.words 6) 0 16
    let u := s.started e c rest
    let n := (u.groupOf g).1
    let own := (u.groupOf g).2
    (i = .allReduce e others ∧ ev = .allReduce e [] ∧ reads = (fun _ => true) ∧ rooted = false ∧ size = c.len ∧ out = (fun u n own => u.reduced e c n own others)) ∨
    (i = .reduceScatter e others ∧ ev = .reduceScatter e [] ∧ reads = (fun _ => true) ∧ rooted = false ∧ z = collSize (bf (dw c.words 6) 16 4) ∧
      size = c.len / z / n * z ∧
      out = (fun u n own => ((u.reduced e c n own others).drop (own * (c.len / z / n * z))).take (c.len / z / n * z))) ∨
    (i = .allGather e others ∧ ev = .allGather e [] ∧ reads = (fun _ => true) ∧ rooted = false ∧ size = n * c.len ∧
      out = (fun u n own => (List.range n).flatMap (fun r => (List.range c.len).map (fun i => u.rankByte e c own r others i)))) ∨
    (i = .broadcast e others ∧ ev = .broadcast e [] ∧ reads = (fun own => own == root) ∧ rooted = true ∧ size = c.len ∧
      out = (fun u _ own => (List.range c.len).map (fun i => u.rankByte e c own root others i))) →
    let far := s.gather (readUnit e) (extentSplit (s.reg (0x7000 + 16 * g)).toNat (2 * n) ++ s.readPieces c c.src (if reads own then c.len else 0))
    s.takes e ev c rest → s.devHeld false (s.reg (0x7000 + 16 * g)).toNat (2 * n) = false →
    (reads own = true → s.devHeld false c.src c.len = false) → s.devHeld true c.dst size = false →
    (∀ v, far = some v → exec i s = .next (v.push ev)) ∧ (far = none →
    (n = 0 ∨ 576 < n ∨ n ≤ own ∨ (rooted = true ∧ n ≤ root) → ∃ t : State, exec i s = .next t ∧
      (t.engine e).job = some ⟨c, 0, 0, 2, true, none⟩ ∧ t.mem = s.mem ∧ t.out = s.out) ∧
    (own < n → n ≤ 576 → (rooted = true → root < n) →
      (u.membersOf e g n = none → ∃ t : State, exec i s = .next t ∧ (t.engine e).job = some ⟨c, 0, 0, 1, true, none⟩ ∧ t.mem = s.mem) ∧
      (∀ members, u.membersOf e g n = some members → (reads own = true → u.engineFault e c .load c.src c.len = none) →
        u.engineFault e c .store c.dst (out u n own).length = none →
        let v := if reads own then u.shareSource e c own members else u
        exec i s = .next ((({ v with free := v.free + n } : State).devStoreFor (some e) c.dst (out u n own)).1.endJob e 0 (out u n own).length))))) ∧
  (∀ (s : State) (e : Nat) (c : Cmd) (own : Nat) (others : List (List Byte)),
    let z := collSize (bf (dw c.words 6) 16 4)
    let elem (r k : Nat) : Nat := ofBytes ((List.range z).map (fun b => s.rankByte e c own r others (z * k + b)))
    s.reduced e c 2 own others = (List.range (c.len / z)).flatMap (fun k =>
      toBytes (word (collNode (bf (dw c.words 6) 16 4) (bf (dw c.words 6) 20 4) (elem 0 k) (elem 1 k))) z)) ∧
  (∀ (s : State) (e : Nat) (c : Cmd) (rest : List Cmd), s.takes e (.mediaDecode e) c rest →
    let n := 3 * bf (dw c.words 7) 0 16 * bf (dw c.words 7) 16 16
    let bytes := if bf (dw c.words 6) 10 2 = 1 then n else 2 * n
    let key := 256 * (e - 1024) + bf (dw c.words 6) 0 8
    let u := s.started e c rest
    let far := s.gather (readUnit e) (s.readPieces c c.src c.len)
    s.devHeld false c.src c.len = false → s.devHeld true c.dst bytes = false →
    (∀ v, far = some v → exec (.mediaDecode e) s = .next (v.push (.mediaDecode e))) ∧
    (far = none → u.engineFault e c .load c.src c.len = none → u.engineFault e c .store c.dst bytes = none → ∃ t : State, exec (.mediaDecode e) s = .next t ∧
    (t.engine e).job = some ⟨c, 0, bytes, if Config.mediaDecodes s.free then 0 else 4, true, none⟩ ∧ Event.jobComplete e ∈ t.agenda ∧
    (key ∈ t.streams ↔ Config.mediaDecodes s.free = true))) ∧
  (∀ (s : State) (e : Nat), ((s.engine e).job = none → exec (.jobComplete e) s = .next s) ∧
    (∀ j, (s.engine e).job = some j →
      let w := j.cmd.words
      let mbox := (dw w 4).toNat
      let loc := bf (dw w 5) 0 22
      (j.ended = false → exec (.jobComplete e) s = .next s) ∧
      let y := s.storeMailbox e j
      (j.ended = true → s.settled e = false ∨ (mbox ≠ 0 ∧ mbox % 8 = 0 ∧ s.devHeld true mbox 8 = true) →
        exec (.jobComplete e) s = .next (s.push (.jobComplete e))) ∧
      (j.ended = true → s.settled e = true → (mbox ≠ 0 → mbox % 8 = 0 → s.devHeld true mbox 8 = false) →
        (mbox ≠ 0 → mbox % 8 = 0 → s.engineFault e j.cmd .store mbox 8 = none →
          let z := (s.devStoreFor (some e) mbox (toBytes (word (j.cmd.id.toNat * 2 ^ 48 + j.status * 2 ^ 40 + j.written % 2 ^ 40)) 8)).1
          y.mem = z.mem ∧ y.homes = z.homes ∧ y.out = z.out ∧ y.posted = z.posted) ∧
        (y.settled e = false → exec (.jobComplete e) s = .next (y.push (.jobComplete e)) ∧
          ∃ k, (y.engine e).job = some k ∧ k.ended = true ∧ dw k.cmd.words 4 = 0) ∧
        (y.settled e = true → ∃ t : State, exec (.jobComplete e) s = .next t ∧ (t.engine e).job = none ∧
          find j.cmd.id.toNat (t.engine e).states = some (if j.status = 0 then 2 else 3) ∧
          (∀ c rest, (s.engine e).queue = c :: rest → commandEvent e c.words ∈ t.agenda) ∧
          (mbox = 0 → bit (dw w 0) 22 = true → loc / 4096 = s.devnum →
            (t.core (loc % 4096)).port = (s.core (loc % 4096)).port ++ [.count (bf (dw w 0) 16 6) 1 j.cmd.corr]) ∧
          ((s.cluster (if e < 1024 then e / 4 else j.cmd.cluster)).dbg.trace = false → t.mem = y.mem ∧ t.homes = y.homes)))))

/-- R278, R338 to R340, R342, R345, R346, R354 to R356. That every access through the host interface keeps one order, whoever makes it, and that
one waits where a home holds its bytes, is the model's choice (log 11); so are the places of a host window's base, offset and length and the bits
of debug register 0x80 (log 13), and the sampling, debugger and delivery events that stand outside that order (log 11). -/
def Obligations.TheHostActs : Prop :=
  (∀ (s : State) (off len : Nat) (data : List Byte),
    s.hostIn = [] →
    (data ≠ [] → s.devHeld true off data.length = true →
      exec (.hostWrite .cxlMem off data) s = .next (({ s with hostIn := [.hostWrite .cxlMem off data] } : State).push (.hostWrite .cxlMem 0 []))) ∧
    (data ≠ [] → s.devHeld true off data.length = false →
      exec (.hostWrite .cxlMem off data) s = .next ((s.devStore off data).1.writeThrough off data.length)) ∧
    (s.devHeld false off len = true → 
      exec (.hostRead .cxlMem off len) s = .next (({ s with hostIn := [.hostRead .cxlMem off len] } : State).push (.hostWrite .cxlMem 0 []))) ∧
    (s.devHeld false off len = false → len ≠ 0 → ∀ v, ({ s with hostIn := [.hostRead .cxlMem off len] } : State).gather hostUnit (extentSplit off len) = some v →
      exec (.hostRead .cxlMem off len) s = .next (v.push (.hostWrite .cxlMem 0 []))) ∧
    (s.devHeld false off len = false → s.gather hostUnit (extentSplit off len) = none → ∃ t : State,
      exec (.hostRead .cxlMem off len) s = .next t ∧ t.out = s.out ++ [match s.unitLoad hostUnit off len with
      | some bs => .hostRead bs
      | none => .unsupported] ∧ (len ≠ 0 → t.postedOf hostUnit = Posted.none) ∧ t.harts = s.harts ∧ t.cores = s.cores ∧ t.homes = s.homes ∧ t.mem = s.mem) ∧
    (let covers (k n : Nat) : Prop := bf (s.reg (0x2000 + 16 * k + 8)) 32 32 * 2 ^ 21 ≤ off ∧
        off + n ≤ (bf (s.reg (0x2000 + 16 * k + 8)) 32 32 + bf (s.reg (0x2000 + 16 * k + 8)) 0 32) * 2 ^ 21
      let at' (k : Nat) : Nat := bf (s.reg (0x2000 + 16 * k)) 21 36 * 2 ^ 21 + (off - bf (s.reg (0x2000 + 16 * k + 8)) 32 32 * 2 ^ 21)
      ((∀ k, k < 64 → ¬ covers k data.length) → exec (.hostWrite .window off data) s = .next { s with out := s.out ++ [.unsupported] }) ∧
      ((∀ k, k < 64 → ¬ covers k len) → exec (.hostRead .window off len) s = .next { s.drawFree with out := s.out ++ [.unsupported] }) ∧
      (∀ k, k < 64 → covers k data.length → (∀ j, j < k → ¬ covers j data.length) → s.devHeld true (at' k) data.length = false →
        exec (.hostWrite .window off data) s = .next ((s.devStore (at' k) data).1.writeThrough (at' k) data.length)))) ∧
  (∀ (s : State) (off : Nat) (data : List Byte) (rest : List Event), data ≠ [] → s.hostIn = .hostWrite .cxlMem off data :: rest →
    (s.devHeld true off data.length = true →
      (∀ (path : HostPath) (o n : Nat), exec (.hostRead path o n) s =
        .next (({ s with hostIn := s.hostIn ++ [.hostRead path o n] } : State).push (.hostWrite .cxlMem 0 []))) ∧
      (∀ (n : Nat) (v : BitVec 32), exec (.doorbellWrite n v) s =
        .next (({ s with hostIn := s.hostIn ++ [.doorbellWrite n v] } : State).push (.hostWrite .cxlMem 0 []))) ∧
      exec (.hostWrite .cxlMem 0 []) s = .next (s.push (.hostWrite .cxlMem 0 []))) ∧
    (s.devHeld true off data.length = false → rest = [] → exec (.hostWrite .cxlMem 0 []) s =
      .next ((({ s with hostIn := [] } : State).devStore off data).1.writeThrough off data.length))) ∧
  (∀ (s : State) (m : Master), s.hostIn = [] → (∀ o ∈ [0x18, 0x300, 0x338, 0x340], ∀ v : Word,
      exec (.hostWrite (.bar0 m) o (toBytes v 8)) s = exec (.registerWrite m o v) s) ∧
    (∀ v : BitVec 32, exec (.hostWrite (.bar0 m) 0x4000 (toBytes v 4)) s = exec (.doorbellWrite 4 v) s) ∧
    (∀ o ∈ [0x0, 0x10, 0x100, 0x200, 0x1000, 0x6010], ∃ t : State, exec (.hostRead (.bar0 m) o 8) s = .next t ∧
      t.out = s.out ++ [.hostRead (toBytes (s.reg o) 8)]) ∧
    (∀ p x, p < 16 → (find p s.hostq).bind (fun q => q.shown) = some x → ∃ t : State, exec (.hostRead (.bar0 m) (0x8000 + 64 * p) 8) s = .next t ∧
      t.out = s.out ++ [.hostRead (toBytes (x.getD 0 0) 8)])) ∧
  (∀ (s : State) (size : Nat) (v : BitVec 32), s.hostIn = [] →
    (size = 4 → v.toNat / 64 / 4096 = s.devnum → exec (.doorbellWrite size v) s = .next
      ((s.modCore (v.toNat / 64 % 4096) (fun c => { c with port := c.port ++ [.count (v.toNat % 64) 3 0] })).push (.countModeArrival (v.toNat / 64 % 4096)))) ∧
    (size ≠ 4 ∨ v.toNat / 64 / 4096 ≠ s.devnum → exec (.doorbellWrite size v) s = .next s)) ∧
  (∀ (s : State) (m : Master) (expected new : Word), s.hostIn = [] →
    let right (n : Nat) : Prop := s.reg 0x10 = expected ∧ new = word ((bf (s.reg 0x10) 48 16 + 1) % 65536 * 2 ^ 48 + n) ∧
      (bf (s.reg 0x10) 0 3 = 0 ∨ bf (s.reg 0x18) 0 3 = n ∨ m = .controller)
    (∀ n, masterId m = some n → right n → ∃ t : State, exec (.ownerCas m expected new) s = .next t ∧ t.reg 0x10 = new ∧ t.reg 0x18 = 0 ∧
      (∀ o, o ≠ 0x10 → o ≠ 0x18 → t.reg o = s.reg o) ∧ t.harts = s.harts ∧ t.cores = s.cores ∧ t.mem = s.mem) ∧
    ((∀ n, masterId m = some n → ¬ right n) → exec (.ownerCas m expected new) s = .next s)) ∧
  (∀ (s : State) (m : Master) (p : BitVec 4) (v : Word), s.hostIn = [] →
    (s.isOwner m = false → exec (.hostLaunch m p v) s = .next s) ∧
    (s.isOwner m = true → s.devHeld false (v.toNat / 64 * 64) 64 = true → 
      exec (.hostLaunch m p v) s = .next (({ s with hostIn := [.hostLaunch m p v] } : State).push (.hostWrite .cxlMem 0 []))) ∧
    (s.isOwner m = true → s.devHeld false (v.toNat / 64 * 64) 64 = false → v.toNat / 4 % 16 ≠ 0 → ∃ t : State, exec (.hostLaunch m p v) s = .next t ∧
      t.reg (0x5008 + 16 * p.toNat) = 5 ∧ t.reg (0x5000 + 16 * p.toNat) = v ∧ t.dies = s.dies ∧ t.cores = s.cores) ∧
    (∀ bs, s.isOwner m = true → s.devHeld false (v.toNat / 64 * 64) 64 = false → v.toNat / 4 % 16 = 0 → (∀ o, zone (v.toNat / 64 * 64) ≠ .loc o) → s.owns p.toNat (v.toNat / 64 * 64) = true →
      s.allowedExt (BitVec.ofNat 16 (bf (s.partWord p.toNat 0) 16 16)) .load (v.toNat / 64 * 64) 64 = none →
      s.gather hostUnit (extentSplit (v.toNat / 64 * 64) 64) = none → s.unitLoad hostUnit (v.toNat / 64 * 64) 64 = some bs →
      let r := s.submit (v.toNat % 4) (wordsOf bs) (BitVec.ofNat 16 (bf (s.partWord p.toNat 0) 16 16)) p.toNat
      exec (.hostLaunch m p v) s = .next (((r.1.setReg (0x5000 + 16 * p.toNat) v).setReg (0x5008 + 16 * p.toNat) (word r.2)).setPosted hostUnit Posted.none))) ∧
  (∀ (s : State) (m : Master) (handle action : Word), s.hostIn = [] →
    let done (u : State) (r : Word) : State := ((u.setReg 0x6000 handle).setReg 0x6008 action).setReg 0x6010 r
    ((∀ p, m ≠ .vf p) → s.isOwner m = false → exec (.hostResume m handle action) s = .next s) ∧
    ((∃ p, m = .vf p) ∨ s.isOwner m = true →
      (2 < action.toNat ∨ handleBad handle = true → exec (.hostResume m handle action) s = .next (done s 3)) ∧
      (action.toNat ≤ 2 → handleBad handle = false → bf handle 14 10 = s.devnum → s.devnum < 576 →
        (∀ p, m = .vf p → s.partOf (clusterOf (bf handle 0 14)) ≠ p.toNat → exec (.hostResume m handle action) s = .next (done s 2)) ∧
        ((∀ p, m = .vf p → s.partOf (clusterOf (bf handle 0 14)) = p.toNat) →
          let r := s.resumeAt (bf handle 0 14) (bf handle 32 16) action.toNat
          exec (.hostResume m handle action) s = .next (done r.1 (word r.2)))))) ∧
  (∀ (s : State) (m : Master) (p : BitVec 4) (q : HostQ) (x : List Word), s.hostIn = [] → find p.toNat s.hostq = some q → q.shown = some x →
    (s.mayAct m p = false → exec (.trapAcknowledge m p) s = .next s) ∧
    (s.mayAct m p = true → s.yokeEgress = [] → (∀ d, d < 4 → (s.die d).egress = []) → ∃ t : State,
      exec (.trapAcknowledge m p) s = .next t ∧ t.harts = s.harts ∧ t.cores = s.cores ∧
      (q.queue = [] → find p.toNat t.hostq = some ⟨none, [], q.msix⟩) ∧
      (∀ y rest, q.queue = y :: rest → find p.toNat t.hostq = some ⟨some y, rest, q.msix + 1⟩))) ∧
  (∀ (s : State) (c : Nat) (m : HostMsg) (rest : List HostMsg) (q : HostQ), (s.core c).egress = m :: rest → find m.part s.hostq = some q → ∃ t : State,
    exec (.hostTrapDelivery c) s = .next t ∧
    (q.shown = none → (t.core c).egress = rest ∧ find m.part t.hostq = some ⟨some m.payload, q.queue, q.msix + 1⟩) ∧
    (q.shown.isSome = true → q.queue.length < 64 → (t.core c).egress = rest ∧ find m.part t.hostq = some { q with queue := q.queue ++ [m.payload] }) ∧
    (q.shown.isSome = true → 64 ≤ q.queue.length → t = s.push (.hostTrapDelivery c))) ∧
  (∀ (s : State) (m : Master) (p : BitVec 4) (w0 w1 w2 w3 : Word), s.hostIn = [] →
    let meets : Prop := ∃ n, n < 16 ∧ n ≠ p.toNat ∧ bit (s.partWord n 0) 63 = true ∧ bf (s.partWord n 0) 0 16 &&& bf w0 0 16 ≠ 0
    (s.isOwner m = false ∨ meets → exec (.partitionWrite m p w0 w1 w2 w3) s = .next s) ∧
    (s.isOwner m = true → ¬ meets → ∃ t : State, exec (.partitionWrite m p w0 w1 w2 w3) s = .next t ∧
      t.partWord p.toNat 0 = w0 &&& 0xE0000000FFFFFFFF ∧ t.partWord p.toNat 1 = w1 &&& 0xBFFFFFFFBFFFFFFF ∧
      t.partWord p.toNat 2 = w2 &&& 0x00007FFFFFFFFFFF ∧ t.partWord p.toNat 3 = w3 &&& 0x0000FFFFFFFFFFFF ∧
      ∀ n i, n ≠ p.toNat → i < 4 → t.partWord n i = s.partWord n i)) ∧
  (∀ (s : State) (m : Master) (v : Word), s.hostIn = [] →
    (s.isOwner m = true → exec (.registerWrite m 0x18 v) s = .next (s.setReg 0x18 (v &&& 7)) ∧
      exec (.registerWrite m 0x300 v) s = .next (s.setReg 0x300 (v &&& 0x000FFFFFFFFFF000)) ∧
      exec (.registerWrite m 0x340 v) s = .next (s.setReg 0x340 v)) ∧
    (s.isOwner m = false → exec (.registerWrite m 0x18 v) s = .next s ∧ exec (.registerWrite m 0x300 v) s = .next s) ∧
    (∀ o ∈ [0x0, 0x8, 0x10, 0x20, 0x100, 0x140, 0x200, 0x320], exec (.registerWrite m o v) s = .next s) ∧
    exec (.registerWrite .controller 0x328 v) s = .next (s.setReg 0x328 v) ∧
    (∀ k, k < 256 → s.isOwner m = true → ∃ t : State, exec (.registerWrite m (0x100000 + 0x1000 * k + 0x80) v) s = .next t ∧
      (t.cluster k).dbg.haltOnBp = bit v 0 ∧ (t.cluster k).dbg.haltOnWatch = bit v 1 ∧ (t.cluster k).dbg.trace = (bit v 2 || ((s.cluster k).dbg.trace && !bit v 3)) ∧
      (bit v 2 = true → (t.cluster k).dbg.traceUntil = if bit v 3 then some (s.cycle + 1) else none))) ∧
  (∀ (s : State) (h id a b n : Nat) (rest : List OutMsg) (data : List Byte) (rd : BitVec 5) (sg : Bool) (l : PLoad), h < 2 ^ 26 →
    s.out = .peerRead ⟨h, id, 0⟩ a b n :: rest → (s.hart h).loads = [l] → l.id = id → l.dest = .g rd n sg →
    l.wants = (List.range n).map (fun k => ⟨a + k, k, 0, none⟩) → data.length = n → ∃ t : State,
    exec (.peerReadCompletion data) s = .next t ∧ t.out = rest ∧ (t.hart h).loads = [] ∧
    (rd ≠ 0 → (t.hart h).getG rd = if sg then BitVec.signExtend 64 (BitVec.ofNat (8 * n) (ofBytes data)) else word (ofBytes data))) ∧
  (∀ (s : State) (u id a b n : Nat) (rest : List OutMsg) (data : List Byte), s.out = .peerRead ⟨2 ^ 26 + u, id, 0⟩ a b n :: rest → data.length = n →
    ∃ t : State, exec (.peerReadCompletion data) s = .next t ∧ t.out = rest ∧ t.harts = s.harts ∧ t.mem = s.mem ∧
      (t.postedOf u).acks = (s.postedOf u).acks ++ [⟨none, none, data.mapIdx (fun k b => (a + k, b))⟩] ∧ Event.ackReceived (2 ^ 26 + u) ∈ t.agenda) ∧
  (∀ s : State, takePeerRead s.out = none → ∀ data, exec (.peerReadCompletion data) s = .next s) ∧
  (∀ (s : State) (m : Master),
    (s.isOwner m = false → exec (.samplingPulse (some m)) s = .next s) ∧
    (s.isOwner m = true → exec (.samplingPulse (some m)) s = exec (.samplingPulse none) s) ∧
    (∃ t : State, exec (.samplingPulse none) s = .next t ∧ t.harts = s.harts ∧
      ∀ d, d < 4 → (t.die d).sampleSeq = ((s.die d).sampleSeq + 1) % 65536 ∧ (t.die d).lastSample.length = 32 + 16 * (s.occupied d).length) ∧
    (s.sampleDue = false → exec .samplingPeriod s = .next s) ∧
    (s.sampleDue = true → ∃ t : State, exec .samplingPeriod s = .next t ∧ t.sampleBase = s.time ∧
      ∀ d, d < 4 → (t.die d).sampleSeq = ((s.die d).sampleSeq + 1) % 65536)) ∧
  (∀ (s : State) (m : Master) (k : Nat),
    (s.isOwner m = false → exec (.debugHalt (some m) k) s = .next s ∧ exec (.clusterResume m k) s = .next s) ∧
    (∀ by', by' = none ∨ (∃ o, by' = some o ∧ s.isOwner o = true) → ∃ t : State, exec (.debugHalt by' k) s = .next t ∧
      (t.cluster k).dbg.halted = true ∧ ∀ j ∈ (s.cluster k).dbg.cross, (t.cluster j).dbg.halted = true) ∧
    (s.isOwner m = true → (s.cluster k).dbg.halted = true → (∀ j, j < 64 → (s.hart (64 * k + j)).cancelled = false) → ∃ t : State,
      exec (.clusterResume m k) s = .next t ∧ (t.cluster k).dbg.halted = false ∧
      (∀ j, j < 64 → (s.hart (64 * k + j)).run = .free → Event.taskDispatch (64 * k + j) ∈ t.agenda) ∧
      (∀ j, j < 64 → (s.hart (64 * k + j)).run ≠ .free → (s.hart (64 * k + j)).mchecks ≠ [] → Event.machineCheck (64 * k + j) ∈ t.agenda))) ∧
  (∀ (s : State) (m : Master) (h : Nat),
    (s.isOwner m = false ∨ (s.cluster (clusterOf h)).dbg.halted = false → ∀ r, exec (.debugRegisterWrite m h r) s = .next s) ∧
    (s.isOwner m = true → (s.cluster (clusterOf h)).dbg.halted = true →
      (∀ (q : BitVec 5) (v : Word), ∃ t : State, exec (.debugRegisterWrite m h (.g q v)) s = .next t ∧
        (t.hart h).getG q = (if q = 0 then 0 else v) ∧ (∀ r, r ≠ q → (t.hart h).getG r = (s.hart h).getG r) ∧ (t.hart h).v = (s.hart h).v) ∧
      (∀ (q : BitVec 5) (v : Vec), ∃ t : State, exec (.debugRegisterWrite m h (.v q v)) s = .next t ∧
        (t.hart h).getV q = v ∧ (∀ r, r ≠ q → (t.hart h).getV r = (s.hart h).getV r) ∧ (t.hart h).g = (s.hart h).g) ∧
      (∀ (q : BitVec 3) (v : Word), q ≠ 0 → ∃ t : State, exec (.debugRegisterWrite m h (.m q v)) s = .next t ∧ (t.hart h).getM q = v) ∧
      (∀ v : Word, ∃ t : State, exec (.debugRegisterWrite m h (.pc v)) s = .next t ∧ (t.hart h).pc = v &&& ~~~ 7 ∧ (t.hart h).wait = .none ∧
        (t.hart h).reads = [] ∧ (t.hart h).safeAt = none ∧ (t.hart h).g = (s.hart h).g)))

/-- R298, R341, R343, R344, R347, R348, R353. What a device reset keeps is the model's choice (log 15), and so is that the dump leaves as datagrams
where the host interface is mapped out, and free bytes where a datagram goes beyond the dump (log 13). -/
def Obligations.TheEdgeFailsOverAndResets : Prop :=
  (∀ (s : State) (p : Nat),
    (p < 18 → s.portState p = .up → ∃ t : State, exec (.linkPortFailure p) s = .next t ∧ t.portState p = .failing s.time ∧
      Event.linkFailoverTimeout p ∈ t.agenda ∧
      (∀ q, q ≠ p → t.portState q = s.portState q) ∧ t.planes = s.planes) ∧
    (18 ≤ p ∨ s.portState p ≠ .up → exec (.linkPortFailure p) s = .next s) ∧
    ((∀ f, s.portState p ≠ .failing f) → exec (.linkFailoverTimeout p) s = .next s) ∧
    (∀ f, s.portState p = .failing f → s.portQuiet p = false → (s.time - f).toNat < 10000 →
      exec (.linkFailoverTimeout p) s = .next (s.push (.linkFailoverTimeout p))) ∧
    (∀ f, p < 18 → s.portState p = .failing f → s.portQuiet p = true ∨ 10000 ≤ (s.time - f).toNat → ∃ t : State, exec (.linkFailoverTimeout p) s = .next t ∧ t.portState p = .failed ∧
      (∀ q, q ≠ p → t.portState q = s.portState q) ∧
      ((∃ q, q < 18 ∧ s.portState q = .up) → ∀ n, n < 18 → s.planePort n = p → t.portState (t.planePort n) = .up) ∧
      (∀ n, n < 18 → s.planePort n ≠ p → t.planePort n = s.planePort n))) ∧
  (∀ (s : State) (img : Image),
    (img.signatureHolds = false → exec (.powerOn img) s = .next State.reset) ∧
    (img.signatureHolds = true → ∃ t : State, exec (.powerOn img) s = .next t ∧ t.released = true ∧ t.devnum = img.devnum.toNat ∧
      t.harts = [] ∧ t.cores = [] ∧ t.mem = [] ∧ t.identity = img.identity ∧ t.collector = img.collector ∧ t.reg 0x328 = img.dumpBase ∧ t.reg 0x330 = img.dumpLength ∧
      (∀ n w0 w1, img.dumpWindow = some (n, w0, w1) → t.reg (0x2000 + 16 * n.toNat) = w0 ∧ t.reg (0x2008 + 16 * n.toNat) = w1) ∧
      (∀ u ∈ img.mappedOut, unitExists u = true → bit (t.reg ((unitPlace u).1 + 0x100)) (unitPlace u).2 = true))) ∧
  (∀ s : State, ∃ t : State, exec .deviceReset s = .next t ∧ (∀ h, t.hart h = Hart.reset h) ∧
    (∀ c, t.core c = { Core.reset with loc := (s.core c).loc }) ∧ (∀ k, t.cluster k = { Cluster.reset with bolt := ⟨(s.cluster k).bolt.blocks, [], []⟩ }) ∧ (∀ h, t.home h = Home.reset) ∧
    (∀ d, t.die d = Die.reset) ∧ t.agenda = (s.ports.filter (fun p => p.2.isFailing)).map (fun p => Event.linkFailoverTimeout p.1) ∧ t.time = 0 ∧ t.fatal = false ∧ t.mem = s.mem ∧ t.memTags = s.memTags ∧
    t.memPoison = s.memPoison ∧ t.mgmt = s.mgmt ∧
    t.ports = s.ports.map (fun p => (p.1, p.2.restarted s.time)) ∧ t.outHeld = s.outHeld ∧ t.planes = s.planes ∧ t.identity = s.identity ∧
    t.collector = s.collector ∧ t.dump = s.dump) ∧
  (∀ (s : State) (u : DevUnit),
    let place := unitPlace u
    let out := bit (s.reg (place.1 + 0x100)) place.2
    (s.released = true → unitExists u = true → out = false → ∃ t : State, exec (.unitReady u) s = .next t ∧ bit (t.reg place.1) place.2 = true ∧
      (∀ o, o ≠ place.1 → t.reg o = s.reg o) ∧ t.harts = s.harts ∧ t.cores = s.cores) ∧
    (s.released = false ∨ unitExists u = false ∨ out = true → exec (.unitReady u) s = .next s) ∧
    (unitExists u = false → exec (.unitMappedOut u) s = .next s) ∧
    (unitExists u = true → (∀ k, u ≠ .cluster k) → ∃ t : State, exec (.unitMappedOut u) s = .next t ∧
      bit (t.reg (place.1 + 0x100)) place.2 = true ∧ bit (t.reg 0x20) 0 = true ∧
      t.harts = s.harts ∧ t.cores = s.cores ∧ t.mem = s.mem ∧ t.planes = s.planes ∧
      (∀ p, u = .link p → s.portState p = .up → t.portState p = .failing s.time ∧ Event.linkFailoverTimeout p ∈ t.agenda)) ∧
    (∀ k, u = .cluster k → k < 256 → (∀ j, j < 64 → (s.hart (64 * k + j)).job = none) →
      (∀ j, j < 16 → (s.core (16 * k + j)).runq = [] ∧ (s.core (16 * k + j)).deque = [] ∧ (s.core (16 * k + j)).ctxIn = []) → ∃ t : State,
      exec (.unitMappedOut u) s = .next t ∧ t.mappedOut k = true ∧ bit (t.reg 0x20) 0 = true ∧ t.harts = s.harts)) ∧
  (∀ (s : State) (cause : Word),
    (s.fatal = true → exec (.fatalError cause) s = .next s) ∧
    (s.fatal = false → ∃ t : State, exec (.fatalError cause) s = .next t ∧ t.fatal = true ∧ bit (t.reg 0x20) 1 = true ∧ bit (t.reg 0x20) 2 = true ∧
      (bit (s.reg 0x240) 38 = false → t.out = s.out) ∧
      (bit (s.reg 0x240) 38 = true → t.out.length = s.out.length + (t.dump.length + 1023) / 1024) ∧
      t.dump.length ≤ (s.reg 0x330).toNat ∧ t.harts = s.harts ∧ t.cores = s.cores ∧
      ∀ k, k < t.dump.length → s.frameOut ((s.reg 0x328).toNat + k) = false → readByte t.mem ((s.reg 0x328).toNat + k) = t.dump.getD k 0)) ∧
  (∀ (s : State) (off len : Nat),
    (bit (s.reg 0x20) 2 = false → exec (.dumpResendRequest off len) s = .next s) ∧
    (bit (s.reg 0x20) 2 = true → ∃ t : State, exec (.dumpResendRequest off len) s = .next t ∧ t.mem = s.mem ∧ t.harts = s.harts ∧
      t.out.length = s.out.length + (len + 1023) / 1024 ∧
      ∀ n, n < (len + 1023) / 1024 → ∃ bs, OutMsg.datagram s.collector (off + 1024 * n) bs ∈ t.out ∧ bs.length = 1024 ∧
        ∀ k, k < 1024 → off + 1024 * n + k < s.dump.length → bs.getD k 0 = s.dump.getD (off + 1024 * n + k) 0))
end

