-- ==== Sys2Proof/Laws/State.lean ====
section
/-! SUPPORT. What the named updates of the state leave: one lemma for each field of State under each update, and the tables of units read
after a unit is written. -/

set_option Elab.async false
set_option linter.unusedSimpArgs false

namespace Sys2Proof.Machine

/-! ### Tables -/

@[simp] theorem find_put_same {α : Type} (k : Nat) (v : α) (m : List (Nat × α)) : find k (put k v m) = some v := by
  induction m with
  | nil => simp [put, find]
  | cons p r ih =>
    obtain ⟨j, w⟩ := p
    by_cases h : k = j
    · simp [put, find, h]
    · by_cases h2 : k < j <;> simp [put, find, h, h2, ih]

theorem find_put_other {α : Type} {k j : Nat} (h : j ≠ k) (v : α) (m : List (Nat × α)) : find j (put k v m) = find j m := by
  induction m with
  | nil => simp [put, find, h]
  | cons p r ih =>
    obtain ⟨i, w⟩ := p
    by_cases h1 : k = i
    · subst h1; simp [put, find, h]
    · by_cases h2 : k < i
      · simp [put, find, h1, h2, h]
      · simp only [put, h1, h2, if_false, find]; split <;> simp_all

@[simp] theorem put_put {α : Type} (k : Nat) (v w : α) (m : List (Nat × α)) : put k v (put k w m) = put k v m := by
  induction m with
  | nil => simp [put]
  | cons p r ih =>
    obtain ⟨j, u⟩ := p
    by_cases h : k = j
    · simp [put, h]
    · by_cases h2 : k < j <;> simp [put, h, h2, ih]

theorem find_drop_same {α : Type} (k : Nat) (m : List (Nat × α)) : find k (drop k m) = none := by
  induction m with
  | nil => rfl
  | cons p r ih =>
    obtain ⟨j, w⟩ := p
    by_cases h : j = k
    · simpa [drop, h] using ih
    · have h' : k ≠ j := fun e => h e.symm
      simpa [drop, h, find, h'] using ih

theorem find_drop_other {α : Type} {k j : Nat} (h : j ≠ k) (m : List (Nat × α)) : find j (drop k m) = find j m := by
  induction m with
  | nil => rfl
  | cons p r ih =>
    obtain ⟨i, w⟩ := p
    by_cases h1 : i = k
    · subst h1; simpa [drop, find, h] using ih
    · have : drop k ((i, w) :: r) = (i, w) :: drop k r := by simp [drop, h1]
      rw [this, find, find, ih]

/-! ### Fields under updates -/

@[simp] theorem State.setHart_time (s : State) (h : Nat) (x : Hart) : (s.setHart h x).time = s.time := rfl
@[simp] theorem State.setHart_cycle (s : State) (h : Nat) (x : Hart) : (s.setHart h x).cycle = s.cycle := rfl
@[simp] theorem State.setHart_pace (s : State) (h : Nat) (x : Hart) : (s.setHart h x).pace = s.pace := rfl
@[simp] theorem State.setHart_serial (s : State) (h : Nat) (x : Hart) : (s.setHart h x).serial = s.serial := rfl
@[simp] theorem State.setHart_free (s : State) (h : Nat) (x : Hart) : (s.setHart h x).free = s.free := rfl
@[simp] theorem State.setHart_cur (s : State) (h : Nat) (x : Hart) : (s.setHart h x).cur = s.cur := rfl
@[simp] theorem State.setHart_agenda (s : State) (h : Nat) (x : Hart) : (s.setHart h x).agenda = s.agenda := rfl
@[simp] theorem State.setHart_sched (s : State) (h : Nat) (x : Hart) : (s.setHart h x).sched = s.sched := rfl
@[simp] theorem State.setHart_cores (s : State) (h : Nat) (x : Hart) : (s.setHart h x).cores = s.cores := rfl
@[simp] theorem State.setHart_clusters (s : State) (h : Nat) (x : Hart) : (s.setHart h x).clusters = s.clusters := rfl
@[simp] theorem State.setHart_homes (s : State) (h : Nat) (x : Hart) : (s.setHart h x).homes = s.homes := rfl
@[simp] theorem State.setHart_dies (s : State) (h : Nat) (x : Hart) : (s.setHart h x).dies = s.dies := rfl
@[simp] theorem State.setHart_jobs (s : State) (h : Nat) (x : Hart) : (s.setHart h x).jobs = s.jobs := rfl
@[simp] theorem State.setHart_media (s : State) (h : Nat) (x : Hart) : (s.setHart h x).media = s.media := rfl
@[simp] theorem State.setHart_streams (s : State) (h : Nat) (x : Hart) : (s.setHart h x).streams = s.streams := rfl
@[simp] theorem State.setHart_mem (s : State) (h : Nat) (x : Hart) : (s.setHart h x).mem = s.mem := rfl
@[simp] theorem State.setHart_memTags (s : State) (h : Nat) (x : Hart) : (s.setHart h x).memTags = s.memTags := rfl
@[simp] theorem State.setHart_memPoison (s : State) (h : Nat) (x : Hart) : (s.setHart h x).memPoison = s.memPoison := rfl
@[simp] theorem State.setHart_mgmt (s : State) (h : Nat) (x : Hart) : (s.setHart h x).mgmt = s.mgmt := rfl
@[simp] theorem State.setHart_hostq (s : State) (h : Nat) (x : Hart) : (s.setHart h x).hostq = s.hostq := rfl
@[simp] theorem State.setHart_ports (s : State) (h : Nat) (x : Hart) : (s.setHart h x).ports = s.ports := rfl
@[simp] theorem State.setHart_planes (s : State) (h : Nat) (x : Hart) : (s.setHart h x).planes = s.planes := rfl
@[simp] theorem State.setHart_remoteFilter (s : State) (h : Nat) (x : Hart) : (s.setHart h x).remoteFilter = s.remoteFilter := rfl
@[simp] theorem State.setHart_remoteWaits (s : State) (h : Nat) (x : Hart) : (s.setHart h x).remoteWaits = s.remoteWaits := rfl
@[simp] theorem State.setHart_out (s : State) (h : Nat) (x : Hart) : (s.setHart h x).out = s.out := rfl
@[simp] theorem State.setHart_outHeld (s : State) (h : Nat) (x : Hart) : (s.setHart h x).outHeld = s.outHeld := rfl
@[simp] theorem State.setHart_floor (s : State) (h : Nat) (x : Hart) : (s.setHart h x).floor = s.floor := rfl
@[simp] theorem State.setHart_slot (s : State) (h : Nat) (x : Hart) : (s.setHart h x).slot = s.slot := rfl
@[simp] theorem State.setHart_yokeEgress (s : State) (h : Nat) (x : Hart) : (s.setHart h x).yokeEgress = s.yokeEgress := rfl
@[simp] theorem State.setHart_sampleBase (s : State) (h : Nat) (x : Hart) : (s.setHart h x).sampleBase = s.sampleBase := rfl
@[simp] theorem State.setHart_released (s : State) (h : Nat) (x : Hart) : (s.setHart h x).released = s.released := rfl
@[simp] theorem State.setHart_identity (s : State) (h : Nat) (x : Hart) : (s.setHart h x).identity = s.identity := rfl
@[simp] theorem State.setHart_collector (s : State) (h : Nat) (x : Hart) : (s.setHart h x).collector = s.collector := rfl
@[simp] theorem State.setHart_fatal (s : State) (h : Nat) (x : Hart) : (s.setHart h x).fatal = s.fatal := rfl
@[simp] theorem State.setHart_dump (s : State) (h : Nat) (x : Hart) : (s.setHart h x).dump = s.dump := rfl
@[simp] theorem State.setHart_posted (s : State) (h : Nat) (x : Hart) : (s.setHart h x).posted = s.posted := rfl
@[simp] theorem State.setHart_farDrops (s : State) (h : Nat) (x : Hart) : (s.setHart h x).farDrops = s.farDrops := rfl
@[simp] theorem State.setHart_hostIn (s : State) (h : Nat) (x : Hart) : (s.setHart h x).hostIn = s.hostIn := rfl

@[simp] theorem State.setCore_time (s : State) (c : Nat) (x : Core) : (s.setCore c x).time = s.time := rfl
@[simp] theorem State.setCore_cycle (s : State) (c : Nat) (x : Core) : (s.setCore c x).cycle = s.cycle := rfl
@[simp] theorem State.setCore_pace (s : State) (c : Nat) (x : Core) : (s.setCore c x).pace = s.pace := rfl
@[simp] theorem State.setCore_serial (s : State) (c : Nat) (x : Core) : (s.setCore c x).serial = s.serial := rfl
@[simp] theorem State.setCore_free (s : State) (c : Nat) (x : Core) : (s.setCore c x).free = s.free := rfl
@[simp] theorem State.setCore_cur (s : State) (c : Nat) (x : Core) : (s.setCore c x).cur = s.cur := rfl
@[simp] theorem State.setCore_agenda (s : State) (c : Nat) (x : Core) : (s.setCore c x).agenda = s.agenda := rfl
@[simp] theorem State.setCore_sched (s : State) (c : Nat) (x : Core) : (s.setCore c x).sched = s.sched := rfl
@[simp] theorem State.setCore_harts (s : State) (c : Nat) (x : Core) : (s.setCore c x).harts = s.harts := rfl
@[simp] theorem State.setCore_clusters (s : State) (c : Nat) (x : Core) : (s.setCore c x).clusters = s.clusters := rfl
@[simp] theorem State.setCore_homes (s : State) (c : Nat) (x : Core) : (s.setCore c x).homes = s.homes := rfl
@[simp] theorem State.setCore_dies (s : State) (c : Nat) (x : Core) : (s.setCore c x).dies = s.dies := rfl
@[simp] theorem State.setCore_jobs (s : State) (c : Nat) (x : Core) : (s.setCore c x).jobs = s.jobs := rfl
@[simp] theorem State.setCore_media (s : State) (c : Nat) (x : Core) : (s.setCore c x).media = s.media := rfl
@[simp] theorem State.setCore_streams (s : State) (c : Nat) (x : Core) : (s.setCore c x).streams = s.streams := rfl
@[simp] theorem State.setCore_mem (s : State) (c : Nat) (x : Core) : (s.setCore c x).mem = s.mem := rfl
@[simp] theorem State.setCore_memTags (s : State) (c : Nat) (x : Core) : (s.setCore c x).memTags = s.memTags := rfl
@[simp] theorem State.setCore_memPoison (s : State) (c : Nat) (x : Core) : (s.setCore c x).memPoison = s.memPoison := rfl
@[simp] theorem State.setCore_mgmt (s : State) (c : Nat) (x : Core) : (s.setCore c x).mgmt = s.mgmt := rfl
@[simp] theorem State.setCore_hostq (s : State) (c : Nat) (x : Core) : (s.setCore c x).hostq = s.hostq := rfl
@[simp] theorem State.setCore_ports (s : State) (c : Nat) (x : Core) : (s.setCore c x).ports = s.ports := rfl
@[simp] theorem State.setCore_planes (s : State) (c : Nat) (x : Core) : (s.setCore c x).planes = s.planes := rfl
@[simp] theorem State.setCore_remoteFilter (s : State) (c : Nat) (x : Core) : (s.setCore c x).remoteFilter = s.remoteFilter := rfl
@[simp] theorem State.setCore_remoteWaits (s : State) (c : Nat) (x : Core) : (s.setCore c x).remoteWaits = s.remoteWaits := rfl
@[simp] theorem State.setCore_out (s : State) (c : Nat) (x : Core) : (s.setCore c x).out = s.out := rfl
@[simp] theorem State.setCore_outHeld (s : State) (c : Nat) (x : Core) : (s.setCore c x).outHeld = s.outHeld := rfl
@[simp] theorem State.setCore_floor (s : State) (c : Nat) (x : Core) : (s.setCore c x).floor = s.floor := rfl
@[simp] theorem State.setCore_slot (s : State) (c : Nat) (x : Core) : (s.setCore c x).slot = s.slot := rfl
@[simp] theorem State.setCore_yokeEgress (s : State) (c : Nat) (x : Core) : (s.setCore c x).yokeEgress = s.yokeEgress := rfl
@[simp] theorem State.setCore_sampleBase (s : State) (c : Nat) (x : Core) : (s.setCore c x).sampleBase = s.sampleBase := rfl
@[simp] theorem State.setCore_released (s : State) (c : Nat) (x : Core) : (s.setCore c x).released = s.released := rfl
@[simp] theorem State.setCore_identity (s : State) (c : Nat) (x : Core) : (s.setCore c x).identity = s.identity := rfl
@[simp] theorem State.setCore_collector (s : State) (c : Nat) (x : Core) : (s.setCore c x).collector = s.collector := rfl
@[simp] theorem State.setCore_fatal (s : State) (c : Nat) (x : Core) : (s.setCore c x).fatal = s.fatal := rfl
@[simp] theorem State.setCore_dump (s : State) (c : Nat) (x : Core) : (s.setCore c x).dump = s.dump := rfl
@[simp] theorem State.setCore_posted (s : State) (c : Nat) (x : Core) : (s.setCore c x).posted = s.posted := rfl
@[simp] theorem State.setCore_farDrops (s : State) (c : Nat) (x : Core) : (s.setCore c x).farDrops = s.farDrops := rfl
@[simp] theorem State.setCore_hostIn (s : State) (c : Nat) (x : Core) : (s.setCore c x).hostIn = s.hostIn := rfl

@[simp] theorem State.setCluster_time (s : State) (k : Nat) (x : Cluster) : (s.setCluster k x).time = s.time := rfl
@[simp] theorem State.setCluster_cycle (s : State) (k : Nat) (x : Cluster) : (s.setCluster k x).cycle = s.cycle := rfl
@[simp] theorem State.setCluster_pace (s : State) (k : Nat) (x : Cluster) : (s.setCluster k x).pace = s.pace := rfl
@[simp] theorem State.setCluster_serial (s : State) (k : Nat) (x : Cluster) : (s.setCluster k x).serial = s.serial := rfl
@[simp] theorem State.setCluster_free (s : State) (k : Nat) (x : Cluster) : (s.setCluster k x).free = s.free := rfl
@[simp] theorem State.setCluster_cur (s : State) (k : Nat) (x : Cluster) : (s.setCluster k x).cur = s.cur := rfl
@[simp] theorem State.setCluster_agenda (s : State) (k : Nat) (x : Cluster) : (s.setCluster k x).agenda = s.agenda := rfl
@[simp] theorem State.setCluster_sched (s : State) (k : Nat) (x : Cluster) : (s.setCluster k x).sched = s.sched := rfl
@[simp] theorem State.setCluster_harts (s : State) (k : Nat) (x : Cluster) : (s.setCluster k x).harts = s.harts := rfl
@[simp] theorem State.setCluster_cores (s : State) (k : Nat) (x : Cluster) : (s.setCluster k x).cores = s.cores := rfl
@[simp] theorem State.setCluster_homes (s : State) (k : Nat) (x : Cluster) : (s.setCluster k x).homes = s.homes := rfl
@[simp] theorem State.setCluster_dies (s : State) (k : Nat) (x : Cluster) : (s.setCluster k x).dies = s.dies := rfl
@[simp] theorem State.setCluster_jobs (s : State) (k : Nat) (x : Cluster) : (s.setCluster k x).jobs = s.jobs := rfl
@[simp] theorem State.setCluster_media (s : State) (k : Nat) (x : Cluster) : (s.setCluster k x).media = s.media := rfl
@[simp] theorem State.setCluster_streams (s : State) (k : Nat) (x : Cluster) : (s.setCluster k x).streams = s.streams := rfl
@[simp] theorem State.setCluster_mem (s : State) (k : Nat) (x : Cluster) : (s.setCluster k x).mem = s.mem := rfl
@[simp] theorem State.setCluster_memTags (s : State) (k : Nat) (x : Cluster) : (s.setCluster k x).memTags = s.memTags := rfl
@[simp] theorem State.setCluster_memPoison (s : State) (k : Nat) (x : Cluster) : (s.setCluster k x).memPoison = s.memPoison := rfl
@[simp] theorem State.setCluster_mgmt (s : State) (k : Nat) (x : Cluster) : (s.setCluster k x).mgmt = s.mgmt := rfl
@[simp] theorem State.setCluster_hostq (s : State) (k : Nat) (x : Cluster) : (s.setCluster k x).hostq = s.hostq := rfl
@[simp] theorem State.setCluster_ports (s : State) (k : Nat) (x : Cluster) : (s.setCluster k x).ports = s.ports := rfl
@[simp] theorem State.setCluster_planes (s : State) (k : Nat) (x : Cluster) : (s.setCluster k x).planes = s.planes := rfl
@[simp] theorem State.setCluster_remoteFilter (s : State) (k : Nat) (x : Cluster) : (s.setCluster k x).remoteFilter = s.remoteFilter := rfl
@[simp] theorem State.setCluster_remoteWaits (s : State) (k : Nat) (x : Cluster) : (s.setCluster k x).remoteWaits = s.remoteWaits := rfl
@[simp] theorem State.setCluster_out (s : State) (k : Nat) (x : Cluster) : (s.setCluster k x).out = s.out := rfl
@[simp] theorem State.setCluster_outHeld (s : State) (k : Nat) (x : Cluster) : (s.setCluster k x).outHeld = s.outHeld := rfl
@[simp] theorem State.setCluster_floor (s : State) (k : Nat) (x : Cluster) : (s.setCluster k x).floor = s.floor := rfl
@[simp] theorem State.setCluster_slot (s : State) (k : Nat) (x : Cluster) : (s.setCluster k x).slot = s.slot := rfl
@[simp] theorem State.setCluster_yokeEgress (s : State) (k : Nat) (x : Cluster) : (s.setCluster k x).yokeEgress = s.yokeEgress := rfl
@[simp] theorem State.setCluster_sampleBase (s : State) (k : Nat) (x : Cluster) : (s.setCluster k x).sampleBase = s.sampleBase := rfl
@[simp] theorem State.setCluster_released (s : State) (k : Nat) (x : Cluster) : (s.setCluster k x).released = s.released := rfl
@[simp] theorem State.setCluster_identity (s : State) (k : Nat) (x : Cluster) : (s.setCluster k x).identity = s.identity := rfl
@[simp] theorem State.setCluster_collector (s : State) (k : Nat) (x : Cluster) : (s.setCluster k x).collector = s.collector := rfl
@[simp] theorem State.setCluster_fatal (s : State) (k : Nat) (x : Cluster) : (s.setCluster k x).fatal = s.fatal := rfl
@[simp] theorem State.setCluster_dump (s : State) (k : Nat) (x : Cluster) : (s.setCluster k x).dump = s.dump := rfl
@[simp] theorem State.setCluster_posted (s : State) (k : Nat) (x : Cluster) : (s.setCluster k x).posted = s.posted := rfl
@[simp] theorem State.setCluster_farDrops (s : State) (k : Nat) (x : Cluster) : (s.setCluster k x).farDrops = s.farDrops := rfl
@[simp] theorem State.setCluster_hostIn (s : State) (k : Nat) (x : Cluster) : (s.setCluster k x).hostIn = s.hostIn := rfl

@[simp] theorem State.setHome_time (s : State) (h : Nat) (x : Home) : (s.setHome h x).time = s.time := rfl
@[simp] theorem State.setHome_cycle (s : State) (h : Nat) (x : Home) : (s.setHome h x).cycle = s.cycle := rfl
@[simp] theorem State.setHome_pace (s : State) (h : Nat) (x : Home) : (s.setHome h x).pace = s.pace := rfl
@[simp] theorem State.setHome_serial (s : State) (h : Nat) (x : Home) : (s.setHome h x).serial = s.serial := rfl
@[simp] theorem State.setHome_free (s : State) (h : Nat) (x : Home) : (s.setHome h x).free = s.free := rfl
@[simp] theorem State.setHome_cur (s : State) (h : Nat) (x : Home) : (s.setHome h x).cur = s.cur := rfl
@[simp] theorem State.setHome_agenda (s : State) (h : Nat) (x : Home) : (s.setHome h x).agenda = s.agenda := rfl
@[simp] theorem State.setHome_sched (s : State) (h : Nat) (x : Home) : (s.setHome h x).sched = s.sched := rfl
@[simp] theorem State.setHome_harts (s : State) (h : Nat) (x : Home) : (s.setHome h x).harts = s.harts := rfl
@[simp] theorem State.setHome_cores (s : State) (h : Nat) (x : Home) : (s.setHome h x).cores = s.cores := rfl
@[simp] theorem State.setHome_clusters (s : State) (h : Nat) (x : Home) : (s.setHome h x).clusters = s.clusters := rfl
@[simp] theorem State.setHome_dies (s : State) (h : Nat) (x : Home) : (s.setHome h x).dies = s.dies := rfl
@[simp] theorem State.setHome_jobs (s : State) (h : Nat) (x : Home) : (s.setHome h x).jobs = s.jobs := rfl
@[simp] theorem State.setHome_media (s : State) (h : Nat) (x : Home) : (s.setHome h x).media = s.media := rfl
@[simp] theorem State.setHome_streams (s : State) (h : Nat) (x : Home) : (s.setHome h x).streams = s.streams := rfl
@[simp] theorem State.setHome_mem (s : State) (h : Nat) (x : Home) : (s.setHome h x).mem = s.mem := rfl
@[simp] theorem State.setHome_memTags (s : State) (h : Nat) (x : Home) : (s.setHome h x).memTags = s.memTags := rfl
@[simp] theorem State.setHome_memPoison (s : State) (h : Nat) (x : Home) : (s.setHome h x).memPoison = s.memPoison := rfl
@[simp] theorem State.setHome_mgmt (s : State) (h : Nat) (x : Home) : (s.setHome h x).mgmt = s.mgmt := rfl
@[simp] theorem State.setHome_hostq (s : State) (h : Nat) (x : Home) : (s.setHome h x).hostq = s.hostq := rfl
@[simp] theorem State.setHome_ports (s : State) (h : Nat) (x : Home) : (s.setHome h x).ports = s.ports := rfl
@[simp] theorem State.setHome_planes (s : State) (h : Nat) (x : Home) : (s.setHome h x).planes = s.planes := rfl
@[simp] theorem State.setHome_remoteFilter (s : State) (h : Nat) (x : Home) : (s.setHome h x).remoteFilter = s.remoteFilter := rfl
@[simp] theorem State.setHome_remoteWaits (s : State) (h : Nat) (x : Home) : (s.setHome h x).remoteWaits = s.remoteWaits := rfl
@[simp] theorem State.setHome_out (s : State) (h : Nat) (x : Home) : (s.setHome h x).out = s.out := rfl
@[simp] theorem State.setHome_outHeld (s : State) (h : Nat) (x : Home) : (s.setHome h x).outHeld = s.outHeld := rfl
@[simp] theorem State.setHome_floor (s : State) (h : Nat) (x : Home) : (s.setHome h x).floor = s.floor := rfl
@[simp] theorem State.setHome_slot (s : State) (h : Nat) (x : Home) : (s.setHome h x).slot = s.slot := rfl
@[simp] theorem State.setHome_yokeEgress (s : State) (h : Nat) (x : Home) : (s.setHome h x).yokeEgress = s.yokeEgress := rfl
@[simp] theorem State.setHome_sampleBase (s : State) (h : Nat) (x : Home) : (s.setHome h x).sampleBase = s.sampleBase := rfl
@[simp] theorem State.setHome_released (s : State) (h : Nat) (x : Home) : (s.setHome h x).released = s.released := rfl
@[simp] theorem State.setHome_identity (s : State) (h : Nat) (x : Home) : (s.setHome h x).identity = s.identity := rfl
@[simp] theorem State.setHome_collector (s : State) (h : Nat) (x : Home) : (s.setHome h x).collector = s.collector := rfl
@[simp] theorem State.setHome_fatal (s : State) (h : Nat) (x : Home) : (s.setHome h x).fatal = s.fatal := rfl
@[simp] theorem State.setHome_dump (s : State) (h : Nat) (x : Home) : (s.setHome h x).dump = s.dump := rfl
@[simp] theorem State.setHome_posted (s : State) (h : Nat) (x : Home) : (s.setHome h x).posted = s.posted := rfl
@[simp] theorem State.setHome_farDrops (s : State) (h : Nat) (x : Home) : (s.setHome h x).farDrops = s.farDrops := rfl
@[simp] theorem State.setHome_hostIn (s : State) (h : Nat) (x : Home) : (s.setHome h x).hostIn = s.hostIn := rfl

@[simp] theorem State.setDie_time (s : State) (d : Nat) (x : Die) : (s.setDie d x).time = s.time := rfl
@[simp] theorem State.setDie_cycle (s : State) (d : Nat) (x : Die) : (s.setDie d x).cycle = s.cycle := rfl
@[simp] theorem State.setDie_pace (s : State) (d : Nat) (x : Die) : (s.setDie d x).pace = s.pace := rfl
@[simp] theorem State.setDie_serial (s : State) (d : Nat) (x : Die) : (s.setDie d x).serial = s.serial := rfl
@[simp] theorem State.setDie_free (s : State) (d : Nat) (x : Die) : (s.setDie d x).free = s.free := rfl
@[simp] theorem State.setDie_cur (s : State) (d : Nat) (x : Die) : (s.setDie d x).cur = s.cur := rfl
@[simp] theorem State.setDie_agenda (s : State) (d : Nat) (x : Die) : (s.setDie d x).agenda = s.agenda := rfl
@[simp] theorem State.setDie_sched (s : State) (d : Nat) (x : Die) : (s.setDie d x).sched = s.sched := rfl
@[simp] theorem State.setDie_harts (s : State) (d : Nat) (x : Die) : (s.setDie d x).harts = s.harts := rfl
@[simp] theorem State.setDie_cores (s : State) (d : Nat) (x : Die) : (s.setDie d x).cores = s.cores := rfl
@[simp] theorem State.setDie_clusters (s : State) (d : Nat) (x : Die) : (s.setDie d x).clusters = s.clusters := rfl
@[simp] theorem State.setDie_homes (s : State) (d : Nat) (x : Die) : (s.setDie d x).homes = s.homes := rfl
@[simp] theorem State.setDie_jobs (s : State) (d : Nat) (x : Die) : (s.setDie d x).jobs = s.jobs := rfl
@[simp] theorem State.setDie_media (s : State) (d : Nat) (x : Die) : (s.setDie d x).media = s.media := rfl
@[simp] theorem State.setDie_streams (s : State) (d : Nat) (x : Die) : (s.setDie d x).streams = s.streams := rfl
@[simp] theorem State.setDie_mem (s : State) (d : Nat) (x : Die) : (s.setDie d x).mem = s.mem := rfl
@[simp] theorem State.setDie_memTags (s : State) (d : Nat) (x : Die) : (s.setDie d x).memTags = s.memTags := rfl
@[simp] theorem State.setDie_memPoison (s : State) (d : Nat) (x : Die) : (s.setDie d x).memPoison = s.memPoison := rfl
@[simp] theorem State.setDie_mgmt (s : State) (d : Nat) (x : Die) : (s.setDie d x).mgmt = s.mgmt := rfl
@[simp] theorem State.setDie_hostq (s : State) (d : Nat) (x : Die) : (s.setDie d x).hostq = s.hostq := rfl
@[simp] theorem State.setDie_ports (s : State) (d : Nat) (x : Die) : (s.setDie d x).ports = s.ports := rfl
@[simp] theorem State.setDie_planes (s : State) (d : Nat) (x : Die) : (s.setDie d x).planes = s.planes := rfl
@[simp] theorem State.setDie_remoteFilter (s : State) (d : Nat) (x : Die) : (s.setDie d x).remoteFilter = s.remoteFilter := rfl
@[simp] theorem State.setDie_remoteWaits (s : State) (d : Nat) (x : Die) : (s.setDie d x).remoteWaits = s.remoteWaits := rfl
@[simp] theorem State.setDie_out (s : State) (d : Nat) (x : Die) : (s.setDie d x).out = s.out := rfl
@[simp] theorem State.setDie_outHeld (s : State) (d : Nat) (x : Die) : (s.setDie d x).outHeld = s.outHeld := rfl
@[simp] theorem State.setDie_floor (s : State) (d : Nat) (x : Die) : (s.setDie d x).floor = s.floor := rfl
@[simp] theorem State.setDie_slot (s : State) (d : Nat) (x : Die) : (s.setDie d x).slot = s.slot := rfl
@[simp] theorem State.setDie_yokeEgress (s : State) (d : Nat) (x : Die) : (s.setDie d x).yokeEgress = s.yokeEgress := rfl
@[simp] theorem State.setDie_sampleBase (s : State) (d : Nat) (x : Die) : (s.setDie d x).sampleBase = s.sampleBase := rfl
@[simp] theorem State.setDie_released (s : State) (d : Nat) (x : Die) : (s.setDie d x).released = s.released := rfl
@[simp] theorem State.setDie_identity (s : State) (d : Nat) (x : Die) : (s.setDie d x).identity = s.identity := rfl
@[simp] theorem State.setDie_collector (s : State) (d : Nat) (x : Die) : (s.setDie d x).collector = s.collector := rfl
@[simp] theorem State.setDie_fatal (s : State) (d : Nat) (x : Die) : (s.setDie d x).fatal = s.fatal := rfl
@[simp] theorem State.setDie_dump (s : State) (d : Nat) (x : Die) : (s.setDie d x).dump = s.dump := rfl
@[simp] theorem State.setDie_posted (s : State) (d : Nat) (x : Die) : (s.setDie d x).posted = s.posted := rfl
@[simp] theorem State.setDie_farDrops (s : State) (d : Nat) (x : Die) : (s.setDie d x).farDrops = s.farDrops := rfl
@[simp] theorem State.setDie_hostIn (s : State) (d : Nat) (x : Die) : (s.setDie d x).hostIn = s.hostIn := rfl

@[simp] theorem State.push_time (s : State) (e : Event) : (s.push e).time = s.time := rfl
@[simp] theorem State.push_cycle (s : State) (e : Event) : (s.push e).cycle = s.cycle := rfl
@[simp] theorem State.push_pace (s : State) (e : Event) : (s.push e).pace = s.pace := rfl
@[simp] theorem State.push_serial (s : State) (e : Event) : (s.push e).serial = s.serial := rfl
@[simp] theorem State.push_free (s : State) (e : Event) : (s.push e).free = s.free := rfl
@[simp] theorem State.push_cur (s : State) (e : Event) : (s.push e).cur = s.cur := rfl
@[simp] theorem State.push_sched (s : State) (e : Event) : (s.push e).sched = s.sched := rfl
@[simp] theorem State.push_harts (s : State) (e : Event) : (s.push e).harts = s.harts := rfl
@[simp] theorem State.push_cores (s : State) (e : Event) : (s.push e).cores = s.cores := rfl
@[simp] theorem State.push_clusters (s : State) (e : Event) : (s.push e).clusters = s.clusters := rfl
@[simp] theorem State.push_homes (s : State) (e : Event) : (s.push e).homes = s.homes := rfl
@[simp] theorem State.push_dies (s : State) (e : Event) : (s.push e).dies = s.dies := rfl
@[simp] theorem State.push_jobs (s : State) (e : Event) : (s.push e).jobs = s.jobs := rfl
@[simp] theorem State.push_media (s : State) (e : Event) : (s.push e).media = s.media := rfl
@[simp] theorem State.push_streams (s : State) (e : Event) : (s.push e).streams = s.streams := rfl
@[simp] theorem State.push_mem (s : State) (e : Event) : (s.push e).mem = s.mem := rfl
@[simp] theorem State.push_memTags (s : State) (e : Event) : (s.push e).memTags = s.memTags := rfl
@[simp] theorem State.push_memPoison (s : State) (e : Event) : (s.push e).memPoison = s.memPoison := rfl
@[simp] theorem State.push_mgmt (s : State) (e : Event) : (s.push e).mgmt = s.mgmt := rfl
@[simp] theorem State.push_hostq (s : State) (e : Event) : (s.push e).hostq = s.hostq := rfl
@[simp] theorem State.push_ports (s : State) (e : Event) : (s.push e).ports = s.ports := rfl
@[simp] theorem State.push_planes (s : State) (e : Event) : (s.push e).planes = s.planes := rfl
@[simp] theorem State.push_remoteFilter (s : State) (e : Event) : (s.push e).remoteFilter = s.remoteFilter := rfl
@[simp] theorem State.push_remoteWaits (s : State) (e : Event) : (s.push e).remoteWaits = s.remoteWaits := rfl
@[simp] theorem State.push_out (s : State) (e : Event) : (s.push e).out = s.out := rfl
@[simp] theorem State.push_outHeld (s : State) (e : Event) : (s.push e).outHeld = s.outHeld := rfl
@[simp] theorem State.push_floor (s : State) (e : Event) : (s.push e).floor = s.floor := rfl
@[simp] theorem State.push_slot (s : State) (e : Event) : (s.push e).slot = s.slot := rfl
@[simp] theorem State.push_yokeEgress (s : State) (e : Event) : (s.push e).yokeEgress = s.yokeEgress := rfl
@[simp] theorem State.push_sampleBase (s : State) (e : Event) : (s.push e).sampleBase = s.sampleBase := rfl
@[simp] theorem State.push_released (s : State) (e : Event) : (s.push e).released = s.released := rfl
@[simp] theorem State.push_identity (s : State) (e : Event) : (s.push e).identity = s.identity := rfl
@[simp] theorem State.push_collector (s : State) (e : Event) : (s.push e).collector = s.collector := rfl
@[simp] theorem State.push_fatal (s : State) (e : Event) : (s.push e).fatal = s.fatal := rfl
@[simp] theorem State.push_dump (s : State) (e : Event) : (s.push e).dump = s.dump := rfl
@[simp] theorem State.push_posted (s : State) (e : Event) : (s.push e).posted = s.posted := rfl
@[simp] theorem State.push_farDrops (s : State) (e : Event) : (s.push e).farDrops = s.farDrops := rfl
@[simp] theorem State.push_hostIn (s : State) (e : Event) : (s.push e).hostIn = s.hostIn := rfl

@[simp] theorem State.fresh_time (s : State) : (s.fresh).time = s.time := rfl
@[simp] theorem State.fresh_cycle (s : State) : (s.fresh).cycle = s.cycle := rfl
@[simp] theorem State.fresh_pace (s : State) : (s.fresh).pace = s.pace := rfl
@[simp] theorem State.fresh_free (s : State) : (s.fresh).free = s.free := rfl
@[simp] theorem State.fresh_cur (s : State) : (s.fresh).cur = s.cur := rfl
@[simp] theorem State.fresh_agenda (s : State) : (s.fresh).agenda = s.agenda := rfl
@[simp] theorem State.fresh_sched (s : State) : (s.fresh).sched = s.sched := rfl
@[simp] theorem State.fresh_harts (s : State) : (s.fresh).harts = s.harts := rfl
@[simp] theorem State.fresh_cores (s : State) : (s.fresh).cores = s.cores := rfl
@[simp] theorem State.fresh_clusters (s : State) : (s.fresh).clusters = s.clusters := rfl
@[simp] theorem State.fresh_homes (s : State) : (s.fresh).homes = s.homes := rfl
@[simp] theorem State.fresh_dies (s : State) : (s.fresh).dies = s.dies := rfl
@[simp] theorem State.fresh_jobs (s : State) : (s.fresh).jobs = s.jobs := rfl
@[simp] theorem State.fresh_media (s : State) : (s.fresh).media = s.media := rfl
@[simp] theorem State.fresh_streams (s : State) : (s.fresh).streams = s.streams := rfl
@[simp] theorem State.fresh_mem (s : State) : (s.fresh).mem = s.mem := rfl
@[simp] theorem State.fresh_memTags (s : State) : (s.fresh).memTags = s.memTags := rfl
@[simp] theorem State.fresh_memPoison (s : State) : (s.fresh).memPoison = s.memPoison := rfl
@[simp] theorem State.fresh_mgmt (s : State) : (s.fresh).mgmt = s.mgmt := rfl
@[simp] theorem State.fresh_hostq (s : State) : (s.fresh).hostq = s.hostq := rfl
@[simp] theorem State.fresh_ports (s : State) : (s.fresh).ports = s.ports := rfl
@[simp] theorem State.fresh_planes (s : State) : (s.fresh).planes = s.planes := rfl
@[simp] theorem State.fresh_remoteFilter (s : State) : (s.fresh).remoteFilter = s.remoteFilter := rfl
@[simp] theorem State.fresh_remoteWaits (s : State) : (s.fresh).remoteWaits = s.remoteWaits := rfl
@[simp] theorem State.fresh_out (s : State) : (s.fresh).out = s.out := rfl
@[simp] theorem State.fresh_outHeld (s : State) : (s.fresh).outHeld = s.outHeld := rfl
@[simp] theorem State.fresh_floor (s : State) : (s.fresh).floor = s.floor := rfl
@[simp] theorem State.fresh_slot (s : State) : (s.fresh).slot = s.slot := rfl
@[simp] theorem State.fresh_yokeEgress (s : State) : (s.fresh).yokeEgress = s.yokeEgress := rfl
@[simp] theorem State.fresh_sampleBase (s : State) : (s.fresh).sampleBase = s.sampleBase := rfl
@[simp] theorem State.fresh_released (s : State) : (s.fresh).released = s.released := rfl
@[simp] theorem State.fresh_identity (s : State) : (s.fresh).identity = s.identity := rfl
@[simp] theorem State.fresh_collector (s : State) : (s.fresh).collector = s.collector := rfl
@[simp] theorem State.fresh_fatal (s : State) : (s.fresh).fatal = s.fatal := rfl
@[simp] theorem State.fresh_dump (s : State) : (s.fresh).dump = s.dump := rfl
@[simp] theorem State.fresh_posted (s : State) : (s.fresh).posted = s.posted := rfl
@[simp] theorem State.fresh_farDrops (s : State) : (s.fresh).farDrops = s.farDrops := rfl
@[simp] theorem State.fresh_hostIn (s : State) : (s.fresh).hostIn = s.hostIn := rfl

@[simp] theorem State.drawFree_time (s : State) : (s.drawFree).time = s.time := rfl
@[simp] theorem State.drawFree_cycle (s : State) : (s.drawFree).cycle = s.cycle := rfl
@[simp] theorem State.drawFree_pace (s : State) : (s.drawFree).pace = s.pace := rfl
@[simp] theorem State.drawFree_serial (s : State) : (s.drawFree).serial = s.serial := rfl
@[simp] theorem State.drawFree_cur (s : State) : (s.drawFree).cur = s.cur := rfl
@[simp] theorem State.drawFree_agenda (s : State) : (s.drawFree).agenda = s.agenda := rfl
@[simp] theorem State.drawFree_sched (s : State) : (s.drawFree).sched = s.sched := rfl
@[simp] theorem State.drawFree_harts (s : State) : (s.drawFree).harts = s.harts := rfl
@[simp] theorem State.drawFree_cores (s : State) : (s.drawFree).cores = s.cores := rfl
@[simp] theorem State.drawFree_clusters (s : State) : (s.drawFree).clusters = s.clusters := rfl
@[simp] theorem State.drawFree_homes (s : State) : (s.drawFree).homes = s.homes := rfl
@[simp] theorem State.drawFree_dies (s : State) : (s.drawFree).dies = s.dies := rfl
@[simp] theorem State.drawFree_jobs (s : State) : (s.drawFree).jobs = s.jobs := rfl
@[simp] theorem State.drawFree_media (s : State) : (s.drawFree).media = s.media := rfl
@[simp] theorem State.drawFree_streams (s : State) : (s.drawFree).streams = s.streams := rfl
@[simp] theorem State.drawFree_mem (s : State) : (s.drawFree).mem = s.mem := rfl
@[simp] theorem State.drawFree_memTags (s : State) : (s.drawFree).memTags = s.memTags := rfl
@[simp] theorem State.drawFree_memPoison (s : State) : (s.drawFree).memPoison = s.memPoison := rfl
@[simp] theorem State.drawFree_mgmt (s : State) : (s.drawFree).mgmt = s.mgmt := rfl
@[simp] theorem State.drawFree_hostq (s : State) : (s.drawFree).hostq = s.hostq := rfl
@[simp] theorem State.drawFree_ports (s : State) : (s.drawFree).ports = s.ports := rfl
@[simp] theorem State.drawFree_planes (s : State) : (s.drawFree).planes = s.planes := rfl
@[simp] theorem State.drawFree_remoteFilter (s : State) : (s.drawFree).remoteFilter = s.remoteFilter := rfl
@[simp] theorem State.drawFree_remoteWaits (s : State) : (s.drawFree).remoteWaits = s.remoteWaits := rfl
@[simp] theorem State.drawFree_out (s : State) : (s.drawFree).out = s.out := rfl
@[simp] theorem State.drawFree_outHeld (s : State) : (s.drawFree).outHeld = s.outHeld := rfl
@[simp] theorem State.drawFree_floor (s : State) : (s.drawFree).floor = s.floor := rfl
@[simp] theorem State.drawFree_slot (s : State) : (s.drawFree).slot = s.slot := rfl
@[simp] theorem State.drawFree_yokeEgress (s : State) : (s.drawFree).yokeEgress = s.yokeEgress := rfl
@[simp] theorem State.drawFree_sampleBase (s : State) : (s.drawFree).sampleBase = s.sampleBase := rfl
@[simp] theorem State.drawFree_released (s : State) : (s.drawFree).released = s.released := rfl
@[simp] theorem State.drawFree_identity (s : State) : (s.drawFree).identity = s.identity := rfl
@[simp] theorem State.drawFree_collector (s : State) : (s.drawFree).collector = s.collector := rfl
@[simp] theorem State.drawFree_fatal (s : State) : (s.drawFree).fatal = s.fatal := rfl
@[simp] theorem State.drawFree_dump (s : State) : (s.drawFree).dump = s.dump := rfl
@[simp] theorem State.drawFree_posted (s : State) : (s.drawFree).posted = s.posted := rfl
@[simp] theorem State.drawFree_farDrops (s : State) : (s.drawFree).farDrops = s.farDrops := rfl
@[simp] theorem State.drawFree_hostIn (s : State) : (s.drawFree).hostIn = s.hostIn := rfl

@[simp] theorem State.setReg_time (s : State) (off : Nat) (v : Word) : (s.setReg off v).time = s.time := rfl
@[simp] theorem State.setReg_cycle (s : State) (off : Nat) (v : Word) : (s.setReg off v).cycle = s.cycle := rfl
@[simp] theorem State.setReg_pace (s : State) (off : Nat) (v : Word) : (s.setReg off v).pace = s.pace := rfl
@[simp] theorem State.setReg_serial (s : State) (off : Nat) (v : Word) : (s.setReg off v).serial = s.serial := rfl
@[simp] theorem State.setReg_free (s : State) (off : Nat) (v : Word) : (s.setReg off v).free = s.free := rfl
@[simp] theorem State.setReg_cur (s : State) (off : Nat) (v : Word) : (s.setReg off v).cur = s.cur := rfl
@[simp] theorem State.setReg_agenda (s : State) (off : Nat) (v : Word) : (s.setReg off v).agenda = s.agenda := rfl
@[simp] theorem State.setReg_sched (s : State) (off : Nat) (v : Word) : (s.setReg off v).sched = s.sched := rfl
@[simp] theorem State.setReg_harts (s : State) (off : Nat) (v : Word) : (s.setReg off v).harts = s.harts := rfl
@[simp] theorem State.setReg_cores (s : State) (off : Nat) (v : Word) : (s.setReg off v).cores = s.cores := rfl
@[simp] theorem State.setReg_clusters (s : State) (off : Nat) (v : Word) : (s.setReg off v).clusters = s.clusters := rfl
@[simp] theorem State.setReg_homes (s : State) (off : Nat) (v : Word) : (s.setReg off v).homes = s.homes := rfl
@[simp] theorem State.setReg_dies (s : State) (off : Nat) (v : Word) : (s.setReg off v).dies = s.dies := rfl
@[simp] theorem State.setReg_jobs (s : State) (off : Nat) (v : Word) : (s.setReg off v).jobs = s.jobs := rfl
@[simp] theorem State.setReg_media (s : State) (off : Nat) (v : Word) : (s.setReg off v).media = s.media := rfl
@[simp] theorem State.setReg_streams (s : State) (off : Nat) (v : Word) : (s.setReg off v).streams = s.streams := rfl
@[simp] theorem State.setReg_mem (s : State) (off : Nat) (v : Word) : (s.setReg off v).mem = s.mem := rfl
@[simp] theorem State.setReg_memTags (s : State) (off : Nat) (v : Word) : (s.setReg off v).memTags = s.memTags := rfl
@[simp] theorem State.setReg_memPoison (s : State) (off : Nat) (v : Word) : (s.setReg off v).memPoison = s.memPoison := rfl
@[simp] theorem State.setReg_hostq (s : State) (off : Nat) (v : Word) : (s.setReg off v).hostq = s.hostq := rfl
@[simp] theorem State.setReg_ports (s : State) (off : Nat) (v : Word) : (s.setReg off v).ports = s.ports := rfl
@[simp] theorem State.setReg_planes (s : State) (off : Nat) (v : Word) : (s.setReg off v).planes = s.planes := rfl
@[simp] theorem State.setReg_remoteFilter (s : State) (off : Nat) (v : Word) : (s.setReg off v).remoteFilter = s.remoteFilter := rfl
@[simp] theorem State.setReg_remoteWaits (s : State) (off : Nat) (v : Word) : (s.setReg off v).remoteWaits = s.remoteWaits := rfl
@[simp] theorem State.setReg_out (s : State) (off : Nat) (v : Word) : (s.setReg off v).out = s.out := rfl
@[simp] theorem State.setReg_outHeld (s : State) (off : Nat) (v : Word) : (s.setReg off v).outHeld = s.outHeld := rfl
@[simp] theorem State.setReg_floor (s : State) (off : Nat) (v : Word) : (s.setReg off v).floor = s.floor := rfl
@[simp] theorem State.setReg_slot (s : State) (off : Nat) (v : Word) : (s.setReg off v).slot = s.slot := rfl
@[simp] theorem State.setReg_yokeEgress (s : State) (off : Nat) (v : Word) : (s.setReg off v).yokeEgress = s.yokeEgress := rfl
@[simp] theorem State.setReg_sampleBase (s : State) (off : Nat) (v : Word) : (s.setReg off v).sampleBase = s.sampleBase := rfl
@[simp] theorem State.setReg_released (s : State) (off : Nat) (v : Word) : (s.setReg off v).released = s.released := rfl
@[simp] theorem State.setReg_identity (s : State) (off : Nat) (v : Word) : (s.setReg off v).identity = s.identity := rfl
@[simp] theorem State.setReg_collector (s : State) (off : Nat) (v : Word) : (s.setReg off v).collector = s.collector := rfl
@[simp] theorem State.setReg_fatal (s : State) (off : Nat) (v : Word) : (s.setReg off v).fatal = s.fatal := rfl
@[simp] theorem State.setReg_dump (s : State) (off : Nat) (v : Word) : (s.setReg off v).dump = s.dump := rfl
@[simp] theorem State.setReg_posted (s : State) (off : Nat) (v : Word) : (s.setReg off v).posted = s.posted := rfl
@[simp] theorem State.setReg_farDrops (s : State) (off : Nat) (v : Word) : (s.setReg off v).farDrops = s.farDrops := rfl
@[simp] theorem State.setReg_hostIn (s : State) (off : Nat) (v : Word) : (s.setReg off v).hostIn = s.hostIn := rfl

/-! ### Units read after a unit is written -/

@[simp] theorem State.hart_setHart_same (s : State) (k : Nat) (x : Hart) : (s.setHart k x).hart k = x := by simp [State.hart, State.setHart]
theorem State.hart_setHart_other {j k : Nat} (h : j ≠ k) (s : State) (x : Hart) : (s.setHart k x).hart j = s.hart j := by
  simp [State.hart, State.setHart, find_put_other h]
@[simp] theorem State.setHart_setHart (s : State) (k : Nat) (x y : Hart) : (s.setHart k x).setHart k y = s.setHart k y := by simp [State.setHart]
@[simp] theorem State.core_setCore_same (s : State) (k : Nat) (x : Core) : (s.setCore k x).core k = x := by simp [State.core, State.setCore]
theorem State.core_setCore_other {j k : Nat} (h : j ≠ k) (s : State) (x : Core) : (s.setCore k x).core j = s.core j := by
  simp [State.core, State.setCore, find_put_other h]
@[simp] theorem State.setCore_setCore (s : State) (k : Nat) (x y : Core) : (s.setCore k x).setCore k y = s.setCore k y := by simp [State.setCore]
@[simp] theorem State.cluster_setCluster_same (s : State) (k : Nat) (x : Cluster) : (s.setCluster k x).cluster k = x := by simp [State.cluster, State.setCluster]
theorem State.cluster_setCluster_other {j k : Nat} (h : j ≠ k) (s : State) (x : Cluster) : (s.setCluster k x).cluster j = s.cluster j := by
  simp [State.cluster, State.setCluster, find_put_other h]
@[simp] theorem State.setCluster_setCluster (s : State) (k : Nat) (x y : Cluster) : (s.setCluster k x).setCluster k y = s.setCluster k y := by simp [State.setCluster]
@[simp] theorem State.home_setHome_same (s : State) (k : Nat) (x : Home) : (s.setHome k x).home k = x := by simp [State.home, State.setHome]
theorem State.home_setHome_other {j k : Nat} (h : j ≠ k) (s : State) (x : Home) : (s.setHome k x).home j = s.home j := by
  simp [State.home, State.setHome, find_put_other h]
@[simp] theorem State.setHome_setHome (s : State) (k : Nat) (x y : Home) : (s.setHome k x).setHome k y = s.setHome k y := by simp [State.setHome]
@[simp] theorem State.die_setDie_same (s : State) (k : Nat) (x : Die) : (s.setDie k x).die k = x := by simp [State.die, State.setDie]
theorem State.die_setDie_other {j k : Nat} (h : j ≠ k) (s : State) (x : Die) : (s.setDie k x).die j = s.die j := by
  simp [State.die, State.setDie, find_put_other h]
@[simp] theorem State.setDie_setDie (s : State) (k : Nat) (x y : Die) : (s.setDie k x).setDie k y = s.setDie k y := by simp [State.setDie]
@[simp] theorem State.hart_setCore (s : State) (j k : Nat) (x : Core) : (s.setCore k x).hart j = s.hart j := rfl
@[simp] theorem State.hart_setCluster (s : State) (j k : Nat) (x : Cluster) : (s.setCluster k x).hart j = s.hart j := rfl
@[simp] theorem State.hart_setHome (s : State) (j k : Nat) (x : Home) : (s.setHome k x).hart j = s.hart j := rfl
@[simp] theorem State.hart_setDie (s : State) (j k : Nat) (x : Die) : (s.setDie k x).hart j = s.hart j := rfl
@[simp] theorem State.core_setHart (s : State) (j k : Nat) (x : Hart) : (s.setHart k x).core j = s.core j := rfl
@[simp] theorem State.core_setCluster (s : State) (j k : Nat) (x : Cluster) : (s.setCluster k x).core j = s.core j := rfl
@[simp] theorem State.core_setHome (s : State) (j k : Nat) (x : Home) : (s.setHome k x).core j = s.core j := rfl
@[simp] theorem State.core_setDie (s : State) (j k : Nat) (x : Die) : (s.setDie k x).core j = s.core j := rfl
@[simp] theorem State.cluster_setHart (s : State) (j k : Nat) (x : Hart) : (s.setHart k x).cluster j = s.cluster j := rfl
@[simp] theorem State.cluster_setCore (s : State) (j k : Nat) (x : Core) : (s.setCore k x).cluster j = s.cluster j := rfl
@[simp] theorem State.cluster_setHome (s : State) (j k : Nat) (x : Home) : (s.setHome k x).cluster j = s.cluster j := rfl
@[simp] theorem State.cluster_setDie (s : State) (j k : Nat) (x : Die) : (s.setDie k x).cluster j = s.cluster j := rfl
@[simp] theorem State.home_setHart (s : State) (j k : Nat) (x : Hart) : (s.setHart k x).home j = s.home j := rfl
@[simp] theorem State.home_setCore (s : State) (j k : Nat) (x : Core) : (s.setCore k x).home j = s.home j := rfl
@[simp] theorem State.home_setCluster (s : State) (j k : Nat) (x : Cluster) : (s.setCluster k x).home j = s.home j := rfl
@[simp] theorem State.home_setDie (s : State) (j k : Nat) (x : Die) : (s.setDie k x).home j = s.home j := rfl
@[simp] theorem State.die_setHart (s : State) (j k : Nat) (x : Hart) : (s.setHart k x).die j = s.die j := rfl
@[simp] theorem State.die_setCore (s : State) (j k : Nat) (x : Core) : (s.setCore k x).die j = s.die j := rfl
@[simp] theorem State.die_setCluster (s : State) (j k : Nat) (x : Cluster) : (s.setCluster k x).die j = s.die j := rfl
@[simp] theorem State.die_setHome (s : State) (j k : Nat) (x : Home) : (s.setHome k x).die j = s.die j := rfl
@[simp] theorem State.push_hart (s : State) (e : Event) (k : Nat) : (s.push e).hart k = s.hart k := rfl
@[simp] theorem State.push_core (s : State) (e : Event) (k : Nat) : (s.push e).core k = s.core k := rfl
@[simp] theorem State.push_cluster (s : State) (e : Event) (k : Nat) : (s.push e).cluster k = s.cluster k := rfl
@[simp] theorem State.push_home (s : State) (e : Event) (k : Nat) : (s.push e).home k = s.home k := rfl
@[simp] theorem State.push_die (s : State) (e : Event) (k : Nat) : (s.push e).die k = s.die k := rfl
@[simp] theorem State.fresh_hart (s : State) (k : Nat) : (s.fresh).hart k = s.hart k := rfl
@[simp] theorem State.fresh_core (s : State) (k : Nat) : (s.fresh).core k = s.core k := rfl
@[simp] theorem State.fresh_cluster (s : State) (k : Nat) : (s.fresh).cluster k = s.cluster k := rfl
@[simp] theorem State.fresh_home (s : State) (k : Nat) : (s.fresh).home k = s.home k := rfl
@[simp] theorem State.fresh_die (s : State) (k : Nat) : (s.fresh).die k = s.die k := rfl
@[simp] theorem State.drawFree_hart (s : State) (k : Nat) : (s.drawFree).hart k = s.hart k := rfl
@[simp] theorem State.drawFree_core (s : State) (k : Nat) : (s.drawFree).core k = s.core k := rfl
@[simp] theorem State.drawFree_cluster (s : State) (k : Nat) : (s.drawFree).cluster k = s.cluster k := rfl
@[simp] theorem State.drawFree_home (s : State) (k : Nat) : (s.drawFree).home k = s.home k := rfl
@[simp] theorem State.drawFree_die (s : State) (k : Nat) : (s.drawFree).die k = s.die k := rfl
@[simp] theorem State.setReg_hart (s : State) (off : Nat) (v : Word) (k : Nat) : (s.setReg off v).hart k = s.hart k := rfl
@[simp] theorem State.setReg_core (s : State) (off : Nat) (v : Word) (k : Nat) : (s.setReg off v).core k = s.core k := rfl
@[simp] theorem State.setReg_cluster (s : State) (off : Nat) (v : Word) (k : Nat) : (s.setReg off v).cluster k = s.cluster k := rfl
@[simp] theorem State.setReg_home (s : State) (off : Nat) (v : Word) (k : Nat) : (s.setReg off v).home k = s.home k := rfl
@[simp] theorem State.setReg_die (s : State) (off : Nat) (v : Word) (k : Nat) : (s.setReg off v).die k = s.die k := rfl

@[simp] theorem State.me_setMe (s : State) (x : Hart) : (s.setMe x).me = x := by simp [State.me, State.setMe]
@[simp] theorem State.me_modMe (s : State) (f : Hart → Hart) : (s.modMe f).me = f s.me := by simp [State.me, State.modMe]
@[simp] theorem State.setMe_cur (s : State) (x : Hart) : (s.setMe x).cur = s.cur := rfl
@[simp] theorem State.modMe_cur (s : State) (f : Hart → Hart) : (s.modMe f).cur = s.cur := rfl
@[simp] theorem State.setMe_core (s : State) (x : Hart) (c : Nat) : (s.setMe x).core c = s.core c := rfl
@[simp] theorem State.modMe_core (s : State) (f : Hart → Hart) (c : Nat) : (s.modMe f).core c = s.core c := rfl
@[simp] theorem State.setMe_mem (s : State) (x : Hart) : (s.setMe x).mem = s.mem := rfl
@[simp] theorem State.modMe_mem (s : State) (f : Hart → Hart) : (s.modMe f).mem = s.mem := rfl
@[simp] theorem State.setMe_setMe (s : State) (x y : Hart) : (s.setMe x).setMe y = s.setMe y := by simp [State.setMe]

/-! ### Registers -/

@[simp] theorem Hart.getG_zero (x : Hart) : x.getG 0#5 = 0 := rfl
@[simp] theorem Hart.setG_zero (x : Hart) (v : Word) : x.setG 0#5 v = x := rfl
@[simp] theorem Hart.getM_zero (x : Hart) : x.getM 0#3 = BitVec.allOnes 64 := rfl
@[simp] theorem Hart.setM_zero (x : Hart) (v : Word) : x.setM 0#3 v = x := rfl

theorem Hart.getG_setG_same {r : BitVec 5} (h : r ≠ 0) (x : Hart) (v : Word) : (x.setG r v).getG r = v := by
  unfold Hart.getG Hart.setG
  rw [if_neg h, if_neg h]
  exact Vector.getElem_set_self r.isLt

theorem Hart.getG_setG_other {r q : BitVec 5} (h : q ≠ r) (x : Hart) (v : Word) : (x.setG r v).getG q = x.getG q := by
  have ne : r.toNat ≠ q.toNat := fun e => h (BitVec.eq_of_toNat_eq e.symm)
  unfold Hart.getG Hart.setG
  split
  · rfl
  · split
    · rfl
    · exact Vector.getElem_set_ne r.isLt q.isLt ne

theorem Hart.getV_setV_same (r : BitVec 5) (x : Hart) (v : Vec) : (x.setV r v).getV r = v := by simp [Hart.getV, Hart.setV]

theorem Hart.getV_setV_other {r q : BitVec 5} (h : q ≠ r) (x : Hart) (v : Vec) : (x.setV r v).getV q = x.getV q := by
  have : r.toNat ≠ q.toNat := fun e => h (BitVec.eq_of_toNat_eq e.symm)
  simp [Hart.getV, Hart.setV, Vector.getElem_set, this]

@[simp] theorem Hart.setG_v (x : Hart) (r : BitVec 5) (v : Word) : (x.setG r v).v = x.v := by unfold Hart.setG; split <;> rfl
@[simp] theorem Hart.setG_m (x : Hart) (r : BitVec 5) (v : Word) : (x.setG r v).m = x.m := by unfold Hart.setG; split <;> rfl
@[simp] theorem Hart.setG_pc (x : Hart) (r : BitVec 5) (v : Word) : (x.setG r v).pc = x.pc := by unfold Hart.setG; split <;> rfl
@[simp] theorem Hart.setG_task (x : Hart) (r : BitVec 5) (v : Word) : (x.setG r v).task = x.task := by unfold Hart.setG; split <;> rfl
@[simp] theorem Hart.setG_domain (x : Hart) (r : BitVec 5) (v : Word) : (x.setG r v).domain = x.domain := by unfold Hart.setG; split <;> rfl
@[simp] theorem Hart.setG_prio (x : Hart) (r : BitVec 5) (v : Word) : (x.setG r v).prio = x.prio := by unfold Hart.setG; split <;> rfl
@[simp] theorem Hart.setG_cause (x : Hart) (r : BitVec 5) (v : Word) : (x.setG r v).cause = x.cause := by unfold Hart.setG; split <;> rfl
@[simp] theorem Hart.setG_faddr (x : Hart) (r : BitVec 5) (v : Word) : (x.setG r v).faddr = x.faddr := by unfold Hart.setG; split <;> rfl
@[simp] theorem Hart.setG_trappc (x : Hart) (r : BitVec 5) (v : Word) : (x.setG r v).trappc = x.trappc := by unfold Hart.setG; split <;> rfl
@[simp] theorem Hart.setG_regmask (x : Hart) (r : BitVec 5) (v : Word) : (x.setG r v).regmask = x.regmask := by unfold Hart.setG; split <;> rfl
@[simp] theorem Hart.setG_fflags (x : Hart) (r : BitVec 5) (v : Word) : (x.setG r v).fflags = x.fflags := by unfold Hart.setG; split <;> rfl
@[simp] theorem Hart.setG_rng (x : Hart) (r : BitVec 5) (v : Word) : (x.setG r v).rng = x.rng := by unfold Hart.setG; split <;> rfl
@[simp] theorem Hart.setG_lmflag (x : Hart) (r : BitVec 5) (v : Word) : (x.setG r v).lmflag = x.lmflag := by unfold Hart.setG; split <;> rfl
@[simp] theorem Hart.setG_lmaddr (x : Hart) (r : BitVec 5) (v : Word) : (x.setG r v).lmaddr = x.lmaddr := by unfold Hart.setG; split <;> rfl
@[simp] theorem Hart.setG_qmin (x : Hart) (r : BitVec 5) (v : Word) : (x.setG r v).qmin = x.qmin := by unfold Hart.setG; split <;> rfl
@[simp] theorem Hart.setG_qcap (x : Hart) (r : BitVec 5) (v : Word) : (x.setG r v).qcap = x.qcap := by unfold Hart.setG; split <;> rfl
@[simp] theorem Hart.setG_stktop (x : Hart) (r : BitVec 5) (v : Word) : (x.setG r v).stktop = x.stktop := by unfold Hart.setG; split <;> rfl
@[simp] theorem Hart.setG_ctxbase (x : Hart) (r : BitVec 5) (v : Word) : (x.setG r v).ctxbase = x.ctxbase := by unfold Hart.setG; split <;> rfl
@[simp] theorem Hart.setG_run (x : Hart) (r : BitVec 5) (v : Word) : (x.setG r v).run = x.run := by unfold Hart.setG; split <;> rfl
@[simp] theorem Hart.setG_job (x : Hart) (r : BitVec 5) (v : Word) : (x.setG r v).job = x.job := by unfold Hart.setG; split <;> rfl
@[simp] theorem Hart.setG_parkSeq (x : Hart) (r : BitVec 5) (v : Word) : (x.setG r v).parkSeq = x.parkSeq := by unfold Hart.setG; split <;> rfl
@[simp] theorem Hart.setG_park (x : Hart) (r : BitVec 5) (v : Word) : (x.setG r v).park = x.park := by unfold Hart.setG; split <;> rfl
@[simp] theorem Hart.setG_preempt (x : Hart) (r : BitVec 5) (v : Word) : (x.setG r v).preempt = x.preempt := by unfold Hart.setG; split <;> rfl
@[simp] theorem Hart.setG_migrate (x : Hart) (r : BitVec 5) (v : Word) : (x.setG r v).migrate = x.migrate := by unfold Hart.setG; split <;> rfl
@[simp] theorem Hart.setG_slots (x : Hart) (r : BitVec 5) (v : Word) : (x.setG r v).slots = x.slots := by unfold Hart.setG; split <;> rfl
@[simp] theorem Hart.setG_near (x : Hart) (r : BitVec 5) (v : Word) : (x.setG r v).near = x.near := by unfold Hart.setG; split <;> rfl
@[simp] theorem Hart.setG_loads (x : Hart) (r : BitVec 5) (v : Word) : (x.setG r v).loads = x.loads := by unfold Hart.setG; split <;> rfl
@[simp] theorem Hart.setG_reads (x : Hart) (r : BitVec 5) (v : Word) : (x.setG r v).reads = x.reads := by unfold Hart.setG; split <;> rfl
@[simp] theorem Hart.setG_stores (x : Hart) (r : BitVec 5) (v : Word) : (x.setG r v).stores = x.stores := by unfold Hart.setG; split <;> rfl
@[simp] theorem Hart.setG_acks (x : Hart) (r : BitVec 5) (v : Word) : (x.setG r v).acks = x.acks := by unfold Hart.setG; split <;> rfl
@[simp] theorem Hart.setG_fence (x : Hart) (r : BitVec 5) (v : Word) : (x.setG r v).fence = x.fence := by unfold Hart.setG; split <;> rfl
@[simp] theorem Hart.setG_fenceAcc (x : Hart) (r : BitVec 5) (v : Word) : (x.setG r v).fenceAcc = x.fenceAcc := by unfold Hart.setG; split <;> rfl
@[simp] theorem Hart.setG_mchecks (x : Hart) (r : BitVec 5) (v : Word) : (x.setG r v).mchecks = x.mchecks := by unfold Hart.setG; split <;> rfl
@[simp] theorem Hart.setG_cancelled (x : Hart) (r : BitVec 5) (v : Word) : (x.setG r v).cancelled = x.cancelled := by unfold Hart.setG; split <;> rfl
@[simp] theorem Hart.setG_wait (x : Hart) (r : BitVec 5) (v : Word) : (x.setG r v).wait = x.wait := by unfold Hart.setG; split <;> rfl
@[simp] theorem Hart.setG_opened (x : Hart) (r : BitVec 5) (v : Word) : (x.setG r v).opened = x.opened := by unfold Hart.setG; split <;> rfl
@[simp] theorem Hart.setG_busy (x : Hart) (r : BitVec 5) (v : Word) : (x.setG r v).busy = x.busy := by unfold Hart.setG; split <;> rfl
@[simp] theorem Hart.setG_safeAt (x : Hart) (r : BitVec 5) (v : Word) : (x.setG r v).safeAt = x.safeAt := by unfold Hart.setG; split <;> rfl
@[simp] theorem Hart.setG_lostWord (x : Hart) (r : BitVec 5) (v : Word) : (x.setG r v).lostWord = x.lostWord := by unfold Hart.setG; split <;> rfl
@[simp] theorem Hart.setM_g (x : Hart) (r : BitVec 3) (v : Word) : (x.setM r v).g = x.g := by unfold Hart.setM; split <;> rfl
@[simp] theorem Hart.setM_v (x : Hart) (r : BitVec 3) (v : Word) : (x.setM r v).v = x.v := by unfold Hart.setM; split <;> rfl
@[simp] theorem Hart.setM_pc (x : Hart) (r : BitVec 3) (v : Word) : (x.setM r v).pc = x.pc := by unfold Hart.setM; split <;> rfl
@[simp] theorem Hart.setM_task (x : Hart) (r : BitVec 3) (v : Word) : (x.setM r v).task = x.task := by unfold Hart.setM; split <;> rfl
@[simp] theorem Hart.setM_domain (x : Hart) (r : BitVec 3) (v : Word) : (x.setM r v).domain = x.domain := by unfold Hart.setM; split <;> rfl
@[simp] theorem Hart.setM_prio (x : Hart) (r : BitVec 3) (v : Word) : (x.setM r v).prio = x.prio := by unfold Hart.setM; split <;> rfl
@[simp] theorem Hart.setM_cause (x : Hart) (r : BitVec 3) (v : Word) : (x.setM r v).cause = x.cause := by unfold Hart.setM; split <;> rfl
@[simp] theorem Hart.setM_faddr (x : Hart) (r : BitVec 3) (v : Word) : (x.setM r v).faddr = x.faddr := by unfold Hart.setM; split <;> rfl
@[simp] theorem Hart.setM_trappc (x : Hart) (r : BitVec 3) (v : Word) : (x.setM r v).trappc = x.trappc := by unfold Hart.setM; split <;> rfl
@[simp] theorem Hart.setM_regmask (x : Hart) (r : BitVec 3) (v : Word) : (x.setM r v).regmask = x.regmask := by unfold Hart.setM; split <;> rfl
@[simp] theorem Hart.setM_fflags (x : Hart) (r : BitVec 3) (v : Word) : (x.setM r v).fflags = x.fflags := by unfold Hart.setM; split <;> rfl
@[simp] theorem Hart.setM_rng (x : Hart) (r : BitVec 3) (v : Word) : (x.setM r v).rng = x.rng := by unfold Hart.setM; split <;> rfl
@[simp] theorem Hart.setM_lmflag (x : Hart) (r : BitVec 3) (v : Word) : (x.setM r v).lmflag = x.lmflag := by unfold Hart.setM; split <;> rfl
@[simp] theorem Hart.setM_lmaddr (x : Hart) (r : BitVec 3) (v : Word) : (x.setM r v).lmaddr = x.lmaddr := by unfold Hart.setM; split <;> rfl
@[simp] theorem Hart.setM_qmin (x : Hart) (r : BitVec 3) (v : Word) : (x.setM r v).qmin = x.qmin := by unfold Hart.setM; split <;> rfl
@[simp] theorem Hart.setM_qcap (x : Hart) (r : BitVec 3) (v : Word) : (x.setM r v).qcap = x.qcap := by unfold Hart.setM; split <;> rfl
@[simp] theorem Hart.setM_stktop (x : Hart) (r : BitVec 3) (v : Word) : (x.setM r v).stktop = x.stktop := by unfold Hart.setM; split <;> rfl
@[simp] theorem Hart.setM_ctxbase (x : Hart) (r : BitVec 3) (v : Word) : (x.setM r v).ctxbase = x.ctxbase := by unfold Hart.setM; split <;> rfl
@[simp] theorem Hart.setM_run (x : Hart) (r : BitVec 3) (v : Word) : (x.setM r v).run = x.run := by unfold Hart.setM; split <;> rfl
@[simp] theorem Hart.setM_job (x : Hart) (r : BitVec 3) (v : Word) : (x.setM r v).job = x.job := by unfold Hart.setM; split <;> rfl
@[simp] theorem Hart.setM_parkSeq (x : Hart) (r : BitVec 3) (v : Word) : (x.setM r v).parkSeq = x.parkSeq := by unfold Hart.setM; split <;> rfl
@[simp] theorem Hart.setM_park (x : Hart) (r : BitVec 3) (v : Word) : (x.setM r v).park = x.park := by unfold Hart.setM; split <;> rfl
@[simp] theorem Hart.setM_preempt (x : Hart) (r : BitVec 3) (v : Word) : (x.setM r v).preempt = x.preempt := by unfold Hart.setM; split <;> rfl
@[simp] theorem Hart.setM_migrate (x : Hart) (r : BitVec 3) (v : Word) : (x.setM r v).migrate = x.migrate := by unfold Hart.setM; split <;> rfl
@[simp] theorem Hart.setM_slots (x : Hart) (r : BitVec 3) (v : Word) : (x.setM r v).slots = x.slots := by unfold Hart.setM; split <;> rfl
@[simp] theorem Hart.setM_near (x : Hart) (r : BitVec 3) (v : Word) : (x.setM r v).near = x.near := by unfold Hart.setM; split <;> rfl
@[simp] theorem Hart.setM_loads (x : Hart) (r : BitVec 3) (v : Word) : (x.setM r v).loads = x.loads := by unfold Hart.setM; split <;> rfl
@[simp] theorem Hart.setM_reads (x : Hart) (r : BitVec 3) (v : Word) : (x.setM r v).reads = x.reads := by unfold Hart.setM; split <;> rfl
@[simp] theorem Hart.setM_stores (x : Hart) (r : BitVec 3) (v : Word) : (x.setM r v).stores = x.stores := by unfold Hart.setM; split <;> rfl
@[simp] theorem Hart.setM_acks (x : Hart) (r : BitVec 3) (v : Word) : (x.setM r v).acks = x.acks := by unfold Hart.setM; split <;> rfl
@[simp] theorem Hart.setM_fence (x : Hart) (r : BitVec 3) (v : Word) : (x.setM r v).fence = x.fence := by unfold Hart.setM; split <;> rfl
@[simp] theorem Hart.setM_fenceAcc (x : Hart) (r : BitVec 3) (v : Word) : (x.setM r v).fenceAcc = x.fenceAcc := by unfold Hart.setM; split <;> rfl
@[simp] theorem Hart.setM_mchecks (x : Hart) (r : BitVec 3) (v : Word) : (x.setM r v).mchecks = x.mchecks := by unfold Hart.setM; split <;> rfl
@[simp] theorem Hart.setM_cancelled (x : Hart) (r : BitVec 3) (v : Word) : (x.setM r v).cancelled = x.cancelled := by unfold Hart.setM; split <;> rfl
@[simp] theorem Hart.setM_wait (x : Hart) (r : BitVec 3) (v : Word) : (x.setM r v).wait = x.wait := by unfold Hart.setM; split <;> rfl
@[simp] theorem Hart.setM_opened (x : Hart) (r : BitVec 3) (v : Word) : (x.setM r v).opened = x.opened := by unfold Hart.setM; split <;> rfl
@[simp] theorem Hart.setM_busy (x : Hart) (r : BitVec 3) (v : Word) : (x.setM r v).busy = x.busy := by unfold Hart.setM; split <;> rfl
@[simp] theorem Hart.setM_safeAt (x : Hart) (r : BitVec 3) (v : Word) : (x.setM r v).safeAt = x.safeAt := by unfold Hart.setM; split <;> rfl
@[simp] theorem Hart.setM_lostWord (x : Hart) (r : BitVec 3) (v : Word) : (x.setM r v).lostWord = x.lostWord := by unfold Hart.setM; split <;> rfl
@[simp] theorem Hart.setV_g (x : Hart) (r : BitVec 5) (v : Vec) : (x.setV r v).g = x.g := by rfl
@[simp] theorem Hart.setV_m (x : Hart) (r : BitVec 5) (v : Vec) : (x.setV r v).m = x.m := by rfl
@[simp] theorem Hart.setV_pc (x : Hart) (r : BitVec 5) (v : Vec) : (x.setV r v).pc = x.pc := by rfl
@[simp] theorem Hart.setV_task (x : Hart) (r : BitVec 5) (v : Vec) : (x.setV r v).task = x.task := by rfl
@[simp] theorem Hart.setV_domain (x : Hart) (r : BitVec 5) (v : Vec) : (x.setV r v).domain = x.domain := by rfl
@[simp] theorem Hart.setV_prio (x : Hart) (r : BitVec 5) (v : Vec) : (x.setV r v).prio = x.prio := by rfl
@[simp] theorem Hart.setV_cause (x : Hart) (r : BitVec 5) (v : Vec) : (x.setV r v).cause = x.cause := by rfl
@[simp] theorem Hart.setV_faddr (x : Hart) (r : BitVec 5) (v : Vec) : (x.setV r v).faddr = x.faddr := by rfl
@[simp] theorem Hart.setV_trappc (x : Hart) (r : BitVec 5) (v : Vec) : (x.setV r v).trappc = x.trappc := by rfl
@[simp] theorem Hart.setV_regmask (x : Hart) (r : BitVec 5) (v : Vec) : (x.setV r v).regmask = x.regmask := by rfl
@[simp] theorem Hart.setV_fflags (x : Hart) (r : BitVec 5) (v : Vec) : (x.setV r v).fflags = x.fflags := by rfl
@[simp] theorem Hart.setV_rng (x : Hart) (r : BitVec 5) (v : Vec) : (x.setV r v).rng = x.rng := by rfl
@[simp] theorem Hart.setV_lmflag (x : Hart) (r : BitVec 5) (v : Vec) : (x.setV r v).lmflag = x.lmflag := by rfl
@[simp] theorem Hart.setV_lmaddr (x : Hart) (r : BitVec 5) (v : Vec) : (x.setV r v).lmaddr = x.lmaddr := by rfl
@[simp] theorem Hart.setV_qmin (x : Hart) (r : BitVec 5) (v : Vec) : (x.setV r v).qmin = x.qmin := by rfl
@[simp] theorem Hart.setV_qcap (x : Hart) (r : BitVec 5) (v : Vec) : (x.setV r v).qcap = x.qcap := by rfl
@[simp] theorem Hart.setV_stktop (x : Hart) (r : BitVec 5) (v : Vec) : (x.setV r v).stktop = x.stktop := by rfl
@[simp] theorem Hart.setV_ctxbase (x : Hart) (r : BitVec 5) (v : Vec) : (x.setV r v).ctxbase = x.ctxbase := by rfl
@[simp] theorem Hart.setV_run (x : Hart) (r : BitVec 5) (v : Vec) : (x.setV r v).run = x.run := by rfl
@[simp] theorem Hart.setV_job (x : Hart) (r : BitVec 5) (v : Vec) : (x.setV r v).job = x.job := by rfl
@[simp] theorem Hart.setV_parkSeq (x : Hart) (r : BitVec 5) (v : Vec) : (x.setV r v).parkSeq = x.parkSeq := by rfl
@[simp] theorem Hart.setV_park (x : Hart) (r : BitVec 5) (v : Vec) : (x.setV r v).park = x.park := by rfl
@[simp] theorem Hart.setV_preempt (x : Hart) (r : BitVec 5) (v : Vec) : (x.setV r v).preempt = x.preempt := by rfl
@[simp] theorem Hart.setV_migrate (x : Hart) (r : BitVec 5) (v : Vec) : (x.setV r v).migrate = x.migrate := by rfl
@[simp] theorem Hart.setV_slots (x : Hart) (r : BitVec 5) (v : Vec) : (x.setV r v).slots = x.slots := by rfl
@[simp] theorem Hart.setV_near (x : Hart) (r : BitVec 5) (v : Vec) : (x.setV r v).near = x.near := by rfl
@[simp] theorem Hart.setV_loads (x : Hart) (r : BitVec 5) (v : Vec) : (x.setV r v).loads = x.loads := by rfl
@[simp] theorem Hart.setV_reads (x : Hart) (r : BitVec 5) (v : Vec) : (x.setV r v).reads = x.reads := by rfl
@[simp] theorem Hart.setV_stores (x : Hart) (r : BitVec 5) (v : Vec) : (x.setV r v).stores = x.stores := by rfl
@[simp] theorem Hart.setV_acks (x : Hart) (r : BitVec 5) (v : Vec) : (x.setV r v).acks = x.acks := by rfl
@[simp] theorem Hart.setV_fence (x : Hart) (r : BitVec 5) (v : Vec) : (x.setV r v).fence = x.fence := by rfl
@[simp] theorem Hart.setV_fenceAcc (x : Hart) (r : BitVec 5) (v : Vec) : (x.setV r v).fenceAcc = x.fenceAcc := by rfl
@[simp] theorem Hart.setV_mchecks (x : Hart) (r : BitVec 5) (v : Vec) : (x.setV r v).mchecks = x.mchecks := by rfl
@[simp] theorem Hart.setV_cancelled (x : Hart) (r : BitVec 5) (v : Vec) : (x.setV r v).cancelled = x.cancelled := by rfl
@[simp] theorem Hart.setV_wait (x : Hart) (r : BitVec 5) (v : Vec) : (x.setV r v).wait = x.wait := by rfl
@[simp] theorem Hart.setV_opened (x : Hart) (r : BitVec 5) (v : Vec) : (x.setV r v).opened = x.opened := by rfl
@[simp] theorem Hart.setV_busy (x : Hart) (r : BitVec 5) (v : Vec) : (x.setV r v).busy = x.busy := by rfl
@[simp] theorem Hart.setV_safeAt (x : Hart) (r : BitVec 5) (v : Vec) : (x.setV r v).safeAt = x.safeAt := by rfl
@[simp] theorem Hart.setV_lostWord (x : Hart) (r : BitVec 5) (v : Vec) : (x.setV r v).lostWord = x.lostWord := by rfl
@[simp] theorem Hart.raise_g (x : Hart) (w : BitVec 5) : (x.raise w).g = x.g := rfl
@[simp] theorem Hart.raise_v (x : Hart) (w : BitVec 5) : (x.raise w).v = x.v := rfl
@[simp] theorem Hart.raise_m (x : Hart) (w : BitVec 5) : (x.raise w).m = x.m := rfl
@[simp] theorem Hart.raise_pc (x : Hart) (w : BitVec 5) : (x.raise w).pc = x.pc := rfl
@[simp] theorem Hart.raise_task (x : Hart) (w : BitVec 5) : (x.raise w).task = x.task := rfl
@[simp] theorem Hart.raise_domain (x : Hart) (w : BitVec 5) : (x.raise w).domain = x.domain := rfl
@[simp] theorem Hart.raise_prio (x : Hart) (w : BitVec 5) : (x.raise w).prio = x.prio := rfl
@[simp] theorem Hart.raise_cause (x : Hart) (w : BitVec 5) : (x.raise w).cause = x.cause := rfl
@[simp] theorem Hart.raise_faddr (x : Hart) (w : BitVec 5) : (x.raise w).faddr = x.faddr := rfl
@[simp] theorem Hart.raise_trappc (x : Hart) (w : BitVec 5) : (x.raise w).trappc = x.trappc := rfl
@[simp] theorem Hart.raise_regmask (x : Hart) (w : BitVec 5) : (x.raise w).regmask = x.regmask := rfl
@[simp] theorem Hart.raise_rng (x : Hart) (w : BitVec 5) : (x.raise w).rng = x.rng := rfl
@[simp] theorem Hart.raise_lmflag (x : Hart) (w : BitVec 5) : (x.raise w).lmflag = x.lmflag := rfl
@[simp] theorem Hart.raise_lmaddr (x : Hart) (w : BitVec 5) : (x.raise w).lmaddr = x.lmaddr := rfl
@[simp] theorem Hart.raise_qmin (x : Hart) (w : BitVec 5) : (x.raise w).qmin = x.qmin := rfl
@[simp] theorem Hart.raise_qcap (x : Hart) (w : BitVec 5) : (x.raise w).qcap = x.qcap := rfl
@[simp] theorem Hart.raise_stktop (x : Hart) (w : BitVec 5) : (x.raise w).stktop = x.stktop := rfl
@[simp] theorem Hart.raise_ctxbase (x : Hart) (w : BitVec 5) : (x.raise w).ctxbase = x.ctxbase := rfl
@[simp] theorem Hart.raise_run (x : Hart) (w : BitVec 5) : (x.raise w).run = x.run := rfl
@[simp] theorem Hart.raise_job (x : Hart) (w : BitVec 5) : (x.raise w).job = x.job := rfl
@[simp] theorem Hart.raise_parkSeq (x : Hart) (w : BitVec 5) : (x.raise w).parkSeq = x.parkSeq := rfl
@[simp] theorem Hart.raise_park (x : Hart) (w : BitVec 5) : (x.raise w).park = x.park := rfl
@[simp] theorem Hart.raise_preempt (x : Hart) (w : BitVec 5) : (x.raise w).preempt = x.preempt := rfl
@[simp] theorem Hart.raise_migrate (x : Hart) (w : BitVec 5) : (x.raise w).migrate = x.migrate := rfl
@[simp] theorem Hart.raise_slots (x : Hart) (w : BitVec 5) : (x.raise w).slots = x.slots := rfl
@[simp] theorem Hart.raise_near (x : Hart) (w : BitVec 5) : (x.raise w).near = x.near := rfl
@[simp] theorem Hart.raise_loads (x : Hart) (w : BitVec 5) : (x.raise w).loads = x.loads := rfl
@[simp] theorem Hart.raise_reads (x : Hart) (w : BitVec 5) : (x.raise w).reads = x.reads := rfl
@[simp] theorem Hart.raise_stores (x : Hart) (w : BitVec 5) : (x.raise w).stores = x.stores := rfl
@[simp] theorem Hart.raise_acks (x : Hart) (w : BitVec 5) : (x.raise w).acks = x.acks := rfl
@[simp] theorem Hart.raise_fence (x : Hart) (w : BitVec 5) : (x.raise w).fence = x.fence := rfl
@[simp] theorem Hart.raise_fenceAcc (x : Hart) (w : BitVec 5) : (x.raise w).fenceAcc = x.fenceAcc := rfl
@[simp] theorem Hart.raise_mchecks (x : Hart) (w : BitVec 5) : (x.raise w).mchecks = x.mchecks := rfl
@[simp] theorem Hart.raise_cancelled (x : Hart) (w : BitVec 5) : (x.raise w).cancelled = x.cancelled := rfl
@[simp] theorem Hart.raise_wait (x : Hart) (w : BitVec 5) : (x.raise w).wait = x.wait := rfl
@[simp] theorem Hart.raise_opened (x : Hart) (w : BitVec 5) : (x.raise w).opened = x.opened := rfl
@[simp] theorem Hart.raise_busy (x : Hart) (w : BitVec 5) : (x.raise w).busy = x.busy := rfl
@[simp] theorem Hart.raise_safeAt (x : Hart) (w : BitVec 5) : (x.raise w).safeAt = x.safeAt := rfl
@[simp] theorem Hart.raise_errs (x : Hart) (w : BitVec 5) : (x.raise w).errs = x.errs := rfl
@[simp] theorem Hart.raise_lostWord (x : Hart) (w : BitVec 5) : (x.raise w).lostWord = x.lostWord := rfl

end Sys2Proof.Machine
end

