-- ==== Sys2Proof/Laws/Access.lean ====
section
/-! SUPPORT. What asking for missing bytes can come to: when a store, an atomic or a unit waits for none, and what a change to the loads leaves. -/

namespace Sys2Proof.Machine

/-- A store or atomic whose pieces lie outside memory, or in shared bytes, which merge at their homes, waits for no hull. -/
theorem State.awaitHulls_none {s : State} {h : Nat} {ps : List (Nat × Nat)} {data : List (Nat × Byte)}
    (hp : ∀ p ∈ ps, zone p.1 ≠ .mem ∨ (s.core (coreOf h)).classOf p.1 = .shared) : s.awaitHulls h ps data = none := by
  have hn : ∀ p ∈ ps, s.hullLacks h p data = [] := fun p m => by rcases hp p m with x | x <;> simp [State.hullLacks, x]
  have hl : (ps.map (fun p => s.hullLacks h p data)).filter (fun bs => !bs.isEmpty && !(s.hart h).hullRefused bs) = [] := by
    simp only [List.filter_eq_nil_iff, List.mem_map]
    rintro _ ⟨p, m, rfl⟩
    simp [hn p m]
  simp [State.awaitHulls, hl]

/-- A unit whose pieces all lie on this device, and that waits for nothing, has nothing to gather. -/
theorem State.gather_here {s : State} {u : Nat} {ps : List (Nat × Nat)} (hl : (s.postedOf u).left = 0) (hp : ∀ p ∈ ps, s.reachesOut p.1 = false) :
    s.gather u ps = none := by
  have hf : ps.filter (fun p => s.reachesOut p.1 && (List.range p.2).any (fun k => (s.unitRead u (p.1 + k)).isNone)) = [] := by
    simp only [List.filter_eq_nil_iff]
    intro p h
    simp [hp p h]
  simp [State.gather, hl, hf]

/-- A byte of this device is read for a unit as it stands there. -/
theorem State.unitByte_here {s : State} {u a : Nat} (h : s.reachesOut a = false) : s.unitByte u a = s.devByte a := by simp [State.unitByte, h]

@[simp] theorem State.mapLoads_mem (s : State) (f : PLoad → PLoad) : (s.mapLoads f).mem = s.mem := rfl
@[simp] theorem State.mapLoads_homes (s : State) (f : PLoad → PLoad) : (s.mapLoads f).homes = s.homes := rfl
@[simp] theorem State.mapLoads_clusters (s : State) (f : PLoad → PLoad) : (s.mapLoads f).clusters = s.clusters := rfl
@[simp] theorem State.mapLoads_agenda (s : State) (f : PLoad → PLoad) : (s.mapLoads f).agenda = s.agenda := rfl

/-- A window holds nothing below its base or beyond its length. -/
theorem Window.holds_bounds {w : Window} {a : Nat} (h : w.holds a = true) : w.base ≤ a ∧ a < w.base + w.len := by
  simp [Window.holds] at h; omega

end Sys2Proof.Machine
end

