-- ==== Sys2Proof/Laws/Issue.lean ====
section
/-! SUPPORT. Everything that issuing one instruction can come to, and what retirement leaves. -/

namespace Sys2Proof.Machine

theorem State.ready_parts {s : State} {i : Instr} (h : s.ready i = true) :
    s.mayIssue = true ∧ wellFormed i = true ∧ s.me.allocated (uses i) = true ∧ s.me.awaits (uses i) = false ∧ s.me.errs.isEmpty = true
      ∧ s.me.lostWord = none := by
  simp only [State.ready, Bool.and_eq_true, Bool.not_eq_true', Option.isNone_iff_eq_none] at h
  obtain ⟨⟨⟨⟨⟨h1, h2⟩, h3⟩, h4⟩, h5⟩, h6⟩ := h
  exact ⟨h1, h2, h3, h4, h5, h6⟩

/-- A ready instruction comes to its effect on the state before the bundle. -/
theorem issue_ready {s : State} {i : Instr} (h : s.ready i = true) (slotA sp : Bool) (f : State → State → Eff) :
    issue i slotA sp f s = .next (s.settle slotA sp (f s s)) := by
  obtain ⟨h1, h2, h3, h4, h5, h6⟩ := State.ready_parts h
  simp [issue, h1, h2, h3, h4, State.readRegs, h5, h6, Eff.orLost, State.countFixed]

/-- A ready instruction whose effect is `t` retires with it. -/
theorem issue_ok {s t : State} {i : Instr} {j : Option Word} (h : s.ready i = true) (slotA sp : Bool) {f : State → State → Eff}
    (he : f s s = .ok t j) : issue i slotA sp f s = .next (t.finish sp j) := by
  rw [issue_ready h, he]; rfl

/-- A ready instruction whose effect is a trap parks the hart. -/
theorem issue_trap {s : State} {i : Instr} {c : Cause} {code : BitVec 10} {a : Word} (h : s.ready i = true) (slotA sp : Bool)
    {f : State → State → Eff} (he : f s s = .trap c code a) :
    issue i slotA sp f s = .next (s.forgetAbsent.trapHere slotA sp c code a) := by
  rw [issue_ready h, he]; rfl

/-- A ready instruction that waits leaves its bundle to be tried again. -/
theorem issue_wait {s t : State} {i : Instr} (h : s.ready i = true) (slotA sp : Bool) {f : State → State → Eff}
    (he : f s s = .wait t) : issue i slotA sp f s = .next t.block := by
  rw [issue_ready h, he]; rfl

theorem issue_walk {s t : State} {i : Instr} (h : s.ready i = true) (slotA sp : Bool) {f : State → State → Eff}
    (he : f s s = .walk t) : issue i slotA sp f s = .next t.block := by
  rw [issue_ready h, he]; rfl

theorem issue_leave {s t : State} {i : Instr} (h : s.ready i = true) (slotA sp : Bool) {f : State → State → Eff}
    (he : f s s = .leave t) : issue i slotA sp f s = .next t := by
  rw [issue_ready h, he]; rfl

/-- Issuing answers a next state, whatever it comes to. -/
theorem issue_next (i : Instr) (slotA sp : Bool) (f : State → State → Eff) (s : State) : ∃ t, issue i slotA sp f s = .next t := by
  unfold issue; split
  · exact ⟨_, rfl⟩
  · split
    · exact ⟨_, rfl⟩
    · split <;> exact ⟨_, rfl⟩

/-! ### Retirement -/

/-- What walks found absent for the issuing hart is forgotten, in its core alone (R287). -/
theorem State.forgetAbsent_eq (t : State) : t.forgetAbsent = t ∨ t.forgetAbsent = t.setCore (coreOf t.cur) ((t.core (coreOf t.cur)).forgetAbsentOf t.cur) := by
  unfold State.forgetAbsent State.forgetAbsentOf
  dsimp only
  split
  · exact .inr rfl
  · exact .inl rfl

@[simp] theorem State.forgetAbsent_me (t : State) : t.forgetAbsent.me = t.me := by rcases t.forgetAbsent_eq with h | h <;> rw [h] <;> rfl
@[simp] theorem State.forgetAbsent_cur (t : State) : t.forgetAbsent.cur = t.cur := by rcases t.forgetAbsent_eq with h | h <;> rw [h] <;> rfl
@[simp] theorem State.forgetAbsent_harts (t : State) : t.forgetAbsent.harts = t.harts := by rcases t.forgetAbsent_eq with h | h <;> rw [h] <;> rfl
@[simp] theorem State.forgetAbsent_clusters (t : State) : t.forgetAbsent.clusters = t.clusters := by
  rcases t.forgetAbsent_eq with h | h <;> rw [h] <;> rfl
@[simp] theorem State.forgetAbsent_mem (t : State) : t.forgetAbsent.mem = t.mem := by rcases t.forgetAbsent_eq with h | h <;> rw [h] <;> rfl

/-- Forgetting absent pages changes nothing of a core but what it keeps of walks. -/
theorem State.forgetAbsent_core (t : State) (c : Nat) :
    t.forgetAbsent.core c = { t.core c with absent := (t.forgetAbsent.core c).absent, walks := (t.forgetAbsent.core c).walks } := by
  rcases t.forgetAbsent_eq with h | h <;> rw [h]
  by_cases hc : c = coreOf t.cur
  · subst hc; simp [Core.forgetAbsentOf]
  · simp [State.core_setCore_other hc]

/-- Without a pre-emption to take (none asked, or the task is cancelled), or while its instruction is not done, retirement moves the pc and ends the wait. -/
theorem State.retire_quiet {t : State} {sp : Bool} (h : (sp && t.me.preempt.isSome && !t.me.cancelled && t.me.busy.isNone) = false) (j : Option Word) :
    t.retire j sp = t.moveOn j sp := by
  unfold State.retire
  split
  · have hp : ((t.hart t.cur).preempt.isSome && !(t.hart t.cur).cancelled) = false := by simp_all [State.me]
    have hk : ((t.moveOn j sp).hart t.cur).cancelled = (t.hart t.cur).cancelled := by simp [State.moveOn, State.setMe, State.me]
    simp only [State.safePointAt, hk, hp, Bool.false_eq_true, if_false]
  · rfl

theorem State.finish_quiet {t : State} {sp : Bool} (h : (sp && t.me.preempt.isSome && !t.me.cancelled && t.me.busy.isNone) = false) (j : Option Word) :
    t.finish sp j = t.forgetAbsent.moveOn j sp := by
  unfold State.finish; rw [State.retire_quiet (by simpa using h)]

end Sys2Proof.Machine
end

