-- ==== Sys2Proof/Laws/Memory.lean ====
section
/-! SUPPORT. The canonical form of memories: every operation that writes HBM or local memory keeps it, and reset has it. -/

namespace Sys2Proof.Machine

/-! ### Lists of cells -/

/-- The form of a list behind a cell at address a. -/
theorem memWf_cons {a : Nat} {b : Byte} {r : List Host.Cell} :
    memWf ((a, b) :: r) = true ↔ b ≠ unlisted ∧ (∀ c ∈ r.head?, a < c.1) ∧ memWf r = true := by
  cases r with
  | nil => simp [memWf]
  | cons c r => simp [memWf, and_assoc]

theorem memWf_tail {c : Host.Cell} {r : List Host.Cell} (h : memWf (c :: r) = true) : memWf r = true := (memWf_cons.mp h).2.2

/-- Addresses rise strictly along a list in the form. -/
theorem memWf_lt {a : Nat} {b : Byte} {r : List Host.Cell} (h : memWf ((a, b) :: r) = true) : ∀ c ∈ r, a < c.1 := by
  induction r generalizing a b with
  | nil => simp
  | cons d r ih =>
    have hd := (memWf_cons.mp h).2.1 d rfl
    intro c hc
    rcases List.mem_cons.mp hc with rfl | hc
    · exact hd
    · exact Nat.lt_trans hd (ih (memWf_tail h) c hc)

/-- A list whose tail has the form and whose head stands below it, with a byte that an unlisted address does not read as. -/
theorem memWf_of_lt {a : Nat} {b : Byte} {r : List Host.Cell} (hb : b ≠ unlisted) (hr : memWf r = true) (h : ∀ c ∈ r, a < c.1) :
    memWf ((a, b) :: r) = true :=
  memWf_cons.mpr ⟨hb, fun c hc => h c (List.mem_of_mem_head? hc), hr⟩

theorem mem_put {α : Type} {k : Nat} {v : α} {m : List (Nat × α)} {c : Nat × α} (h : c ∈ put k v m) : c = (k, v) ∨ c ∈ m := by
  induction m with
  | nil => simpa [put] using h
  | cons d r ih =>
    simp only [put] at h
    split at h
    · rcases List.mem_cons.mp h with rfl | h
      · exact .inl rfl
      · exact .inr (List.mem_cons_of_mem _ h)
    · split at h
      · rcases List.mem_cons.mp h with rfl | h
        · exact .inl rfl
        · exact .inr h
      · rcases List.mem_cons.mp h with rfl | h
        · exact .inr List.mem_cons_self
        · exact (ih h).imp id (List.mem_cons_of_mem _)

theorem memWf_put {a : Nat} {b : Byte} {m : List Host.Cell} (hb : b ≠ unlisted) (h : memWf m = true) : memWf (put a b m) = true := by
  induction m with
  | nil => exact memWf_of_lt hb rfl (by simp)
  | cons d r ih =>
    simp only [put]
    split
    case isTrue e => subst e; exact memWf_of_lt hb (memWf_tail h) (memWf_lt h)
    case isFalse ne =>
      split
      case isTrue lt =>
        refine memWf_of_lt hb h fun c hc => ?_
        rcases List.mem_cons.mp hc with rfl | hc
        · exact lt
        · exact Nat.lt_trans lt (memWf_lt h c hc)
      case isFalse ge =>
        refine memWf_of_lt (memWf_cons.mp h).1 (ih (memWf_tail h)) fun c hc => ?_
        rcases mem_put hc with rfl | hc
        · show d.1 < a; omega
        · exact memWf_lt h c hc

theorem memWf_drop {a : Nat} {m : List Host.Cell} (h : memWf m = true) : memWf (drop a m) = true := by
  induction m with
  | nil => rfl
  | cons d r ih =>
    have ih := ih (memWf_tail h)
    simp only [drop] at ih ⊢
    rw [List.filter_cons]
    split
    · exact memWf_of_lt (memWf_cons.mp h).1 ih fun c hc => memWf_lt h c (List.mem_filter.mp hc).1
    · exact ih

/-! ### Writing -/

theorem memWf_writeByte {m : List Host.Cell} (a : Nat) (b : Byte) (h : memWf m = true) : memWf (writeByte m a b) = true := by
  unfold writeByte
  split
  · exact memWf_drop h
  · exact memWf_put ‹_› h

theorem memWf_writeBytes {m : List Host.Cell} (a : Nat) (bs : List Byte) (h : memWf m = true) : memWf (writeBytes m a bs) = true := by
  induction bs generalizing a m with
  | nil => exact h
  | cons b bs ih => exact ih _ (memWf_writeByte a b h)

theorem memWf_physWrite (s : State) {m : List Host.Cell} (a : Nat) (b : Byte) (h : memWf m = true) : memWf (s.physWrite m a b) = true := by
  unfold State.physWrite
  split
  · exact h
  · exact memWf_writeByte a b h

theorem memWf_writeAll (s : State) {m : List Host.Cell} (ps : List (Nat × Byte)) (h : memWf m = true) :
    memWf (ps.foldl (fun m p => s.physWrite m p.1 p.2) m) = true := by
  induction ps generalizing m with
  | nil => exact h
  | cons p ps ih => exact ih (memWf_physWrite s p.1 p.2 h)

/-! ### The operations of the model that write HBM, and local memory -/

theorem ringWrite_memWf {s : State} (d : Nat) (bs : List Byte) (h : memWf s.mem = true) : memWf (s.ringWrite d bs).mem = true :=
  memWf_writeAll s _ h

theorem trace_memWf {s : State} (k kind : Nat) (corr : BitVec 32) (loc : Nat) (h : memWf s.mem = true) :
    memWf (s.trace k kind corr loc).mem = true := by
  unfold State.trace
  by_cases c : (s.cluster k).dbg.tracing s.cycle = true
  · rw [if_pos c]; dsimp only; generalize bytesOf _ ++ _ = bs; exact ringWrite_memWf _ bs h
  · rw [if_neg c]; exact h

theorem toHbm_memWf {s : State} (hm : Nat) (e : RangeEntry) (a b : Nat) (h : memWf s.mem = true) : memWf (s.toHbm hm e a b).mem = true := by
  unfold State.toHbm
  split
  · exact h
  · split
    · exact h
    · exact memWf_writeBytes _ _ h

theorem writeHbmWord_memWf {s : State} (p : Nat) (w : Word) (h : memWf s.mem = true) : memWf (s.writeHbmWord p w).mem = true := by
  unfold State.writeHbmWord
  split
  · exact h
  · exact memWf_writeBytes _ _ h

theorem settleHome_memWf {s : State} (hm region a b : Nat) (h : memWf s.mem = true) : memWf (s.settleHome hm region a b).mem = true := by
  have key : ∀ (es : List RangeEntry) (s : State), memWf s.mem = true →
      memWf (es.foldl (fun s e => if e.dlen = 0 then s else s.toHbm hm e (e.lo + e.dlo) (e.lo + e.dlo + e.dlen)) s).mem = true := by
    intro es
    induction es with
    | nil => exact fun _ h => h
    | cons e es ih =>
      intro s h
      refine ih _ ?_
      dsimp only
      split
      · exact h
      · exact toHbm_memWf _ _ _ _ h
  exact key _ _ h

theorem homeMerge_memWf {s : State} (hm region a : Nat) (cls : Cls) (data : List Byte) (tags : BitVec 64) (poison : BitVec 32)
    (h : memWf s.mem = true) : memWf (s.homeMerge hm region a cls data tags poison).mem = true := by
  unfold State.homeMerge
  split
  · exact h
  · exact settleHome_memWf _ _ _ _ h

theorem cleanHome_memWf {s : State} (hm a n : Nat) (h : memWf s.mem = true) : memWf (s.cleanHome hm a n).mem = true := by
  have key : ∀ (ds : List (RangeEntry × Nat × Nat)) (s : State), memWf s.mem = true →
      memWf (ds.foldl (fun s d => s.toHbm hm d.1 d.2.1 d.2.2) s).mem = true := by
    intro ds
    induction ds with
    | nil => exact fun _ h => h
    | cons d ds ih => exact fun s h => ih _ (toHbm_memWf _ _ _ _ h)
  exact settleHome_memWf _ _ _ _ (key _ _ h)

theorem localWrite_memWf {c : Core} (o : Nat) (bs : List Byte) (h : memWf c.loc = true) : memWf (c.localWrite o bs).loc = true :=
  memWf_writeBytes _ _ h

theorem fatalError_memWf {s t : State} (cause : Word) (h : memWf s.mem = true) (e : execFatalError cause s = .next t) :
    memWf t.mem = true := by
  simp only [execFatalError, Host.Outcome.next.injEq] at e
  split at e
  · exact e ▸ h
  · split at e <;> exact e ▸ memWf_writeAll _ _ h

theorem reset_memWf : Memory.wf State.reset.mem := rfl

theorem reset_core_memWf : Memory.wf Core.reset.loc := rfl

/-! ### Reading what was written -/

theorem find_put {α : Type} (k j : Nat) (v : α) (m : List (Nat × α)) : find j (put k v m) = if j = k then some v else find j m := by
  induction m with
  | nil => simp [put, find]
  | cons d r ih =>
    obtain ⟨i, w⟩ := d
    simp only [put]
    split
    · subst_vars; by_cases hj : j = i <;> simp [find, hj]
    · split
      · by_cases hj : j = k <;> simp [find, hj]
      · simp only [find, ih]
        by_cases hj : j = i
        · subst hj; simp [Ne.symm ‹¬k = j›]
        · simp [hj]

theorem find_drop {α : Type} (k j : Nat) (m : List (Nat × α)) : find j (drop k m) = if j = k then none else find j m := by
  induction m with
  | nil => simp [drop, find]
  | cons d r ih =>
    obtain ⟨i, w⟩ := d
    simp only [drop, List.filter_cons] at ih ⊢
    by_cases hi : i = k
    · subst hi
      simp only [bne_self_eq_false, Bool.false_eq_true, if_false, ih, find]
      by_cases hj : j = i <;> simp [hj]
    · simp only [bne_iff_ne, ne_eq, hi, not_false_eq_true, if_true, find, ih]
      by_cases hj : j = i
      · subst hj; simp [hi]
      · simp [hj]

end Sys2Proof.Machine
end

