-- ==== Sys2Proof/Tests/Slice0.lean ====
section
/-! SUPPORT. Own tests: words decoded, ill-formed instructions refused, one witness for each obligation's hypotheses, a few single steps. -/

set_option Elab.async false

namespace Sys2Proof.Tests

open Sys2Proof Sys2Proof.Machine

/-- The word of these fields, (value, width) from bit 31 down. -/
def bits (fs : List (Nat × Nat)) : BitVec 32 := BitVec.ofNat 32 (fs.foldl (fun n f => n * 2 ^ f.2 + f.1) 0)

/-- A word of each instruction, field by field from bit 31 down as the spec's format has them, and its literal word. -/
def words_integer_1 : List ((BitVec 32 × BitVec 32) × Instr) :=
  [((bits [(0, 32)], 0), .nopc),
    ((bits [(0, 1), (1, 1), (1, 6), (17, 5), (6, 5), (21, 5), (0, 9)], 0), .add true 17 6 21),
    ((bits [(0, 1), (1, 1), (1, 6), (17, 5), (6, 5), (21, 5), (1, 9)], 0), .sub true 17 6 21),
    ((bits [(0, 1), (1, 1), (1, 6), (17, 5), (6, 5), (21, 5), (2, 9)], 0), .and true 17 6 21),
    ((bits [(0, 1), (1, 1), (1, 6), (17, 5), (6, 5), (21, 5), (3, 9)], 0), .or true 17 6 21),
    ((bits [(0, 1), (1, 1), (1, 6), (17, 5), (6, 5), (21, 5), (4, 9)], 0), .xor true 17 6 21),
    ((bits [(0, 1), (1, 1), (1, 6), (17, 5), (6, 5), (21, 5), (5, 9)], 0), .andn true 17 6 21),
    ((bits [(0, 1), (1, 1), (1, 6), (17, 5), (6, 5), (21, 5), (6, 9)], 0), .sll true 17 6 21),
    ((bits [(0, 1), (1, 1), (1, 6), (17, 5), (6, 5), (21, 5), (7, 9)], 0), .srl true 17 6 21),
    ((bits [(0, 1), (1, 1), (1, 6), (17, 5), (6, 5), (21, 5), (8, 9)], 0), .sra true 17 6 21),
    ((bits [(0, 1), (1, 1), (1, 6), (17, 5), (6, 5), (21, 5), (9, 9)], 0), .slt true 17 6 21),
    ((bits [(0, 1), (1, 1), (1, 6), (17, 5), (6, 5), (21, 5), (10, 9)], 0), .sltu true 17 6 21),
    ((bits [(0, 1), (1, 1), (1, 6), (17, 5), (6, 5), (21, 5), (11, 9)], 0), .min true 17 6 21),
    ((bits [(0, 1), (1, 1), (1, 6), (17, 5), (6, 5), (21, 5), (12, 9)], 0), .max true 17 6 21),
    ((bits [(0, 1), (1, 1), (1, 6), (17, 5), (6, 5), (21, 5), (13, 9)], 0), .minu true 17 6 21),
    ((bits [(0, 1), (1, 1), (1, 6), (17, 5), (6, 5), (21, 5), (14, 9)], 0), .maxu true 17 6 21),
    ((bits [(0, 1), (1, 1), (1, 6), (17, 5), (6, 5), (21, 5), (15, 9)], 0), .mul true 17 6 21),
    ((bits [(0, 1), (1, 1), (1, 6), (17, 5), (6, 5), (21, 5), (16, 9)], 0), .mulh true 17 6 21),
    ((bits [(0, 1), (1, 1), (1, 6), (17, 5), (6, 5), (21, 5), (17, 9)], 0), .mulhu true 17 6 21),
    ((bits [(0, 1), (1, 1), (1, 6), (17, 5), (6, 5), (21, 5), (18, 9)], 0), .div true 17 6 21),
    ((bits [(0, 1), (1, 1), (1, 6), (17, 5), (6, 5), (21, 5), (19, 9)], 0), .divu true 17 6 21),
    ((bits [(0, 1), (1, 1), (1, 6), (17, 5), (6, 5), (21, 5), (20, 9)], 0), .rem true 17 6 21),
    ((bits [(0, 1), (1, 1), (1, 6), (17, 5), (6, 5), (21, 5), (21, 9)], 0), .remu true 17 6 21),
    ((bits [(0, 1), (1, 1), (1, 6), (17, 5), (6, 5), (22, 14)], 0), .clz true 17 6)]

theorem test_decode_integer_1 : words_integer_1.all (fun p => (decodeC p.1.1 p.1.2).toOption == some p.2) = true := by decide +kernel

/-- A word of each instruction, field by field from bit 31 down as the spec's format has them, and its literal word. -/
def words_integer_2 : List ((BitVec 32 × BitVec 32) × Instr) :=
  [((bits [(0, 1), (1, 1), (1, 6), (17, 5), (6, 5), (23, 14)], 0), .ctz true 17 6),
    ((bits [(0, 1), (1, 1), (1, 6), (17, 5), (6, 5), (24, 14)], 0), .popc true 17 6),
    ((bits [(0, 1), (1, 1), (1, 6), (17, 5), (6, 5), (21, 5), (25, 9)], 0), .sel true 17 6 21),
    ((bits [(0, 1), (1, 1), (2, 6), (6, 5), (21, 5), (9, 14)], 0), .addi true 6 21 (.field 9)),
    ((bits [(0, 1), (1, 1), (3, 6), (6, 5), (21, 5), (9, 14)], 0), .andi true 6 21 (.field 9)),
    ((bits [(0, 1), (1, 1), (4, 6), (6, 5), (21, 5), (9, 14)], 0), .ori true 6 21 (.field 9)),
    ((bits [(0, 1), (1, 1), (5, 6), (6, 5), (21, 5), (9, 14)], 0), .xori true 6 21 (.field 9)),
    ((bits [(0, 1), (1, 1), (6, 6), (6, 5), (21, 5), (9, 14)], 0), .slti true 6 21 (.field 9)),
    ((bits [(0, 1), (1, 1), (7, 6), (6, 5), (21, 5), (9, 14)], 0), .sltiu true 6 21 (.field 9)),
    ((bits [(0, 1), (1, 1), (8, 6), (17, 5), (6, 5), (0, 8), (21, 6)], 0), .slli true 17 6 21),
    ((bits [(0, 1), (1, 1), (9, 6), (17, 5), (6, 5), (0, 8), (21, 6)], 0), .srli true 17 6 21),
    ((bits [(0, 1), (1, 1), (10, 6), (17, 5), (6, 5), (0, 8), (21, 6)], 0), .srai true 17 6 21),
    ((bits [(0, 1), (1, 1), (11, 6), (6, 5), (21, 5), (9, 14)], 0), .lui true 6 21 (.field 9)),
    ((bits [(1, 1), (1, 1), (12, 6), (17, 5), (0, 19)], 0x89ABCDEF), .li true 17 0x89ABCDEF),
    ((bits [(0, 1), (1, 1), (13, 6), (17, 5), (6, 5), (21, 5), (1, 2), (5, 7)], 0), .lea true 17 6 21 1 5)]

theorem test_decode_integer_2 : words_integer_2.all (fun p => (decodeC p.1.1 p.1.2).toOption == some p.2) = true := by decide +kernel

/-- A word of each instruction, field by field from bit 31 down as the spec's format has them, and its literal word. -/
def words_control : List ((BitVec 32 × BitVec 32) × Instr) :=
  [((bits [(0, 1), (1, 1), (16, 6), (6, 5), (21, 5), (9, 14)], 0), .beq true 6 21 (.field 9)),
    ((bits [(0, 1), (1, 1), (17, 6), (6, 5), (21, 5), (9, 14)], 0), .bne true 6 21 (.field 9)),
    ((bits [(0, 1), (1, 1), (18, 6), (6, 5), (21, 5), (9, 14)], 0), .blt true 6 21 (.field 9)),
    ((bits [(0, 1), (1, 1), (19, 6), (6, 5), (21, 5), (9, 14)], 0), .bge true 6 21 (.field 9)),
    ((bits [(0, 1), (1, 1), (20, 6), (6, 5), (21, 5), (9, 14)], 0), .bltu true 6 21 (.field 9)),
    ((bits [(0, 1), (1, 1), (21, 6), (6, 5), (21, 5), (9, 14)], 0), .bgeu true 6 21 (.field 9)),
    ((bits [(0, 1), (1, 1), (22, 6), (6, 5), (21, 19)], 0), .jal true 6 (.field 21)),
    ((bits [(0, 1), (1, 1), (23, 6), (6, 5), (21, 5), (9, 14)], 0), .jalr true 6 21 (.field 9)),
    ((bits [(0, 1), (1, 1), (24, 6), (6, 5), (0, 5), (21, 14)], 0), .loop true 6 (.field 21)),
    ((bits [(0, 1), (1, 1), (25, 6), (6, 6), (5, 4), (9, 14)], 0), .fork true 6 5 (.field 9))]

theorem test_decode_control : words_control.all (fun p => (decodeC p.1.1 p.1.2).toOption == some p.2) = true := by decide +kernel

/-- A word of each instruction, field by field from bit 31 down as the spec's format has them, and its literal word. -/
def words_memory : List ((BitVec 32 × BitVec 32) × Instr) :=
  [((bits [(0, 1), (1, 1), (32, 6), (6, 5), (21, 5), (9, 4), (5, 10)], 0), .ldb true 6 21 9 (.field 5)),
    ((bits [(0, 1), (1, 1), (33, 6), (6, 5), (21, 5), (9, 4), (5, 10)], 0), .ldbu true 6 21 9 (.field 5)),
    ((bits [(0, 1), (1, 1), (34, 6), (6, 5), (21, 5), (9, 4), (5, 10)], 0), .ldh true 6 21 9 (.field 5)),
    ((bits [(0, 1), (1, 1), (35, 6), (6, 5), (21, 5), (9, 4), (5, 10)], 0), .ldhu true 6 21 9 (.field 5)),
    ((bits [(0, 1), (1, 1), (36, 6), (6, 5), (21, 5), (9, 4), (5, 10)], 0), .ldw true 6 21 9 (.field 5)),
    ((bits [(0, 1), (1, 1), (37, 6), (6, 5), (21, 5), (9, 4), (5, 10)], 0), .ldwu true 6 21 9 (.field 5)),
    ((bits [(0, 1), (1, 1), (38, 6), (6, 5), (21, 5), (9, 4), (5, 10)], 0), .ldd true 6 21 9 (.field 5)),
    ((bits [(0, 1), (1, 1), (39, 6), (6, 5), (21, 5), (9, 4), (5, 10)], 0), .stb true 6 21 9 (.field 5)),
    ((bits [(0, 1), (1, 1), (40, 6), (6, 5), (21, 5), (9, 4), (5, 10)], 0), .sth true 6 21 9 (.field 5)),
    ((bits [(0, 1), (1, 1), (41, 6), (6, 5), (21, 5), (9, 4), (5, 10)], 0), .stw true 6 21 9 (.field 5)),
    ((bits [(0, 1), (1, 1), (42, 6), (6, 5), (21, 5), (9, 4), (5, 10)], 0), .std true 6 21 9 (.field 5)),
    ((bits [(0, 1), (1, 1), (43, 6), (6, 5), (21, 5), (9, 4), (5, 10)], 0), .stref true 6 21 9 (.field 5)),
    ((bits [(0, 1), (1, 1), (44, 6), (6, 5), (21, 5), (9, 4), (5, 10)], 0), .ldt true 6 21 9 (.field 5)),
    ((bits [(0, 1), (1, 1), (45, 6), (6, 5), (21, 5), (9, 4), (5, 6), (3, 3), (0, 1)], 0), .vld true 6 21 9 5 3 none),
    ((bits [(0, 1), (1, 1), (46, 6), (6, 5), (21, 5), (9, 4), (5, 6), (3, 3), (0, 1)], 0), .vst true 6 21 9 5 3 none),
    ((bits [(0, 1), (1, 1), (47, 6), (6, 5), (21, 5), (9, 4), (5, 5), (1, 1), (6, 3), (0, 1)], 0), .vldx true 6 21 9 5 1 6 none),
    ((bits [(0, 1), (1, 1), (48, 6), (6, 5), (21, 5), (9, 4), (5, 5), (1, 1), (6, 3), (0, 1)], 0), .vstx true 6 21 9 5 1 6 none)]

theorem test_decode_memory : words_memory.all (fun p => (decodeC p.1.1 p.1.2).toOption == some p.2) = true := by decide +kernel

/-- A word of each instruction, field by field from bit 31 down as the spec's format has them, and its literal word. -/
def words_atomics : List ((BitVec 32 × BitVec 32) × Instr) :=
  [((bits [(0, 1), (1, 1), (49, 6), (17, 5), (6, 5), (21, 5), (0, 4), (9, 4), (1, 1)], 0), .amoadd true 17 6 21 9 1),
    ((bits [(0, 1), (1, 1), (49, 6), (17, 5), (6, 5), (21, 5), (1, 4), (9, 4), (1, 1)], 0), .amoand true 17 6 21 9 1),
    ((bits [(0, 1), (1, 1), (49, 6), (17, 5), (6, 5), (21, 5), (2, 4), (9, 4), (1, 1)], 0), .amoor true 17 6 21 9 1),
    ((bits [(0, 1), (1, 1), (49, 6), (17, 5), (6, 5), (21, 5), (3, 4), (9, 4), (1, 1)], 0), .amoxor true 17 6 21 9 1),
    ((bits [(0, 1), (1, 1), (49, 6), (17, 5), (6, 5), (21, 5), (4, 4), (9, 4), (1, 1)], 0), .amomin true 17 6 21 9 1),
    ((bits [(0, 1), (1, 1), (49, 6), (17, 5), (6, 5), (21, 5), (5, 4), (9, 4), (1, 1)], 0), .amomax true 17 6 21 9 1),
    ((bits [(0, 1), (1, 1), (49, 6), (17, 5), (6, 5), (21, 5), (6, 4), (9, 4), (1, 1)], 0), .amominu true 17 6 21 9 1),
    ((bits [(0, 1), (1, 1), (49, 6), (17, 5), (6, 5), (21, 5), (7, 4), (9, 4), (1, 1)], 0), .amomaxu true 17 6 21 9 1),
    ((bits [(0, 1), (1, 1), (49, 6), (17, 5), (6, 5), (21, 5), (8, 4), (9, 4), (1, 1)], 0), .amoswap true 17 6 21 9 1),
    ((bits [(0, 1), (1, 1), (49, 6), (17, 5), (6, 5), (21, 5), (9, 4), (9, 4), (1, 1)], 0), .amocas true 17 6 21 9 1),
    ((bits [(0, 1), (1, 1), (49, 6), (17, 5), (6, 5), (21, 5), (10, 4), (9, 4), (0, 1)], 0), .amofadd true 17 6 21 9),
    ((bits [(0, 1), (1, 1), (50, 6), (6, 5), (21, 5), (9, 4), (5, 6), (3, 3), (0, 1)], 0), .amofaddv true 6 21 9 5 3 none)]

theorem test_decode_atomics : words_atomics.all (fun p => (decodeC p.1.1 p.1.2).toOption == some p.2) = true := by decide +kernel

/-- A word of each instruction, field by field from bit 31 down as the spec's format has them, and its literal word. -/
def words_group_memory : List ((BitVec 32 × BitVec 32) × Instr) :=
  [((bits [(0, 1), (1, 1), (51, 6), (17, 5), (0, 5), (6, 4), (0, 10)], 0), .fence true 17 6),
    ((bits [(0, 1), (1, 1), (51, 6), (17, 5), (6, 5), (2, 2), (1, 2), (1, 10)], 0), .pub true 17 6 1),
    ((bits [(0, 1), (1, 1), (1632, 11), (17, 5), (6, 4), (21, 5), (2, 5)], 0), .pref true 17 6 21),
    ((bits [(0, 1), (1, 1), (51, 6), (17, 5), (6, 5), (5, 4), (9, 5), (3, 5)], 0), .resq true 17 6 5 9),
    ((bits [(0, 1), (1, 1), (1632, 11), (17, 5), (6, 4), (21, 5), (4, 5)], 0), .cln true 17 6 21),
    ((bits [(0, 1), (1, 1), (1632, 11), (17, 5), (6, 4), (21, 5), (5, 5)], 0), .inv true 17 6 21)]

theorem test_decode_group_memory : words_group_memory.all (fun p => (decodeC p.1.1 p.1.2).toOption == some p.2) = true := by decide +kernel

/-- A word of each instruction, field by field from bit 31 down as the spec's format has them, and its literal word. -/
def words_task : List ((BitVec 32 × BitVec 32) × Instr) :=
  [((bits [(0, 1), (1, 1), (1792, 11), (17, 5), (6, 6), (0, 8)], 0), .setc true 17 6),
    ((bits [(0, 1), (1, 1), (1792, 11), (17, 5), (6, 6), (1, 8)], 0), .decc true 17 6),
    ((bits [(0, 1), (1, 1), (56, 6), (17, 5), (0, 5), (6, 6), (2, 8)], 0), .getc true 17 6),
    ((bits [(0, 1), (1, 1), (56, 6), (17, 5), (0, 5), (6, 6), (3, 8)], 0), .waitc true 17 6),
    ((bits [(0, 1), (1, 1), (56, 6), (17, 5), (6, 5), (21, 6), (4, 8)], 0), .bindc true 17 6 21),
    ((bits [(0, 1), (1, 1), (939524101, 30)], 0), .exit true),
    ((bits [(0, 1), (1, 1), (939524102, 30)], 0), .yield true),
    ((bits [(0, 1), (1, 1), (56, 6), (17, 5), (6, 5), (7, 14)], 0), .launch true 17 6),
    ((bits [(0, 1), (1, 1), (56, 6), (17, 5), (6, 5), (0, 6), (5, 4), (8, 4)], 0), .cancel true 17 6 5),
    ((bits [(0, 1), (1, 1), (1792, 11), (17, 5), (0, 7), (6, 3), (9, 4)], 0), .bar true 17 6)]

theorem test_decode_task : words_task.all (fun p => (decodeC p.1.1 p.1.2).toOption == some p.2) = true := by decide +kernel

/-- A word of each instruction, field by field from bit 31 down as the spec's format has them, and its literal word. -/
def words_queue : List ((BitVec 32 × BitVec 32) × Instr) :=
  [((bits [(0, 1), (1, 1), (1824, 11), (17, 5), (6, 5), (21, 5), (0, 4)], 0), .send true 17 6 21),
    ((bits [(0, 1), (1, 1), (57, 6), (17, 5), (6, 5), (21, 5), (1, 9)], 0), .sendx true 17 6 21),
    ((bits [(0, 1), (1, 1), (57, 6), (17, 5), (0, 10), (6, 5), (2, 4)], 0), .qstat true 17 6),
    ((bits [(0, 1), (1, 1), (57, 6), (17, 5), (6, 5), (21, 5), (3, 9)], 0), .qresv true 17 6 21),
    ((bits [(0, 1), (1, 1), (57, 6), (17, 5), (6, 5), (21, 5), (9, 5), (4, 4)], 0), .enq true 17 6 21 9),
    ((bits [(0, 1), (1, 1), (57, 6), (17, 5), (6, 5), (5, 14)], 0), .jobq true 17 6),
    ((bits [(0, 1), (1, 1), (57, 6), (17, 5), (6, 5), (6, 14)], 0), .jobw true 17 6)]

theorem test_decode_queue : words_queue.all (fun p => (decodeC p.1.1 p.1.2).toOption == some p.2) = true := by decide +kernel

/-- A word of each instruction, field by field from bit 31 down as the spec's format has them, and its literal word. -/
def words_gleaner_and_table : List ((BitVec 32 × BitVec 32) × Instr) :=
  [((bits [(0, 1), (1, 1), (58, 6), (17, 5), (6, 5), (0, 14)], 0), .glean true 17 6),
    ((bits [(0, 1), (1, 1), (58, 6), (17, 5), (6, 5), (0, 5), (21, 5), (1, 4)], 0), .gstat true 17 6 21),
    ((bits [(0, 1), (1, 1), (58, 6), (17, 5), (6, 5), (2, 14)], 0), .ydecl true 17 6),
    ((bits [(0, 1), (1, 1), (59, 6), (17, 5), (6, 5), (21, 5), (9, 5), (0, 4)], 0), .plbinv true 17 6 21 9),
    ((bits [(0, 1), (1, 1), (59, 6), (17, 5), (6, 5), (21, 5), (1, 9)], 0), .htw true 17 6 21),
    ((bits [(0, 1), (1, 1), (59, 6), (17, 5), (6, 5), (21, 5), (9, 5), (2, 4)], 0), .wmap true 17 6 21 9),
    ((bits [(0, 1), (1, 1), (59, 6), (17, 5), (0, 5), (6, 5), (21, 5), (3, 4)], 0), .wunmap true 17 6 21),
    ((bits [(0, 1), (1, 1), (1888, 11), (17, 5), (0, 5), (6, 5), (4, 4)], 0), .cbld true 17 6)]

theorem test_decode_gleaner_and_table : words_gleaner_and_table.all (fun p => (decodeC p.1.1 p.1.2).toOption == some p.2) = true := by decide +kernel

/-- A word of each instruction, field by field from bit 31 down as the spec's format has them, and its literal word. -/
def words_system : List ((BitVec 32 × BitVec 32) × Instr) :=
  [((bits [(0, 1), (1, 1), (60, 6), (17, 5), (0, 5), (6, 10), (0, 4)], 0), .syr true 17 6),
    ((bits [(0, 1), (1, 1), (1920, 11), (17, 5), (6, 10), (1, 4)], 0), .syw true 17 6),
    ((bits [(0, 1), (1, 1), (1920, 11), (17, 5), (6, 10), (2, 4)], 0), .trap true 17 6),
    ((bits [(0, 1), (1, 1), (61440, 16), (17, 10), (3, 4)], 0), .brk true 17),
    ((bits [(0, 1), (1, 1), (60, 6), (17, 5), (6, 5), (21, 10), (4, 4)], 0), .waite true 17 6 21),
    ((bits [(0, 1), (1, 1), (60, 6), (17, 5), (6, 5), (21, 10), (5, 4)], 0), .resume true 17 6 21)]

theorem test_decode_system : words_system.all (fun p => (decodeC p.1.1 p.1.2).toOption == some p.2) = true := by decide +kernel

def words_vector_float : List (BitVec 32 × Instr) :=
  [(bits [(0, 32)], .nopa),
    (bits [(1, 7), (3, 6), (17, 6), (6, 6), (5, 4), (1, 3)], .vadd 3 17 6 5 1),
    (bits [(2, 7), (3, 6), (17, 6), (6, 6), (5, 4), (1, 3)], .vsub 3 17 6 5 1),
    (bits [(3, 7), (3, 6), (17, 6), (6, 6), (5, 4), (1, 3)], .vmul 3 17 6 5 1),
    (bits [(8, 8), (3, 5), (17, 6), (6, 6), (5, 4), (1, 3)], .vfma 3 17 6 5 1),
    (bits [(10, 8), (3, 5), (17, 6), (6, 6), (5, 4), (1, 3)], .vfms 3 17 6 5 1),
    (bits [(12, 8), (3, 5), (17, 6), (6, 6), (5, 4), (1, 3)], .vfnma 3 17 6 5 1),
    (bits [(7, 7), (3, 6), (17, 6), (6, 6), (5, 4), (0, 3)], .vmin 3 17 6 5),
    (bits [(8, 7), (3, 6), (17, 6), (6, 6), (5, 4), (0, 3)], .vmax 3 17 6 5),
    (bits [(9, 7), (3, 6), (17, 6), (0, 6), (6, 4), (0, 3)], .vabs 3 17 6),
    (bits [(10, 7), (3, 6), (17, 6), (0, 6), (6, 4), (0, 3)], .vneg 3 17 6),
    (bits [(11, 7), (3, 6), (17, 6), (0, 6), (6, 4), (5, 3)], .vrcp 3 17 6 5),
    (bits [(12, 7), (3, 6), (17, 6), (0, 6), (6, 4), (5, 3)], .vrsq 3 17 6 5),
    (bits [(13, 7), (3, 6), (17, 6), (0, 6), (6, 4), (5, 3)], .vexp2 3 17 6 5),
    (bits [(14, 7), (3, 6), (17, 6), (0, 6), (6, 4), (5, 3)], .vlog2 3 17 6 5)]

theorem test_decode_vector_float : words_vector_float.all (fun p => (decodeA p.1).toOption == some p.2) = true := by decide +kernel

def words_vector_integer_and_bits : List (BitVec 32 × Instr) :=
  [(bits [(16, 7), (3, 6), (17, 6), (6, 6), (5, 4), (0, 3)], .viadd 3 17 6 5),
    (bits [(17, 7), (3, 6), (17, 6), (6, 6), (5, 4), (0, 3)], .visub 3 17 6 5),
    (bits [(18, 7), (3, 6), (17, 6), (6, 6), (5, 4), (0, 3)], .vimul 3 17 6 5),
    (bits [(19, 7), (3, 6), (17, 6), (6, 6), (5, 4), (0, 3)], .vimulh 3 17 6 5),
    (bits [(20, 7), (3, 6), (17, 6), (6, 6), (5, 4), (0, 3)], .vand 3 17 6 5),
    (bits [(21, 7), (3, 6), (17, 6), (6, 6), (5, 4), (0, 3)], .vor 3 17 6 5),
    (bits [(22, 7), (3, 6), (17, 6), (6, 6), (5, 4), (0, 3)], .vxor 3 17 6 5),
    (bits [(23, 7), (3, 6), (17, 6), (6, 6), (5, 4), (0, 3)], .vshl 3 17 6 5),
    (bits [(24, 7), (3, 6), (17, 6), (6, 6), (5, 4), (0, 3)], .vshr 3 17 6 5),
    (bits [(25, 7), (3, 6), (17, 6), (6, 6), (5, 4), (0, 3)], .vsra 3 17 6 5),
    (bits [(26, 7), (3, 6), (17, 6), (6, 6), (5, 4), (0, 3)], .vimin 3 17 6 5),
    (bits [(27, 7), (3, 6), (17, 6), (6, 6), (5, 4), (0, 3)], .vimax 3 17 6 5),
    (bits [(28, 7), (3, 6), (17, 6), (6, 6), (5, 4), (1, 3)], .vfcmp 3 17 6 5 1),
    (bits [(29, 7), (3, 6), (17, 6), (6, 6), (5, 4), (1, 3)], .vicmp 3 17 6 5 1),
    (bits [(30, 7), (3, 6), (17, 6), (6, 6), (5, 4), (1, 3)], .vsel 3 17 6 5 1),
    (bits [(32, 7), (3, 6), (17, 6), (6, 6), (0, 7)], .mand 3 17 6),
    (bits [(33, 7), (3, 6), (17, 6), (6, 6), (0, 7)], .mor 3 17 6),
    (bits [(34, 7), (3, 6), (17, 6), (6, 6), (0, 7)], .mxor 3 17 6),
    (bits [(35, 7), (3, 6), (17, 6), (0, 13)], .mnot 3 17),
    (bits [(72, 8), (3, 5), (17, 6), (0, 13)], .mpop 3 17),
    (bits [(74, 8), (3, 5), (17, 6), (0, 13)], .mfirst 3 17)]

theorem test_decode_vector_integer_and_bits : words_vector_integer_and_bits.all (fun p => (decodeA p.1).toOption == some p.2) = true := by decide +kernel

def words_permute_reduce_convert : List (BitVec 32 × Instr) :=
  [(bits [(40, 7), (3, 6), (17, 6), (6, 6), (5, 4), (0, 3)], .vbcast 3 17 6 5),
    (bits [(82, 8), (3, 5), (17, 6), (6, 6), (5, 4), (0, 3)], .vextr 3 17 6 5),
    (bits [(42, 7), (3, 6), (17, 6), (6, 6), (5, 4), (0, 3)], .vins 3 17 6 5),
    (bits [(43, 7), (3, 6), (17, 6), (6, 6), (5, 4), (0, 3)], .vperm 3 17 6 5),
    (bits [(44, 7), (3, 6), (17, 6), (6, 6), (5, 4), (0, 3)], .vrot 3 17 6 5),
    (bits [(45, 7), (3, 6), (17, 6), (6, 6), (5, 4), (0, 3)], .vslide 3 17 6 5),
    (bits [(46, 7), (3, 6), (17, 6), (6, 6), (5, 4), (1, 3)], .vzip 3 17 6 5 1),
    (bits [(47, 7), (3, 6), (17, 6), (6, 6), (5, 4), (1, 3)], .vunzip 3 17 6 5 1),
    (bits [(96, 8), (3, 5), (17, 6), (0, 6), (6, 4), (5, 3)], .vrsum 3 17 6 5),
    (bits [(98, 8), (3, 5), (17, 6), (0, 6), (6, 4), (0, 3)], .vrmax 3 17 6),
    (bits [(100, 8), (3, 5), (17, 6), (0, 6), (6, 4), (0, 3)], .vrmin 3 17 6),
    (bits [(102, 8), (3, 5), (17, 6), (0, 6), (6, 4), (0, 3)], .virsum 3 17 6),
    (bits [(104, 8), (3, 5), (17, 6), (6, 6), (5, 4), (1, 3)], .vdot4 3 17 6 5 1),
    (bits [(106, 8), (3, 5), (17, 6), (6, 6), (5, 4), (1, 3)], .vdot2 3 17 6 5 1),
    (bits [(56, 7), (3, 6), (17, 6), (2, 2), (5, 4), (9, 4), (5, 3)], .vcvt 3 17 2 5 9 5),
    (bits [(57, 7), (3, 6), (17, 6), (6, 6), (5, 4), (0, 3)], .vpack 3 17 6 5),
    (bits [(58, 7), (3, 6), (17, 6), (6, 6), (5, 4), (0, 3)], .vunpack 3 17 6 5),
    (bits [(59, 7), (3, 6), (17, 6), (3, 2), (6, 4), (5, 4), (1, 3)], .vqnt 3 17 6 5 1),
    (bits [(120, 8), (3, 5), (17, 6), (6, 6), (0, 7)], .vpopx 3 17 6),
    (bits [(61, 7), (3, 6), (17, 6), (6, 6), (5, 4), (0, 3)], .vcompr 3 17 6 5),
    (bits [(62, 7), (3, 6), (17, 6), (6, 6), (5, 4), (0, 3)], .vexpnd 3 17 6 5),
    (bits [(63, 7), (3, 6), (17, 6), (1, 1), (21, 5), (9, 4), (0, 3)], .vcbd 3 17 1 21 9)]

theorem test_decode_permute_reduce_convert : words_permute_reduce_convert.all (fun p => (decodeA p.1).toOption == some p.2) = true := by decide +kernel

def words_matrix : List (BitVec 32 × Instr) :=
  [(bits [(1036, 11), (3, 2), (0, 1), (17, 5), (0, 5), (1, 1), (0, 1), (21, 6)], .mmaE4e4 3 17 1 21),
    (bits [(1052, 11), (3, 2), (0, 1), (17, 5), (0, 5), (1, 1), (0, 1), (21, 6)], .mmaE4e5 3 17 1 21),
    (bits [(1068, 11), (3, 2), (0, 1), (17, 5), (0, 5), (1, 1), (0, 1), (21, 6)], .mmaE5e4 3 17 1 21),
    (bits [(1084, 11), (3, 2), (0, 1), (17, 5), (0, 5), (1, 1), (0, 1), (21, 6)], .mmaE5e5 3 17 1 21),
    (bits [(1100, 11), (3, 2), (0, 1), (17, 5), (0, 5), (1, 1), (0, 1), (21, 6)], .mmaBf16 3 17 1 21),
    (bits [(1116, 11), (3, 2), (0, 1), (17, 5), (0, 5), (1, 1), (0, 1), (21, 6)], .mmaF16 3 17 1 21),
    (bits [(1132, 11), (3, 2), (0, 1), (17, 5), (0, 5), (1, 1), (0, 1), (21, 6)], .mmaE3m2 3 17 1 21),
    (bits [(1148, 11), (3, 2), (0, 1), (17, 5), (0, 5), (1, 1), (0, 1), (21, 6)], .mmaE2m3 3 17 1 21),
    (bits [(1164, 11), (3, 2), (0, 1), (17, 5), (0, 5), (1, 1), (0, 1), (21, 6)], .mmaE2m1 3 17 1 21),
    (bits [(1180, 11), (3, 2), (0, 1), (17, 5), (0, 5), (1, 1), (1, 1), (9, 6)], .mmaCb2e4 3 17 1 1 9),
    (bits [(1196, 11), (3, 2), (0, 1), (17, 5), (0, 5), (1, 1), (0, 1), (21, 6)], .mmaS8 3 17 1 21),
    (bits [(1212, 11), (3, 2), (0, 1), (17, 5), (0, 5), (1, 1), (1, 1), (9, 6)], .mmaCb2bf 3 17 1 1 9),
    (bits [(1292, 11), (3, 2), (0, 19)], .mzero 3),
    (bits [(1308, 11), (3, 2), (0, 1), (17, 5), (0, 6), (6, 4), (5, 3)], .mst 3 17 6 5),
    (bits [(1324, 11), (3, 2), (0, 1), (17, 5), (0, 6), (6, 4), (0, 3)], .mld 3 17 6),
    (bits [(10624, 14), (3, 5), (0, 5), (1, 1), (0, 7)], .bldMemory 3 1),
    (bits [(42500, 16), (3, 3), (0, 5), (1, 1), (0, 7)], .bldQueue 3 1),
    (bits [(11010048, 24), (1, 1), (0, 7)], .bpass 1),
    (bits [(11141120, 24), (1, 1), (0, 7)], .bwait 1)]

theorem test_decode_matrix : words_matrix.all (fun p => (decodeA p.1).toOption == some p.2) = true := by decide +kernel

/-! ### Small states -/

/-- Hart 0 runs a privileged task, everything else as after reset. -/
def demo : State := State.reset.withFetchWord 64 0

/-- A page of 4 KiB readable and, as asked, writable or an arena page with a publication mask. -/
def pageOf (n : Nat) (w arena : Bool) (mask : BitVec 64) : PlbEntry := ⟨n, 4096, 0, true, true, w, true, arena, mask, false, 0, 0⟩

/-- The same with values in some registers: g1 7, g2 9, g3 -1, g4 and g5 in local memory, g6 in page 0, g7 in no page that core 0 knows,
g8 in an arena page with nothing published, g9 in one with everything published, g10 in a page that only loads may touch, g11 misaligned. -/
def regs : State :=
  (demo.modHart 0 (fun x => (((((((((((x.setG 1 7).setG 2 9).setG 3 0xFFFFFFFFFFFFFFFF).setG 4 0x00FF000000001000).setG 5 0x00FF000000017FF8).setG
    6 0x100).setG 7 0x3000).setG 8 0x10000).setG 9 0x11000).setG 10 0x12000).setG 11 0x103))).modCore 0 (fun c =>
      { c with plb := c.plb ++ [pageOf 16 true true 0, pageOf 17 true true (BitVec.allOnes 64), pageOf 18 false false 0] })

/-- The same on a hart that is not privileged. -/
def user : State := regs.modHart 0 (fun x => { x with domain := 5, prio := 1 })

/-- Hart 0 with an acquire load that has not its byte, and with a store that has no acknowledgement. -/
def loading : State := regs.modHart 0 (fun x => { x with loads := [⟨1, .g 20 8 false, true, [⟨0x200, 0, 0, none⟩], none, [], false⟩] })
def storing : State := regs.modHart 0 (fun x => { x with stores := [⟨1, 0x200, 8, 1, false, none, []⟩] })

/-- Loads and stores of page 0's first KiB are watched. -/
def watching : State := regs.modCluster 0 (fun k => { k with dbg := { k.dbg with watches := [⟨0, 1024, true, true⟩] } })

/-- The near cache of core 0 holds these bytes from 0x200, shared and clean, and g12 names them. -/
def holding (s : State) (bs : List Byte) : State :=
  (s.modCore 0 (fun c => { c with nc := c.nc ++ [⟨1, 0, bs.length, 0, 0, .shared, bs, 0, 0, 0⟩] })).modHart 0 (fun x => x.setG 12 0x200)

/-- A handler entry of these words with a ring of 256 bytes, of which some are free and some reserved. -/
def handler (w0 w1 : Nat) (free reserved : Nat) : Handler := ⟨word w0, word w1, free, reserved, 0, 1, []⟩

/-- The tables map the first GiB of addresses to the first GiB of memory, for every access; every unit is ready, partition 0 owns all, and
this device is the first of two ranks of group 0. -/
def tables : State := { State.reset with
  mem := [(0x10001, 0x44), (0x10002, 0x01), (0x14000, 0xE0), (0x14001, 0x09)], released := true
  mgmt := [(0x100, 0xFFFFFFFFFFFFFFFF), (0x120, 0xFFFFFFFFFFFFFFFF), (0x300, 0x10000), (0x1000, 0x800000000000FFFF), (0x1018, 0x800000000000),
    (0x7008, 2)] }

/-- The same with the harts and cores of `regs`. -/
def mapped : State := { tables with harts := regs.harts, cores := regs.cores }

/-- Home 0 of that device with these requests. -/
def asked (rs : List Req) : State := mapped.modHome 0 (fun h => { h with input := rs })

/-- The answer is the next state u. -/
def nexts (r : Result) (u : State) : Bool := match r with
  | .next t => decide (t = u)
  | _ => false

/-- The answer is a next state of which p holds. -/
def nextWith (r : Result) (p : State → Bool) : Bool := match r with
  | .next t => p t
  | _ => false

/-! ### Witnesses: the hypotheses of each statement met together, clause by clause -/

theorem witness_EncodingsRoundTrip :
    encodeC (.add true 31 0 1) = some (0x41F80200, 0) ∧ (encodeC (.li false 3 0x7FFFFFFF)).isSome = true ∧
      (encodeA (.viadd 3 1 2 4)).isSome = true ∧ (encodeA (.vcvt 3 1 2 12 1 7)).isSome = true := by decide +kernel

theorem witness_StepRunsTheDecodedInstruction :
    (let s := regs.withFetchWord 64 0x01184400
     let t : State := { s.tick with sched := [] }
     s.sched = [.core 0] ∧ t.queueWaiters 0 = [] ∧ (t.core 0).turn % 4 = 0 ∧ t.cur = 0 ∧ t.mayIssue = true ∧ t.me.cancelled = false ∧
      t.me.mchecks = [] ∧ t.atBreakpoint = false ∧ t.peekHeld t.cur t.me.pc.toNat 8 = false ∧
      t.checkByte t.cur .fetch t.me.pc.toNat = .pass ∧ t.fetch t.cur t.me.pc.toNat = some (0x01184400, 0) ∧
      (decodeBundle 0x01184400 0).toOption = some (.add false 3 1 2, .nopa) ∧ standsInC (.add false 3 1 2) = true ∧
      nextWith (step s) (fun u => decide (u.me.getG 3 = 16 ∧ u.me.pc = 8)) = true) ∧
    (let s := regs.withFetchWord 64 0x2018212000000000
     let t : State := { s.tick with sched := [] }
     s.sched = [.core 0] ∧ t.mayIssue = true ∧ t.atBreakpoint = false ∧ t.checkByte t.cur .fetch t.me.pc.toNat = .pass ∧
      t.fetch t.cur t.me.pc.toNat = some (0, 0x20182120) ∧ (decodeBundle 0 0x20182120).toOption = some (.nopc, .viadd 3 1 2 4) ∧
      standsInA (.viadd 3 1 2 4) = true) ∧
    (let s := (regs.withFetchWord 64 0x01184400).modHart 0 (fun x => { x with wait := .queue })
     let t : State := { s.tick with sched := [] }
     (t.queueWaiters 0).head? = some 0 ∧ t.mayIssue = true) := by decide +kernel

theorem witness_MemoryReadsWhatWasWritten :
    Memory.wf [] ∧ Memory.wf [(3, 1), (9, 255)] ∧ ¬ Memory.wf [(9, 1), (3, 1)] ∧ ¬ Memory.wf [(3, 0)] ∧
      readBytes (writeBytes [(3, 1), (9, 255)] 8 [7, 0]) 8 2 = [7, 0] := by decide +kernel

theorem witness_IllegalAndPendingDoNotIssue :
    standsInC (.add false 3 1 2) = true ∧ standsInA (.viadd 3 1 2 4) = true ∧ State.reset.mayIssue = false ∧
    (regs.mayIssue = true ∧ wellFormed (.resume false 1 2 3) = false ∧ standsInC (.resume false 1 2 3) = true ∧
      regs.me.allocated (uses (.resume false 1 2 3)) = true) ∧
    (let s := regs.modHart 0 (fun x => { x with regmask := 2 })
     s.mayIssue = true ∧ wellFormed (.add false 3 1 2) = true ∧ s.me.allocated (uses (.add false 3 1 2)) = false) ∧
    (let s := regs.modHart 0 (fun x => { x with fence := some ⟨1, false⟩ })
     s.mayIssue = true ∧ s.me.allocated (uses (.add false 3 1 2)) = true ∧ s.me.awaits (uses (.add false 3 1 2)) = true) := by
  decide +kernel

theorem witness_RetirementKeepsTheRest :
    regs.me.preempt = none ∧ (regs.modHart 0 (fun x => { x with preempt := some 0 })).me.preempt.isSome = true ∧
      (regs.finish true).me.pc = 16 ∧ (regs.finish false (some 0x80)).me.pc = 0x80 ∧ regs.ready .nopc = true := by decide +kernel

theorem witness_ScalarGroupsWriteTheirResults :
    scalarResult regs.me (.add false 3 1 2) = some (3, 16) ∧ regs.ready (.add false 3 1 2) = true ∧
      scalarResult regs.me (.sra false 0 3 1) = some (0, 0xFFFFFFFFFFFFFFFF) ∧ regs.ready (.sra false 0 3 1) = true ∧
      scalarResult regs.me (.addi true 6 3 (.lit 0xFFFFFFFF)) = some (6, 0xFFFFFFFFFFFFFFFE) ∧
      regs.ready (.addi true 6 3 (.lit 0xFFFFFFFF)) = true := by decide +kernel

theorem witness_BranchesCompareAndGo :
    branchRule regs.me (.bltu false 1 2 (.field 3)) = some (true, 24) ∧ regs.ready (.bltu false 1 2 (.field 3)) = true ∧
      branchRule regs.me (.blt true 1 3 (.field 0x3FFF)) = some (false, 0xFFFFFFFFFFFFFFF8) ∧
      regs.ready (.blt true 1 3 (.field 0x3FFF)) = true := by decide +kernel

theorem witness_JumpsLinkAndLoopsCount :
    regs.ready (.jal false 1 (.field 5)) = true ∧ regs.ready (.jalr true 1 1 (.field 0)) = true ∧
      regs.ready (.loop false 1 (.field 2)) = true ∧ regs.mayIssue = true ∧
      nextWith (exec (.jalr true 1 1 (.field 0)) regs) (fun t => decide (t.me.pc = 0 ∧ t.me.getG 1 = 16)) = true := by decide +kernel

/-- Counter 5 of core 0 one below its limit. -/
def full5 : State := regs.modCore 0 (fun c => c.setCount 5 (2 ^ 40 - 1))

/-- Core 0 with n tasks in its deque and m in its run queue. -/
def queued (n m : Nat) : State := regs.modCore 0 (fun c =>
  { c with deque := List.replicate n (0, Task.placed), runq := List.replicate m (0, Task.placed) })

theorem witness_ForkQueuesItsArm :
    (full5.ready (.fork false 5 0 (.field 2)) = true ∧ (full5.core 0).count 5 = 2 ^ 40 - 1) ∧
    (regs.ready (.fork false 5 0 (.field 2)) = true ∧ (regs.core 0).deque.length < 32) ∧
    ((queued 32 0).ready (.fork false 5 0 (.field 2)) = true ∧ ¬ ((queued 32 0).core 0).deque.length < 32 ∧ ((queued 32 0).core 0).room = true) ∧
    ((queued 32 64).ready (.fork false 5 0 (.field 2)) = true ∧ ¬ ((queued 32 64).core 0).deque.length < 32 ∧
      ((queued 32 64).core 0).room = false) := by decide +kernel

/-- A bundle of these two instructions, as one number. -/
def pairOf (c a : Instr) : Nat := ((encodeA a).getD 0).toNat * 2 ^ 32 + ((encodeC c).getD (0, 0)).1.toNat

/-- Core 0 is about to try this bundle on hart 0, and the state of that cycle. -/
def about (s : State) (c a : Instr) : State := s.withFetchWord 64 (pairOf c a)
def cycleOf (s : State) : State := { s.tick with sched := [] }

/-- Hart 0 is to try a bundle whose words are there and at which no breakpoint stands. -/
def triesPair (s : State) (c a : Instr) : Bool :=
  let t := cycleOf (about s c a)
  t.mayIssue && !t.me.cancelled && t.me.mchecks.isEmpty && !t.atBreakpoint && decide (t.checkByte t.cur .fetch t.me.pc.toNat = .pass)
    && !t.peekHeld t.cur t.me.pc.toNat 8 && (t.fetch t.cur t.me.pc.toNat).isSome && t.ready c && t.ready a

theorem witness_StepRunsTheDecodedInstruction_pair :
    (triesPair regs (.add false 3 1 2) (.viadd 3 1 2 10) = true ∧ pairIllegal (.add false 3 1 2) (.viadd 3 1 2 10) = false ∧
      scalarResult regs.me (.add false 3 1 2) = some (3, 16) ∧ (intTwo (.viadd 3 1 2 10)).any (fun r => r.1 == 3) = true ∧ (Src.of 1).queue? = none ∧
      (Src.of 2).queue? = none ∧ (readTwo regs regs (elems (Ty.of 10)) (elems (Ty.of 10)) 1 2).isSome = true ∧
      ((encodeA (.viadd 3 1 2 10)).bind (fun w => (decodeBundle 0x01184400 w).toOption)) = some (.add false 3 1 2, .viadd 3 1 2 10) ∧
      nextWith (step (about regs (.add false 3 1 2) (.viadd 3 1 2 10))) (fun u => decide (u.me.getG 3 = 16 ∧ u.me.pc = 8)) = true) ∧
    (triesPair regs (.bltu false 1 2 (.field 3)) (.viadd 3 1 2 10) = true ∧ pairIllegal (.bltu false 1 2 (.field 3)) (.viadd 3 1 2 10) = false ∧
      branchRule regs.me (.bltu false 1 2 (.field 3)) = some (true, 24) ∧
      nextWith (step (about regs (.bltu false 1 2 (.field 3)) (.viadd 3 1 2 10))) (fun u => decide (u.me.pc = 24)) = true) ∧
    (triesPair regs (.brk false 3) (.viadd 3 1 2 10) = true ∧ pairIllegal (.brk false 3) (.viadd 3 1 2 10) = true ∧
      triesPair regs (.add false 3 1 2) (.vextr 3 1 10 0) = true ∧ pairIllegal (.add false 3 1 2) (.vextr 3 1 10 0) = true ∧
      nextWith (step (about regs (.add false 3 1 2) (.vextr 3 1 10 0))) (fun u => decide (u.me.cause.toNat % 256 = 1 ∧ u.me.getG 3 = regs.me.getG 3)) = true) := by
  decide +kernel

theorem witness_StepRunsTheDecodedInstruction_traps :
    (let c : Instr := .amoswap false 12 11 1 0 1
     let a : Instr := .mst 1 6 7 0
     triesPair regs c a = true ∧ pairIllegal c a = false ∧ sharesBank c a = false ∧ isYield c = false ∧
      (match slotOp c (cycleOf (about regs c a)) (cycleOf (about regs c a)) with
        | .trap z _ f => decide (z = .misaligned ∧ f = 0x103)
        | _ => false) = true ∧
      nextWith (step (about regs c a)) (fun u => decide (u.me.faddr = 0x103 ∧ u.me.run = .parked)) = true) ∧
    (let c : Instr := .add false 3 1 2
     let a : Instr := .mst 1 6 7 0
     let t := cycleOf (about regs c a)
     triesPair regs c a = true ∧ pairIllegal c a = false ∧
      (match slotOp c t t with
        | .ok u _ => (match slotOp a t u with
          | .trap z _ f => decide (z = .protection ∧ f = 0x100)
          | _ => false)
        | _ => false) = true ∧
      nextWith (step (about regs c a)) (fun u => decide (u.me.faddr = 0x100 ∧ u.me.getG 3 = regs.me.getG 3 ∧ bit u.me.cause 18 = true)) = true) := by
  decide +kernel

/-- Hart 0's page is not executable by it, or its cluster has a breakpoint at its pc. -/
def unfetched : State := (about regs .nopc .nopa).modCore 0 (fun c => { c with plb := c.plb.map (fun e => { e with x := false }) })
def broken (halt : Bool) : State := (about regs .nopc .nopa).modCluster 0 (fun k => { k with dbg := { k.dbg with bps := [(0, 1)], haltOnBp := halt } })

theorem witness_StepRunsTheDecodedInstruction_stops :
    ((cycleOf unfetched).mayIssue = true ∧ (cycleOf unfetched).checkByte 0 .fetch 0 = .fail .protection ∧
      nextWith (step unfetched) (fun u => decide (u.me.run = .parked ∧ u.me.faddr = 0 ∧ u.me.trappc = 0)) = true) ∧
    ((cycleOf (broken true)).mayIssue = true ∧ (cycleOf (broken true)).atBreakpoint = true ∧
      ((cycleOf (broken true)).cluster 0).dbg.haltOnBp = true ∧
      nextWith (step (broken true)) (fun u => (u.cluster 0).dbg.halted) = true) ∧
    ((cycleOf (broken false)).atBreakpoint = true ∧ ((cycleOf (broken false)).cluster 0).dbg.haltOnBp = false ∧
      nextWith (step (broken false)) (fun u => decide (u.me.run = .parked)) = true) ∧
    (let s : State := { regs with sched := [.event 0], agenda := [.machineCheck 0, .countModeArrival 0] }
     s.tick.agenda[0]? = some (.machineCheck 0) ∧ portOf (.machineCheck 0) = none ∧ s.tick.agenda[1]? = some (.countModeArrival 0) ∧
      portOf (.countModeArrival 0) = some 0) := by decide +kernel

/-- Word 0 of g1 (7) has these flips of its 40 bits, or is poisoned; where `twin` is false, g17 is allocated and g1 has no mirror. -/
def flipped (flips : BitVec 40) (poisoned twin : Bool) : State := regs.modHart 0 (fun x => { x with
  errs := [⟨0, 1, 0, flips, poisoned⟩], regmask := if twin then x.regmask &&& ~~~ (2 ^ 17 : Word) else x.regmask })

/-- What ADDI g20, g1, 1 leaves there. -/
def bumped (s : State) (p : State → Bool) : Bool := 
  let i : Instr := .addi false 20 1 (.field 1)
  s.mayIssue && wellFormed i && s.me.allocated (uses i) && !s.me.awaits (uses i) && s.me.lostWord.isNone && nextWith (exec i s) p

theorem witness_IllegalAndPendingDoNotIssue_errors :
    (let e : RegErr := ⟨0, 1, 0, 3, false⟩
     (flipped 3 false false).me.errs = [e] ∧ e.parityBits % 2 = 0 ∧ bumped (flipped 3 false false) (fun t => decide (t.me.getG 20 = 8)) = true) ∧
    (let e : RegErr := ⟨0, 1, 0, 2, false⟩
     (flipped 2 false false).me.errs = [e] ∧ e.parityBits % 2 = 1 ∧ e.secdedBits ≤ 1 ∧ bit (flipped 2 false false).me.regmask (1 ^^^ 16) = true ∧
      bumped (flipped 2 false false) (fun t => decide (t.me.getG 20 = 6 ∧ t.me.errs = [])) = true) ∧
    (let e : RegErr := ⟨0, 1, 0, 7, false⟩
     e.parityBits % 2 = 1 ∧ ¬ e.secdedBits ≤ 1 ∧ bit (flipped 7 false true).me.regmask (1 ^^^ 16) = false ∧
      bumped (flipped 7 false true) (fun t => decide (t.me.errs = [] ∧ (t.core 0).regerr ≠ 0)) = true) ∧
    (let e : RegErr := ⟨0, 1, 0, 7, false⟩
     2 ≤ e.secdedBits ∧ bit (flipped 7 false false).me.regmask (1 ^^^ 16) = true ∧
      bumped (flipped 7 false false) (fun t => decide (t.me.run = .parked ∧ t.me.faddr = 16)) = true) ∧
    bumped (flipped 0 true false) (fun t => decide (t.me.run = .parked ∧ t.me.faddr = 16)) = true := by decide +kernel

theorem witness_RetirementKeepsTheRest_save :
    (let t := regs.modHart 0 (fun x => { x with preempt := some 0, busy := some (.pub 20) })
     t.me.preempt.isSome = true ∧ t.me.busy.isSome = true ∧ (t.finish true).me.safeAt = some 0) ∧
    (let t := regs.modHart 0 (fun x => { x with preempt := some 0 })
     t.me.busy = none) ∧
    (let t := regs.modHart 0 (fun x => { x with preempt := some 0, safeAt := some 8 })
     (t.hart 0).preempt.isSome = true ∧ (t.hart 0).safeAt = some 8) ∧ regs.reachesOut 0x100 = false := by decide +kernel

theorem witness_ScalarAccessesIssue :
    (scalarLoad (.ldh false 12 6 0 (.field 0x3FF)) = some (12, 6, 0, .field 0x3FF, 2, true) ∧
      scalarStore (.stw false 1 6 8 (.field 4)) = some (1, 6, 8, .field 4, 4)) ∧
    (regs.ready (.ldh false 12 6 0 (.field 0x3FF)) = true ∧
      regs.plbCheck 0 .load 0xFF 2 = .pass ∧ regs.watchHit 0 .load [(0xFF, 2)] = none ∧ regs.me.loadHeld [(0xFF, 2)] = false) ∧
    (loading.ready (.ldd false 12 6 0 (.field 0)) = true ∧ loading.plbCheck 0 .load 0x100 8 = .pass ∧
      loading.watchHit 0 .load [(0x100, 8)] = none ∧ loading.me.loadHeld [(0x100, 8)] = true) ∧
    (storing.ready (.stw false 1 6 8 (.field 4)) = true ∧
      storing.plbCheck 0 .store 0x104 4 = .pass ∧ storing.watchHit 0 .store [(0x104, 4)] = none ∧ storing.me.storeHeld true = true) ∧
    (storing.ready (.stw false 1 6 0 (.field 4)) = true ∧ storing.me.storeHeld false = false) :=
  ⟨⟨rfl, rfl⟩, by decide +kernel⟩

theorem witness_LocalLoadsAndStores :
    ((inLocal 0x00FF000000017FFC 4 ∧ regs.ready (.ldw false 12 5 0 (.field 4)) = true ∧ regs.me.loadHeld [(0x00FF000000017FFC, 4)] = false ∧
      regs.me.near = [] ∧ regs.watchHit 0 .load [(0x00FF000000017FFC, 4)] = none) ∧
    (inLocal 0x00FF000000001000 1 ∧ regs.ready (.stb false 3 4 0 (.field 0)) = true ∧ regs.me.storeHeld false = false ∧
      regs.watchHit 0 .store [(0x00FF000000001000, 1)] = none)) ∧ (∀ h, (regs.home h).windows = []) :=
  ⟨by unfold inLocal; decide +kernel, fun _ => rfl⟩

theorem witness_ReferencesStoreAndTest :
    (regs.ready (.stref false 8 6 0 (.field 0)) = true ∧ regs.plbCheck 0 .store 0x100 8 = .pass ∧ (regs.core 0).classOf 0x100 = .shared ∧
      regs.arenaBit 0 0x10000 = some (some false)) ∧
    (regs.ready (.stref false 7 6 0 (.field 0)) = true ∧ regs.arenaBit 0 0x3000 = none) ∧
    (regs.ready (.stref false 9 6 0 (.field 0)) = true ∧ regs.arenaBit 0 0x11000 = some (some true) ∧ regs.watchHit 0 .store [(0x100, 8)] = none ∧
      regs.me.storeHeld false = false) ∧
    (regs.ready (.stref false 8 11 0 (.field 0)) = true ∧ regs.plbCheck 0 .store 0x103 8 = .pass ∧ (0x103 : Nat) % 8 ≠ 0) ∧
    (regs.ready (.ldt false 12 11 0 (.field 0)) = true ∧ regs.plbCheck 0 .load 0x100 8 = .pass ∧ regs.watchHit 0 .load [(0x100, 8)] = none ∧
      regs.me.loadHeld [(0x100, 8)] = false) ∧
    (inLocal 0x00FF000000001000 8 ∧ regs.ready (.ldt false 12 4 0 (.field 7)) = true ∧ regs.plbCheck 0 .load 0x00FF000000001000 8 = .pass) := by
  unfold inLocal
  decide +kernel

/-- Mask m1 selects bytes or elements 0, 1 and 3, mask m2 none. -/
def masked : State := regs.modHart 0 (fun x => (x.setM 1 0xB).setM 2 0)

theorem witness_VectorAccessesIssue :
    (maskRuns (masked.me.getM 1) 4 = [(0, 2), (3, 1)] ∧ masked.ready (.vld false 3 6 0 3 1 none) = true ∧
      masked.checkProbes 0 .load ([(0x100, 2), (0x103, 1)].flatMap (fun r => probes r.1 r.2)) = .pass ∧
      masked.watchHit 0 .load [(0x100, 2), (0x103, 1)] = none ∧ masked.me.loadHeld [(0x100, 2), (0x103, 1)] = false) ∧
    (maskRuns (masked.me.getM 2) 64 = [] ∧ masked.ready (.vst false 3 6 0 63 2 none) = true) ∧
    (masked.ready (.vst false 3 6 0 3 1 (some 4)) = true ∧
      masked.checkProbes 0 .store ([(0x104, 2), (0x107, 1)].flatMap (fun r => probes r.1 r.2)) = .pass ∧
      masked.watchHit 0 .store [(0x104, 2), (0x107, 1)] = none ∧ masked.me.storeHeld false = false) ∧
    (elemAddrs masked 6 none 4 1 1 = [(0, 0x100), (1, 0x100), (3, 0x100)] ∧ masked.ready (.vldx false 3 6 0 4 1 1 none) = true ∧
      masked.checkProbes 0 .load ([(0x100, 8), (0x100, 8), (0x100, 8)].flatMap (fun r => probes r.1 r.2)) = .pass) ∧
    (elemAddrs masked 6 none 4 0 2 = [] ∧ masked.ready (.vstx false 3 6 0 4 0 2 none) = true) ∧
    (elemAddrs masked 6 none 4 0 1 = [(0, 0x100), (1, 0x100), (3, 0x100)] ∧ masked.ready (.vstx false 3 6 0 4 0 1 none) = true ∧
      masked.checkProbes 0 .store ([(0x100, 4), (0x100, 4), (0x100, 4)].flatMap (fun r => probes r.1 r.2)) = .pass ∧
      masked.watchHit 0 .store [(0x100, 4), (0x100, 4), (0x100, 4)] = none) := by decide +kernel

theorem witness_AtomicsIssue :
    amoShape (.amoadd false 12 6 1 0 1) = some (.add, 12, 6, 1, 0, 8) ∧
    (regs.ready (.amoadd false 12 6 1 0 1) = true ∧
      regs.plbCheck 0 .atomic 0x100 8 = .pass ∧ regs.watchHit 0 .atomic [(0x100, 8)] = none ∧ regs.me.storeHeld false = false) ∧
    (regs.ready (.amoswap false 12 11 1 0 1) = true ∧ (regs.me.getG 11).toNat % 8 ≠ 0) ∧
    (storing.ready (.amocas false 12 6 1 12 0) = true ∧ storing.plbCheck 0 .atomic 0x100 4 = .pass ∧
      storing.watchHit 0 .atomic [(0x100, 4)] = none ∧ storing.me.storeHeld true = true) ∧
    (masked.ready (.amofaddv false 3 11 0 15 1 none) = true ∧ (masked.me.getG 11).toNat % 4 ≠ 0 ∧
      (List.range 4).filter (fun k => (masked.me.getM 1).getLsbD k) ≠ []) ∧
    (masked.ready (.amofaddv false 3 6 0 15 2 none) = true ∧ (List.range 4).filter (fun k => (masked.me.getM 2).getLsbD k) = []) ∧
    (masked.ready (.amofaddv false 3 6 0 15 1 none) = true ∧ (List.range 4).filter (fun k => (masked.me.getM 1).getLsbD k) = [0, 1, 3] ∧
      masked.checkProbes 0 .atomic ([(0x100, 4), (0x104, 4), (0x10C, 4)].flatMap (fun r => probes r.1 r.2)) = .pass ∧
      masked.watchHit 0 .atomic [(0x100, 4), (0x104, 4), (0x10C, 4)] = none ∧ masked.me.storeHeld false = false) :=
  ⟨rfl, by decide +kernel⟩

theorem witness_LocalAtomicsExchange :
    amoShape (.amomin false 0 4 3 0 0) = some (.min, 0, 4, 3, 0, 4) ∧
    regs.ready (.amomin false 0 4 3 0 0) = true ∧
      inLocal 0x00FF000000001000 4 ∧ regs.watchHit 0 .atomic [(0x00FF000000001000, 4)] = none ∧ regs.me.storeHeld false = false ∧
      nextWith (exec (.amomin false 0 4 3 0 0) regs) (fun t => decide ((t.core 0).localNum 0x1000 4 = 0xFFFFFFFF ∧ t.me.getG 0 = 0)) = true := by
  unfold inLocal
  exact ⟨rfl, by decide +kernel⟩

theorem witness_FailedChecksPerformNothing :
    (accessRuns regs.me (.std false 1 10 0 (.field 0)) = some (.store, 0x12000, 8) ∧ regs.ready (.std false 1 10 0 (.field 0)) = true ∧
      regs.plbCheck 0 .store 0x12000 8 = .fail .protection 0x12000) ∧
    (accessRuns regs.me (.ldb false 12 7 0 (.field 0)) = some (.load, 0x3000, 1) ∧ regs.ready (.ldb false 12 7 0 (.field 0)) = true ∧
      regs.plbCheck 0 .load 0x3000 1 = .miss [0x3000]) ∧
    (accessRuns watching.me (.ldd false 12 6 0 (.field 0)) = some (.load, 0x100, 8) ∧ watching.ready (.ldd false 12 6 0 (.field 0)) = true ∧
      watching.plbCheck 0 .load 0x100 8 = .pass ∧ watching.watchHit 0 .load [(0x100, 8)] = some 0x100 ∧
      (watching.cluster 0).dbg.haltOnWatch = false ∧
      nextWith (exec (.ldd false 12 6 0 (.field 0)) watching) (fun t => decide (t.me.cause = 13 ∧ t.me.faddr = 0x100)) = true) ∧
    (accessRuns watching.me (.stref false 8 11 0 (.field 0)) = some (.store, 0x103, 8) ∧ watching.ready (.stref false 8 11 0 (.field 0)) = true ∧
      watching.plbCheck 0 .store 0x103 8 = .pass ∧ watching.watchHit 0 .store [(0x103, 8)] = some 0x103) := by decide +kernel

theorem witness_FenceOrdersAndReports :
    (loading.ready (.fence false 12 15) = true ∧ loading.me.loads ≠ []) ∧
    (regs.ready (.fence false 12 11) = true ∧ regs.me.loads = [] ∧ regs.me.fence = none ∧ regs.me.stores = []) ∧
    (storing.ready (.fence false 12 15) = true ∧ storing.me.loads = [] ∧ storing.me.fence = none ∧ storing.me.stores ≠ []) := by decide +kernel

/-- Cookies in g12 (generation 1, slot 0) and g13 (generation 2, slot 3); slot 3's walk is suspended. -/
def cookies : State := (regs.modHart 0 (fun x => (x.setG 12 0xF000000000000010).setG 13 0xF000000000000023)).modCluster 0 (fun k =>
  { k with walks := [(3, ⟨0, 0, 0, 0, [(3, [(0x11000, 8)])], 9, [], [], true, none, []⟩)], slotGen := [(3, 2)] })

/-- Every walk slot of cluster 0 is held. -/
def slotless : State := regs.modCluster 0 (fun k =>
  { k with walks := [(0, ⟨0, 0, 0, 0, (List.range 16).map (fun n => (n, [])), 9, [], [], true, none, []⟩)] })

theorem witness_PubWalks :
    (cookies.ready (.pub false 14 12 0) = true ∧ find 0 (cookies.cluster 0).walks = none) ∧
    (cookies.ready (.pub false 14 13 0) = true ∧ (find 3 (cookies.cluster 0).walks).any (fun w => w.suspended) = true ∧
      (find 3 (cookies.cluster 0).slotGen).getD 0 = (cookies.me.getG 13).toNat / 16 % 2 ^ 16) ∧
    (regs.ready (.pub false 14 7 0) = true ∧ regs.arenaBit 0 0x3000 = none) ∧
    (regs.ready (.pub false 14 6 0) = true ∧ regs.arenaBit 0 0x100 = some none) ∧
    (regs.ready (.pub false 14 8 1) = true ∧ regs.arenaBit 0 0x10000 = some (some false) ∧ (regs.cluster 0).takeSlot.isSome = true) ∧
    (slotless.ready (.pub false 14 8 1) = true ∧ slotless.arenaBit 0 0x10000 = some (some false) ∧ (slotless.cluster 0).takeSlot = none) := by
  decide +kernel

/-- The near cache of core 0 holds private bytes from 0x100 that are not yet at their home. -/
def unclean : State := (regs.modHart 0 (fun x => x.setG 20 0x200)).modCore 0 (fun c => { c with nc := c.nc ++ [⟨1, 0, 16, 0, 16, .priv, List.replicate 16 3, 0, 0, 0⟩] })

theorem witness_CacheInstructionsAct :
    regs.ready (.pref false 6 2 1) = true ∧ regs.ready (.resq false 12 6 1 1) = true ∧ regs.ready (.resq false 12 6 1 0) = true ∧
      regs.ready (.cln false 6 4 0) = true ∧ regs.ready (.inv false 6 0 0) = true ∧
      (regs.ready (.cln false 6 4 2) = true ∧ regs.plbCheck 0 .store 0x100 9 = .pass ∧ regs.watchHit 0 .store [(0x100, 9)] = none ∧
        (regs.clean 0 0x100 9 true false).2 = []) ∧
      (unclean.ready (.cln false 20 4 2) = true ∧ unclean.plbCheck 0 .store 0x200 9 = .pass ∧
        unclean.watchHit 0 .store [(0x200, 9)] = none ∧ (unclean.clean 0 0x200 9 true false).2 ≠ []) ∧
      (regs.ready (.inv false 6 0 2) = true ∧ regs.plbCheck 0 .store 0x100 9 = .pass) := by decide +kernel

theorem witness_VectorAccessesIssue_local :
    (masked.ready (.vld false 3 4 0 3 1 none) = true ∧
      (∀ r ∈ maskRuns (masked.me.getM 1) 4, inLocal (0x00FF000000001000 + r.1) r.2 ∧ masked.me.near = []) ∧
      masked.checkProbes 0 .load ([(0x00FF000000001000, 2), (0x00FF000000001003, 1)].flatMap (fun r => probes r.1 r.2)) = .pass ∧
      masked.watchHit 0 .load [(0x00FF000000001000, 2), (0x00FF000000001003, 1)] = none ∧
      masked.me.loadHeld [(0x00FF000000001000, 2), (0x00FF000000001003, 1)] = false) ∧
    (masked.ready (.vld false 3 4 0 3 2 none) = true ∧ maskRuns (masked.me.getM 2) 4 = [] ∧ masked.me.loadHeld [] = false ∧
      masked.watchHit 0 .load [] = none ∧ masked.checkProbes 0 .load [] = .pass) ∧
    (masked.ready (.vst false 3 4 0 3 1 none) = true ∧ (∀ r ∈ maskRuns (masked.me.getM 1) 4, inLocal (0x00FF000000001000 + r.1) r.2) ∧
      masked.watchHit 0 .store [(0x00FF000000001000, 2), (0x00FF000000001003, 1)] = none ∧ masked.me.storeHeld false = false) ∧
    (masked.ready (.vldx false 3 4 0 4 1 1 none) = true ∧
      elemAddrs masked 4 none 4 1 1 = [(0, 0x00FF000000001000), (1, 0x00FF000000001000), (3, 0x00FF000000001000)] ∧
      inLocal 0x00FF000000001000 8 ∧ masked.watchHit 0 .load (List.replicate 3 (0x00FF000000001000, 8)) = none ∧
      masked.me.loadHeld (List.replicate 3 (0x00FF000000001000, 8)) = false) ∧
    (masked.ready (.vstx false 3 4 0 4 1 1 none) = true ∧ masked.watchHit 0 .store (List.replicate 3 (0x00FF000000001000, 8)) = none ∧
      masked.me.storeHeld false = false) := by
  unfold inLocal
  decide +kernel

theorem witness_AtomicsIssue_length : masked.ready (.amofaddv false 3 6 0 2 2 none) = true ∧ (2 + 1) % 4 ≠ 0 := by decide +kernel

theorem witness_CacheInstructionsAct_others :
    regs.ready (.inv false 6 7 2) = true ∧ regs.plbCheck 0 .store 0x100 9 = .pass ∧ regs.watchHit 0 .store [(0x100, 9)] = none ∧
      (regs.invalidate 0 0x100 9 3).2 ≠ [] ∧ (regs.invalidate 0 0x100 9 2).2 = [] := by decide +kernel

/-- Partition 0 holds every cluster. -/
def parted : State := regs.setReg 0x1000 0x800000000000FFFF

theorem witness_CountersSetCountAndWait :
    (storing.ready (.setc false 1 5) = true ∧ storing.me.storeHeld true = true) ∧
    (regs.ready (.setc false 3 5) = true ∧ regs.me.storeHeld true = false ∧ 2 ^ 40 ≤ (regs.me.getG 3).toNat) ∧
    (let s := (regs.modHart 1 (fun x => { x with wait := .ctr 5 }))
     s.ready (.setc false 0 5) = true ∧ s.me.storeHeld true = false ∧ (s.hart 1).wait = .ctr 5) ∧
    (regs.ready (.decc false 1 5) = true ∧ (regs.core 0).count 5 < 7) ∧ regs.ready (.decc false 0 5) = true ∧
    (let s := regs.modCore 0 (fun c => c.setCount 5 9)
     s.ready (.decc false 1 5) = true ∧ s.me.storeHeld true = false ∧ (s.core 0).count 5 = 9 ∧
      s.ready (.decc false 2 5) = true ∧ ((s.core 0).handlerOf 5).isNone = true) ∧
    (let s := (queued 0 64).modCore 0 (fun c => { c.setCount 5 9 with
        handlers := [(4, handler (2 ^ 63 + 2 ^ 60 + 5 * 2 ^ 54) 0 256 0)] })
     s.ready (.decc false 2 5) = true ∧ s.me.storeHeld true = false ∧ ((s.core 0).handlerOf 5).isSome = true ∧ (s.core 0).room = false) ∧
    regs.ready (.getc false 12 63) = true ∧ (regs.ready (.waitc true 12 5) = true ∧ (regs.core 0).count 5 = 0) ∧
    (let s := full5.modHart 0 (fun x => { x with preempt := some 0 })
     s.ready (.waitc true 12 5) = true ∧ (s.core 0).count 5 ≠ 0 ∧ s.me.wait = .none ∧ s.me.preempt.isSome = true) ∧
    (full5.ready (.waitc true 12 5) = true ∧ full5.me.preempt = none) := by decide +kernel

/-- g12 names a descriptor of zeros, which the near cache of core 0 holds, and g13 32 bytes past it. -/
def described : State := (holding parted (List.replicate 64 0)).modHart 0 (fun x => x.setG 13 0x220)

/-- The same with an acquire load that has not its byte, and with counter 5 bound. -/
def expecting : State := described.modHart 0 (fun x => { x with loads := [⟨1, .g 20 8 false, true, [⟨0x200, 0, 0, none⟩], none, [], false⟩] })
def bound5 : State := described.modCore 0 (fun c => { c with bind := [(5, ⟨[], 0, 0, 0⟩)] })

theorem witness_DescriptorsBindAndLaunch :
    ((expecting.ready (.bindc false 14 12 5) = true ∧ expecting.plbCheck 0 .load 0x200 64 = .pass ∧ expecting.me.loadHeld [(0x200, 64)] = true) ∧
    (expecting.ready (.launch false 14 12) = true ∧ expecting.me.storeHeld true = true) ∧
    (bound5.ready (.bindc false 14 12 5) = true ∧ (find 5 (bound5.core 0).bind).isSome = true)) ∧
    regs.ready (.bindc false 14 0 5) = true ∧ (described.ready (.bindc false 14 13 5) = true ∧ (described.me.getG 13).toNat % 64 ≠ 0) ∧
    (described.ready (.bindc false 14 12 5) = true ∧ described.plbCheck 0 .load 0x200 64 = .pass ∧
      described.watchHit 0 .load [(0x200, 64)] = none ∧ described.me.loadHeld [(0x200, 64)] = false ∧
      described.peekHeld 0 0x200 64 = false ∧ (find 5 (described.core 0).bind).isNone = true ∧ ((described.core 0).handlerOf 5).isNone = true ∧
      described.malformed 0 0 (wordsOf (described.readAtIssue 0 0x200 64).1) = false ∧
      nextWith (exec (.bindc false 14 12 5) described) (fun t => (find 5 (t.core 0).bind).isSome) = true) ∧
    (regs.malformed 0 0 [] = true ∧ (regs.partWord 0 0).getLsbD 61 = false) ∧
    (described.ready (.launch false 14 12) = true ∧ described.ready (.launch false 14 13) = true ∧ described.me.storeHeld true = false) ∧
    ((parted.setReg 0x1000 0xA00000000000FFFF).partWord 0 0).getLsbD 61 = true ∧
    (let s := parted.modDie 0 (fun d => { d with launches := [(0, ⟨5, false, 0, 0, 0⟩)] })
     (s.partWord 0 0).getLsbD 61 = false ∧ s.malformed 0 0 [] = false ∧ ((s.die 0).launchCtr 0).count ≠ 0) ∧
    (let s := parted.setReg 0x1020 0x800000000000FFFF
     (s.partWord 1 0).getLsbD 61 = false ∧ s.malformed 0 1 [] = false ∧ ((s.die 0).launchCtr 0).count = 0 ∧ (dw [] 3).toNat / 2 ^ 34 % 16 ≠ 1) ∧
    (parted.malformed 0 0 [] = false ∧ ((parted.die 0).launchCtr 0).count = 0 ∧ (dw [] 3).toNat / 2 ^ 34 % 16 = 0) := by decide +kernel

/-- Hart 0's task holds core 0's matrix unit, joins on counter `ctr` of core `cid` and belongs to launch 3 of die 0; hart 1 waits for counter 5 of
core 0, which reads 1. -/
def leaving (cid ctr : Nat) : State := ((parted.modHart 0 (fun x => { x with job := some { Task.placed with join := some ⟨cid, ctr⟩, launch := some ⟨0, 3⟩ } })).modHart 1
  (fun x => { x with wait := .ctr 5, run := .blocked })).modCore 0 (fun c => { c.setCount 5 1 with claim := some 0 }) |>.modDie 0 (fun d =>
    { d with launches := [(3, ⟨5, false, 0, 0, 0⟩)] })

/-- Hart 0's task is a handler task of entry 4 of core 0, charged 32 bytes. -/
def handling : State := (regs.modHart 0 (fun x => { x with job := some { Task.placed with kind := .handler 0 4 1 (some 7) } })).modCore 0 (fun c =>
  { c with handlers := [(4, { handler (2 ^ 63) 0 100 30 with charges := [(7, 32)] })] })

/-- Hart 0 may save its task, and another is ready. -/
def yielding : State := (queued 0 1).modHart 0 (fun x => { x with ctxbase := 0x8000 })

theorem witness_ExitFreesAndYieldSaves :
    ((leaving 0 5).ready (.exit false) = true ∧ (leaving 0 5).me.storeHeld true = false ∧ (leaving 0 5).me.job.all (fun t => !(leaving 0 5).endWaits 0 t) = true ∧
      ((leaving 0 5).core 0).claim = some 0 ∧ ((leaving 0 5).core 0).count 5 = 1 ∧ ((leaving 0 5).hart 1).wait = .ctr 5 ∧
      (((leaving 0 5).die 0).launchCtr 3).count = 5 ∧ nextWith (exec (.exit false) (leaving 0 5)) (fun t => decide ((t.core 0).claim = none ∧
        (t.core 0).count 5 = 0 ∧ (t.hart 1).wait = .released ∧ ((t.die 0).launchCtr 3).count = 4)) = true) ∧
    ((leaving 2 9).ready (.exit false) = true ∧ nextWith (exec (.exit false) (leaving 2 9)) (fun t => decide ((t.core 2).port = [.count 9 4 0])) = true) ∧
    (handling.ready (.exit false) = true ∧ (find 4 (handling.core 0).handlers).any (fun x => x.gen == 1) = true ∧
      nextWith (exec (.exit false) handling) (fun t => (find 4 (t.core 0).handlers).any (fun x => x.free == 132)) = true) ∧
    (storing.ready (.exit false) = true ∧ storing.me.storeHeld true = true) ∧
    (regs.ready (.exit true) = true ∧ regs.me.storeHeld true = false ∧ regs.me.job.isSome = true ∧
      (regs.me.job.all (fun t => !regs.endWaits 0 t)) = true ∧
      nextWith (exec (.exit true) regs) (fun t => decide ((t.hart 0).run = .free)) = true) ∧
    (let s := ((queued 0 64).modCore 0 (fun c => { c.setCount 5 1 with
        handlers := [(4, handler (2 ^ 63 + 2 ^ 60 + 5 * 2 ^ 54) 0 256 0)] })).modHart 0 (fun x =>
          { x with job := some { Task.placed with join := some ⟨0, 5⟩ } })
     s.ready (.exit false) = true ∧ s.me.storeHeld true = false ∧ (s.me.job.any (fun t => s.endWaits 0 t)) = true) ∧
    (regs.ready (.yield true) = true ∧ (regs.core 0).runq = []) ∧
    (yielding.ready (.yield true) = true ∧ (yielding.core 0).runq ≠ [] ∧ yielding.me.freeSlot.isSome = true) := by decide +kernel

/-- g12 names launch counter 3, g13 has a reserved bit; counter 3 is open. -/
def cancelling : State := (parted.modHart 0 (fun x => (x.setG 12 3).setG 13 0x4000)).modDie 0 (fun d =>
  { d with launches := [(3, ⟨5, false, 0, 0, 0⟩)] })

theorem witness_CancelAnswersInOrder :
    (cancelling.ready (.cancel false 14 13 0) = true ∧ (cancelling.me.getG 13).toNat / 2 ^ 14 ≠ 0) ∧
    (let s := cancelling.modHart 0 (fun x => { x with domain := 5 })
     s.ready (.cancel false 14 12 11) = true ∧ (s.me.getG 12).toNat / 2 ^ 14 = 0 ∧ s.me.domain ≠ 0) ∧
    (let s := cancelling.modDie 0 (fun d => { d with launches := [(3, ⟨5, false, 2, 0, 0⟩)] })
     s.ready (.cancel false 14 12 0) = true ∧ (s.dctr 0 (levelOf 0) 3).owner.toNat ≠ s.partOf 0 ∧ (s.dctr 0 (levelOf 0) 3).count ≠ 0) ∧
    (let s := cancelling.setReg 0x1000 0xA00000000000FFFF
     s.ready (.cancel false 14 12 0) = true ∧ (s.partWord (s.partOf 0) 0).getLsbD 61 = true ∧ (s.dctr 0 (levelOf 0) 3).owner.toNat = s.partOf 0) ∧
    (cancelling.ready (.cancel false 14 12 4) = true ∧ cancelling.ready (.cancel false 14 1 0) = true ∧
      (cancelling.dctr 0 (levelOf 0) 7).count = 0 ∧ cancelling.ready (.cancel false 14 12 0) = true ∧ cancelling.ready (.cancel false 14 1 11) = true ∧
      cancelling.ready (.cancel false 14 0 11) = true ∧ (cancelling.dctr 0 (levelOf 3) 0).count = 0 ∧
      (cancelling.dctr 0 (levelOf 0) 3).count = 5 ∧ (cancelling.partWord 0 0).getLsbD 61 = false) := by decide +kernel

/-- Barrier 2 of cluster 0 waits for q harts, and those of the list have arrived; g12 holds 2 and g13 65. -/
def barred (q : Nat) (arrived : List Nat) : State := (regs.modHart 0 (fun x => (x.setG 12 2).setG 13 65)).modCluster 0 (fun k =>
  { k with barriers := [(2, ⟨q, arrived⟩)] })

theorem witness_BarriersGatherAndRelease :
    (let s := regs.modHart 0 (fun x => { x with wait := .released })
     s.ready (.bar false 0 2) = true ∧ s.me.wait = .released) ∧
    (let s := regs.modHart 0 (fun x => { x with wait := .bar 2 })
     s.ready (.bar false 0 2) = true ∧ s.me.wait = .bar 2) ∧
    (storing.ready (.bar false 0 2) = true ∧ storing.me.wait = .none ∧ storing.me.storeHeld true = true) ∧
    ((barred 3 [4]).ready (.bar false 13 2) = true ∧ 64 < ((barred 3 [4]).me.getG 13).toNat ∧ (barred 3 [4]).ready (.bar false 12 2) = true ∧
      (barred 3 [4]).me.storeHeld true = false) ∧
    ((barred 2 [4]).ready (.bar false 12 2) = true ∧ [4].length + 1 = ((barred 2 [4]).me.getG 12).toNat ∧
      nextWith (exec (.bar false 12 2) (barred 2 [4])) (fun t => decide ((t.hart 4).wait = .released)) = true) ∧
    ((barred 2 []).ready (.bar false 12 2) = true ∧ ([] : List Nat).length + 1 ≠ ((barred 2 []).me.getG 12).toNat) ∧
    (regs.ready (.bar false 0 2) = true ∧ find 2 (regs.cluster 0).barriers = none ∧ regs.me.barCount ≤ 1) ∧
    (regs.ready (.bar false 1 2) = true ∧ 1 < (regs.me.getG 1).toNat ∧ (regs.me.getG 1).toNat ≤ 64) := by decide +kernel

/-- g12 names a descriptor that no cache holds, of a home that is not ready. -/
def remote12 : State := parted.modHart 0 (fun x => x.setG 12 0x200)

/-- g12 names a descriptor of device 1, whose page core 0 knows. -/
def away12 : State := (parted.modHart 0 (fun x => x.setG 12 (word (2 ^ 47 + 0x200)))).modCore 0 (fun c => { c with plb := c.plb ++ [pageOf (2 ^ 35) true false 0] })

theorem witness_DescriptorsBindAndLaunch_asks :
    (remote12.ready (.bindc false 14 12 5) = true ∧ remote12.plbCheck 0 .load 0x200 64 = .pass ∧ remote12.watchHit 0 .load [(0x200, 64)] = none ∧
      remote12.me.loadHeld [(0x200, 64)] = false ∧ remote12.peekHeld 0 0x200 64 = true ∧ remote12.ready (.launch false 14 12) = true ∧
      remote12.me.storeHeld true = false) ∧
    (away12.ready (.bindc false 14 12 5) = true ∧ away12.plbCheck 0 .load (2 ^ 47 + 0x200) 64 = .pass ∧
      away12.peekHeld 0 (2 ^ 47 + 0x200) 64 = true ∧
      nextWith (exec (.launch false 14 12) away12) (fun t => decide (t.me.run = .blocked ∧ t.me.reads.length = 1)) = true) := by decide +kernel

/-- Hart 0 runs the task of point 9 of a Gleaner's walk, whose map lies in core 0's local memory. -/
def pointing : State := (regs.modHart 0 (fun x => { x with job := some { Task.placed with kind := .glean 0 3 1 9 } })).modCluster 0 (fun k =>
  { k with glean := [(3, { regs.newWalk 0 3 0x200 [0, 0x100, 0, 0, 0, 0, 0, 0x00FF000000001000] (handler (2 ^ 63) 0 100 30) with gen := 1 })] })

theorem witness_ExitFreesAndYieldSaves_point :
    pointing.ready (.exit false) = true ∧ pointing.me.storeHeld true = false ∧ (pointing.me.job.all (fun t => !pointing.endWaits 0 t)) = true ∧
      (find 3 (pointing.cluster 0).glean).any (fun w => w.gen == 1 && w.cid == 0 && w.mapWord 9 == 0x00FF000000001000) = true ∧
      inLocal 0x00FF000000001000 4 ∧
      nextWith (exec (.exit false) pointing) (fun t => decide ((t.core 0).localByte 0x1001 = 2 ∧ (find 3 (t.cluster 0).glean).any (fun w => w.retired == 1) = true)) = true := by
  unfold inLocal
  decide +kernel

/-- g14 is a message header of five 16-byte units, g15 one that no channel takes. -/
def sending : State := (holding parted (List.replicate 80 0)).modHart 0 (fun x => (x.setG 14 0x5000000).setG 15 0x11000000)

theorem witness_MessagesAreSent :
    (sending.ready (.send false 15 0 4) = true ∧ headerBad 0x11000000 0 = true) ∧ (sending.ready (.send false 14 0 4) = true ∧ headerBad 0x5000000 0 = false) ∧
    (storing.ready (.send false 0 0 4) = true ∧ headerBad 0 0 = false ∧ storing.me.storeHeld true = true) ∧
    (sending.ready (.send false 0 0 4) = true ∧ sending.me.storeHeld true = false ∧
      nextWith (exec (.send false 0 0 4) sending) (fun t => (t.core 0).port.length == 1) = true) ∧
    (sending.ready (.sendx false 12 14 0) = true ∧ sending.plbCheck 0 .load 0x200 80 = .pass ∧ sending.watchHit 0 .load [(0x200, 80)] = none) ∧
    sending.ready (.sendx false 12 15 0) = true ∧ sending.peekHeld 0 0x200 80 = false ∧ sending.devnum = 0 ∧ sending.mappedOut 0 = false ∧
    (storing.ready (.sendx false 6 0 0) = true ∧ headerBad 0 0 = false) ∧
    (let s := sending.setReg 0x200 1
     s.mappedOut 0 = true ∧ ((s.deliver 0 0 0 [] []).core 0).port.length = 1 ∧ (s.deliver 0 0 0 [] []).me.stores = []) ∧
    ((word (576 * 2 ^ 14)).toNat / 4 % 2 ^ 22 / 4096 = 576 ∧ ((sending.deliver 0 0 (word (576 * 2 ^ 14)) [] []).core 0).port.length = 1) ∧
    (sending.portState (sending.planePort 0) = .up ∧ (sending.deliver 0 0 (word (2 ^ 14)) [] []).out.length = 1) := by decide +kernel

/-- Handler 0 of core 0 with 100 bytes free and 30 reserved. -/
def ringed : State := (regs.modCore 0 (fun c => { c with handlers := [(0, handler (2 ^ 63) 0 100 30)] })).modHart 0 (fun x => x.setG 14 100)

theorem witness_QueuesReportAndReserve :
    regs.ready (.qstat false 14 7) = true ∧ (regs.ready (.qresv false 15 0 1) = true ∧ (regs.core 0).handler? 0 = none) ∧
    (ringed.ready (.qresv false 15 6 1) = true ∧ (ringed.me.getG 6).toNat / 256 ≠ 0) ∧
    (ringed.ready (.qresv false 15 0 6) = true ∧ ringed.ready (.qresv false 15 0 14) = true ∧ ringed.ready (.qresv false 15 0 3) = true ∧
      (ringed.core 0).handler? 0 = some (handler (2 ^ 63) 0 100 30) ∧ (100 : Int) < (ringed.me.getG 6).toInt ∧ (ringed.me.getG 14).toInt = 100 ∧
      (ringed.me.getG 3).toInt < 0) := by decide +kernel

/-- Job 0 of cluster 0's engine 0 is in state n. -/
def job (n : Nat) : State := regs.setEngine 0 { Engine.reset with states := [(0, n)] }

theorem witness_EnginesTakeCommands :
    (described.ready (.enq false 14 12 3 0) = true ∧ (described.me.getG 3).toNat / 2 ^ 18 ≠ 0) ∧
    (described.ready (.enq false 14 13 0 0) = true ∧ (described.me.getG 13).toNat % 64 ≠ 0) ∧
    (described.ready (.enq false 14 12 6 0) = true ∧ described.plbCheck 0 .load 0x200 64 = .pass ∧ described.engineOf 0 0 6 = none) ∧
    (described.ready (.enq false 14 12 0 2) = true ∧ described.engineOf 0 2 0 = some (2, 0) ∧ described.watchHit 0 .load [(0x200, 64)] = none ∧
      described.me.storeHeld true = false ∧ (described.engine 2).queue.length < 64 ∧ described.enqTurn 2 0 = true ∧ described.peekHeld 0 0x200 64 = false) ∧
    (let s := (described.modHart 4 (fun x => { x with wait := .enq 2, run := .blocked })).setEngine 2 { Engine.reset with lastCluster := 0, lastCores := [(0, 0)] }
     s.ready (.enq false 14 12 0 2) = true ∧ s.enqTurn 2 0 = false) ∧
    (described.ready (.enq false 14 12 0 15) = true ∧ described.engineOf 0 15 0 = some (1031, 0) ∧ (described.reg 0x240).getLsbD 37 = false) ∧
    (let s := described.setEngine 2 { Engine.reset with queue := List.replicate 64 ⟨[], 0, 0, 0, 0⟩ }
     s.ready (.enq false 14 12 0 2) = true ∧ 64 ≤ (s.engine 2).queue.length) ∧
    (regs.ready (.jobq false 14 3) = true ∧ regs.jobOf (regs.me.getG 3) = none ∧ regs.ready (.jobw false 14 3) = true) ∧
    ((job 2).ready (.jobq false 14 0) = true ∧ (job 2).jobOf 0 = some (some 0, 0) ∧ (job 2).ready (.jobw false 14 0) = true) ∧
    ((job 1).ready (.jobw true 14 0) = true ∧ (job 1).jobOf 0 = some (some 0, 0) ∧ (job 1).me.preempt = none) ∧
    (let s := (job 1).modHart 0 (fun x => { x with preempt := some 0 })
     s.ready (.jobw true 14 0) = true ∧ s.me.preempt.isSome = true) := by decide +kernel

/-- g12 names a Gleaner descriptor of zeros but for words 0 and 7; handler 0 of core 0 is valid. -/
def gleaning (w0 w7 : Nat) : State :=
  (holding regs (bytesOf [word w0, 0, 0, 0, 0, 0, 0, word w7])).modCore 0 (fun c => { c with handlers := [(0, handler (2 ^ 63) 0 100 30)] })

/-- Slot 1 of the cluster's Gleaner holds a walk of generation 1 in this state, and g13 is its handle. -/
def gleaned (state : Nat) : State := ((gleaning 0 0).modHart 0 (fun x => x.setG 13 0x11)).modCluster 0 (fun k =>
  { k with glean := [(1, { (gleaning 0 0).newWalk 0 1 0x200 [] (handler (2 ^ 63) 0 100 30) with state := state })] })

/-- The task of hart 0 belongs to launch 3 of die 0; g13 declares class 1 and slope 5, g14 slope 251, g15 a reserved bit. -/
def declaring (l : Option LaunchRef) (budget : Nat) : State := (regs.modHart 0 (fun x =>
  { ((x.setG 13 0x501).setG 14 0xFB00).setG 15 0x100000 with job := some { Task.placed with launch := l } })).modDie 0 (fun d => { d with budget := budget })

theorem witness_GleanerAndYokeInstructions :
    ((gleaning 0 0).ready (.glean false 14 11) = true ∧ ((gleaning 0 0).me.getG 11).toNat % 64 ≠ 0) ∧
    ((gleaning 0 0).ready (.glean false 14 12) = true ∧ (gleaning 0 0).plbCheck 0 .load 0x200 64 = .pass ∧
      (gleaning 0 0).watchHit 0 .load [(0x200, 64)] = none ∧ (gleaning 0 0).me.storeHeld true = false ∧
      gleanBad (wordsOf ((gleaning 0 0).readAtIssue 0 0x200 64).1) false = false ∧ (gleaning 0 0).onArena 0 0 = false ∧
      ((gleaning 0 0).cluster 0).freeGlean = some 0 ∧ ((gleaning 0 0).core 0).handler? 0 = some (handler (2 ^ 63) 0 100 30)) ∧
    gleanBad (wordsOf ((gleaning (2 ^ 35) 0).readAtIssue 0 0x200 64).1) false = true ∧ (gleaning 0 0x10000).onArena 0 0x10000 = true ∧
    ((gleaning (2 ^ 24) 0).core 0).handler? 1 = none ∧
    (let s := (gleaning 0 0).modCluster 0 (fun k => { k with glean := (List.range 4).map (fun n =>
        (n, (gleaning 0 0).newWalk 0 1 0x200 [] (handler (2 ^ 63) 0 100 30))) })
     s.ready (.glean false 14 12) = true ∧ (s.cluster 0).freeGlean = none ∧ s.peekHeld 0 0x200 64 = false) ∧
    (let s := (gleaning 0 0).modHart 0 (fun x => { x with wait := .glean (List.replicate 8 0) })
     s.ready (.glean false 14 12) = true ∧ s.me.wait = .glean (List.replicate 8 0) ∧ (s.cluster 0).freeGlean = some 0 ∧
      (s.core 0).handler? 0 = some (handler (2 ^ 63) 0 100 30) ∧ nextWith (exec (.glean false 14 12) s) (fun t => (t.cluster 0).glean.length == 1) = true) ∧
    ((gleaned 0).ready (.gstat false 14 13 0) = true ∧ (gleaned 0).me.getG 13 = (gleaned 0).gleanHandle 0 1 1 ∧
      (gleaned 0).ready (.gstat false 14 13 1) = true ∧ (gleaned 1).ready (.gstat false 14 13 1) = true ∧ (gleaned 0).ready (.gstat false 14 0 0) = true ∧
      find 0 ((gleaned 0).cluster 0).glean = none) ∧
    ((declaring none 0).ready (.ydecl false 16 15) = true ∧ (declaring none 0).ready (.ydecl false 16 14) = true ∧
      (declaring none 0).ready (.ydecl false 16 13) = true) ∧
    ((declaring (some ⟨0, 3⟩) 25).ready (.ydecl false 16 13) = true ∧ ((declaring (some ⟨0, 3⟩) 25).die 0).budget = 25 ∧
      nextWith (exec (.ydecl false 16 13) (declaring (some ⟨0, 3⟩) 25)) (fun t => decide ((t.die 0).budget = 0)) = true ∧
      nextWith (exec (.ydecl false 16 13) (declaring (some ⟨0, 3⟩) 24)) (fun t => decide (t.me.run = .blocked)) = true) := by decide +kernel

/-- The same with g14 and g15 as `sending` has them. -/
def sendingAway : State := away12.modHart 0 (fun x => (x.setG 14 0x5000000).setG 15 0x11000000)

theorem witness_MessagesAreSent_asks :
    (sendingAway.ready (.sendx false 12 14 0) = true ∧ headerBad 0x5000000 0 = false ∧ sendingAway.plbCheck 0 .load (2 ^ 47 + 0x200) 80 = .pass ∧
      sendingAway.watchHit 0 .load [(2 ^ 47 + 0x200, 80)] = none ∧ sendingAway.me.storeHeld true = false ∧
      sendingAway.peekHeld 0 (2 ^ 47 + 0x200) 80 = true ∧
      nextWith (exec (.sendx false 12 14 0) sendingAway) (fun t => decide (t.me.run = .blocked ∧ t.me.reads.length = 1)) = true) ∧
    (let s := sendingAway.modHart 0 (fun x => { x with stores := storing.me.stores })
     s.ready (.sendx false 12 14 0) = true ∧ s.me.storeHeld true = true) := by decide +kernel

theorem witness_EnginesTakeCommands_asks :
    (away12.ready (.enq false 14 12 0 2) = true ∧ away12.engineOf 0 2 0 = some (2, 0) ∧ away12.plbCheck 0 .load (2 ^ 47 + 0x200) 64 = .pass ∧
      away12.watchHit 0 .load [(2 ^ 47 + 0x200, 64)] = none ∧ away12.me.storeHeld true = false ∧ away12.peekHeld 0 (2 ^ 47 + 0x200) 64 = true) ∧
    (let s := described.modHart 0 (fun x => { x with stores := storing.me.stores })
     s.ready (.enq false 14 12 0 2) = true ∧ s.me.storeHeld true = true) := by decide +kernel

theorem witness_GleanerAndYokeInstructions_asks :
    (away12.ready (.glean false 14 12) = true ∧ away12.plbCheck 0 .load (2 ^ 47 + 0x200) 64 = .pass ∧ away12.me.storeHeld true = false ∧
      away12.watchHit 0 .load [(2 ^ 47 + 0x200, 64)] = none ∧ away12.peekHeld 0 (2 ^ 47 + 0x200) 64 = true ∧
      nextWith (exec (.glean false 14 12) away12) (fun t => decide (t.me.run = .blocked ∧ t.me.reads.length = 1)) = true) ∧
    (let s := (gleaning 0 0).modHart 0 (fun x => { x with stores := storing.me.stores })
     s.ready (.glean false 14 12) = true ∧ s.me.storeHeld true = true) ∧
    (let s := ((gleaning 0 0).modHart 0 (fun x => { x with wait := .glean [] })).modCluster 0 (fun k => { k with glean := (List.range 4).map (fun n =>
        (n, (gleaning 0 0).newWalk 0 1 0x200 [] (handler (2 ^ 63) 0 100 30))) })
     s.ready (.glean false 14 12) = true ∧ s.me.wait = .glean [] ∧ (s.cluster 0).freeGlean = none) ∧
    (let s := (gleaning 0 0).modHart 0 (fun x => { x with wait := .glean [2 ^ 24] })
     s.ready (.glean false 14 12) = true ∧ (s.core 0).handler? 1 = none) := by decide +kernel

theorem witness_PlbinvDropsWithPrivilege :
    (user.ready (.plbinv false 12 6 1 0) = true ∧ user.me.domain ≠ 0) ∧
    (storing.ready (.plbinv false 12 6 1 0) = true ∧ storing.me.domain = 0 ∧ storing.me.storeHeld true = true) ∧
    (regs.ready (.plbinv false 12 6 3 0) = true ∧ regs.me.storeHeld true = false ∧ (regs.me.getG 3).toNat / 2 ^ 40 ≠ 0) ∧
    (regs.ready (.plbinv false 12 6 1 4) = true ∧ (regs.me.getG 1).toNat / 2 ^ 40 = 0 ∧ (regs.splinter 0x100).2 ≠ 0) ∧
    regs.ready (.plbinv false 12 6 1 2) = true := by decide +kernel

/-- g12 names the image of a handler entry. -/
def imaged (w0 w1 : Nat) : State := holding regs (bytesOf [word w0, word w1])

theorem witness_HtwInstallsHandlers :
    (user.ready (.htw false 13 6 1) = true ∧ user.me.domain ≠ 0) ∧
    (regs.ready (.htw false 13 11 1) = true ∧ regs.plbCheck 0 .load 0x103 16 = .pass ∧ (0x103 : Nat) % 16 ≠ 0) ∧
    (regs.ready (.htw false 13 6 6) = true ∧ regs.me.domain = 0 ∧ regs.plbCheck 0 .load 0x100 16 = .pass ∧
      regs.watchHit 0 .load [(0x100, 16)] = none ∧ regs.me.loadHeld [(0x100, 16)] = false ∧ (regs.me.getG 6).toNat / 256 ≠ 0) ∧
    ((imaged (2 ^ 63) 384).ready (.htw false 13 12 1) = true ∧ (imaged (2 ^ 63) 384).plbCheck 0 .load 0x200 16 = .pass ∧
      nextWith (exec (.htw false 13 12 1) (imaged (2 ^ 63) 384)) (fun t => decide (t.me.getG 13 = 2)) = true) ∧
    (let s := (imaged (2 ^ 63 + 2 ^ 60) 0).modCore 0 (fun c => { c with handlers := [(4, handler (2 ^ 63 + 2 ^ 60) 0 256 0)] })
     s.ready (.htw false 13 12 1) = true ∧ nextWith (exec (.htw false 13 12 1) s) (fun t => decide (t.me.getG 13 = 1)) = true) ∧
    nextWith (exec (.htw false 13 12 1) (imaged (2 ^ 63) 383)) (fun t => decide (t.me.getG 13 = 0 ∧
      (find 7 (t.core 0).handlers).map (fun h => h.free) = some 256)) = true := by decide +kernel

/-- Windows 1 and 2 of core 0 are as given; g12 is aligned in page 0, g13 a length of 512 bytes at offset 0. -/
def windowed (ws : List (Nat × Window)) : State :=
  (regs.modHart 0 (fun x => (x.setG 12 0x200).setG 13 0x100)).modCore 0 (fun c => { c with windows := ws })

theorem witness_WindowsMapAndDrain :
    (let s := windowed [(1, ⟨true, true, 0, 0, 512, false, none, false⟩)]
     s.ready (.wmap false 14 0 13 1) = true ∧ (find 1 (s.core 0).windows).any (fun w => w.draining) = true) ∧
    ((windowed []).ready (.wmap false 14 0 0 1) = true ∧ ((windowed []).me.getG 0).toNat = 0) ∧
    (let s := windowed [(2, ⟨true, false, 0, 256, 512, false, none, false⟩)]
     s.ready (.wmap false 14 0 13 1) = true ∧ (s.core 0).windows.any (fun w => w.2.valid && overlaps w.2.off w.2.len 0 512) = true ∧
      s.ready (.wunmap false 14 1 2) = true ∧ ¬ ((s.me.getG 1).toNat = 0 ∨ (s.me.getG 1).toNat / 64 = 1) ∧ s.ready (.wunmap false 14 0 2) = true ∧
      s.ready (.wunmap false 14 0 1) = true ∧ find 1 (s.core 0).windows = none) ∧
    ((windowed []).ready (.wmap false 14 0 13 1) = true ∧ ((windowed []).core 0).windows = []) ∧
    ((windowed []).ready (.wmap false 14 6 13 1) = true ∧ (windowed []).plbCheck 0 .store 0x100 512 = .pass ∧ (0x100 : Nat) % 512 ≠ 0) ∧
    ((windowed []).ready (.wmap false 14 12 13 1) = true ∧ (windowed []).plbCheck 0 .store 0x200 512 = .pass ∧
      (windowed []).watchHit 0 .store [(0x200, 512)] = none ∧ zone 0x200 = .mem ∧
      (((windowed []).core 0).plbAt 0x200).all (fun e => !e.arena) = true ∧ devOf 0x200 = (windowed []).devnum ∧
      ((windowed []).home ((windowed []).homeAt ((windowed []).core 0) 512)).regionBusy 1 = false ∧
      (windowed []).windowOf ((windowed []).homeAt ((windowed []).core 0) 512) 1 = none) ∧
    (let s := (windowed []).modHome ((windowed []).homeAt ((windowed []).core 0) 512) (fun h => { h with windows := [(1, 7, 0)] })
     s.ready (.wmap false 14 12 13 1) = true ∧ (s.windowOf (s.homeAt (s.core 0) 512) 1).isSome = true ∧
      (s.home (s.homeAt (s.core 0) 512)).regionBusy 1 = false) ∧
    (let s := (windowed []).modHome ((windowed []).homeAt ((windowed []).core 0) 512) (fun h =>
        { h with waits := [⟨[], 0x200, 1, 1, [2], [], false, [], 0, none⟩] })
     s.ready (.wmap false 14 12 13 1) = true ∧ (s.home (s.homeAt (s.core 0) 512)).regionBusy 1 = true ∧
      nextWith (exec (.wmap false 14 12 13 1) s) (fun t => decide (t.me.wait = .wmap 1 ⟨true, false, 0x200, 0, 512, false, none, false⟩)) = true) ∧
    (let s := ((windowed []).modHart 0 (fun x => x.setG 12 (word (2 ^ 47 + 0x200)))).modCore 0 (fun c => { c with plb := c.plb ++ [pageOf (2 ^ 35) true false 0] })
     s.ready (.wmap false 14 12 13 1) = true ∧ s.plbCheck 0 .store (2 ^ 47 + 0x200) 512 = .pass ∧ s.watchHit 0 .store [(2 ^ 47 + 0x200, 512)] = none ∧
      zone (2 ^ 47 + 0x200) = .mem ∧ devOf (2 ^ 47 + 0x200) ≠ s.devnum) := by decide +kernel

theorem witness_HtwInstallsHandlers_waits :
    (let s := (imaged 0 0).modHart 0 (fun x => { x with loads := [⟨1, .g 20 8 false, true, [⟨0x200, 0, 0, none⟩], none, [], false⟩] })
     s.ready (.htw false 13 12 1) = true ∧ s.me.domain = 0 ∧ s.plbCheck 0 .load 0x200 16 = .pass ∧ s.watchHit 0 .load [(0x200, 16)] = none ∧
      s.me.loadHeld [(0x200, 16)] = true) ∧
    (away12.ready (.htw false 13 12 1) = true ∧ away12.me.domain = 0 ∧ away12.plbCheck 0 .load (2 ^ 47 + 0x200) 16 = .pass ∧
      away12.watchHit 0 .load [(2 ^ 47 + 0x200, 16)] = none ∧ away12.me.loadHeld [(2 ^ 47 + 0x200, 16)] = false ∧
      away12.peekHeld 0 (2 ^ 47 + 0x200) 16 = true ∧
      nextWith (exec (.htw false 13 12 1) away12) (fun t => decide (t.me.run = .blocked ∧ t.me.reads.length = 1)) = true) ∧
    ((imaged 0 0).me.loadHeld [(0x200, 16)] = false ∧ (imaged 0 0).peekHeld 0 0x200 16 = false) := by decide +kernel

theorem witness_WindowsMapAndDrain_reserved :
    let s := windowed [(1, ⟨true, true, 0, 0, 512, false, none, false⟩)]
    s.ready (.wmap false 14 0 3 1) = true ∧ (find 1 (s.core 0).windows).any (fun w => w.draining) = true ∧ (s.me.getG 3).toNat / 2 ^ 17 ≠ 0 ∧
      (s.me.getG 13).toNat / 2 ^ 17 = 0 ∧
      nextWith (exec (.wmap false 14 0 3 1) s) (fun t => decide (t.me.wait = .none ∧ t.me.run = .blocked)) = true := by decide +kernel

/-- Registers of a hart of priority 1 that is not privileged: g12 is 4, g13 is 3, g14 is 1. -/
def prios : State := user.modHart 0 (fun x => ((x.setG 12 4).setG 13 3).setG 14 1)

theorem witness_PriorityWrites :
    (prios.ready (.syw false 12 4) = true ∧ (prios.me.getG 12).toNat = 4) ∧
    (prios.ready (.syw false 13 4) = true ∧ prios.me.domain ≠ 0 ∧ prios.me.prio.toNat < (prios.me.getG 13).toNat) ∧
    (prios.ready (.syw false 14 4) = true ∧ (prios.me.getG 14).toNat ≤ prios.me.prio.toNat) := by decide +kernel

/-- g12 to g15 hold minima of 255 in every field, a value with a reserved bit, a multiple of 8 and 0. -/
def sysregs : State := regs.modHart 0 (fun x => ((x.setG 12 0xFFFFFFFFFFFFFFFF).setG 13 0x8000000000000000).setG 14 0x8000)

theorem witness_SystemRegistersReadAndWrite :
    (sysValue regs 0x10 = some 0 ∧ regs.ready (.syr false 12 0x10) = true ∧ (regs.core 0).mma = none) ∧
    (let s := regs.modCore 0 (fun c => { c with mma := some ⟨0, 0, false, none, 0, 0⟩ })
     s.ready (.syr false 12 0x10) = true ∧ (s.core 0).mma.any (fun j => j.hid == s.cur) = true) ∧
    (sysregs.ready (.syw false 13 0x8) = true ∧ sysregs.me.getG 13 &&& ~~~ sysBits 0x8 ≠ 0) ∧
    (let s := sysregs.modHart 0 (fun x => { x with domain := 5 })
     s.ready (.syw false 0 0x2) = true ∧ s.me.getG 0 &&& ~~~ sysBits 0x2 = 0 ∧ sysPrivileged 0x2 = true ∧ s.me.domain ≠ 0) ∧
    (sysregs.ready (.syw false 12 0x20) = true ∧ sysregs.me.getG 12 &&& ~~~ sysBits 0x20 = 0 ∧
      256 < (sysregs.writeSys 0 0x20 (sysregs.me.getG 12)).minima 0) ∧
    (sysregs.ready (.syw false 0 0x20) = true ∧ (sysregs.writeSys 0 0x20 0).minima 0 ≤ 256) ∧
    (sysregs.ready (.syw false 0 0x11) = true ∧ sysregs.me.getG 0 &&& ~~~ sysBits 0x11 = 0 ∧
      nextWith (exec (.syw false 0 0x11) sysregs) (fun t => decide (t.me.rng = 0x9E3779B97F4A7C15)) = true) ∧
    (sysregs.ready (.syw false 14 0x23) = true ∧ sysregs.me.getG 14 &&& ~~~ sysBits 0x23 = 0 ∧
      nextWith (exec (.syw false 14 0x23) sysregs) (fun t => decide (sysValue t 0x23 = some 0x8000)) = true) := by decide +kernel

theorem witness_TrapsParkAndWaitesWait :
    regs.ready (.trap false 6 0x3FF) = true ∧ (regs.ready (.brk false 5) = true ∧ (regs.cluster 0).dbg.haltOnBp = false) ∧
    (let s := regs.modCluster 0 (fun k => { k with dbg := { k.dbg with haltOnBp := true, cross := [9] } })
     s.ready (.brk false 5) = true ∧ (s.cluster 0).dbg.haltOnBp = true ∧
      nextWith (exec (.brk false 5) s) (fun t => (t.cluster 9).dbg.halted) = true) ∧
    (regs.ready (.waite false 12 0 0) = true ∧ (regs.me.getG 0).toNat ≤ regs.time.toNat) ∧
    (regs.ready (.waite false 12 0 0x205) = true ∧ (regs.core 0).count 5 = 0) ∧
    (let s := { full5 with time := 8 }
     s.ready (.waite false 12 1 0x205) = true ∧ (s.core 0).count 5 ≠ 0 ∧ s.me.wait = .none ∧ s.me.getG 1 ≠ 0 ∧ (s.me.getG 1).toNat ≤ s.time.toNat) ∧
    (let s := full5.modHart 0 (fun x => { x with preempt := some 0 })
     s.ready (.waite true 12 0 0x205) = true ∧ s.me.preempt.isSome = true) ∧
    (regs.ready (.waite true 12 2 0x1FF) = true ∧ (List.range 8).all (fun n => (regs.core 0).queue (queueAt 0 n) == []) = true ∧
      ¬ (regs.me.getG 2).toNat ≤ regs.time.toNat ∧ regs.me.preempt = none) := by decide +kernel

/-- Hart 5 is parked with sequence 2 on a bundle at 0x40; g12 is its handle, g13 one with an older sequence, g14 a device number too high,
g15 a reserved bit. -/
def parked : State := (regs.modHart 5 (fun x => { x with run := .parked, parkSeq := 2, trappc := 0x40, job := some Task.placed, park := .bundle true })).modHart 0
  (fun x => (((x.setG 12 0x200000005).setG 13 0x100000005).setG 14 0x900005).setG 15 0x1000005)

theorem witness_ResumeBringsHartsBack :
    (parked.ready (.resume false 16 15 0) = true ∧ (parked.me.getG 15).toNat / 2 ^ 24 % 256 ≠ 0) ∧
    (let s := parked.modHart 0 (fun x => { x with domain := 5 })
     s.ready (.resume false 16 12 0) = true ∧ s.me.domain ≠ 0) ∧
    (let s := parked.modHart 0 (fun x => { x with stores := storing.me.stores })
     s.ready (.resume false 16 12 0) = true ∧ s.me.storeHeld true = true) ∧
    (parked.ready (.resume false 16 14 0) = true ∧ 576 ≤ (parked.me.getG 14).toNat / 2 ^ 14 % 2 ^ 10) ∧
    (parked.ready (.resume false 16 13 0) = true ∧ (parked.hart 5).parkSeq.toNat ≠ (parked.me.getG 13).toNat / 2 ^ 32 % 2 ^ 16 ∧
      copyHartAt 5 = none ∧ parked.partOf 0 = parked.partOf (clusterOf 5)) ∧
    (parked.ready (.resume false 16 12 1) = true ∧ (parked.hart 5).run = .parked ∧
      (parked.hart 5).parkSeq.toNat = (parked.me.getG 12).toNat / 2 ^ 32 % 2 ^ 16 ∧ (parked.hart 5).park = .bundle true ∧
      nextWith (exec (.resume false 16 12 1) parked) (fun t => decide ((t.hart 5).pc = 0x50 ∧ t.me.getG 16 = 0)) = true) ∧
    (parked.ready (.resume false 16 12 2) = true ∧ parked.mayEnd 5 = true ∧
      (let s := parked.modHart 5 (fun x => { x with stores := storing.me.stores })
       s.ready (.resume false 16 12 2) = true ∧ s.mayEnd 5 = false)) := by decide +kernel

/-- Partition 0's primary fault service is handler 7 of core 2. -/
def served : State := (regs.setReg 0x1000 0x800000000000FFFF).setReg 0x1008 0x207

theorem witness_ParkingWritesTheTrapRegisters :
    (regs.cluster 0).dbg.trace = false ∧ regs.partOf? 0 = none ∧ served.partOf? 0 = some 0 ∧ served.trapService 0 false = some (0x207, false) ∧
      (0x207 : Nat) / 256 % 2 ^ 22 / 4096 = served.devnum := by decide +kernel

theorem witness_ResumeBringsHartsBack_bits :
    let s := parked.modHart 5 (fun x => { x with trappc := 0x47 })
    s.ready (.resume false 16 12 0) = true ∧ (s.hart 5).trappc &&& ~~~ 7 = 0x40 ∧ (s.hart 5).job = some Task.placed ∧ Task.placed.kind = .launch ∧
      nextWith (exec (.resume false 16 12 0) s) (fun t => decide ((t.hart 5).pc = 0x40 ∧ (t.hart 5).trappc = 0x47)) = true ∧
      nextWith (exec (.resume false 16 12 1) s) (fun t => decide ((t.hart 5).pc = 0x50 ∧ (t.hart 5).trappc = 0x50)) = true := by decide +kernel

/-- v1 to v3 hold floats 1.0 and 2.0, and consecutive bytes. -/
def vecs : State := regs.modHart 0 (fun x => ((x.setV 1 (pureElems 32 16 (fun _ => 0x3F800000))).setV 2 (pureElems 32 16 (fun _ => 0x40000000))).setV 3
  (pureElems 8 64 (fun k => BitVec.ofNat 8 k)))

theorem witness_VectorsHoldTheirElements :
    (0 < 4 ∧ 4 * 128 ≤ 512) ∧ lane (pureElems 4 128 (fun k => BitVec.ofNat 4 k)) 127 4 = 15 ∧
      (elementwise 8 2 true 5 (fun k d => (k + d, 1))).flags = 1 := by decide +kernel

theorem witness_FloatGroupsCompute :
    ((floatTwo (.vadd 3 1 2 0 0)).isSome = true ∧ vecs.ready (.vadd 3 1 2 0 0) = true ∧ (readTwo vecs vecs (elems .f32) (elems .f32) 1 2).isSome = true ∧
      nextWith (exec (.vadd 3 1 2 0 0) vecs) (fun t => decide (lane (t.me.getV 3) 15 32 = 0x40400000)) = true) ∧
    (vecs.ready (.vmul 33 1 2 0 0) = true ∧ queueTakes vecs (vecs.core 0) 0 (queueAt 0 1) 1 = true) ∧
    (let s := vecs.modCore 0 (fun c => { c with queues := [(1, List.replicate 16 0)] })
     s.ready (.vmul 33 1 2 0 0) = true ∧ queueTakes s (s.core 0) 0 (queueAt 0 1) 1 = false) ∧
    (vecs.ready (.vmin 3 36 2 0) = true ∧ (readTwo vecs vecs (elems .f32) (elems .f32) 36 2).isNone = true) ∧
    ((floatOne (.vabs 3 1 0)).isSome = true ∧ vecs.ready (.vabs 3 1 0) = true ∧ (readOne vecs vecs (elems .f32) 1).isSome = true) ∧
    ((floatOne (.vlog2 39 36 1 4)).isSome = true ∧ vecs.ready (.vlog2 39 36 1 4) = true ∧ (readOne vecs vecs (elems .f16) 36).isNone = true) ∧
    vecs.ready .nopa = true := by decide +kernel

theorem witness_AccumulatingGroupsCompute :
    ((fusedShape (.vfnma 3 1 2 0 1)).isSome = true ∧ vecs.ready (.vfnma 3 1 2 0 1) = true ∧
      (readTwo vecs vecs (elems .f32) (elems .f32) 1 2).isSome = true) ∧
    (vecs.ready (.vfma 3 1 36 0 1) = true ∧ (readTwo vecs vecs (elems .f32) (elems .f32) 1 36).isNone = true) ∧
    (vecs.ready (.vdot4 4 3 3 9 0) = true ∧ (readTwo vecs vecs (elems .z8) (elems .z8) 3 3).isSome = true ∧
      nextWith (exec (.vdot4 4 3 3 9 0) vecs) (fun t => decide (lane (t.me.getV 4) 1 32 = 16 + 25 + 36 + 49)) = true) ∧
    (vecs.ready (.vdot2 4 1 36 2 3) = true ∧ (readTwo vecs vecs (elems .bf16) (elems .bf16) 1 36).isNone = true) := by decide +kernel

theorem witness_IntegerGroupComputes :
    ((intTwo (.vimulh 3 1 2 12)).isSome = true ∧ vecs.ready (.vimulh 3 1 2 12) = true ∧ (readTwo vecs vecs (elems .s32) (elems .s32) 1 2).isSome = true) ∧
    ((intTwo (.vsra 33 3 3 8)).isSome = true ∧ vecs.ready (.vsra 33 3 3 8) = true ∧ (readTwo vecs vecs (elems .s8) (elems .s8) 3 3).isSome = true) ∧
    (vecs.ready (.viadd 3 36 2 14) = true ∧ (readTwo vecs vecs (elems .s64) (elems .s64) 36 2).isNone = true) := by decide +kernel

theorem witness_ComparesAndMasksWrite :
    (vecs.ready (.vfcmp 41 1 2 0 7) = true ∧ (readTwo vecs vecs (elems .f32) (elems .f32) 1 2).isSome = true) ∧
    (vecs.ready (.vfcmp 41 1 36 0 7) = true ∧ (readTwo vecs vecs (elems .f32) (elems .f32) 1 36).isNone = true) ∧
    (vecs.ready (.vicmp 47 3 3 8 5) = true ∧ (readTwo vecs vecs (elems .s8) (elems .s8) 3 3).isSome = true ∧
      nextWith (exec (.vicmp 47 3 3 8 5) vecs) (fun t => decide (t.me.getM 7 = BitVec.allOnes 64)) = true) ∧
    (vecs.ready (.vicmp 47 36 3 8 5) = true ∧ (readTwo vecs vecs (elems .s8) (elems .s8) 36 3).isNone = true) ∧
    vecs.ready (.mand 41 40 42) = true ∧ vecs.ready (.mor 41 40 42) = true ∧ vecs.ready (.mxor 47 47 47) = true ∧ vecs.ready (.mnot 41 40) = true ∧
    vecs.ready (.mpop 12 40) = true ∧ (vecs.ready (.mfirst 12 41) = true ∧ maskNamed vecs.me 41 = 0) ∧
    (vecs.ready (.mfirst 0 40) = true ∧ (maskNamed vecs.me 40).getLsbD 0 = true) := by decide +kernel

theorem witness_PermutesMoveElements :
    ((moveTwo vecs.me (.vunzip 3 1 2 8 1)).isSome = true ∧ vecs.ready (.vunzip 3 1 2 8 1) = true ∧
      (readTwo vecs vecs (elems .s8) (elems .s8) 1 2).isSome = true) ∧
    (vecs.ready (.vperm 3 36 2 8) = true ∧ (readTwo vecs vecs (elems .s8) (elems .s8) 36 2).isNone = true) ∧
    ((moveOne (.vslide 3 1 63 8)).isSome = true ∧ vecs.ready (.vslide 3 1 63 8) = true ∧ (readOne vecs vecs (elems .s8) 1).isSome = true) ∧
    (vecs.ready (.vbcast 3 36 0 8) = true ∧ (readOne vecs vecs (elems .s8) 36).isNone = true) ∧
    (vecs.ready (.vextr 0 3 63 8) = true ∧ (readOne vecs vecs (elems .s8) 3).isSome = true) ∧
    (vecs.ready (.vextr 12 36 7 14) = true ∧ (readOne vecs vecs (elems .s64) 36).isNone = true) := by decide +kernel

theorem witness_ReductionsReduce :
    (vecs.ready (.vrsum 12 1 0 0) = true ∧ (readOne vecs vecs (elems .f32) 1).isSome = true ∧
      nextWith (exec (.vrsum 12 1 0 0) vecs) (fun t => decide (t.me.getG 12 = 0x41800000)) = true) ∧
    (vecs.ready (.vrmax 12 3 8) = true ∧ (readOne vecs vecs (elems .s8) 3).isSome = true ∧ (Ty.of 8).isFloat = false) ∧
    (vecs.ready (.vrmin 0 1 0) = true ∧ (Ty.of 0).isFloat = true) ∧ vecs.ready (.virsum 12 3 8) = true := by decide +kernel

theorem witness_ConversionsConvert :
    (vecs.ready (.vcvt 4 1 1 12 1 7) = true ∧ (readOne vecs vecs (elems .s32) 1).isSome = true) ∧
    (vecs.ready (.vcvt 4 1 0 1 0 0) = true ∧ (readOne vecs vecs (elems .f16) 1).isSome = true) ∧
    (vecs.ready (.vpack 4 1 2 10) = true ∧ (readTwo vecs vecs (elems .s32) (elems .s32) 1 2).isSome = true) ∧
    (vecs.ready (.vunpack 4 3 1 11) = true ∧ (readOne vecs vecs (elems (unpackSource .z16)) 3).isSome = true) ∧
    (vecs.ready (.vqnt 4 1 15 7 0) = true ∧ (readOne vecs vecs (elems .bf16) 1).isSome = true) := by decide +kernel

theorem witness_SparseAndCodebookInstructions :
    (vecs.ready (.vpopx 12 1 2) = true ∧ (readTwo vecs vecs ⟨64, 8⟩ ⟨64, 8⟩ 1 2).isSome = true) ∧
    (vecs.ready (.vcompr 4 3 1 8) = true ∧ vecs.ready (.vexpnd 4 3 1 8) = true ∧ (readTwo vecs vecs (elems .s8) ⟨64, 8⟩ 3 1).isSome = true) ∧
    (vecs.ready (.vcbd 4 1 1 28 1) = true ∧ (vecs.core 0).loading1 = false ∧ (readOne vecs vecs (elems .cb2) 1).isSome = true) ∧
    (let s := vecs.modCore 0 (fun c => { c with loading0 := true })
     s.ready (.vcbd 4 1 0 30 0) = true ∧ (s.core 0).loading0 = true) := by decide +kernel

/-- Hart h has claimed the matrix unit of core 0, whose latches are in this state; g12 lies 0x800 below the end of the window. -/
def claimed (h : Nat) (st : LatchState) : State := (regs.modHart 0 (fun x => x.setG 12 0x00FF00000001F800)).modCore 0 (fun c =>
  { c with claim := some h, bl := Vector.replicate 2 ⟨st, 5, false, false, none⟩ })

theorem witness_MmaStartsItsProduct :
    (mmaShape (.mmaE4e4 1 4 1 3) = some (⟨.e4m3, .e4m3, 64⟩, 1, 4, 1, 0, 3) ∧ mmaShape (.mmaCb2e4 0 4 0 1 3) = some (⟨.cb2, .e4m3, 64⟩, 0, 4, 0, 1, 3)) ∧
    ((claimed 0 .full).ready (.mmaE4e4 1 4 1 3) = true ∧ (claimed 0 .full).ready (.mmaCb2e4 0 4 0 1 3) = true ∧
      (((List.range 32).map (fun r => (0x00FF000000001000 + r * 64, 64))).filterMap (fun r => outsideWindow r.1 r.2)).min? = none ∧
      ((claimed 0 .full).core 0).claim = some 0 ∧ (((claimed 0 .full).core 0).latch true).st = .full ∧ ((claimed 0 .full).core 0).mma = none ∧
      (claimed 0 .full).me.loads = [] ∧ (claimed 0 .full).me.stores = [] ∧ ((claimed 0 .full).core 0).loading1 = false) ∧
    (let s := (claimed 0 .full).modHart 0 (fun x => { x with stores := storing.me.stores })
     s.ready (.mmaE4e4 1 4 1 3) = true ∧ s.me.stores ≠ []) ∧
    ((claimed 0 .full).ready (.mmaE4e4 1 6 1 3) = true ∧ outsideWindow 0x100 64 = some 0x100) ∧
    ((claimed 2 .full).ready (.mmaE4e4 1 4 1 3) = true ∧ (claimed 2 .full).unitFree 0 = false) ∧
    (regs.ready (.mmaE4e4 1 4 1 3) = true ∧ regs.unitFree 0 = true ∧ (regs.core 0).claim = none) := by
  exact ⟨⟨rfl, rfl⟩, by decide +kernel⟩

theorem witness_ProductsAreExactAndRoundedOnce :
    (List.replicate 32 ([] : List FVal)).length = 32 := by decide +kernel

theorem witness_AccumulatorsClearStoreAndLoad :
    ((claimed 0 .full).ready (.mzero 3) = true ∧ ((claimed 0 .full).core 0).accBusy 3 = false ∧ (claimed 2 .full).ready (.mzero 3) = true ∧
      (claimed 2 .full).unitFree 0 = false) ∧
    ((claimed 0 .full).ready (.mst 1 12 7 0) = true ∧ outsideWindow 0x00FF00000001F800 512 = none ∧ ((claimed 0 .full).core 0).accBusy 1 = false ∧
      (claimed 0 .full).me.storeHeld true = false) ∧
    ((claimed 0 .full).ready (.mst 1 12 1 0) = true ∧ outsideWindow 0x00FF00000001F801 2048 = some 0x00FF000000020000) ∧
    ((claimed 0 .full).ready (.mld 1 4 8) = true ∧ outsideWindow 0x00FF000000001000 1024 = none ∧ (claimed 0 .full).me.loads = []) ∧
    ((claimed 0 .full).ready (.mld 1 6 8) = true ∧ outsideWindow 0x100 1024 = some 0x100) ∧
    ((claimed 2 .full).ready (.mld 1 4 8) = true ∧ (claimed 2 .full).ready (.mst 1 4 7 0) = true) := by decide +kernel

/-- The same with n entries in q5, whose cap is 32. -/
def tiled (n : Nat) : State := (claimed 0 .closed).modCore 0 (fun c => { c with queues := [(17, List.replicate n 9)], qcapShared := 0x10102010 })

theorem witness_LatchesAndBanksFill :
    ((claimed 0 .closed).ready (.bldMemory 12 1) = true ∧ outsideWindow 0x00FF00000001F800 2048 = none ∧
      ((claimed 0 .closed).core 0).latchBusy true = false ∧ (claimed 2 .closed).ready (.bldMemory 12 1) = true ∧
      (claimed 2 .closed).unitFree 0 = false ∧ (claimed 0 .closed).ready (.bldMemory 6 1) = true ∧ outsideWindow 0x100 2048 = some 0x100) ∧
    ((tiled 32).ready (.bldQueue 5 0) = true ∧ 32 ≤ queueCap (tiled 32) 0 (queueAt 0 5) ∧ ((tiled 32).core 0).claim = some 0 ∧
      ((tiled 32).core 0).latchBusy false = false ∧ (((tiled 32).core 0).queue 17).length = 32) ∧
    ((tiled 31).ready (.bldQueue 5 0) = true ∧ (((tiled 31).core 0).queue 17).length < 32) ∧
    ((tiled 32).ready (.bldQueue 4 0) = true ∧ queueCap (tiled 32) 0 (queueAt 0 4) < 32) ∧
    ((claimed 0 .full).ready (.bpass 0) = true ∧ (claimed 0 .full).ready (.bwait 1) = true ∧ (((claimed 0 .full).core 0).latch false).st = .full) ∧
    ((claimed 0 .closed).ready (.bpass 0) = true ∧ (claimed 0 .closed).ready (.bwait 1) = true ∧
      (((claimed 0 .closed).core 0).latch true).st = .closed) ∧
    (regs.ready (.cbld false 6 1) = true ∧ regs.plbCheck 0 .load 0x100 1024 = .pass ∧ regs.watchHit 0 .load [(0x100, 1024)] = none ∧
      regs.me.loadHeld [(0x100, 1024)] = false ∧ (regs.core 0).loading1 = false) ∧
    (regs.ready (.cbld false 4 0) = true ∧ regs.plbCheck 0 .load 0x00FF000000001000 1024 = .pass ∧ inLocal 0x00FF000000001000 1024 ∧
      regs.me.near = []) ∧
    (loading.ready (.cbld false 6 1) = true ∧ loading.plbCheck 0 .load 0x100 1024 = .pass ∧ loading.me.loadHeld [(0x100, 1024)] = true) ∧
    (let s := regs.modCore 0 (fun c => { c with loading1 := true })
     s.ready (.cbld false 6 1) = true ∧ (s.core 0).loading1 = true) := by
  unfold inLocal
  decide +kernel

/-- The unit of core 0 is free, with an old value in accumulator 2 and in the latches; g12 lies 0x800 below the end of the window. -/
def unclaimed : State := (claimed 0 .full).modCore 0 (fun c => { c with claim := none, acc := c.acc.set 2 7 })

/-- Core 0's latch 1 is OPEN, and a tile lands in it; or an MMA reads it. -/
def landing : State := (claimed 0 .opened).modCore 0 (fun c => { c with bl := c.bl.set 1 ⟨.opened, 5, false, true, none⟩ })
def reading : State := (tiled 32).modCore 0 (fun c => { c with mma := some ⟨0, 0, false, none, 0, 0⟩ })

theorem witness_AccumulatorsClearStoreAndLoad_claims :
    (unclaimed.ready (.mzero 3) = true ∧ unclaimed.unitFree 0 = true ∧ (unclaimed.core 0).claim = none ∧ (unclaimed.core 0).accBusy 3 = false ∧
      nextWith (exec (.mzero 3) unclaimed) (fun t => decide ((t.core 0).claim = some 0 ∧ (t.core 0).acc[2] = 0 ∧
        ((t.core 0).latch true).st = .closed)) = true) ∧
    (unclaimed.ready (.mst 1 12 7 0) = true ∧ outsideWindow 0x00FF00000001F800 512 = none ∧ (unclaimed.core 0).accBusy 1 = false ∧
      unclaimed.me.storeHeld true = false) ∧
    (unclaimed.ready (.mld 1 4 8) = true ∧ outsideWindow 0x00FF000000001000 1024 = none ∧ unclaimed.me.loads = [] ∧ unclaimed.me.stores = []) := by
  decide +kernel

theorem witness_LatchesAndBanksFill_claims :
    (unclaimed.ready (.bldMemory 12 1) = true ∧ outsideWindow 0x00FF00000001F800 2048 = none ∧
      ((unclaimed.core 0).claimedBy 0).latchBusy true = false ∧ unclaimed.me.loads = [] ∧ unclaimed.me.stores = [] ∧
      landing.ready (.bldMemory 12 1) = true ∧ ((landing.core 0).claimedBy 0).latchBusy true = true) ∧
    (let s := (tiled 32).modCore 0 (fun c => { c with claim := none })
     s.ready (.bldQueue 5 0) = true ∧ s.unitFree 0 = true ∧ ((s.core 0).claimedBy 0).latchBusy false = false ∧
      nextWith (exec (.bldQueue 5 0) s) (fun t => decide ((t.core 0).claim = some 0 ∧ ((t.core 0).latch false).st = .full)) = true) ∧
    (reading.ready (.bldQueue 5 0) = true ∧ reading.unitFree 0 = true ∧ 32 ≤ queueCap reading 0 (queueAt 0 5) ∧
      ((reading.core 0).claimedBy 0).latchBusy false = true) ∧
    (let s := (tiled 32).modCore 0 (fun c => { c with claim := some 2 })
     s.ready (.bldQueue 5 0) = true ∧ s.unitFree 0 = false) ∧
    (unclaimed.ready (.bpass 1) = true ∧ unclaimed.ready (.bwait 1) = true ∧ unclaimed.unitFree 0 = true ∧
      (((unclaimed.core 0).claimedBy 0).latch true).st = .closed ∧
      nextWith (exec (.bwait 1) unclaimed) (fun t => decide ((t.core 0).claim = some 0 ∧ ((t.core 0).latch true).st = .opened)) = true) ∧
    ((claimed 2 .full).ready (.bpass 1) = true ∧ (claimed 2 .full).ready (.bwait 1) = true ∧ (claimed 2 .full).unitFree 0 = false) ∧
    regs.me.wait ≠ .bank true := by decide +kernel

/-- Requests of core 0 to home 0. -/
def aStore : Req := .store 0 1 0x100 (cellsAt 0x100 [5, 6]) false
def aFill : Req := .fill [(0, some ⟨0, 9, 0⟩), (1, none)] 0x100 8 allShared true
def anAdd (posted : Bool) : Req := .atomic 0 1 0x100 .add 8 7 0 posted

/-- Home 0 of that device with a combining group of one integer add, opened at cycle 0, at cycle n. -/
def grouped (n : Nat) (rs : List Req) : State :=
  { (asked rs).modHome 0 (fun h => { h with groups := [⟨0x100, 8, false, 0, [(0, 1, 7)]⟩] }) with cycle := n }

/-- The request is the home's only one, and it is served. -/
def serving (s : State) (h : Nat) (r : Req) : Bool :=
  (s.home h).input == [r] && !s.homeBlocked h [] r && (s.home h).groups.all (fun g => !g.closedBy r) && !s.refusesReq h r
    && (s.windowOf h r.region).isNone

theorem serves_iff_serving (s : State) (h : Nat) (r : Req) : s.serves h r [] ↔ serving s h r = true := by
  simp [State.serves, serving, and_assoc]

theorem witness_HomesServeTheirRequests :
    ((asked [aStore]).serves 0 aStore [] ∧ ((asked [aStore]).home 0).dir = [] ∧ (0x100 : Nat) % 512 + 2 ≤ 512 ∧
      nextWith (exec (.homeStore 0) (asked [aStore])) (fun t => decide (heldByte (t.home 0).entries 0 0x101 = some 6)) = true) ∧
    (let s := (asked [aStore]).modHome 0 (fun h => { h with dir := [⟨0, 4, [], false⟩] })
     s.serves 0 aStore [] ∧ bit (4 : BitVec 256) 2 = true ∧
      nextWith (exec (.homeStore 0) s) (fun t => (t.cluster 2).down == [(0, .inval ⟨some 0, 0, 0x100, 0x102⟩)]) = true) ∧
    ((asked [aFill]).serves 0 aFill [] ∧ ((asked []).homeFetch 0 0 0x100 0x108 allShared).isSome = true ∧
      nextWith (exec (.homeFill 0) (asked [aFill])) (fun t => (t.cluster 0).down.length == 2) = true) ∧
    ((asked [.writeback 0 0x100 [1] 0 .priv 0 (some (0, 3))]).serves 0 (.writeback 0 0x100 [1] 0 .priv 0 (some (0, 3))) [] ∧
      ((asked []).physOf 0 0x100).isSome = true) ∧
    (asked [.writeback 0 0x100 [1] 0 .priv 0 none]).serves 0 (.writeback 0 0x100 [1] 0 .priv 0 none) [] ∧
    (asked [.clean 0 4 0x100 8]).serves 0 (.clean 0 4 0x100 8) [] ∧
    ((asked [anAdd false]).serves 0 (anAdd false) [] ∧ (((asked []).homeFetch 0 0 0x100 0x108 allShared).any (fun u =>
        heldPoison (u.home 0).entries 0 0x100 0x108 == 0)) = true ∧
      nextWith (exec (.farAtomic 0) (asked [anAdd false])) (fun t => decide (heldByte (t.home 0).entries 0 0x100 = some 7)) = true) ∧
    ((asked [anAdd true]).serves 0 (anAdd true) [] ∧ ((asked [anAdd true]).home 0).groups = []) ∧
    ((grouped 5 [anAdd true]).serves 0 (anAdd true) [] ∧ ((grouped 5 []).home 0).groups.all (fun g => g.takes (anAdd true)) = true) ∧
    (((grouped 63 []).home 0).waits = [] ∧ (grouped 63 []).cycle < 0 + 64) ∧
    (0 + 64 ≤ (grouped 64 []).cycle ∧ (((grouped 64 []).modHome 0 (fun h => { h with groups := [] })).homeFetch 0 0 0x100 0x108 allShared).any (fun u =>
        heldPoison (u.home 0).entries 0 0x100 0x108 == 0) = true ∧ ((grouped 64 []).home 0).dir = []) := by
  simp only [serves_iff_serving]
  decide +kernel

/-- Cluster 2 holds a shared copy of region 0 at its core 1 and has an invalidation of bytes 0x100 and 0x101 to make. -/
def trimmed : State := ((mapped.modCluster 2 (fun k => { k with filter := [⟨0, 2⟩], down := [(0, .inval ⟨some 0, 0, 0x100, 0x102⟩)] })).modCore 33 (fun c =>
  { c with nc := [⟨0, 0x100, 8, 0, 0, .shared, List.replicate 8 1, 0, 0, 0⟩] }))

/-- Home 0 waits for cluster 2 alone, for hart 0's store 1, and has its answer. -/
def waiting : State := mapped.modHome 0 (fun h => { h with waits := [⟨[(0, 1)], 0x100, 2, 0, [2], [], false, [], 0, none⟩], acks := [(0, 2, true)] })

/-- Hart 0's store 1 has its acknowledgement, with n pieces open; its old value goes to g20. -/
def acked (n : Nat) : State := mapped.modHart 0 (fun x =>
  { x with stores := [⟨1, 0x100, 8, n, false, some (20, 8, false), []⟩], acks := [⟨1, 77, none, 0x100, none⟩] })

/-- Core 0 is sent a reply for the load of hart 0 into g20. -/
def replied : State := (mapped.modCluster 0 (fun k => { k with down := [(0, .reply 0 ⟨0x100, [1, 2], 0, allShared, false, [⟨0, 9, 0⟩], false, 0⟩)] })).modHart 0 (fun x =>
  { x with loads := [⟨9, .g 20 2 true, false, [⟨0x100, 0, 0, none⟩, ⟨0x101, 1, 0, none⟩], none, [], false⟩] })

/-- Entries of core 0 that abut. -/
def abut : RangeEntry × RangeEntry := (⟨3, 0, 2, 0, 0, .shared, [1, 2], 0, 0, 0⟩, ⟨3, 2, 2, 0, 0, .shared, [3, 4], 0, 0, 0⟩)

theorem witness_SharersAndAnswersMove :
    (takeDown Down.isInval (trimmed.cluster 2).down = some (.inval ⟨some 0, 0, 0x100, 0x102⟩, []) ∧ (trimmed.cluster 2).sharers 0 = [1] ∧
      nextWith (exec (.invalidate 2) trimmed) (fun t => decide ((t.home 0).acks.length = 1 ∧ (t.core 33).nc.all (fun e => 0x102 ≤ e.lo) = true)) = true) ∧
    (find 5 trimmed.remoteFilter = none ∧ find 5 { trimmed with remoteFilter := [(5, (4 : BitVec 256))] }.remoteFilter = some 4 ∧
      bit (4 : BitVec 256) 2 = true) ∧
    ((waiting.home 0).acks = [(0, 2, true)] ∧ waiting.clusterHolds 2 0 = false ∧
      nextWith (exec (.invalidateAck 0) waiting) (fun t => decide ((t.hart 0).acks = [⟨1, 0, none, 0x100, none⟩])) = true ∧
      nextWith (exec (.invalidateTimeout 0 2) waiting) (fun t => decide ((t.hart 0).acks = [⟨1, 0, some .lost, 0x100, none⟩])) = true) ∧
    (let s := waiting.modHome 0 (fun h => { h with waits := [] })
     (s.home 0).acks = [(0, 2, true)] ∧ (s.home 0).waits = []) ∧
    (∀ w ∈ (waiting.home 0).waits, 3 ∉ w.clusters) ∧
    ((acked 1).hart 0).acks = [⟨1, 77, none, 0x100, none⟩] ∧ ((acked 1).hart 0).fence = none ∧ ((acked 2).hart 0).stores.map (fun p => p.pieces) = [2] ∧
    nextWith (exec (.ackReceived 0) (acked 1)) (fun t => decide ((t.hart 0).getG 20 = 77)) = true ∧
    ((takeDown (Down.isReplyTo 0) (replied.cluster 0).down).isSome = true ∧ (replied.hart 0).loads.length = 1 ∧
      nextWith (exec (.fillArrives 0) replied) (fun t => decide ((t.hart 0).getG 20 = 0x201)) = true) ∧
    (let s := mapped.modCluster 0 (fun k => { k with down := [(0, .reply 0 ⟨0x100, [1, 2], 0, allShared, true, [], false, 0⟩)] })
     (takeDown (Down.isReplyTo 0) (s.cluster 0).down).isSome = true) ∧
    (let s := mapped.modHome 0 (fun h => { h with waits := [⟨[(0, 1)], 0x100, 2, 0, [2, 3], [], false, [], 0, none⟩] })
     (s.home 0).waits.any (fun w => w.clusters.contains 2 && w.clusters.contains 3) = true ∧
      nextWith (exec (.invalidateTimeout 0 2) s) (fun t => decide ((t.home 0).waits.map (fun w => (w.clusters, w.failed)) = [([3], some .lost)])) = true) ∧
    (let s := mapped.modHome 0 (fun h => { h with entries := [abut.1, abut.2] })
     (s.home 0).entries = [abut.1, abut.2] ∧ homeSet abut.1.region = 0 ∧ abut.1.joins abut.2 = true) ∧
    (let s (n : Nat) : State := { mapped.modCluster 0 (fun k => { k with egress := [(0, aFill, 0)] }) with cycle := n }
     ((s 64).cluster 0).egress = [(0, aFill, 0)] ∧ 0 + 64 ≤ (s 64).cycle ∧ (s 63).cycle < 0 + 64) ∧
    (let s := mapped.modCore 0 (fun c => { c with nc := [abut.1, abut.2] })
     (s.core 0).nc = [abut.1, abut.2] ∧ ncSet abut.1.region = 3 ∧ abut.1.joins abut.2 = true) ∧
    (∀ x ∈ (trimmed.core 33).nc, ∀ y ∈ (trimmed.core 33).nc, ncSet x.region = 0 → x.joins y = false) ∧
    (let s := mapped.modCore 0 (fun c => { c with walks := [⟨0, 0x3000⟩] })
     (s.core 0).walks = [⟨0, 0x3000⟩] ∧ (s.walkUnit 0 0x3000).isSome = true) ∧
    (let s := mapped.modCore 0 (fun c => { c with walks := [⟨0, 0x40000000⟩] })
     (s.walkUnit 0 0x40000000).isNone = true) := by
  refine ⟨?_, ?_, ?_, ?_, ?_, ?_, ?_, ?_, ?_, ?_, ?_, ?_, ?_, ?_, ?_, ?_, ?_, ?_⟩ <;> decide +kernel

/-- The Bolt of cluster 2 with this input; its window starts where boltBaseOf says. -/
def bolted (rs : List Req) : State := mapped.modCluster 2 (fun k => { k with bolt := { k.bolt with input := rs } })

/-- Core 3's window 1 stands over region 8 with this request for it. -/
def fronted (r : Req) : State := (mapped.modHome 0 (fun h => { h with windows := [(8, 3, 1)] })).modCore 3 (fun c =>
  { c with windows := [(1, ⟨true, false, 0x1000, 512, 512, false, none, false⟩)], fwd := [(0, r)] })

/-- A window of core 3 that drains, with the counter that WUNMAP named. -/
def draining (ctr : Option Nat) (fwd : List (Nat × Req)) : State := (mapped.modHome 0 (fun h => { h with windows := [(8, 3, 1)] })).modCore 3 (fun c =>
  { c with windows := [(1, ⟨true, true, if ctr.isSome then 0 else 0x1000, 512, 512, false, ctr, false⟩)], fwd := fwd })

/-- Slot 3 of cluster 0's Sower serves a walk with these stacks and count. -/
def walking (fs : List (Nat × List (Nat × Nat))) (n : Nat) : State := mapped.modCluster 0 (fun k =>
  { k with walks := [(3, ⟨0, 0, 0, 0, fs, n, [9], [], false, none, []⟩)], slotGen := [(3, 2)] })

/-- Hart 0's PUB has its result. -/
def pubbed (r : Word) (busy : List PStore) : State := (mapped.modCluster 0 (fun k =>
  { k with walks := [(3, ⟨0, 0, 0, 0, [], 0, [], [], false, some r, []⟩)] })).modHart 0 (fun x => { x with busy := some (.pub 20), stores := busy })

/-- The page of address 0x20000000 is an arena page in the walk unit of die 0, its mask word zero. -/
def arenaCached (s : State) : State := s.modDie 0 (fun d => { d with walkCache := [⟨0x10, 4096, 0xBE0, 0, 0x30000, 0, 0x18000, false⟩] })

theorem witness_BoltsWindowsAndWalksAct :
    (126 + 2 ≤ 128 ∧ ((Cluster.reset.bolt).store 5 (cellsAt (128 * 5 + 126) [8, 9]) false).isSome = true) ∧
    (let a := mapped.boltBaseOf 2
     let s := bolted [.store 0 1 a (cellsAt a [4]) false]
     s.owns (s.partOf 0) a = true ∧ ((s.cluster 2).bolt.storeAll a (cellsAt a [4]) false).isSome = true ∧
      (let t := bolted [.fill [(0, none)] a 8 allShared true]
       (t.cluster 2).bolt.input = [.fill [(0, none)] a 8 allShared true] ∧ t.owns 0 a = true)) ∧
    (let s := fronted (.store 0 1 0x1000 (cellsAt 0x1000 [4]) false)
     s.windowOf 0 8 = some (3, 1) ∧ (find 1 (s.core 3).windows).isSome = true ∧ 512 + (0x1000 - 0x1000) + 1 ≤ localSize ∧
      nextWith (exec (.forwardedWindowAccess 3) s) (fun t => decide ((t.core 3).localByte 512 = 4)) = true) ∧
    (fronted (.fill [(0, none)] 0x1000 8 allShared true)).windowOf 0 8 = some (3, 1) ∧
    ((find 1 ((draining none []).core 3).windows).any (fun w => w.draining && !(draining none []).windowBusy 3 1 w) = true ∧
      (find 1 ((draining (some 5) []).core 3).windows).any (fun w => w.base == 0 && !(draining (some 5) []).windowBusy 3 1 w) = true ∧
      (find 1 ((draining none [(0, .clean 0 1 0x1000 8)]).core 3).windows).any (fun w =>
        (draining none [(0, .clean 0 1 0x1000 8)]).windowBusy 3 1 w) = true) ∧
    (((walking [] 0).cluster 0).servedWalk.isSome = true ∧ (walking [] 0).noticeClusters 0 0 ≠ []) ∧
    (((walking [(3, [(0x100, 8)])] 0).cluster 0).servedWalk.isSome = true ∧ (walking [(3, [(0x100, 8)])] 0).pubBit 0 [] 0x100 = none) ∧
    (let s := arenaCached (walking [(3, [(0x10000, 8)])] 4096)
     (s.cluster 0).servedWalk.isSome = true ∧ s.pubBit 0 [] 0x10000 = some false ∧ cookie 3 2 ≠ 0 ∧
      nextWith (exec (.sowerWalkStep 0) s) (fun t => (find 3 (t.cluster 0).walks).any (fun w => w.result == some (cookie 3 2))) = true) ∧
    (let s := (walking [] 0).modCluster 0 (fun k => { k with notices := [⟨3, [9], []⟩], walks := k.walks.map (fun w => (w.1, { w.2 with waiting := [0] })) })
     (s.cluster 0).notices = [⟨3, [9], []⟩] ∧ (find 3 (s.cluster 0).walks).any (fun w => w.waiting == [0] && w.hid != noHart) = true ∧
      (s.walkUnit 0 (9 * 4096)).isSome = true) ∧
    (((pubbed 0 storing.me.stores).hart 0).stores ≠ [] ∧ isCookie (0 : Word) = false ∧ isCookie (cookie 3 2) = true ∧
      nextWith (exec (.pubComplete 0) (pubbed 0 [])) (fun t => decide ((t.cluster 0).walks = [])) = true ∧
      nextWith (exec (.pubComplete 0) (pubbed (cookie 3 2) [])) (fun t => (find 3 (t.cluster 0).walks).any (fun w => w.suspended)) = true) ∧
    (let s := mapped.modHart 0 (fun x => { x with busy := some (.plbinv 20 0x10000 1 0 none [] []) })
     (∀ c ∈ s.scopeCores 0 0, s.accessesAt c 0x10000 4096 = []) ∧ s.writebackTo [0] 0x10000 4096 = false ∧
      nextWith (exec (.plbinvDrop (.own 0)) s) (fun t => decide ((t.hart 0).busy = none ∧ ((t.core 0).plbAt 0x10000).isNone = true)) = true) ∧
    (let s := mapped.modHart 0 (fun x => { x with busy := some (.plbinv 20 0 1 0 none [] []), stores := storing.me.stores })
     s.accessesAt 0 0 4096 = [1] ∧ ((s.core 0).plb.any (fun e => e.page == 0 && pageMeets e.page e.size 0 1)) = true ∧
      nextWith (exec (.plbinvDrop (.own 0)) s) (fun t => decide ((t.hart 0).busy = some (.plbinv 20 0 1 0 (some [(0, 4096)]) [1] []))) = true) := by decide +kernel

/-- A fill of the first bytes of region r, and home 0 with that request and a directory that holds region q alone, shared with device 1. -/
def fillOf (r : Nat) : Req := .fill [(0, none)] (512 * r) 8 allShared true
def crowded (r q : Nat) : State := (asked [fillOf r]).modHome 0 (fun h => { h with dir := List.replicate 8 ⟨q, 0, [1], false⟩ })

/-- A function from n + 1 numbers to n takes one value twice. -/
theorem meets_twice : ∀ (n : Nat) (f : Nat → Nat), (∀ x, x < n + 1 → f x < n) → ∃ i j, i < n + 1 ∧ j < n + 1 ∧ i ≠ j ∧ f i = f j
  | 0, f, h => absurd (h 0 (by omega)) (by omega)
  | n + 1, f, h => by
    by_cases hv : ∃ i, i < n + 1 ∧ f i = f (n + 1)
    · obtain ⟨i, hi, he⟩ := hv
      exact ⟨i, n + 1, by omega, by omega, by omega, he⟩
    · have hne : ∀ i, i < n + 1 → f i ≠ f (n + 1) := fun i hi he => hv ⟨i, hi, he⟩
      obtain ⟨i, j, hi, hj, hij, he⟩ := meets_twice n (fun x => if f x = n then f (n + 1) else f x) (fun x hx => by
        have h1 := h x (by omega)
        have h2 := h (n + 1) (by omega)
        have h3 := hne x hx
        split <;> omega)
      refine ⟨i, j, by omega, by omega, hij, ?_⟩
      have h4 := hne i hi
      have h5 := hne j hj
      split at he <;> split at he <;> omega

/-- Two of the first 513 regions stand in one set of the directory. -/
theorem dirSet_meets : ∃ r q, r < 513 ∧ r ≠ q ∧ dirSet r = dirSet q :=
  let ⟨r, q, hr, _, hne, he⟩ := meets_twice 512 dirSet (fun _ _ => Nat.mod_lt _ (by decide))
  ⟨r, q, hr, hne, he⟩

theorem serving_fillOf : (List.range 513).all (fun r => serving (crowded r 0) 0 (fillOf r)) = true := by decide +kernel

theorem witness_HomesServeTheirRequests_devices :
    ∃ r q, (crowded r q).serves 0 (fillOf r) [] ∧ ((crowded r q).awaitDir 0 [512 * r / 512]).isSome = true := by
  obtain ⟨r, q, hr, hne, hset⟩ := dirSet_meets
  have hs := List.all_eq_true.mp serving_fillOf r (List.mem_range.mpr hr)
  refine ⟨r, q, (serves_iff_serving _ _ _).mpr hs, ?_⟩
  have hd : ((crowded r q).home 0).dir = List.replicate 8 ⟨q, 0, [1], false⟩ := rfl
  have he : [r].eraseDups = [r] := rfl
  have h1 : ([dirSet q] : List Nat).eraseDups = [dirSet q] := rfl
  have hw : ((crowded r q).home 0).waits = [] := rfl
  simp [State.awaitDir, State.dirVictims, hd, he, h1, hw, hset, Ne.symm hne, DirEntry.devices]

theorem witness_HomesServeTheirRequests_room : (asked [aFill]).serves 0 aFill [] ∧ (asked [aFill]).dirVictims 0 [0] = [] := by
  simp only [serves_iff_serving]
  decide +kernel

/-- Engine 5 (a unit) waits for one answer, which has come. -/
def unitWaits : State := { mapped with posted := [(5, ⟨1, [⟨none, none, [(0x100, 7)]⟩], none, []⟩)] }

theorem witness_SharersAndAnswersMove_units :
    ((unitWaits.postedOf 5).acks.length = 1 ∧
      nextWith (exec (.ackReceived (2 ^ 26 + 5)) unitWaits) (fun t => (t.postedOf 5).left == 0 && (t.postedOf 5).bytes == [(0x100, 7)]) = true) ∧
    (let s : State := { mapped.modCluster 0 (fun k => { k with egress := [(deviceSender 1, .fill [(0, none)] (2 ^ 47) 8 allShared true, 0)] }) with cycle := 64 }
     (s.cluster 0).egress.length = 1 ∧ 0 + 64 ≤ s.cycle ∧
      nextWith (exec (.egressCombineTimeout 0) s) (fun t => (t.cluster 0).egress.isEmpty && t.out.length == 1 && !t.remoteFilter.isEmpty) = true) ∧
    (let s := mapped.modCore 0 (fun c => { c with walks := [⟨noHart, 0x40000000⟩] })
     (s.core 0).walks = [⟨noHart, 0x40000000⟩] ∧ (s.walkUnit 0 0x40000000).isNone = true) := by decide +kernel

/-- A window of core 3 over memory of another device that drains. -/
def awayWindow : State := (draining none []).modCore 3 (fun c => { c with windows := [(1, ⟨true, true, 2 ^ 47 + 0x1000, 512, 512, false, none, false⟩)] })

theorem witness_BoltsWindowsAndWalksAct_waits :
    ((find 1 (awayWindow.core 3).windows).any (fun w => w.draining && !awayWindow.windowBusy 3 1 w && awayWindow.spansOut w && !w.away) = true ∧
      (awayWindow.core 3).wmaps = [] ∧
      nextWith (exec (.wunmapDrainComplete 3 1) awayWindow) (fun t => (find 1 (t.core 3).windows).any (fun w => w.away)) = true) ∧
    (let s : State := { draining none [] with posted := [(windowUnit 3, ⟨1, [], none, []⟩)] }
     s.settled (windowUnit 3) = false ∧ (find 1 (s.core 3).windows).any (fun w => !s.windowBusy 3 1 w) = true ∧
      (draining none []).settled (windowUnit 3) = true ∧
      nextWith (exec (.wunmapDrainComplete 3 1) s) (fun t => (find 1 (t.core 3).windows).isSome) = true) ∧
    (let s : State := { pubbed 0 [] with posted := [(sowerUnit 0 3, ⟨1, [], none, []⟩)] }
     s.settled (sowerUnit 0 3) = false ∧ (pubbed 0 []).settled (sowerUnit 0 3) = true ∧
      nextWith (exec (.pubComplete 0) s) (fun t => (t.hart 0).busy.isSome) = true) ∧
    (let s := (pubbed 0 []).modHart 0 (fun x => { x with safeAt := some 0, preempt := some 0, run := .running })
     (s.hart 0).safeAt = some 0 ∧ (s.hart 0).preempt.isSome = true ∧ (s.hart 0).busy = some (.pub 20)) ∧
    (let s := mapped.modHart 0 (fun x => { x with busy := some (.plbinv 20 0x10000 1 3 none [] []) })
     (s.hart 0).safeAt = none ∧
      nextWith (exec (.plbinvDrop (.own 0)) s) (fun t => decide ((t.hart 0).busy.isSome = true ∧ (t.core 0).plbAt 0x10000 = none)) = true) := by decide +kernel

/-- Core 3's port holds this message from core 0 with 20 bytes; its handler 0 has a ring of 256 bytes, counter 5 reads 3. -/
def arriving (h0 h1 : Word) (hs : List (Nat × Handler)) : State := mapped.modCore 3 (fun c =>
  { c.setCount 5 3 with port := [.msg h0 h1 (List.replicate 20 7) [] .plain none 0], handlers := hs })

/-- Core 0 has these ready tasks and forks; hart 1 is free. -/
def offered (runq deque : List (Nat × Task)) : State := mapped.modCore 0 (fun c => { c with runq := runq, deque := deque })

/-- Die 0 has one pinned launch of a single task to admit. -/
def admitting : State := mapped.modDie 0 (fun d => { d with admission := [⟨[0, 0, 0, 0x8000000, 0, 0, 0, 0], 0, 0, 0⟩] })

/-- Hart 0 may save its task and was asked to vacate at time 5; the time is n. -/
def vacating (n : Word) : State :=
  { mapped.modHart 0 (fun x => { x with ctxbase := 0x8000, preempt := some 5 }) with time := n }

/-- The task of hart 0 has gone to core 2's hart 1, whose load 9 waits for what core 0 received late. -/
def moved : State := (mapped.modCore 0 (fun c =>
  { c with lateReplies := [(9, ⟨0x100, [1, 2], 0, allShared, false, [⟨0, 9, 0⟩], false, 0⟩)], forwards := [⟨2, [9]⟩] })).modHart 9 (fun x =>
    { x with loads := [⟨9, .g 20 2 false, false, [⟨0x100, 0, 0, none⟩, ⟨0x101, 1, 0, none⟩], none, [], true⟩] })

theorem witness_ArrivalsAndTasksMove :
    (let s := arriving 0x50000 0xC [(0, handler (2 ^ 63) 0 256 0)]
     hdrChannel 0x50000 = false ∧ s.mappedOut 0 = false ∧ hdrPart 0xC = s.partOf 0 ∧ hdrXform 0x50000 = 0 ∧
      ((s.core 3).handler? 0).any (fun h => h.off + 32 ≤ ringBase h.w1 + ringSize h.w0 && 32 ≤ h.free) = true ∧
      hdrDecrement 0x50000 < (s.core 3).count 5 ∧
      nextWith (exec (.messageArrival 3) s) (fun t => decide ((t.core 3).localByte 19 = 7 ∧ (t.core 3).count 5 = 2)) = true) ∧
    (let s := arriving 0x50000 0xC []
     (s.core 3).handler? 0 = none ∧ hdrSource 0xC / 16384 = s.devnum ∧ hdrSource 0xC / 4 % 4096 ≠ 3 ∧
      nextWith (exec (.messageArrival 3) s) (fun t => decide ((t.core 0).port.length = 1)) = true) ∧
    (let s := arriving 0x50081 0xC []
     hdrChannel 0x50081 = true ∧ hdrXform 0x50081 = 0 ∧ 1 ≤ queueCap s 3 1 ∧ queueTakes s (s.core 3) 3 1 1 = true ∧
      hdrDecrement 0x50081 < (s.core 3).count 5 ∧
      nextWith (exec (.channelPacketArrival 3) s) (fun t => decide (((t.core 3).queue 1).length = 1 ∧ (t.core 3).count 5 = 2)) = true) ∧
    (let s := mapped.modCore 3 (fun c => { c.setCount 5 3 with port := [.count 5 1 0] })
     (s.core 3).port = [.count 5 1 0] ∧ 1 < (s.core 3).count 5) ∧
    (let s := offered [(0, Task.placed)] []
     (s.hart 1).run = .free ∧ s.fatal = false ∧ s.mappedOut 0 = false ∧ (s.core 0).ending = [] ∧ (s.cluster 0).dbg.halted = false ∧ s.nextReady 1 = some (0, Task.placed) ∧
      Task.placed.saved = none ∧ nextWith (exec (.taskDispatch 1) s) (fun t => decide ((t.hart 1).run = .running)) = true) ∧
    (let s := offered [] [(0, Task.placed)]
     (s.core 0).runq = [] ∧ (s.core 0).deque = [] ++ [(0, Task.placed)] ∧ (s.core 0).room = true ∧
      0 + 4096 ≤ ({ s with cycle := 4096 } : State).cycle ∧ s.cycle < 0 + 4096) ∧
    ((mapped.core 0).runq = [] ∧ (mapped.hart 1).run = .free) ∧
    ((mapped.die 0).admission = [] ∧ (admitting.die 0).admission.length = 1 ∧ bit (0x8000000 : Word) 27 = true ∧
      admitting.eligible 0 0 [0, 0, 0, 0x8000000, 0, 0, 0, 0] ≠ [] ∧ admitting.isReady 0 = true ∧ (admitting.core 0).room = true ∧
      nextWith (exec (.drillCycle 0) admitting) (fun t => decide ((t.core 0).runq.length = 1 ∧ (t.die 0).admission = [])) = true) ∧
    ((mapped.hart 0).preempt = none ∧ (mapped.hart 0).freeSlot = none ∧
      (let s := (mapped.modHart 0 (fun x => { x with ctxbase := 0x8000 }))
       (s.hart 0).run = .running ∧ (s.hart 0).job.isSome = true ∧ (s.hart 0).freeSlot = some 0)) ∧
    (((vacating 100004).hart 0).preempt = some 5 ∧ (vacating 100004).time.toNat < (5 : Word).toNat + 100000 ∧
      (5 : Word).toNat + 100000 ≤ (vacating 100005).time.toNat ∧ ((vacating 100005).hart 0).freeSlot = some 0 ∧
      ((vacating 100005).core 0).claim = none ∧
      (vacating 100005).imageFault 0 .store 0x8000 (((vacating 100005).saveImage 0 0 (BitVec.allOnes 32) (BitVec.allOnes 32) true false).map
        (fun p => (p.1, p.2.length))) = none) ∧
    (let s := mapped.modCore 0 (fun c => { c with ctxIn := [⟨[], ⟨0, 0, 0x8000, 0⟩, Task.placed⟩] })
     (s.core 0).ctxIn.length = 1) ∧
    ((moved.core 0).forwards = [⟨2, [9]⟩] ∧ moved.tasksAt 0 = [] ∧ moved.usedCores.all (fun e => e == 2 || !moved.lateWanted e 9) = true ∧ (∀ k, k < 4 → (moved.hart (4 * 0 + k)).loads = []) ∧ (moved.hart 9).loads.length = 1 ∧ (List.range 4).all (fun j => j == 1 || (moved.hart (4 * 2 + j)).loads == []) = true ∧
      nextWith (exec (.loadReplyForwarded 0) moved) (fun t => decide ((t.hart 9).getG 20 = 0x201)) = true) ∧
    (let s := moved.modCore 0 (fun c => { c with forwards := [] })
     (s.core 0).lateReplies.length = 1 ∧ (s.core 0).forwards = [] ∧ s.tasksAt 0 = []) ∧
    (let s := mapped.modHart 0 (fun x => { x with wait := .event 20 0x205 0, run := .blocked })
     (s.hart 0).wait = .event 20 0x205 0 ∧ (0 : Word).toNat ≤ s.time.toNat ∧ s.time.toNat < (3 : Word).toNat) := by
  refine ⟨?_, ?_, ?_, ?_, ?_, ?_, ?_, ?_, ?_, ?_, ?_, ?_, ?_, ?_⟩ <;> decide +kernel

/-- Hart 0 has machine checks to take. -/
def checked0 (run : RunState) : State := mapped.modHart 0 (fun x => { x with mchecks := [0x100, 0x200], run := run })

/-- Hart 0 has an error in the word of g2 that core 0's scrubber comes to next. -/
def marred (flips : BitVec 40) : State := (mapped.modHart 0 (fun x => { x with errs := [⟨0, 2, 0, flips, false⟩] })).modCore 0 (fun c =>
  { c with scrubPos := 4 })

/-- Core 0's latch 0 has a tile to hand off, and core 1's latch 0 is in this state. -/
def handing (st : LatchState) : State := (mapped.modCore 0 (fun c => { c with bl := Vector.replicate 2 ⟨.sending, 5, true, false, none⟩ })).modCore 1 (fun c =>
  { c with claim := some 4, bl := Vector.replicate 2 ⟨st, 0, false, false, none⟩ })

/-- Slot 1 of cluster 0's Gleaner holds this walk; descriptor word 1 and 7 point into mapped memory, whose byte 0x40 is 2. -/
def visiting (f : GleanWalk → GleanWalk) (ctr : Nat) : State := (({ mapped with mem := (0x40, 2) :: mapped.mem }).modCore 0 (fun c => c.setCount 0 ctr)).modCluster 0
  (fun k => { k with glean := [(1, f { mapped.newWalk 0 1 0x200 [0, 0x100, 0, 0, 0, 0, 0, 0x40] (handler (2 ^ 63) 0 100 30) with
    todo := [0, 1], pinned := true, cid := 0 })] })

theorem witness_UnitsActOnTheirOwn :
    ((mapped.hart 0).mchecks = [] ∧ ((checked0 .parked).hart 0).run = .parked ∧ ((checked0 .running).hart 0).mchecks = [0x100, 0x200] ∧
      nextWith (exec (.machineCheck 0) (checked0 .running)) (fun t => decide ((t.hart 0).faddr = 0x100 ∧ (t.hart 0).run = .parked)) = true) ∧
    ((1 : BitVec 40) ≠ 0 ∧ bit (mapped.hart 0).regmask 31 = true ∧ (mapped.hart 0).errs = [] ∧
      nextWith (exec (.softError (.regWord 0 0 31 1 1)) mapped) (fun t => decide ((t.hart 0).getG 31 = 0x100000000)) = true) ∧
    (((marred 1).hart 0).errs = [⟨0, 2, 0, 1, false⟩] ∧ scrubPlace (((marred 1).core 0).scrubPos % 592) = (0, 2, 0) ∧
      ((marred 1).hart 0).twinned 0 2 = false ∧ (⟨0, 2, 0, 1, false⟩ : RegErr).parityBits % 2 = 1 ∧ (⟨0, 2, 0, 1, false⟩ : RegErr).secdedBits ≤ 1 ∧
      1 < (⟨0, 2, 0, 3, false⟩ : RegErr).secdedBits ∧
      nextWith (exec (.scrubWord 0) (marred 3)) (fun t => decide ((t.hart 0).errs = [⟨0, 2, 0, 3, true⟩])) = true ∧
      nextWith (exec (.scrubWord 0) (marred 1)) (fun t => decide ((t.hart 0).getG 2 = 8)) = true) ∧
    ((mapped.core 0).mma = none ∧ (let s := mapped.modCore 0 (fun c => { c with claim := some 0, mma := some ⟨0, 1, false, none, 6, 1⟩ })
      (s.core 0).claim = some 0 ∧ nextWith (exec (.mmaComplete 0) s) (fun t => decide ((t.core 0).acc[1] = 6 ∧ (t.hart 0).fflags = 1)) = true)) ∧
    ((handing .opened).handoffReady 0 false = true ∧ (handing .closed).handoffReady 0 false = false ∧
      (((handing .closed).core 0).latch false).pass = true ∧ (((handing .closed).core 1).latch false).pass = false) ∧
    (let s := (handing .opened).modCore 1 (fun c => { c with bl := Vector.replicate 2 ⟨.opened, 0, false, false, some 5⟩ })
     ((s.core 1).latch false).landing = some 5 ∧ ((s.core 1).latch false).pass = false ∧ (s.core 1).claim.isSome = true ∧
      ((mapped.core 1).latch false).landing = none) ∧
    (¬ (Config.idlePower < mapped.floor) ∧ (mapped.core 0).mma = none ∧ mapped.runsPinned 0 = false ∧ mapped.mappedOut 0 = false ∧ mapped.fatal = false) ∧
    ((visiting (fun w => { w with state := 1 }) 3).cluster 0).glean.length = 1 ∧
    (let s := visiting (fun w => { w with desc := [0, 0, 0, 0, 0, 0, 0, 0x40000000] }) 3
     (find 1 (s.cluster 0).glean).any (fun w => w.state == 0 && w.issuing == none && w.reissue == [] && (s.gleanRead (gleanUnit 0 1 w.gen) w 0x40000000 1).isNone) = true ∧
      s.devHeld false 0x40000000 1 = false) ∧
    (let s := visiting (fun w => { w with todo := [1] }) 3
     (find 1 (s.cluster 0).glean).any (fun w => s.gleanRead (gleanUnit 0 1 w.gen) w 0x40 1 == some 2) = true ∧ s.devHeld false 0x40 1 = false ∧ 1 < (s.core 0).count 0 ∧
      nextWith (exec (.gleanerVisit 0 1) s) (fun t => decide ((t.core 0).count 0 = 2)) = true) ∧
    (let s := visiting id 3
     (find 1 (s.cluster 0).glean).any (fun w => s.gleanRead (gleanUnit 0 1 w.gen) w 0x100 4 == some 0 && s.gleanCore 0 w == some 0 && w.pinned) = true ∧ s.devHeld false 0x100 4 = false ∧
      nextWith (exec (.gleanerVisit 0 1) s) (fun t => decide ((t.core 0).runq.length = 1)) = true) ∧
    (let s := (List.range 16).foldl (fun (s : State) c => s.modCore c (fun y => { y with reservedRunq := 64 })) (visiting id 3)
     (find 1 (s.cluster 0).glean).any (fun w => (s.gleanCore 0 w).isNone) = true ∧
      nextWith (exec (.gleanerVisit 0 1) s) (fun t => (find 1 (t.cluster 0).glean).any (fun w => w.issuing.isSome)) = true) ∧
    (let s (n : Nat) : State := { visiting (fun w => { w with todo := [], passOpen := false, passStart := 5, deferred := [4] }) 3 with cycle := n }
     (find 1 ((s 0).cluster 0).glean).any (fun w => w.state == 0 && !w.passOpen && w.deferred != []) = true ∧ (s 516).cycle < 5 + 512 ∧
      5 + 512 ≤ (s 517).cycle) := by decide +kernel

/-- Three of four harts have arrived at barrier 2 of cluster 0; hart 0, of their launch and running, has not, and its core's clock is 1200 MHz. -/
def lagging : State :=
  let t : Task := { Task.placed with launch := some ⟨0, 3⟩ }
  (([4, 8, 12].foldl (fun (s : State) h => s.modHart h (fun x => { x with run := .blocked, wait := .bar 2, job := some t })) tables).modHart 0
    (fun x => { x with run := .running, job := some t })).modCluster 0 (fun k => { k with barriers := [(2, ⟨4, [4, 8, 12]⟩)] })

theorem witness_UnitsActOnTheirOwn_boosts :
    lagging.clusters.map (fun y => y.1) = [0] ∧ lagging.laggards 0 = [(2, 0)] ∧ (∀ d, d < 4 → (lagging.die d).launches = []) ∧
      (lagging.core 0).clamped = [] ∧ (lagging.core 0).clockMHz < 2100 ∧ (∀ k ∈ tables.clusters, tables.laggards k.1 = []) := by decide +kernel

/-- The first GiB is of memory. -/
theorem zone_low (a : Nat) (h : a < 2 ^ 30) : zone a = .mem := by
  have hm : devLocal a = a := Nat.mod_eq_of_lt (by omega)
  simp only [zone, hm, localBase, boltBase, peerBase]
  rw [if_neg (by omega), if_neg (by omega), if_neg (by omega), if_neg (by omega)]

theorem leafOk_low (w0 w1 : Word) (a : Nat) (h : a < 2 ^ 30) : leafOk w0 w1 a = leafOk w0 w1 0 := by
  simp only [leafOk, unplaced, zone_low a h, zone_low 0 (by decide)]

/-- In those tables every address of the first GiB has the one leaf. -/
theorem walkTables_tables (a : Nat) (h : a < 2 ^ 30) : tables.walkTables a = tables.walkTables 0 := by
  have h1 : devOf a = devOf 0 := by unfold devOf; omega
  have h2 : devLocal a / 2 ^ 39 = devLocal 0 / 2 ^ 39 := by unfold devLocal; omega
  have h4 : ∀ x, x < 2 ^ 30 → x / 2 ^ 30 = 0 := by omega
  have h5 : bf (tables.hbmWord 0 (pteAddr (tables.hbmWord 0 (tables.tableRoot 0)))) 10 2 = 2 := by decide +kernel
  have h6 : tables.walkFrom (devOf 0) a 2 (pteAddr (tables.hbmWord (devOf 0) (tables.tableRoot (devOf 0) + 16 * (devLocal 0 / 2 ^ 39))))
      = tables.walkFrom (devOf 0) 0 2 (pteAddr (tables.hbmWord (devOf 0) (tables.tableRoot (devOf 0) + 16 * (devLocal 0 / 2 ^ 39)))) := by
    have e : devLocal 0 / 2 ^ 39 = 0 := rfl
    have e' : devOf 0 = 0 := rfl
    simp only [e, e', State.walkFrom, leafOk_low _ _ a h, Nat.mul_zero, Nat.add_zero, h4 a h, Nat.reduceAdd, Nat.reduceMul, Nat.zero_div, Nat.zero_mod, h5]
  simp only [State.walkTables, h1, h2, h6]

/-- There no access of a copy hart for partition 0 to the first GiB fails. -/
theorem engineFails_tables (e : Nat) (x : Engine) (he : e < 1024) (c : Cmd) (hp : c.part = 0) (a : Nat) (h : a < 2 ^ 30) :
    (tables.setEngine e x).engineFails e c .load a = false ∧ (tables.setEngine e x).engineFails e c .store a = false := by
  obtain ⟨l, hl, hr, hw, hg, ha, hph, hpc, hdie⟩ : ∃ l, tables.walkTables 0 = some l ∧ l.plb.r = true ∧ l.plb.w = true ∧ l.plb.glob = true ∧ l.plb.page = 0 ∧ l.phys = 0 ∧ l.plb.placeCluster = false ∧ l.plb.die = 0 :=
    ⟨(tables.walkTables 0).get (by decide +kernel), by decide +kernel⟩
  have hm : devLocal a = a := Nat.mod_eq_of_lt (by omega)
  have hz : zone a = .mem := zone_low a h
  have hd : devOf a = 0 := by unfold devOf; omega
  unfold State.setEngine
  rw [if_pos he]
  generalize hs : (tables.modCluster (e / 4) _) = s
  have hmgmt : s.mgmt = tables.mgmt := by rw [← hs]; rfl
  have hmem : s.mem = tables.mem := by rw [← hs]; rfl
  have hwk : s.walkTables a = some l := by
    rw [← hl, ← walkTables_tables a h, ← hs]
    rfl
  have hn : s.devnum = 0 := by rw [← hs]; show tables.devnum = 0; decide +kernel
  have ho : s.owns 0 a = true := by
    have h0 : bit (s.partWord 0 0) 63 = true := by rw [← hs]; show bit (tables.partWord 0 0) 63 = true; decide +kernel
    have h2 : bf (s.partWord 0 2) 0 47 = 0 := by rw [← hs]; show bf (tables.partWord 0 2) 0 47 = 0; decide +kernel
    have h3 : bf (s.partWord 0 3) 0 48 = 0x800000000000 := by rw [← hs]; show bf (tables.partWord 0 3) 0 48 = 0x800000000000; decide +kernel
    simp only [State.owns, h0, h2, h3, hm, Bool.true_and, Nat.zero_le, decide_true]
    exact decide_eq_true (by omega)
  have hb : (s.devByte a).isSome = true := by
    have hh : ∀ n, s.home n = Home.reset := fun n => by rw [← hs]; rfl
    have hx : (s.die (homeSlice l.plb a / 512)).walkCache = [] := by rw [← hs]; rfl
    have hst : s.stackOut a = false := by
      have : s.reg 0x240 = 0 := by rw [← hs]; show tables.reg 0x240 = 0; decide +kernel
      simp [State.stackOut, this]
    have hf : s.frameOut a = false := by
      rw [State.frameOut, hst, Bool.or_false]
      exact decide_eq_false (by show ¬ 576 * 2 ^ 30 ≤ a; omega)
    have hgo : s.groupOut (homeSlice l.plb a / 8) = false := by
      have hr : s.reg 0x220 = 0 := by rw [← hs]; show tables.reg 0x220 = 0; decide +kernel
      have hlt : homeSlice l.plb a < 2 ^ 9 := by
        simp only [homeSlice, hpc, hdie, Bool.false_eq_true, if_false, Nat.mul_zero, Nat.zero_add]
        exact Nat.xor_lt_two_pow (Nat.xor_lt_two_pow (Nat.mod_lt _ (by decide)) (Nat.mod_lt _ (by decide))) (Nat.mod_lt _ (by decide))
      have hk : homeSlice l.plb a / 8 / 64 = 0 := by omega
      simp [State.groupOut, hk, hr, bit]
    have hp : s.physOf (homeSlice l.plb a) a = some a := by
      simp [State.physOf, hh, Home.reset, State.walkUnit, hx, hwk, ha, hph]
    simp [State.devByte, hz, hd, hn, hwk, State.unitLeaf, State.homeByte, State.windowOf, hh, Home.reset, heldByte, State.hbmAt, hp, hf, State.homeRefuses, hgo]
  have hp0 : c.part.toNat = 0 := by rw [hp]; rfl
  obtain ⟨b, hb⟩ := Option.isSome_iff_exists.mp hb
  simp [State.engineFails, State.reachesOut, State.isolates, elsewhere, hz, State.allowed, hwk, PlbEntry.matches, PlbEntry.allows, hr, hw, hg, hd, hn, hp0, ho, hb]

theorem engineFault_tables (e : Nat) (x : Engine) (he : e < 1024) (c : Cmd) (hp : c.part = 0) (a n : Nat) (h : a + n ≤ 2 ^ 30) :
    (tables.setEngine e x).engineFault e c .load a n = none ∧ (tables.setEngine e x).engineFault e c .store a n = none := by
  have hf : ∀ i ∈ List.range n, (tables.setEngine e x).engineFails e c .load (a + i) = false ∧ (tables.setEngine e x).engineFails e c .store (a + i) = false :=
    fun i hi => engineFails_tables e x he c hp (a + i) (by have := List.mem_range.mp hi; omega)
  exact ⟨by simp only [State.engineFault, Option.map_eq_none_iff, List.find?_eq_none]; exact fun i hi => by simp [(hf i hi).1],
    by simp only [State.engineFault, Option.map_eq_none_iff, List.find?_eq_none]; exact fun i hi => by simp [(hf i hi).2]⟩

/-- A command of these words for partition 0, and the device with it at the head of engine e's queue. -/
def cmd (w0 src dst len w6 w7 : Nat) : Cmd := ⟨[word w0, word src, word dst, word len, 0, 0, word w6, word w7], 0, 0, 7, 0⟩
def ordered (e : Nat) (c : Cmd) : State := tables.setEngine e { Engine.reset with queue := [c] }

/-- The engine e runs this job. -/
def working (e : Nat) (j : Job) : State := tables.setEngine e { Engine.reset with job := some j }

theorem witness_EnginesRunTheirJobs :
    ((ordered 0 (cmd 9 0 0 0 0 0)).takes 0 (.malformedCommand 0) (cmd 9 0 0 0 0 0) [] ∧
      nextWith (exec (.malformedCommand 0) (ordered 0 (cmd 9 0 0 0 0 0))) (fun t => decide ((t.engine 0).job.map (fun j => j.status) = some 2)) = true) ∧
    ((ordered 0 (cmd 1 0x100 0x200 0 0 0)).takes 0 (.copy 0) (cmd 1 0x100 0x200 0 0 0) [] ∧ (cmd 1 0x100 0x200 0 0 0).len = 0) ∧
    ((ordered 1 (cmd 0xA01 0x100 0x200 100 0 0)).takes 1 (.copy 1) (cmd 0xA01 0x100 0x200 100 0 0) [] ∧ (cmd 0xA01 0x100 0x200 100 0 0).xform = 5 ∧
      (cmd 0xA01 0x100 0x200 100 0 0).len % 128 ≠ 0) ∧
    ((ordered 0 (cmd 1 0x100 0x200 8 0 0)).takes 0 (.copy 0) (cmd 1 0x100 0x200 8 0 0) [] ∧ (cmd 1 0x100 0x200 8 0 0).xform ≠ 5) ∧
    (let c := cmd 1 0x14000 0x200 8 0 0
     let s := working 0 ⟨c, 0, 0, 0, false, none⟩
     (s.engine 0).job.isSome = true ∧ (s.engine 0).parked = false ∧ c.xform = 0 ∧ c.tagp = false ∧ overlaps c.src c.len c.dst c.len = false ∧
      s.engineFault 0 c .store 0x200 8 = none ∧ s.engineFault 0 c .load 0x14000 8 = none ∧ c.len ≤ 0 + 8 ∧
      nextWith (exec (.copyChunk 0) s) (fun t => decide (t.devByte 0x200 = some 0xE0 ∧ t.devByte 0x201 = some 9)) = true) ∧
    (let c := cmd 1 0x14000 0x20000 600 0 0
     let s := working 0 ⟨c, 0, 0, 0, false, none⟩
     (s.engineFault 0 c .store 0x20000 512 = none ∧ s.engineFault 0 c .load 0x14000 512 = none) ∧ 0 + 512 < c.len) ∧
    (let c := cmd 1 0x40000000 0x200 8 0 0
     let s := working 0 ⟨c, 0, 0, 0, false, none⟩
     s.engineFault 0 c .load 0x40000000 8 = some 0x40000000 ∧ s.engineFault 0 c .store 0x200 8 = none) := by
  unfold State.takes
  refine ⟨?_, ?_, ?_, ?_, ?_, ⟨⟨(engineFault_tables _ _ ?_ _ rfl _ _ ?_).2, (engineFault_tables _ _ ?_ _ rfl _ _ ?_).1⟩, ?_⟩, ?_⟩ <;> decide +kernel

theorem witness_EnginesRunTheirJobs_collectives :
    ((ordered 2 (cmd 1 0x100 0x200 4 0x20000 0)).takes 2 (.allReduce 2 []) (cmd 1 0x100 0x200 4 0x20000 0) [] ∧
      (ordered 2 (cmd 1 0x100 0x200 4 0x20000 0)).groupOf 0 = (2, 0) ∧
      (ordered 2 (cmd 1 0x100 0x200 4 0x20000 0)).engineFault 2 (cmd 1 0x100 0x200 4 0x20000 0) .load 0x100 4 = none ∧
      (ordered 2 (cmd 1 0x100 0x200 4 0x20000 0)).engineFault 2 (cmd 1 0x100 0x200 4 0x20000 0) .store 0x200 4 = none ∧
      nextWith (exec (.allReduce 2 [[], [1, 2, 3, 4]]) (ordered 2 (cmd 1 0x14000 0x200 4 0x20000 0))) (fun t =>
        (t.engine 2).job.any (fun j => j.status == 0 && j.written == 4)) = true) ∧
    (ordered 2 (cmd 2 0x100 0x200 8 0x20000 0)).takes 2 (.reduceScatter 2 []) (cmd 2 0x100 0x200 8 0x20000 0) [] ∧
    (ordered 2 (cmd 3 0x100 0x200 8 0x20000 0)).takes 2 (.allGather 2 []) (cmd 3 0x100 0x200 8 0x20000 0) [] ∧
    (ordered 2 (cmd 4 0x100 0x200 8 0x20000 0)).takes 2 (.broadcast 2 []) (cmd 4 0x100 0x200 8 0x20000 0) [] ∧
    ((ordered 2 (cmd 4 0x100 0x200 8 0x20001 0)).takes 2 (.broadcast 2 []) (cmd 4 0x100 0x200 8 0x20001 0) [] ∧
      ((ordered 2 (cmd 4 0x100 0x200 8 0x20001 0)).groupOf 1).1 = 0) ∧
    ((ordered 1024 (cmd 1 0x100 0x200 8 0x400 0x10001)).takes 1024 (.mediaDecode 1024) (cmd 1 0x100 0x200 8 0x400 0x10001) [] ∧
      (ordered 1024 (cmd 1 0x100 0x200 8 0x400 0x10001)).engineFault 1024 (cmd 1 0x100 0x200 8 0x400 0x10001) .load 0x100 8 = none ∧
      (ordered 1024 (cmd 1 0x100 0x200 8 0x400 0x10001)).engineFault 1024 (cmd 1 0x100 0x200 8 0x400 0x10001) .store 0x200 3 = none) ∧
    ((tables.engine 0).job = none ∧ ((working 0 ⟨cmd 1 0 0 0 0 0, 0, 0, 0, false, none⟩).engine 0).job.any (fun j => !j.ended) = true) ∧
    (let c : Cmd := ⟨[word (2 ^ 22 + 2 ^ 16 * 5 + 1), 0, 0, 0, 0x208, 3, 0, 0], 0, 0, 7, 0⟩
     let s := working 0 ⟨c, 0, 8, 0, true, none⟩
     (s.engine 0).job.any (fun j => j.ended) = true ∧ (dw c.words 4).toNat % 8 = 0 ∧ s.allowedExt 0 .store 0x208 8 = none ∧
      nextWith (exec (.jobComplete 0) s) (fun t => decide (t.devByte 0x208 = some 8 ∧ t.devByte 0x20E = some 7 ∧
        find 7 (t.engine 0).states = some 2)) = true) ∧
    (let c : Cmd := ⟨[word (2 ^ 22 + 2 ^ 16 * 5 + 1), 0, 0, 0, 0, 3, 0, 0], 0, 0, 7, 0⟩
     nextWith (exec (.jobComplete 0) (working 0 ⟨c, 0, 8, 0, true, none⟩)) (fun t => decide ((t.core 3).port = [.count 5 1 0])) = true) := by
  unfold State.takes
  refine ⟨?_, ?_, ?_, ?_, ?_, ?_, ?_, ?_, ?_⟩ <;> decide +kernel

/-- An invalidation of region n is open at its home n. -/
def opened (n : Nat) (s : State) : State := s.modHome n (fun h => { h with waits := [⟨[(0, 1)], 512 * n, 512, n, [2], [], false, [], 0, none⟩] })

theorem witness_EnginesRunTheirJobs_holds :
    (let c := cmd 1 0x14000 0x200 8 0 0
     let s := working 0 ⟨c, 0, 0, 0, false, none⟩
     s.devHeld false 0x14000 (min 65536 c.len) = false ∧ s.devHeld true 0x200 8 = false ∧ (opened 0 s).devHeld true 0x100 8 = true) ∧
    (let s := ordered 2 (cmd 4 0x100 0x200 8 0x20000 0)
     (s.engine 2).queue ≠ [] ∧ s.devHeld false (s.reg 0x7000).toNat 4 = false ∧ s.devHeld false 0x100 8 = false ∧ s.devHeld true 0x200 16 = false ∧
      (s.membersOf 2 0 2).isSome = true ∧ 0 < (s.groupOf 0).1 ∧ (s.groupOf 0).1 ≤ 576 ∧ s.engineFault 2 (cmd 4 0x100 0x200 8 0x20000 0) .store 0x200 16 = none) ∧
    (let s := (ordered 2 (cmd 4 0x100 0x200 8 (2 ^ 48 * 2 + 0x20000) 0))
     (s.groupOf 0).1 ≤ bf (dw (cmd 4 0x100 0x200 8 (2 ^ 48 * 2 + 0x20000) 0).words 6) 48 16 ∧
      s.takes 2 (.broadcast 2 []) (cmd 4 0x100 0x200 8 (2 ^ 48 * 2 + 0x20000) 0) []) ∧
    (let s := (ordered 2 (cmd 1 0x100 0x200 4 0x20000 0)).setReg 0x7000 0x40000000
     s.devHeld false (s.reg 0x7000).toNat 4 = false ∧ (s.membersOf 2 0 2).isNone = true) ∧
    (let s := ordered 1024 (cmd 1 0x100 0x200 8 0x400 0x10001)
     s.devHeld false 0x100 8 = false ∧ s.devHeld true 0x200 3 = false) ∧
    (let c : Cmd := ⟨[word (2 ^ 22 + 2 ^ 16 * 5 + 1), 0, 0, 0, 0x208, 3, 0, 0], 0, 0, 7, 0⟩
     let s := working 0 ⟨c, 0, 8, 0, true, none⟩
     s.devHeld true 0x208 8 = false ∧ (s.cluster 0).dbg.trace = false ∧ (opened 1 s).devHeld true 0x208 8 = true) := by
  unfold State.takes
  refine ⟨?_, ?_, ?_, ?_, ?_, ?_⟩ <;> decide +kernel

/-- The engine e has asked outside the device for what it reads, and waits. -/
def asking (e : Nat) (s : State) : State := { s with posted := [(readUnit e, ⟨1, [], none, []⟩)] }

theorem witness_EnginesRunTheirJobs_gathers :
    (let c := cmd 1 0x14000 0x200 8 0 0
     let s := working 0 ⟨c, 0, 0, 0, false, none⟩
     s.gather (readUnit 0) (s.readPieces c 0x14000 8) = none ∧ ((asking 0 s).gather (readUnit 0) ((asking 0 s).readPieces c 0x14000 8)).isSome = true ∧
      ((asking 0 s).engine 0).job.isSome = true ∧ (asking 0 s).devHeld false 0x14000 8 = false) ∧
    (let c := cmd 4 0x100 0x200 8 0x20000 0
     let s := ordered 2 c
     s.gather (readUnit 2) (extentSplit 0 4 ++ s.readPieces c c.src 8) = none ∧
      ((asking 2 s).gather (readUnit 2) (extentSplit 0 4 ++ (asking 2 s).readPieces c c.src 8)).isSome = true ∧ (s.reg 0x7000).toNat = 0 ∧
      nextWith (exec (.broadcast 2 []) (asking 2 s)) (fun t => (t.engine 2).job.isNone && t.agenda.contains (.broadcast 2 [])) = true) ∧
    (let c := cmd 1 0x100 0x200 8 0x400 0x10001
     let s := ordered 1024 c
     s.gather (readUnit 1024) (s.readPieces c 0x100 8) = none ∧ ((asking 1024 s).gather (readUnit 1024) ((asking 1024 s).readPieces c 0x100 8)).isSome = true) := by
  decide +kernel

theorem witness_EnginesRunTheirJobs_settles :
    let c : Cmd := ⟨[word (2 ^ 22 + 2 ^ 16 * 5 + 1), 0, 0, 0, 0x208, 3, 0, 0], 0, 0, 7, 0⟩
    let j : Job := ⟨c, 0, 8, 0, true, none⟩
    let s := working 0 j
    let r := s.modHome 1 (fun h => { h with dir := [⟨1, 0, [3], false⟩] })
    let w : State := { s with posted := [(0, ⟨1, [], none, []⟩)] }
    s.settled 0 = true ∧ (s.storeMailbox 0 j).settled 0 = true ∧ s.engineFault 0 c .store 0x208 8 = none ∧
      w.settled 0 = false ∧ nextWith (exec (.jobComplete 0) w) (fun t => (t.engine 0).job == some j) = true ∧
      r.settled 0 = true ∧ (r.storeMailbox 0 j).settled 0 = false ∧ r.devHeld true 0x208 8 = false ∧
      nextWith (exec (.jobComplete 0) r) (fun t => (t.engine 0).job.any (fun k => dw k.cmd.words 4 == 0) && t.agenda.contains (.jobComplete 0)) = true := by
  decide +kernel

/-- Host 2 owns the device; window 1 maps the second 2 MiB of BAR2 to the first of memory. -/
def hosted : State := { tables with mgmt := [(0x10, 2), (0x18, 3), (0x100, 0xFFFFFFFFFFFFFFFF), (0x120, 0xFFFFFFFFFFFFFFFF), (0x300, 0x10000),
  (0x1000, 0x800000000000FFFF), (0x1018, 0x800000000000), (0x2018, 0x100000001)] }

/-- Partition 3's trap messages: one shown, these queued. -/
def messages (n : Nat) (shown : Bool) : State := { hosted with
  hostq := [(3, ⟨if shown then some [1] else none, List.replicate n [2], 0⟩)], cores := [(0, { Core.reset with egress := [⟨3, [9]⟩] })] }

/-- Cluster 0 is halted; hart 1 of it runs and has a machine check. -/
def stopped : State := { hosted with
  clusters := [(0, { Cluster.reset with dbg := ⟨[], [], false, false, true, false, none, [5]⟩ })]
  harts := [(1, { Hart.reset 1 with run := .running, mchecks := [8] })] }

theorem witness_TheHostActs :
    (bf (hosted.reg 0x2018) 32 32 * 2 ^ 21 ≤ 0x200010 ∧ 0x200010 + 4 ≤ (bf (hosted.reg 0x2018) 32 32 + bf (hosted.reg 0x2018) 0 32) * 2 ^ 21 ∧
      ¬ 0x200010 + 4 ≤ (bf (hosted.reg 0x2008) 32 32 + bf (hosted.reg 0x2008) 0 32) * 2 ^ 21 ∧
      nextWith (exec (.hostWrite .window 0x200010 [1, 2, 3, 4]) hosted) (fun t => decide (t.devByte 0x13 = some 4)) = true) ∧
    (List.range 64).all (fun k => decide ((bf (hosted.reg (0x2000 + 16 * k + 8)) 32 32 + bf (hosted.reg (0x2000 + 16 * k + 8)) 0 32) * 2 ^ 21 < 0x400001)) = true ∧
    ((0xC5 : BitVec 32).toNat / 64 / 4096 = hosted.devnum ∧ (0x40000 : BitVec 32).toNat / 64 / 4096 ≠ hosted.devnum) ∧
    (masterId (.host 3) = some 3 ∧ hosted.reg 0x10 = 2 ∧ (word (1 * 2 ^ 48 + 3)) = word ((bf (hosted.reg 0x10) 48 16 + 1) % 65536 * 2 ^ 48 + 3) ∧
      bf (hosted.reg 0x18) 0 3 = 3 ∧ masterId (.host 1) = some 1 ∧ bf (hosted.reg 0x18) 0 3 ≠ 1) ∧
    (hosted.isOwner (.host 1) = false ∧ hosted.isOwner (.host 2) = true ∧ (4 : Word).toNat / 4 % 16 ≠ 0) ∧
    (let v : Word := 0x14040
     v.toNat / 4 % 16 = 0 ∧ zone (v.toNat / 64 * 64) = .mem ∧ hosted.owns 0 (v.toNat / 64 * 64) = true ∧
      hosted.allowedExt 0 .load (v.toNat / 64 * 64) 64 = none ∧ (hosted.devLoad (v.toNat / 64 * 64) 64).isSome = true ∧
      nextWith (exec (.hostLaunch (.host 2) 0 v) hosted) (fun t => decide (t.reg 0x5008 = 0 ∧ (t.die 0).admission.length = 1)) = true) ∧
    (handleBad 5 = false ∧ handleBad 0x1000000 = true ∧ bf (5 : Word) 14 10 = hosted.devnum ∧ hosted.devnum < 576 ∧
      hosted.partOf (clusterOf 5) = 0) ∧
    (find 3 (messages 1 true).hostq = some ⟨some [1], [[2]], 0⟩ ∧ (messages 1 true).mayAct (.vf 3) 3 = true ∧ (messages 1 true).mayAct (.vf 2) 3 = false ∧
      (messages 1 true).yokeEgress = [] ∧ (∀ d, d < 4 → ((messages 1 true).die d).egress = []) ∧
      nextWith (exec (.trapAcknowledge (.vf 3) 3) (messages 1 true)) (fun t => decide (find 3 t.hostq = some ⟨some [2], [], 1⟩)) = true) ∧
    (((messages 0 false).core 0).egress = [⟨3, [9]⟩] ∧ (find 3 (messages 64 true).hostq).any (fun q => 64 ≤ q.queue.length) = true ∧
      nextWith (exec (.hostTrapDelivery 0) (messages 0 false)) (fun t => decide (find 3 t.hostq = some ⟨some [9], [], 1⟩)) = true) ∧
    (hosted.isOwner (.host 2) = true ∧ bf (hosted.partWord 0 0) 0 16 &&& bf (1 : Word) 0 16 ≠ 0 ∧ bf (hosted.partWord 0 0) 0 16 &&& bf (0 : Word) 0 16 = 0) ∧
    (let s : State := { hosted with out := [.peerRead ⟨1, 9, 0⟩ 0x7E0000000000 0 2], harts := [(1, { Hart.reset 1 with loads :=
        [⟨9, .g 20 2 false, false, [⟨0x7E0000000000, 0, 0, none⟩, ⟨0x7E0000000001, 1, 0, none⟩], none, [], false⟩] })] }
     (s.hart 1).loads.length = 1 ∧ nextWith (exec (.peerReadCompletion [1, 2]) s) (fun t => decide ((t.hart 1).getG 20 = 0x201)) = true) ∧
    takePeerRead hosted.out = none ∧ hosted.sampleDue = false ∧ ({ hosted.setReg 0x338 0x10000 with time := 1000 } : State).sampleDue = true ∧
    ((stopped.cluster 0).dbg.halted = true ∧ (List.range 64).all (fun j => !(stopped.hart j).cancelled) = true ∧ (stopped.hart 0).run = .free ∧
      (stopped.hart 1).mchecks ≠ [] ∧ (hosted.cluster 0).dbg.halted = false) := by
  refine ⟨?_, ?_, ?_, ?_, ?_, ?_, ?_, ?_, ?_, ?_, ?_, ?_, ?_, ?_, ?_⟩ <;> decide +kernel

theorem witness_TheHostActs_holds :
    hosted.devHeld true 0x40 4 = false ∧ hosted.devHeld false 0x40 4 = false ∧ hosted.devHeld false 0x500 64 = false ∧
    (opened 1 hosted).devHeld true 0x200 4 = true ∧ (opened 1 hosted).devHeld false 0x200 4 = true ∧
    nextWith (exec (.hostRead .cxlMem 0x14000 2) hosted) (fun t => t.out == [.hostRead [0xE0, 9]]) = true ∧
    (find 3 (messages 1 true).hostq).bind (fun q => q.shown) = some [1] ∧
    nextWith (exec (.hostRead (.bar0 (.host 2)) 0x80C0 8) (messages 1 true)) (fun t => t.out == [.hostRead [1, 0, 0, 0, 0, 0, 0, 0]]) = true ∧
    nextWith (exec (.hostRead (.bar0 (.host 2)) 0x10 8) hosted) (fun t => t.out == [.hostRead [2, 0, 0, 0, 0, 0, 0, 0]]) = true ∧
    nextWith (exec (.registerWrite (.host 2) 0x100080 12) hosted) (fun t => decide ((t.cluster 0).dbg.trace = true ∧ (t.cluster 0).dbg.traceUntil = some 1)) = true := by
  refine ⟨?_, ?_, ?_, ?_, ?_, ?_, ?_, ?_, ?_, ?_⟩ <;> decide +kernel

/-- Port 3 is failing, and plane 3 is carried by it. -/
def failing : State := { hosted with ports := [(3, .failing 0)] }

/-- Memory keeps 0x100 bytes from 0x50000 for a dump, and the collector may ask for them. -/
def dumped : State := ((hosted.setReg 0x328 0x50000).setReg 0x330 0x100).setReg 0x20 4

theorem witness_TheEdgeFailsOverAndResets :
    (hosted.portState 17 = .up ∧ failing.portState 3 = .failing 0 ∧ failing.portQuiet 3 = true ∧ failing.planePort 3 = 3 ∧ failing.portState 0 = .up ∧ failing.planePort 4 ≠ 3 ∧
      nextWith (exec (.linkFailoverTimeout 3) failing) (fun t => decide (t.portState 3 = .failed ∧ t.portState (t.planePort 3) = .up)) = true) ∧
    (nextWith (exec (.powerOn ⟨true, 7, [.cluster 9], [], 0, 0, [1, 2], some (3, 5, 6), [9]⟩) State.reset) (fun t => t.released && t.devnum == 7 && t.mappedOut 9) = true ∧
      unitExists (.cluster 9) = true) ∧
    (hosted.released = true ∧ bit (hosted.reg ((unitPlace (.cluster 9)).1 + 0x100)) (unitPlace (.cluster 9)).2 = false ∧
      State.reset.released = false ∧ unitExists (.link 17) = true ∧ unitExists (.link 18) = false ∧ hosted.portState 17 = .up) ∧
    (let s : State := { hosted with harts := [(64, { Hart.reset 64 with domain := 3 })] }
     (List.range 64).all (fun j => (s.hart (64 + j)).job == none) = true ∧
      (List.range 16).all (fun j => (s.core (16 + j)).runq == [] && (s.core (16 + j)).deque == [] && (s.core (16 + j)).ctxIn == []) = true) ∧
    (hosted.fatal = false ∧ ({ hosted with fatal := true } : State).fatal = true) ∧
    (bit (hosted.reg 0x20) 2 = false ∧ bit (dumped.reg 0x20) 2 = true ∧
      nextWith (exec (.dumpResendRequest 0 1025) dumped) (fun t => t.out.length == 2) = true) := by
  refine ⟨?_, ?_, ?_, ?_, ?_, ?_⟩ <;> decide +kernel

theorem witness_TheEdgeFailsOverAndResets_dump :
    let s := dumped.setReg 0x240 0x4000000000
    bit (s.reg 0x240) 38 = true ∧ s.fatal = false ∧
    nextWith (exec (.fatalError 5) s) (fun t => decide (t.dump.length = 0x100 ∧ t.out.length = 1)) = true := by
  refine ⟨?_, ?_, ?_⟩ <;> decide +kernel

theorem witness_TheHostActs_order :
    (hosted.hostIn = [] ∧ ([1] : List Byte) ≠ []) ∧
    (let e : Event := .hostWrite .cxlMem 0x200 [1]
     let s : State := { opened 1 hosted with hostIn := [e] }
     s.hostIn = e :: [] ∧ s.devHeld true 0x200 1 = true ∧
      nextWith (exec (.hostRead .cxlMem 0x400 1) s) (fun t => t.hostIn == [e, .hostRead .cxlMem 0x400 1] && t.out == s.out) = true) ∧
    (let s : State := { hosted with hostIn := [.hostWrite .cxlMem 0x200 [1]] }
     s.devHeld true 0x200 1 = false ∧
      nextWith (exec (.hostWrite .cxlMem 0 []) s) (fun t => t.hostIn == [] && decide (t.devByte 0x200 = some 1)) = true) ∧
    ((opened 1 hosted).hostIn = [] ∧ (opened 1 hosted).isOwner (.host 2) = true ∧ (opened 1 hosted).devHeld false 0x200 64 = true) ∧
    (let s : State := { hosted with out := [.peerRead ⟨2 ^ 26 + 5, 0, 0⟩ 0x7E0000000000 0 2] }
     nextWith (exec (.peerReadCompletion [1, 2]) s) (fun t => (t.postedOf 5).acks.length == 1 && t.out == []) = true) := by decide +kernel

theorem witness_TheEdgeFailsOverAndResets_waits :
    (let s : State := failing.modHart 0 (fun x => { x with acks := [⟨1, 0, none, 0, some 3⟩] })
     s.portState 3 = .failing 0 ∧ s.portQuiet 3 = false ∧ (s.time - 0).toNat < 10000 ∧
      nextWith (exec (.linkFailoverTimeout 3) { s with time := 10000 }) (fun t => decide (t.portState 3 = .failed) && (t.hart 0).acks.any (fun a => a.failed == some .lost)) = true) ∧
    (nextWith (exec (.unitMappedOut (.link 3)) hosted) (fun t => decide (t.portState 3 = .failing 0) && t.agenda.contains (.linkFailoverTimeout 3)) = true ∧
      hosted.portState 3 = .up) ∧
    nextWith (exec (.powerOn ⟨true, 7, [], [], 0x50000, 0x100, [1, 2], some (3, 5, 6), [9]⟩) State.reset) (fun t =>
      t.identity == [1, 2] && decide (t.reg 0x328 = 0x50000 ∧ t.reg 0x2030 = 5 ∧ t.reg 0x2038 = 6)) = true ∧
    dumped.frameOut 0x50000 = false := by decide +kernel

/-- Words of the majors that R57 reserves, one of each slot. -/
theorem witness_WorkedWordsDecode : (fld 0x1A000000 24 6).toNat = 0x1A ∧ (fld 0x1E000000 25 7).toNat = 0x0F ∧ 0x56 ≤ (fld 0xFE000000 25 7).toNat := by decide +kernel

theorem witness_RetirementKeepsTheRest_cancelled :
    (let t := regs.modHart 0 (fun x => { x with preempt := some 0, cancelled := true, safeAt := some 8 })
     t.me.preempt.isSome = true ∧ t.me.cancelled = true ∧ t.me.busy = none ∧ (t.finish true).me.job = t.me.job ∧ (t.finish true).me.run = .running) ∧
    (let t := regs.modHart 0 (fun x => { x with preempt := some 0, safeAt := some 8 })
     (t.hart 0).preempt.isSome = true ∧ (t.hart 0).cancelled = false ∧ (t.hart 0).safeAt = some 8) := by decide +kernel

/-- The first eight bytes of the private page that g8 names are in the near cache. -/
def covered : State := masked.modCore 0 (fun c => { c with nc := [⟨0x10000 / 512, 0, 8, 0, 0, .priv, [0, 0, 0, 0, 0, 0, 0, 0], 0, 0, 0⟩] })

theorem witness_VectorAccessesIssue_hulls :
    (masked.core 0).classOf 0x10000 = .priv ∧ masked.ready (.vst false 3 8 0 3 1 none) = true ∧ masked.me.storeHeld false = false ∧
    masked.checkProbes 0 .store ([(0x10000, 2), (0x10003, 1)].flatMap (fun r => probes r.1 r.2)) = .pass ∧
    masked.watchHit 0 .store [(0x10000, 2), (0x10003, 1)] = none ∧
    (let cells := [(0, 2), (3, 1)].flatMap (fun (r : Nat × Nat) => (List.range r.2).map (fun q => (0x10000 + r.1 + q, lane (masked.me.getV 3) (r.1 + q) 8)))
     (masked.awaitHulls 0 (masked.dataPieces 0 0x10000 4 cells) cells).isSome = true ∧
      covered.awaitHulls 0 (covered.dataPieces 0 0x10000 4 cells) cells = none) ∧
    nextWith (exec (.vst false 3 8 0 3 1 none) masked) (fun t => decide (t.me.run = .blocked ∧ t.me.reads.length = 1 ∧ t.me.stores = [])) = true ∧
    nextWith (exec (.vst false 3 8 0 3 1 none) covered) (fun t => decide (t.me.pc = 8)) = true := by decide +kernel

theorem witness_AtomicsIssue_hulls :
    masked.ready (.amoadd false 12 8 1 0 1) = true ∧ masked.plbCheck 0 .atomic 0x10000 8 = .pass ∧ masked.watchHit 0 .atomic [(0x10000, 8)] = none ∧
    masked.me.storeHeld false = false ∧ (masked.awaitHulls 0 [(0x10000, 8)] []).isSome = true ∧ covered.awaitHulls 0 [(0x10000, 8)] [] = none ∧
    nextWith (exec (.amoadd false 12 8 1 0 1) masked) (fun t => decide (t.me.run = .blocked ∧ t.me.reads.length = 1)) = true ∧
    nextWith (exec (.amoadd false 12 8 1 0 1) covered) (fun t => decide (t.me.pc = 8 ∧ t.me.getG 12 = 0)) = true ∧
    (masked.ready (.amofaddv false 3 8 0 7 1 none) = true ∧ (7 + 1) % 4 = 0 ∧ (masked.awaitHulls 0 [(0x10000, 4), (0x10004, 4)] []).isSome = true ∧
      covered.awaitHulls 0 [(0x10000, 4), (0x10004, 4)] [] = none) := by decide +kernel

/-- Core 0 knows every page from 0, and g12 is an aligned address that a window is asked for at, of g13's length. -/
def windowAt (a v : Nat) : State := ((windowed []).modHart 0 (fun x => (x.setG 12 (word a)).setG 13 (word v))).modCore 0 (fun c =>
  { c with plb := [⟨0, 2 ^ 57, 0, true, true, true, true, false, 0, false, 0, 0⟩] })

theorem witness_WindowsMapAndDrain_regions :
    (let s := windowAt (peerBase - 0x200) 0x200
     s.ready (.wmap false 14 12 13 1) = true ∧ (s.me.getG 13).toNat / 256 % 256 * 512 = 1024 ∧ s.plbCheck 0 .store (peerBase - 0x200) 1024 = .pass ∧
      s.watchHit 0 .store [(peerBase - 0x200, 1024)] = none ∧ zone ((peerBase - 0x200) / 512 * 512) = .mem ∧ zone (((peerBase - 0x200) / 512 + 1) * 512) ≠ .mem ∧
      nextWith (exec (.wmap false 14 12 13 1) s) (fun t => decide (t.me.getG 14 = 4 ∧ (t.core 0).windows = [])) = true) ∧
    (let s := windowAt (2 ^ 47 - 0x200) 0x200
     s.ready (.wmap false 14 12 13 1) = true ∧ s.plbCheck 0 .store (2 ^ 47 - 0x200) 1024 = .pass ∧ s.watchHit 0 .store [(2 ^ 47 - 0x200, 1024)] = none ∧
      devOf (2 ^ 47 - 0x200) = s.devnum ∧ devOf (2 ^ 47) ≠ s.devnum ∧ zone (2 ^ 47 - 0x200) = .mem ∧ zone (2 ^ 47) = .mem ∧
      (s.home (s.homeAt (s.core 0) (2 ^ 47 - 0x200))).regionBusy ((2 ^ 47 - 0x200) / 512) = false ∧
      s.windowOf (s.homeAt (s.core 0) (2 ^ 47 - 0x200)) ((2 ^ 47 - 0x200) / 512) = none) := by decide +kernel

theorem witness_ProductsAreExactAndRoundedOnce_words :
    let tiny := fdecode .bf16 0x3380
    let one := fdecode .bf16 0x3F80
    mmaWord 0x3F800000 [tiny, tiny] [one, one] = (0x3F800001, 0) ∧ fdecode .f32 0x80000000 = .num true 0 (-149) ∧
    mmaWord 0x80000000 [fdecode .bf16 0x8000] [one] = (0x80000000, 0) ∧ mmaWord 0x80000000 [fdecode .bf16 0] [one] = (0, 0) ∧
    mmaWord 0 [.inf true] [one] = (0xFF800000, 0) ∧ mmaWord 0x7F800000 [.inf true] [one] = (0x7FC00000, flagInvalid) ∧
    mmaWord 0 [.inf true] [fdecode .bf16 0] = (0x7FC00000, flagInvalid) ∧ mmaWord 0x7FC00000 [one] [one] = (0x7FC00000, 0) ∧
    mmaInt 5 [.num true 3 0] [.num false 4 0] = (0xFFFFFFF9, 0) := by decide +kernel

/-- A fill for core 0's near cache whose reply has come; bytes of it have changed meanwhile. -/
def fetched (fs : List FillAsk) : State := (mapped.modCluster 0 (fun k =>
  { k with down := [(0, .reply 0 ⟨0x100, [1, 2], 0, allShared, true, [], false, 0⟩)] })).modCore 0 (fun c => { c with fills := fs })

theorem witness_SharersAndAnswersMove_fills :
    (takeDown (Down.isReplyTo 0) ((fetched []).cluster 0).down).isSome = true ∧ ((fetched []).core 0).fills = [] ∧
    ((fetched [⟨0x100, 2, [(0x100, 0x101)]⟩]).core 0).fills = [⟨0x100, 2, [(0x100, 0x101)]⟩] ∧
    nextWith (exec (.fillArrives 0) (fetched [])) (fun t => decide (((t.core 0).nc.take 1).map (fun e => (e.region, e.lo, e.data)) = [(0, 0x100, [1, 2])])) = true ∧
    nextWith (exec (.fillArrives 0) (fetched [⟨0x100, 2, [(0x100, 0x101)]⟩])) (fun t =>
      decide ((t.core 0).fills = [] ∧ ((t.core 0).nc.take 1).map (fun e => (e.region, e.lo, e.data)) = [(0, 0x101, [2])])) = true := by decide +kernel

/-- Core 3's window 1 stands over a region of device 1, whose home has sent this request for it. -/
def frontedFar (r : Req) : State := mapped.modCore 3 (fun c =>
  { c with windows := [(1, ⟨true, false, 2 ^ 47 + 0x1000, 512, 512, false, none, false⟩)], fwd := [(deviceSender 1, r)] })

/-- Hart 3 of core 0 of device 1 has a PLBINV at system scope under way here. -/
def droppedFar (ids : List Nat) : State := { storing with farDrops := [⟨16384 * 2 + 3, ⟨7, 0x10000, 4096⟩, [(0x10000, 4096)], ids⟩] }

theorem witness_BoltsWindowsAndWalksAct_devices :
    (let s := frontedFar (.store 0 1 (2 ^ 47 + 0x1000) (cellsAt (2 ^ 47 + 0x1000) [4]) false)
     deviceSender 0 ≤ deviceSender 1 ∧ (find 1 (s.core 3).windows).any (fun w => w.holds (2 ^ 47 + 0x1000) && !w.away) = true ∧
      nextWith (exec (.forwardedWindowAccess 3) s) (fun t => decide ((t.core 3).localByte 512 = 4)) = true) ∧
    (let s := frontedFar (.fill [(0, none)] (2 ^ 47 + 0x1000) 8 allShared true)
     (s.core 3).fwd.length = 1 ∧ nextWith (exec (.forwardedWindowAccess 3) s) (fun t => (t.cluster 0).down.length == 1) = true) ∧
    (16384 ≤ 16384 * 2 + 3 ∧ 16384 * 2 + 3 < 2 ^ 26 ∧ regs.farDrops = [] ∧
      nextWith (exec (.plbinvDrop (.far (16384 * 2 + 3) ⟨7, 0x10000, 4096⟩)) regs) (fun t => decide ((t.core 0).plbAt 0x10000 = none) && t.farDrops.length == 1) = true) ∧
    (let s := droppedFar [1]
     s.underDropped s.usedCores [(0x10000, 4096)] [1] = true ∧ (droppedFar []).underDropped (droppedFar []).usedCores [(0x10000, 4096)] [] = false ∧
      nextWith (exec (.plbinvDrop (.far (16384 * 2 + 3) ⟨7, 0x10000, 4096⟩)) (droppedFar [])) (fun t => t.farDrops == [] && t.out.length == 1) = true) := by
  decide +kernel

/-- The tables map the peer window's first GiB as well. -/
def peered (s : State) : State := { s with mem := (0x40, 2) :: (0x10001, 0x44) :: (0x10002, 0x01) :: (0x10FC1, 0x44) :: (0x10FC2, 0x01) :: (0x14000, 0xE0) ::
  (0x14001, 0x09) :: [] }

theorem witness_UnitsActOnTheirOwn_gathers :
    let s := peered (visiting (fun w => { w with desc := [0, 0x100, 0, 0, 0, 0, 0, word peerBase] }) 3)
    (find 1 (s.cluster 0).glean).any (fun w => w.state == 0 && w.issuing == none && w.reissue == []) = true ∧ s.devHeld false peerBase 1 = false ∧
    (s.allowedExt 0 .load peerBase 1 = none ∧ (find 1 (s.cluster 0).glean).any (fun w => w.domain == 0 &&
      (s.gather (gleanUnit 0 1 w.gen) [(peerBase, 1)]).isSome) = true) ∧
    ((visiting id 3).gather (gleanUnit 0 1 0) [(0x40, 1)] = none ∧ (visiting id 3).gather (gleanUnit 0 1 0) [(0x100, 4)] = none) ∧
    nextWith (exec (.gleanerVisit 0 1) s) (fun t => t.out.length == s.out.length + 1 && t.agenda.contains (.gleanerVisit 0 1)) = true := by decide +kernel

theorem witness_TheHostActs_gathers :
    (let s : State := { hosted with hostIn := [.hostRead .cxlMem peerBase 8] }
     hosted.devHeld false peerBase 8 = false ∧ (s.gather hostUnit (extentSplit peerBase 8)).isSome = true ∧ (8 : Nat) ≠ 0) ∧
    hosted.gather hostUnit (extentSplit 0x14000 2) = none ∧ hosted.gather hostUnit (extentSplit 0x14040 64) = none ∧
    (hosted.unitLoad hostUnit 0x14040 64).isSome = true ∧
    nextWith (exec (.hostRead .cxlMem peerBase 8) hosted) (fun t => t.hostIn.length == 1 && t.out.length == hosted.out.length + 1) = true ∧
    nextWith (exec (.hostLaunch (.host 2) 0 0x14040) hosted) (fun t => t.hostIn == [] && t.postedOf hostUnit == Posted.none) = true := by decide +kernel

theorem witness_TheEdgeFailsOverAndResets_restarts :
    (let s : State := { failing with time := 7000 }
     s.portState 3 = .failing 0 ∧ (s.time - 0).toNat < 10000 ∧ 10000 ≤ (({ failing with time := 10000 } : State).time - 0).toNat ∧
      nextWith (exec .deviceReset s) (fun t => decide (t.portState 3 = .failing (0 - 7000)) && t.agenda == [.linkFailoverTimeout 3] && t.time == 0) = true) ∧
    (let s : State := { dumped with collector := [9], dump := [1, 2, 3] }
     bit (s.reg 0x20) 2 = true ∧ nextWith (exec (.dumpResendRequest 0 3) s) (fun t => match t.out with
       | [.datagram c o bs] => c == [9] && o == 0 && bs.length == 1024 && bs.take 3 == [1, 2, 3]
       | _ => false) = true) := by decide +kernel

/-! ### The well-formedness checks each refuse an ill-formed instruction -/

def illFormed_C : List Instr :=
  [.loop false 0 (.field 1), .fork false 1 9 (.field 1), .ldb false 1 2 12 (.field 0), .ldd false 1 2 1 (.field 0), .ldt false 1 2 12 (.field 0),
    .stb false 1 2 12 (.field 0), .stref false 1 2 3 (.field 0), .vld false 1 2 12 3 0 none, .vldx false 1 2 12 3 0 0 none, .vst false 1 2 12 3 0 none,
    .vstx false 1 2 2 3 0 0 none, .amoadd false 1 2 3 8 0, .amofadd false 1 2 3 8, .amofaddv false 1 2 8 3 0 none, .fence false 1 4, .pref false 1 0 2,
    .pref false 1 4 2, .resq false 1 2 4 3, .cln false 1 8 2, .inv false 1 1 2, .cancel false 1 2 8, .qstat false 1 8, .enq false 1 2 0 3,
    .enq false 1 2 3 8, .enq false 1 2 0 16, .gstat false 1 2 3, .plbinv false 1 2 3 8, .wmap false 1 2 3 16, .wunmap false 1 2 16, .cbld false 1 2,
    .syr false 1 5, .syw false 1 0, .syw false 1 0x14, .waite false 1 2 1, .waite false 1 2 0x240, .waite false 1 2 0x300, .resume false 1 2 3]

def illFormed_A : List Instr :=
  [.vadd 40 1 2 0 0, .vadd 1 1 2 8 0, .vmin 1 1 2 3, .vfma 1 1 2 4 0, .vabs 48 1 0, .vrcp 1 1 3 0, .viadd 1 1 2 0, .vfcmp 40 1 2 0 0,
    .vfcmp 41 1 2 8 0, .vicmp 41 1 2 8 6, .vsel 40 1 2 0 1, .mand 40 41 42, .mor 41 39 42, .mxor 41 42 48, .mnot 32 41, .mpop 1 39, .mfirst 1 48,
    .vbcast 1 2 16 0, .vextr 1 2 8 14, .vextr 1 2 0 5, .vins 32 1 0 0, .vperm 1 2 3 7, .vrot 1 2 32 1, .vslide 32 1 0 0, .vzip 1 2 3 0 2,
    .vunzip 1 2 3 6 0, .vrsum 1 2 8 0, .vrmax 1 2 4, .virsum 1 2 0, .vdot4 1 2 3 0 0, .vdot4 1 2 3 8 1, .vdot2 1 2 3 4 0, .vcvt 1 2 1 0 0 0,
    .vcvt 33 1 0 0 1 0, .vpack 1 2 3 14, .vunpack 1 2 2 10, .vunpack 1 2 0 8, .vqnt 1 2 0 1 0, .vcompr 40 1 2 0, .vexpnd 1 1 2 7, .vcbd 1 2 0 29 1,
    .mst 0 1 14 0, .mst 0 1 8 1, .mld 0 1 3]

theorem test_illFormed_refused : (illFormed_C ++ illFormed_A).all (fun i => !wellFormed i) = true := by decide +kernel

theorem test_illFormed_events_refused :
    ([.machineCheck 16384, .preemptionRequest 0 (some 16384), .scrubWord 4096, .idleCoalesce 0 32, .wunmapDrainComplete 0 16, .homeStore 2048,
    .invalidateTimeout 2048 0, .invalidate 256, .remoteInvalidate 1024 0 0 1, .remoteInvalidate 0 0 8 8, .remoteInvalidate 0 0 0 513, .drillCycle 4,
    .copy 3, .mediaDecode 1032, .allReduce 1 [], .gleanerVisit 0 4, .linkPortFailure 18, .plbinvDrop (.own 16384), .plbinvDrop (.far 16383 ⟨0, 0, 0⟩),
    .debugRegisterWrite (.host 1) 16384 (.pc 0)] : List Instr).all (fun i => !wellFormed i) = true := by decide +kernel

/-- Neighbours of these that the checks accept. -/
theorem test_wellFormed_accepted :
    [.loop false 1 (.field 1), .fork false 1 8 (.field 1), .ldb false 1 2 8 (.field 0), .stb false 1 2 11 (.field 0), .amoadd false 1 2 3 12 0,
      .fence false 1 15, .pref false 1 3 2, .cancel false 1 2 11, .enq false 1 2 0 15, .enq false 1 2 3 2, .wmap false 1 2 3 15, .syw false 1 0x24,
      .waite false 1 2 0x23F, .resume false 1 2 2, .vadd 39 1 2 2 0, .vicmp 47 1 2 14 5, .vbcast 1 2 15 0, .vcvt 1 2 1 0 1 0, .vcbd 1 2 0 28 1,
      .mst 0 1 8 0, .mld 0 1 11, .machineCheck 16383, .remoteInvalidate 575 0 0 512, .copy 1021, .mediaDecode 1031].all wellFormed = true := by decide +kernel

/-! ### One step of an instruction, its result taken from the rules -/

/-- What an instruction leaves of hart 0 from `vecs`. -/
def after (i : Instr) (p : Hart → Bool) : Bool := nextWith (exec i vecs) (fun t => p t.me)

/-- R78: quotients truncate towards zero, and remainders take the dividend's sign; MULH is the high half. -/
theorem test_divide :
    after (.div false 20 3 1) (fun x => x.getG 20 == 0) = true ∧ after (.rem false 20 3 1) (fun x => x.getG 20 == 0xFFFFFFFFFFFFFFFF) = true ∧
      after (.divu false 20 1 0) (fun x => x.getG 20 == 0xFFFFFFFFFFFFFFFF) = true ∧ after (.mulh false 20 3 3) (fun x => x.getG 20 == 0) = true ∧
      after (.mulhu false 20 3 3) (fun x => x.getG 20 == 0xFFFFFFFFFFFFFFFE) = true := by decide +kernel

/-- R78, R66: a write to g0 is discarded, and the pc goes on. -/
theorem test_g0 : after (.add false 0 1 2) (fun x => x.getG 0 == 0 && x.pc == 8) = true := by decide +kernel

/-- R107: 1.0 + 2.0 = 3.0 in f32, 1.0 × 2.0 = 2.0; R109: the reciprocal of 2.0. -/
theorem test_float :
    after (.vadd 4 1 2 0 0) (fun x => lane (x.getV 4) 0 32 == 0x40400000) = true ∧ after (.vmul 4 1 2 0 0) (fun x => lane (x.getV 4) 7 32 == 0x40000000) = true ∧
      after (.vrcp 4 2 0 0) (fun x => lane (x.getV 4) 15 32 == 0x3F000000) = true := by decide +kernel

/-- R118: 2.0 in f32 is 0x4000 in f16, in the low half of the vector for part 0. -/
theorem test_convert : after (.vcvt 4 2 0 0 1 0) (fun x => lane (x.getV 4) 15 16 == 0x4000) = true := by decide +kernel

/-- R119: 0x3F800000 does not fit 16 bits, and saturates. -/
theorem test_pack : after (.vpack 4 1 2 10) (fun x => lane (x.getV 4) 0 16 == 0x7FFF && x.fflags != 0) = true := by decide +kernel

/-- R114: VZIP with h = 1 interleaves the upper halves. -/
theorem test_zip : after (.vzip 4 3 3 8 1) (fun x => lane (x.getV 4) 0 8 == 32 && lane (x.getV 4) 63 8 == 63) = true := by decide +kernel

/-- R113: the mask m0 reads all ones. -/
theorem test_mask : after (.mpop 20 40) (fun x => x.getG 20 == 64) = true ∧ after (.mnot 41 40) (fun x => x.getM 1 == 0) = true := by decide +kernel

/-- R157, R152: TRAP's code and cause. -/
theorem test_trap : after (.trap false 1 0x2A5) (fun x => x.cause == 0x2A50F && x.faddr == 7 && x.parkSeq == 1) = true := by decide +kernel

/-- R77: from priority 1, a hart that is not privileged may not write 3. -/
theorem test_priority : nextWith (exec (.syw false 13 4) prios) (fun t => decide (t.me.cause = 2 ∧ t.me.prio = 1)) = true := by decide +kernel

/-- R177, R216: an entry cut within a word keeps its other bytes without that word's tag. -/
theorem test_cut :
    RangeEntry.cut ⟨3, 0, 3, 0, 0, .shared, [1, 2, 3], 3, 0, 0⟩ 3 1 2 =
      [⟨3, 0, 1, 0, 0, .shared, [1], 0, 0, 0⟩, ⟨3, 2, 1, 0, 0, .shared, [3], 0, 0, 0⟩] := by decide

/-- R41, R379: beside an A word that is none, a C instruction that traps has its cause recorded, one that does not leaves the A slot's. -/
theorem test_illegal_a :
    (prios.issueBundle (.syw false 13 4) none).me.cause = causeWord false 0 .privileged ∧
      (prios.issueBundle (.addi false 1 1 (.field 0)) none).me.cause = causeWord true 0 .illegal := by decide +kernel

end Sys2Proof.Tests
end

section
/-! What a memory in the canonical form reads as after a write, and that its bytes determine it (R4, R6). -/

namespace Sys2Proof.Machine

/-! ### One byte -/

theorem readByte_cons (a : Nat) (b : Byte) (r : List Host.Cell) (p : Nat) :
    readByte ((a, b) :: r) p = if p = a then b else readByte r p := by
  simp only [readByte, find]
  split <;> rfl

/-- Zero is stored by dropping the entry, so both forms of the write answer alike. -/
theorem readByte_writeByte (m : List Host.Cell) (a p : Nat) (b : Byte) :
    readByte (writeByte m a b) p = if p = a then b else readByte m p := by
  unfold writeByte readByte
  split
  case isTrue zero => rw [find_drop]; split <;> simp [zero]
  case isFalse _ => rw [find_put]; split <;> simp

/-! ### Ranges of bytes -/

theorem readByte_writeBytes_outside (m : List Host.Cell) (bs : List Byte) {a p : Nat} (h : p < a ∨ a + bs.length ≤ p) :
    readByte (writeBytes m a bs) p = readByte m p := by
  induction bs generalizing m a with
  | nil => rfl
  | cons b bs ih =>
    rw [List.length_cons] at h
    rw [writeBytes, ih _ (by omega), readByte_writeByte, if_neg (by omega)]

/-- The byte at a is written first, and the writes above a leave it. -/
theorem readBytes_writeBytes (m : List Host.Cell) (a : Nat) (bs : List Byte) :
    readBytes (writeBytes m a bs) a bs.length = bs := by
  induction bs generalizing m a with
  | nil => rfl
  | cons b bs ih =>
    have first : readByte (writeBytes (writeByte m a b) (a + 1) bs) a = b := by
      rw [readByte_writeBytes_outside _ _ (.inl (Nat.lt_succ_self a)), readByte_writeByte, if_pos rfl]
    rw [List.length_cons, writeBytes, readBytes, first, ih]

/-! ### The bytes determine the list -/

theorem readByte_of_lt {m : List Host.Cell} {p : Nat} (h : ∀ c ∈ m, p < c.1) : readByte m p = unlisted := by
  induction m with
  | nil => rfl
  | cons c r ih =>
    rw [readByte_cons, if_neg (Nat.ne_of_lt (h c List.mem_cons_self)), ih fun d hd => h d (List.mem_cons_of_mem c hd)]

theorem readByte_head_ne_unlisted {a : Nat} {b : Byte} {r : List Host.Cell} (h : Memory.wf ((a, b) :: r)) :
    readByte ((a, b) :: r) a ≠ unlisted := by
  rw [readByte_cons, if_pos rfl]
  exact (memWf_cons.mp h).1

/-- Below its first entry a memory in the form lists nothing. -/
theorem head_le_of_readByte_ne_unlisted {a p : Nat} {b : Byte} {r : List Host.Cell} (h : Memory.wf ((a, b) :: r))
    (hp : readByte ((a, b) :: r) p ≠ unlisted) : a ≤ p := by
  refine Nat.le_of_not_lt fun below => hp (readByte_of_lt fun c hc => ?_)
  rcases List.mem_cons.mp hc with rfl | hc
  · exact below
  · exact Nat.lt_trans below (memWf_lt h c hc)

/-- The tail reads as the whole memory does, but for the head's address, where it reads as unlisted. -/
theorem readByte_tail {a : Nat} {b : Byte} {r : List Host.Cell} (h : Memory.wf ((a, b) :: r)) (p : Nat) :
    readByte r p = if p = a then unlisted else readByte ((a, b) :: r) p := by
  split
  case isTrue e => rw [e, readByte_of_lt (memWf_lt h)]
  case isFalse ne => rw [readByte_cons, if_neg ne]

theorem eq_of_readByte_eq {m m' : List Host.Cell} (h : Memory.wf m) (h' : Memory.wf m')
    (same : ∀ p, readByte m p = readByte m' p) : m = m' := by
  induction m generalizing m' with
  | nil =>
    cases m' with
    | nil => rfl
    | cons c' r' => exact absurd (same c'.1).symm (readByte_head_ne_unlisted h')
  | cons c r ih =>
    obtain ⟨a, b⟩ := c
    cases m' with
    | nil => exact absurd (same a) (readByte_head_ne_unlisted h)
    | cons c' r' =>
      obtain ⟨a', b'⟩ := c'
      have le : a ≤ a' := head_le_of_readByte_ne_unlisted h (same a' ▸ readByte_head_ne_unlisted h')
      have ge : a' ≤ a := head_le_of_readByte_ne_unlisted h' (same a ▸ readByte_head_ne_unlisted h)
      obtain rfl := Nat.le_antisymm le ge
      have bytes : b = b' := by simpa only [readByte_cons, if_pos] using same a
      have tails : r = r' := ih (memWf_tail h) (memWf_tail h') fun p => by
        rw [readByte_tail h, readByte_tail h', same]
      rw [bytes, tails]

/-- Settles O6: reads of single writes, then of ranges by induction on the bytes, and extensionality by induction on the entries. -/
theorem memoryReadsWhatWasWritten : Obligations.MemoryReadsWhatWasWritten :=
  ⟨fun m a bs _ => ⟨readBytes_writeBytes m a bs, fun _ => readByte_writeBytes_outside m bs⟩,
    fun m a p b _ => readByte_writeByte m a p b,
    fun _ _ => eq_of_readByte_eq⟩

end Sys2Proof.Machine
end

section
/-! What an instruction of a slot does alone (R57, R71, R75): it is issued, and before its effect come the reasons for which it is not. -/

namespace Sys2Proof.Machine

/-! ### Every instruction of a slot is issued -/

/-- One equation for all constructors: an instruction of a slot is its effect issued in that slot; of an event nothing is said. -/
theorem exec_of_stands (i : Instr) (s : State) :
    exec i s = bif standsInC i || standsInA i then issue i (standsInA i) (safePoint i) (slotOp i) s else exec i s := by
  cases i <;> rfl

theorem exec_eq_issue {i : Instr} (stands : standsInC i = true ∨ standsInA i = true) (s : State) :
    exec i s = issue i (standsInA i) (safePoint i) (slotOp i) s := by
  have here := exec_of_stands i s
  rwa [Bool.or_eq_true_iff.mpr stands, cond_true] at here

/-! ### What issuing comes to, in the order of its checks -/

section
variable {s : State} {i : Instr} {slotA sp : Bool} {f : State → State → Eff}

theorem issue_held (held : s.mayIssue = false) : issue i slotA sp f s = .next s := by
  simp [issue, held]

theorem issue_illegal (may : s.mayIssue = true) (bad : wellFormed i = false ∨ s.me.allocated (uses i) = false) :
    issue i slotA sp f s = .next (s.forgetAbsent.trapHere slotA sp .illegal 0 0) := by
  have legal : (wellFormed i && s.me.allocated (uses i)) = false := Bool.and_eq_false_iff.mpr bad
  simp [issue, may, legal]

theorem issue_pending (may : s.mayIssue = true) (legal : wellFormed i = true) (alloc : s.me.allocated (uses i) = true)
    (pending : s.me.awaits (uses i) = true) : issue i slotA sp f s = .next s.block := by
  simp [issue, may, legal, alloc, pending]

/-- With nothing in its way the instruction acts on the registers as their checks leave them (R73). -/
theorem issue_read (may : s.mayIssue = true) (legal : wellFormed i = true) (alloc : s.me.allocated (uses i) = true)
    (free : s.me.awaits (uses i) = false) {t : State} {n : Nat} {lost : Option Nat} (read : s.readRegs (uses i) = (t, n, lost)) :
    issue i slotA sp f s = .next ((t.settle slotA sp ((f t t).orLost (s.me.lostWord.or lost))).countFixed n) := by
  simp [issue, may, legal, alloc, free, read]

end

end Sys2Proof.Machine
end

section
/-! Register words in error (R72, R73): what the check of a g register's only bad word gives, and what is read then. -/

namespace Sys2Proof.Machine

/-! ### The mirror of an allocated register -/

/-- The register 16 away from the one 16 away is the register itself, and the one 16 away is another. -/
theorem xor_sixteen_twice (n : Nat) : n ^^^ 16 ^^^ 16 = n := by
  rw [Nat.xor_assoc, Nat.xor_self, Nat.xor_zero]

theorem ne_xor_sixteen (n : Nat) : n ≠ n ^^^ 16 := by
  intro same
  have zero : n ^^^ n = n ^^^ (n ^^^ 16) := congrArg (n ^^^ ·) same
  rw [← Nat.xor_assoc, Nat.xor_self, Nat.zero_xor] at zero
  exact absurd zero (by decide)

theorem Hart.bit_regmask_of_allocated {x : Hart} {u : Uses} {r : BitVec 5} (alloc : x.allocated u = true) (named : r ∈ u.gr) (ne : r ≠ 0) :
    bit x.regmask r.toNat = true := by
  simp only [Hart.allocated, Bool.and_eq_true, List.all_eq_true] at alloc
  have one : x.allocG r = true := alloc.1 r (List.mem_append_left _ named)
  simpa only [Hart.allocG, beq_eq_false_iff_ne.mpr ne, Bool.false_or] using one

/-- An allocated register mirrors none, so that its only twin is its own mirror. -/
theorem Hart.twinned_g {x : Hart} {r : BitVec 5} (ne : r ≠ 0) (alloc : bit x.regmask r.toNat = true) :
    x.twinned 0 r.toNat = true ↔ r ≠ 16 ∧ bit x.regmask (r.toNat ^^^ 16) = false := by
  have zero : r.toNat ≠ 0 := fun e => ne (BitVec.eq_of_toNat_eq e)
  have sixteen : r.toNat = 16 ↔ r = 16 := BitVec.toNat_inj (y := 16#5)
  simp only [Hart.twinned, Hart.mirrored, xor_sixteen_twice, alloc, Bool.not_true, Bool.and_false, Bool.or_false, Bool.and_eq_true,
    Bool.not_eq_true', bne_iff_ne, ne_eq, zero, not_false_eq_true, true_and, sixteen]

/-! ### The check of the only word in error -/

/-- Where no other word is in error the mirror is good, if there is one. -/
theorem Hart.goodTwin_single {x : Hart} {e : RegErr} (only : x.errs = [e]) (scrub : Bool) :
    x.goodTwin e scrub = if x.twinned e.file e.index then some 0 else none := by
  have apart : e.index ≠ e.index ^^^ 16 := ne_xor_sixteen e.index
  simp [Hart.goodTwin, Hart.errAt, only, apart]

theorem Hart.checkWord_good {x : Hart} {e : RegErr} (clean : e.poisoned = false) (even : e.parityBits % 2 = 0) :
    x.checkWord e false = .good := by
  simp [Hart.checkWord, clean, even]

/-- The mirror, which has no flips, or SECDED gives back every data bit. -/
theorem Hart.checkWord_fixed {x : Hart} {e : RegErr} (only : x.errs = [e]) (clean : e.poisoned = false) (odd : e.parityBits % 2 = 1)
    (can : x.twinned e.file e.index = true ∨ e.secdedBits ≤ 1) : x.checkWord e false = .fixed e.data := by
  cases twin : x.twinned e.file e.index
  case true => simp [Hart.checkWord, clean, odd, Hart.goodTwin_single only, twin]
  case false =>
    have one : e.secdedBits ≤ 1 := can.resolve_left (by simp [twin])
    simp [Hart.checkWord, clean, odd, Hart.goodTwin_single only, twin, one]

theorem Hart.checkWord_lost {x : Hart} {e : RegErr} (only : x.errs = [e])
    (cannot : e.poisoned = true ∨ (e.parityBits % 2 = 1 ∧ x.twinned e.file e.index = false ∧ 2 ≤ e.secdedBits)) :
    x.checkWord e false = .lost := by
  rcases cannot with poison | ⟨odd, twin, two⟩
  · simp [Hart.checkWord, poison]
  · have many : ¬ e.secdedBits ≤ 1 := Nat.not_le_of_lt two
    simp [Hart.checkWord, odd, Hart.goodTwin_single only, twin, many]

/-! ### The registers read -/

theorem Uses.readsNone_of_reads {u : Uses} {file index : Nat} (reads : u.reads file index = true) : u.readsNone = false := by
  refine Bool.eq_false_iff.mpr fun empty => ?_
  simp only [Uses.readsNone, Bool.and_eq_true, List.isEmpty_iff] at empty
  obtain ⟨⟨⟨gr, vr⟩, mr⟩, extra⟩ := empty
  unfold Uses.reads at reads
  split at reads <;> simp [gr, vr, mr, extra] at reads

section
variable {s : State} {u : Uses} {e : RegErr} (only : s.me.errs = [e]) (reads : u.reads e.file e.index = true)
include only reads

theorem State.readRegs_single : s.readRegs u = (s.setMe (s.me.readWords u.reads).1, (s.me.readWords u.reads).2) := by
  simp [State.readRegs, only, Uses.readsNone_of_reads reads]

theorem State.readRegs_good (check : s.me.checkWord e false = .good) : s.readRegs u = (s.setMe s.me, 0, none) := by
  simp [State.readRegs_single only reads, Hart.readWords, only, reads, check]

theorem State.readRegs_fixed {fl : BitVec 32} (check : s.me.checkWord e false = .fixed fl) :
    s.readRegs u = (s.setMe (s.me.mend e fl), 1, none) := by
  simp [State.readRegs_single only reads, Hart.readWords, only, reads, check]

theorem State.readRegs_lost (check : s.me.checkWord e false = .lost) :
    s.readRegs u = (s.setMe s.me, 0, some (regId e.file e.index e.word)) := by
  simp [State.readRegs_single only reads, Hart.readWords, only, reads, check]

end

/-! ### A word of a g register corrected -/

/-- The g register is written with the flips taken back, and no error is left. -/
theorem Hart.mend_g {x : Hart} {e : RegErr} {r : BitVec 5} (only : x.errs = [e]) (file : e.file = 0) (index : e.index = r.toNat)
    (alloc : bit x.regmask r.toNat = true) (fl : BitVec 32) :
    x.mend e fl = { x with g := x.g.set r.toNat (x.g[r.toNat] ^^^ (zext fl <<< (32 * e.word))), errs := [] } := by
  have lt : r.toNat < 32 := r.isLt
  simp [Hart.mend, Hart.holdsWord, Hart.flip, file, index, alloc, lt, only]

section
variable {x : Hart} {e : RegErr} {r : BitVec 5} (only : x.errs = [e]) (file : e.file = 0) (index : e.index = r.toNat)
  (alloc : bit x.regmask r.toNat = true) (fl : BitVec 32)
include only file index alloc

theorem Hart.mend_errs : (x.mend e fl).errs = [] := by rw [Hart.mend_g only file index alloc]
theorem Hart.mend_v : (x.mend e fl).v = x.v := by rw [Hart.mend_g only file index alloc]
theorem Hart.mend_pc : (x.mend e fl).pc = x.pc := by rw [Hart.mend_g only file index alloc]
theorem Hart.mend_preempt : (x.mend e fl).preempt = x.preempt := by rw [Hart.mend_g only file index alloc]

theorem Hart.getG_mend_same (ne : r ≠ 0) : (x.mend e fl).getG r = x.getG r ^^^ (zext fl <<< (32 * e.word)) := by
  rw [Hart.mend_g only file index alloc]
  simp only [Hart.getG, if_neg ne, Vector.getElem_set_self]

theorem Hart.getG_mend_other {q : BitVec 5} (ne : q ≠ r) : (x.mend e fl).getG q = x.getG q := by
  have apart : r.toNat ≠ q.toNat := fun h => ne (BitVec.eq_of_toNat_eq h.symm)
  rw [Hart.mend_g only file index alloc]
  simp [Hart.getG, apart]

end

theorem Hart.setG_errs_nil {x : Hart} (clean : x.errs = []) (r : BitVec 5) (v : Word) : (x.setG r v).errs = [] := by
  unfold Hart.setG
  split
  · exact clean
  · simp [Hart.errsWithout, clean]

end Sys2Proof.Machine
end

section
/-! What issues and what does not: illegal fields, registers that are not allocated or are pending, words in error (R57, R71 to R75). -/

namespace Sys2Proof.Machine

/-! ### What a retirement without a pre-emption leaves of its hart and its core -/

theorem State.finish_of_no_preempt {t : State} {sp : Bool} (quiet : sp = false ∨ t.me.preempt = none) (j : Option Word) :
    t.finish sp j = t.forgetAbsent.moveOn j sp :=
  State.finish_quiet (by rcases quiet with h | h <;> simp [h]) j

@[simp] theorem State.moveOn_cur (t : State) (j : Option Word) (sp : Bool) : (t.moveOn j sp).cur = t.cur := rfl
@[simp] theorem State.moveOn_core (t : State) (j : Option Word) (sp : Bool) (c : Nat) : (t.moveOn j sp).core c = t.core c := rfl
@[simp] theorem State.moveOn_errs (t : State) (j : Option Word) (sp : Bool) : (t.moveOn j sp).me.errs = t.me.errs := by simp [State.moveOn]
@[simp] theorem State.moveOn_v (t : State) (j : Option Word) (sp : Bool) : (t.moveOn j sp).me.v = t.me.v := by simp [State.moveOn]
@[simp] theorem State.moveOn_pc (t : State) (j : Option Word) (sp : Bool) : (t.moveOn j sp).me.pc = j.getD (successor t.me.pc sp) := by
  simp [State.moveOn]
@[simp] theorem State.moveOn_getG (t : State) (j : Option Word) (sp : Bool) (r : BitVec 5) : (t.moveOn j sp).me.getG r = t.me.getG r := by
  simp [State.moveOn, Hart.getG]

theorem State.forgetAbsent_regerr (t : State) (c : Nat) : (t.forgetAbsent.core c).regerr = (t.core c).regerr := by
  rw [State.forgetAbsent_core]

/-! ### What it leaves where a correction is counted after it (R73) -/

section
variable {t : State} {sp : Bool} (quiet : sp = false ∨ t.me.preempt = none) (j : Option Word)
include quiet

theorem State.me_countFixed_finish (n : Nat) : ((t.finish sp j).countFixed n).me = (t.forgetAbsent.moveOn j sp).me := by
  rw [State.finish_of_no_preempt quiet]
  unfold State.countFixed
  split <;> rfl

theorem State.regerr_countFixed_finish :
    (((t.finish sp j).countFixed 1).core (coreOf t.cur)).regerr = regerrAdd (t.core (coreOf t.cur)).regerr 1 false := by
  rw [State.finish_of_no_preempt quiet]
  simp [State.countFixed, State.modCore, State.forgetAbsent_regerr]

end

/-! ### ADDI from a register with one word in error -/

section
variable {s : State} {sp : Bool} {rd ra : BitVec 5} {imm : Imm 14}

section
variable (may : s.mayIssue = true) (legal : wellFormed (.addi sp rd ra imm) = true)
  (alloc : s.me.allocated (uses (.addi sp rd ra imm)) = true) (free : s.me.awaits (uses (.addi sp rd ra imm)) = false)
  (kept : s.me.lostWord = none)
include may legal alloc free kept

theorem exec_addi_of_read {y : Hart} {n : Nat} (read : s.readRegs (uses (.addi sp rd ra imm)) = (s.setMe y, n, none)) :
    exec (.addi sp rd ra imm) s = .next (((s.setMe (y.setG rd (y.getG ra + immWord imm))).finish sp).countFixed n) := by
  have sum : slotOp (.addi sp rd ra imm) (s.setMe y) (s.setMe y) = .ok (s.setMe (y.setG rd (y.getG ra + immWord imm))) none := by
    change Eff.ok ((s.setMe y).setMe ((s.setMe y).me.setG rd ((s.setMe y).me.getG ra + immWord imm))) none = _
    rw [State.me_setMe, State.setMe_setMe]
  rw [exec_eq_issue (.inl rfl), issue_read may legal alloc free read, kept, sum]
  rfl

theorem exec_addi_of_lost {t : State} {n id : Nat} (read : s.readRegs (uses (.addi sp rd ra imm)) = (t, n, some id)) :
    exec (.addi sp rd ra imm) s = .next ((t.forgetAbsent.trapHere false sp .regUncorrectable 0 (word id)).countFixed n) := by
  rw [exec_eq_issue (.inl rfl), issue_read may legal alloc free read, kept]
  rfl

end

theorem addi_reads {e : RegErr} (file : e.file = 0) (index : e.index = ra.toNat) :
    (uses (.addi sp rd ra imm)).reads e.file e.index = true := by
  have named : uses (.addi sp rd ra imm) = { gr := [ra], gw := [rd] } := rfl
  simp [named, Uses.reads, file, index]

section
variable {e : RegErr} (only : s.me.errs = [e]) (file : e.file = 0) (index : e.index = ra.toNat) (alloc : bit s.me.regmask ra.toNat = true)
include only file index alloc

/-- With the word corrected the bundle retires as it does from registers without errors, and the correction is counted. -/
theorem addi_corrected (ne : ra ≠ 0) (quiet : sp = false ∨ s.me.preempt = none) {x : Word} {t : State}
    (ends : t = ((s.setMe ((s.me.mend e e.data).setG rd x)).finish sp).countFixed 1) :
    t.me.errs = [] ∧ (rd ≠ 0 → t.me.getG rd = x) ∧ (rd ≠ ra → t.me.getG ra = s.me.getG ra ^^^ (zext e.data <<< (32 * e.word))) ∧
      (∀ q, q ≠ rd → q ≠ ra → t.me.getG q = s.me.getG q) ∧ t.me.v = s.me.v ∧ t.me.pc = s.me.pc + (if sp then 16 else 8) ∧
      (t.core (coreOf s.cur)).regerr = regerrAdd (s.core (coreOf s.cur)).regerr 1 false := by
  have still : sp = false ∨ (s.setMe ((s.me.mend e e.data).setG rd x)).me.preempt = none := by
    rwa [State.me_setMe, Hart.setG_preempt, Hart.mend_preempt only file index alloc]
  have me : t.me = ((s.setMe ((s.me.mend e e.data).setG rd x)).forgetAbsent.moveOn none sp).me :=
    ends ▸ State.me_countFixed_finish still none 1
  have regs (q : BitVec 5) : t.me.getG q = ((s.me.mend e e.data).setG rd x).getG q := by simp [me]
  refine ⟨?_, fun h => ?_, fun h => ?_, fun q h h' => ?_, ?_, ?_, ?_⟩
  · simpa [me] using Hart.setG_errs_nil (Hart.mend_errs only file index alloc e.data) rd x
  · rw [regs, Hart.getG_setG_same h]
  · rw [regs, Hart.getG_setG_other h.symm, Hart.getG_mend_same only file index alloc e.data ne]
  · rw [regs, Hart.getG_setG_other h, Hart.getG_mend_other only file index alloc e.data h']
  · simpa [me] using Hart.mend_v only file index alloc e.data
  · simp only [me, State.moveOn_pc, State.forgetAbsent_me, State.me_setMe, Hart.setG_pc, Hart.mend_pc only file index alloc, Option.getD_none]
    cases sp <;> rfl
  · rw [ends]
    exact State.regerr_countFixed_finish still none

end
end

theorem add_eq_word (a b : Word) : a + b = word (a.toNat + b.toNat) := BitVec.eq_of_toNat_eq (by simp [word])

/-- Settles O7: an instruction of a slot is issued, whose checks come in the statement's order; and ADDI's read of its one bad word has the three
outcomes of R73. -/
theorem illegalAndPendingDoNotIssue : Obligations.IllegalAndPendingDoNotIssue := by
  intro s i stands
  refine ⟨fun held => ?_, fun may bad => ?_, fun may legal alloc pending => ?_, ?_⟩
  · rw [exec_eq_issue stands, issue_held held]
  · rw [exec_eq_issue stands, issue_illegal may bad]
  · rw [exec_eq_issue stands, issue_pending may legal alloc pending]
  · rintro sp rd ra imm e w rfl may legal alloc free kept only file index ne rfl - quiet mirror right
    have reads := addi_reads (sp := sp) (rd := rd) (imm := imm) file index
    have bits : bit s.me.regmask ra.toNat = true := Hart.bit_regmask_of_allocated alloc (List.mem_singleton_self ra) ne
    have twin : s.me.twinned e.file e.index = true ↔ mirror := by rw [file, index]; exact Hart.twinned_g ne bits
    refine ⟨fun clean even => ?_, fun clean odd can => ?_, fun cannot => ?_⟩
    · have read := State.readRegs_good only reads (Hart.checkWord_good clean even)
      rw [exec_addi_of_read may legal alloc free kept read, add_eq_word]
      rfl
    · have read := State.readRegs_fixed only reads (Hart.checkWord_fixed only clean odd (can.imp_left twin.mpr))
      have value : (s.me.mend e e.data).getG ra = right := Hart.getG_mend_same only file index bits e.data ne
      refine ⟨_, exec_addi_of_read may legal alloc free kept read, ?_⟩
      rw [value, add_eq_word]
      exact addi_corrected only file index bits ne quiet rfl
    · have read := State.readRegs_lost only reads (Hart.checkWord_lost only
        (cannot.imp_right fun ⟨odd, no, two⟩ => ⟨odd, Bool.eq_false_iff.mpr fun h => no (twin.mp h), two⟩))
      have id : regId e.file e.index e.word = 16 * ra.toNat + e.word := by simp [regId, file, index, Nat.mul_comm]
      rw [exec_addi_of_lost may legal alloc free kept read, id]
      rfl

end Sys2Proof.Machine
end

section
/-! A bundle whose slots are both empty, on a hart whose task lost a register word at a save (R164): the word is met in the C slot (log 38), whereas
NOPA issued alone meets it in the A slot. -/

namespace Sys2Proof.Machine

theorem exec_nopa_of_lost {s : State} {id : Nat} (may : s.mayIssue = true) (lost : s.me.lostWord = some id) :
    exec .nopa s = .next (s.forgetAbsent.trapHere true false .regUncorrectable 0 (word id)) := by
  have read : s.readRegs (uses .nopa) = (s, 0, none) := by simp [State.readRegs, show (uses .nopa).readsNone = true from rfl]
  rw [exec_eq_issue (.inr rfl), issue_read may rfl rfl rfl read, lost]
  rfl

/-- Hart 0 runs a task from reset that lost word 0 of g1 at its save; NOPC beside NOPA stands at its pc, and its core moves next. -/
def emptyBundleLostWord : State := (State.reset.withFetchWord 64 0).modHart 0 (fun x => { x with lostWord := some 16 })

/-- The same with time gone on, at the hart's turn. -/
def emptyBundleTurn : State := { emptyBundleLostWord.tick with sched := [], cur := 0 }

/-- What NOPA issued alone makes of it. -/
def emptyBundleNopa : State := emptyBundleTurn.forgetAbsent.trapHere true false .regUncorrectable 0 16

/-- The slot that hart 0's trap names, after a step. -/
def slotOfTrap (r : Result) : Option Bool := match r with
  | .next t => some (bit (t.hart 0).cause 18)
  | _ => none

theorem emptyBundleTurn_tries : emptyBundleTurn.tries := by
  unfold State.tries
  decide +kernel

theorem emptyBundleTurn_fetches : emptyBundleTurn.fetches 0 0 := by
  unfold State.fetches
  decide +kernel

theorem step_emptyBundle_traps_in_C : slotOfTrap (step emptyBundleLostWord) = some false := by decide +kernel

/-- Refutes O4: beside an empty slot the step is not always the exec of the other slot's instruction. NOPA beside NOPC, with a word lost at a save,
traps in the A slot by its exec and in the C slot by the step. -/
theorem not_stepRunsTheDecodedInstruction : ¬ Obligations.StepRunsTheDecodedInstruction := by
  rintro ⟨cycles, -⟩
  obtain ⟨bundles, -⟩ := cycles emptyBundleLostWord [] 0 0 rfl emptyBundleTurn_tries
  obtain ⟨alone, -⟩ := bundles 0 0 .nopc .nopa emptyBundleTurn_fetches (by decide +kernel) rfl
  obtain ⟨u, effect, comes⟩ := alone .nopa (.inr ⟨rfl, rfl, rfl⟩)
  have nopa : exec .nopa emptyBundleTurn = .next emptyBundleNopa := exec_nopa_of_lost emptyBundleTurn_tries.1 (by decide +kernel)
  obtain rfl : emptyBundleNopa = u := Host.Outcome.next.inj (nopa.symm.trans effect)
  obtain ⟨stays, -⟩ := comes
  have stepped := stays (by decide +kernel) (by decide +kernel)
  have slot := congrArg slotOfTrap stepped
  rw [step_emptyBundle_traps_in_C] at slot
  exact absurd slot (by decide +kernel)

end Sys2Proof.Machine
end

section
/-! Decoding is the inverse of encoding, for every instruction and both slots (R37 to R57). -/

namespace Sys2Proof.Laws.RoundTrip

/-- The instructions of the C slot, those of the A slot, then the events, which stand in neither. -/
theorem statement_holds (i : Instr) : Statement i := match i with
  | .nopc => nopc | .add .. => add .. | .sub .. => sub .. | .and .. => and .. | .or .. => or .. | .xor .. => xor .. | .andn .. => andn ..
  | .sll .. => sll .. | .srl .. => srl .. | .sra .. => sra .. | .slt .. => slt .. | .sltu .. => sltu .. | .min .. => min .. | .max .. => max ..
  | .minu .. => minu .. | .maxu .. => maxu .. | .mul .. => mul .. | .mulh .. => mulh .. | .mulhu .. => mulhu .. | .div .. => div ..
  | .divu .. => divu .. | .rem .. => rem .. | .remu .. => remu .. | .clz .. => clz .. | .ctz .. => ctz .. | .popc .. => popc .. | .sel .. => sel ..
  | .addi .. => addi .. | .andi .. => andi .. | .ori .. => ori .. | .xori .. => xori .. | .slti .. => slti .. | .sltiu .. => sltiu ..
  | .slli .. => slli .. | .srli .. => srli .. | .srai .. => srai .. | .lui .. => lui .. | .li .. => li .. | .lea .. => lea .. | .beq .. => beq ..
  | .bne .. => bne .. | .blt .. => blt .. | .bge .. => bge .. | .bltu .. => bltu .. | .bgeu .. => bgeu .. | .jal .. => jal .. | .jalr .. => jalr ..
  | .loop .. => loop .. | .fork .. => fork .. | .ldb .. => ldb .. | .ldbu .. => ldbu .. | .ldh .. => ldh .. | .ldhu .. => ldhu ..
  | .ldw .. => ldw .. | .ldwu .. => ldwu .. | .ldd .. => ldd .. | .stb .. => stb .. | .sth .. => sth .. | .stw .. => stw .. | .std .. => std ..
  | .stref .. => stref .. | .ldt .. => ldt .. | .vld .. => vld .. | .vst .. => vst .. | .vldx .. => vldx .. | .vstx .. => vstx ..
  | .amoadd .. => amoadd .. | .amoand .. => amoand .. | .amoor .. => amoor .. | .amoxor .. => amoxor .. | .amomin .. => amomin ..
  | .amomax .. => amomax .. | .amominu .. => amominu .. | .amomaxu .. => amomaxu .. | .amoswap .. => amoswap .. | .amocas .. => amocas ..
  | .amofadd .. => amofadd .. | .amofaddv .. => amofaddv .. | .fence .. => fence .. | .pub .. => pub .. | .pref .. => pref .. | .resq .. => resq ..
  | .cln .. => cln .. | .inv .. => inv .. | .setc .. => setc .. | .decc .. => decc .. | .getc .. => getc .. | .waitc .. => waitc ..
  | .bindc .. => bindc .. | .exit .. => exit .. | .yield .. => yield .. | .launch .. => launch .. | .cancel .. => cancel .. | .bar .. => bar ..
  | .send .. => send .. | .sendx .. => sendx .. | .qstat .. => qstat .. | .qresv .. => qresv .. | .enq .. => enq .. | .jobq .. => jobq ..
  | .jobw .. => jobw .. | .glean .. => glean .. | .gstat .. => gstat .. | .ydecl .. => ydecl .. | .plbinv .. => plbinv .. | .htw .. => htw ..
  | .wmap .. => wmap .. | .wunmap .. => wunmap .. | .cbld .. => cbld .. | .syr .. => syr .. | .syw .. => syw .. | .trap .. => trap ..
  | .brk .. => brk .. | .waite .. => waite .. | .resume .. => resume ..
  | .nopa => nopa | .vadd .. => vadd .. | .vsub .. => vsub .. | .vmul .. => vmul .. | .vfma .. => vfma .. | .vfms .. => vfms ..
  | .vfnma .. => vfnma .. | .vmin .. => vmin .. | .vmax .. => vmax .. | .vabs .. => vabs .. | .vneg .. => vneg .. | .vrcp .. => vrcp ..
  | .vrsq .. => vrsq .. | .vexp2 .. => vexp2 .. | .vlog2 .. => vlog2 .. | .viadd .. => viadd .. | .visub .. => visub .. | .vimul .. => vimul ..
  | .vimulh .. => vimulh .. | .vand .. => vand .. | .vor .. => vor .. | .vxor .. => vxor .. | .vshl .. => vshl .. | .vshr .. => vshr ..
  | .vsra .. => vsra .. | .vimin .. => vimin .. | .vimax .. => vimax .. | .vfcmp .. => vfcmp .. | .vicmp .. => vicmp .. | .vsel .. => vsel ..
  | .mand .. => mand .. | .mor .. => mor .. | .mxor .. => mxor .. | .mnot .. => mnot .. | .mpop .. => mpop .. | .mfirst .. => mfirst ..
  | .vbcast .. => vbcast .. | .vextr .. => vextr .. | .vins .. => vins .. | .vperm .. => vperm .. | .vrot .. => vrot .. | .vslide .. => vslide ..
  | .vzip .. => vzip .. | .vunzip .. => vunzip .. | .vrsum .. => vrsum .. | .vrmax .. => vrmax .. | .vrmin .. => vrmin .. | .virsum .. => virsum ..
  | .vdot4 .. => vdot4 .. | .vdot2 .. => vdot2 .. | .vcvt .. => vcvt .. | .vpack .. => vpack .. | .vunpack .. => vunpack .. | .vqnt .. => vqnt ..
  | .vpopx .. => vpopx .. | .vcompr .. => vcompr .. | .vexpnd .. => vexpnd .. | .vcbd .. => vcbd .. | .mmaE4e4 .. => mmaE4e4 ..
  | .mmaE4e5 .. => mmaE4e5 .. | .mmaE5e4 .. => mmaE5e4 .. | .mmaE5e5 .. => mmaE5e5 .. | .mmaBf16 .. => mmaBf16 .. | .mmaF16 .. => mmaF16 ..
  | .mmaE3m2 .. => mmaE3m2 .. | .mmaE2m3 .. => mmaE2m3 .. | .mmaE2m1 .. => mmaE2m1 .. | .mmaCb2e4 .. => mmaCb2e4 .. | .mmaS8 .. => mmaS8 ..
  | .mmaCb2bf .. => mmaCb2bf .. | .mzero .. => mzero .. | .mst .. => mst .. | .mld .. => mld .. | .bldMemory .. => bldMemory ..
  | .bldQueue .. => bldQueue .. | .bpass .. => bpass .. | .bwait .. => bwait ..
  | .machineCheck .. => machineCheck .. | .scrubWord .. => scrubWord .. | .mmaComplete .. => mmaComplete ..
  | .seamHandoffBegin .. => seamHandoffBegin .. | .seamArrivalLanded .. => seamArrivalLanded .. | .ballastMma .. => ballastMma ..
  | .pageWalkComplete .. => pageWalkComplete .. | .fillArrives .. => fillArrives .. | .idleCoalesce .. => idleCoalesce ..
  | .homeStore .. => homeStore .. | .homeFill .. => homeFill .. | .homeWriteback .. => homeWriteback .. | .farAtomic .. => farAtomic ..
  | .amoGroupTimeout .. => amoGroupTimeout .. | .invalidate .. => invalidate .. | .remoteInvalidate .. => remoteInvalidate ..
  | .invalidateAck .. => invalidateAck .. | .invalidateTimeout .. => invalidateTimeout .. | .ackReceived .. => ackReceived ..
  | .egressCombineTimeout .. => egressCombineTimeout .. | .boltStore .. => boltStore .. | .boltRead .. => boltRead ..
  | .forwardedWindowAccess .. => forwardedWindowAccess .. | .wunmapDrainComplete .. => wunmapDrainComplete ..
  | .sowerWalkStep .. => sowerWalkStep .. | .publicationNotice .. => publicationNotice .. | .pubComplete .. => pubComplete ..
  | .messageArrival .. => messageArrival .. | .channelPacketArrival .. => channelPacketArrival .. | .countModeArrival .. => countModeArrival ..
  | .taskDispatch .. => taskDispatch .. | .dequeAgeing .. => dequeAgeing .. | .drillCycle .. => drillCycle ..
  | .preemptionRequest .. => preemptionRequest .. | .forcedSave .. => forcedSave .. | .registerContextArrival .. => registerContextArrival ..
  | .loadReplyForwarded .. => loadReplyForwarded .. | .copy .. => copy .. | .copyChunk .. => copyChunk .. | .allReduce .. => allReduce ..
  | .reduceScatter .. => reduceScatter .. | .allGather .. => allGather .. | .broadcast .. => broadcast .. | .mediaDecode .. => mediaDecode ..
  | .jobComplete .. => jobComplete .. | .gleanerVisit .. => gleanerVisit .. | .gleanerPassStart .. => gleanerPassStart ..
  | .rampSlotBoundary => rampSlotBoundary | .waiteDeadline .. => waiteDeadline .. | .hostWrite .. => hostWrite .. | .hostRead .. => hostRead ..
  | .doorbellWrite .. => doorbellWrite .. | .ownerCas .. => ownerCas .. | .hostLaunch .. => hostLaunch .. | .hostResume .. => hostResume ..
  | .trapAcknowledge .. => trapAcknowledge .. | .hostTrapDelivery .. => hostTrapDelivery .. | .partitionWrite .. => partitionWrite ..
  | .samplingPulse .. => samplingPulse .. | .samplingPeriod => samplingPeriod | .debugHalt .. => debugHalt ..
  | .debugRegisterWrite .. => debugRegisterWrite .. | .registerWrite .. => registerWrite .. | .linkPortFailure .. => linkPortFailure ..
  | .linkFailoverTimeout .. => linkFailoverTimeout .. | .powerOn .. => powerOn .. | .deviceReset => deviceReset | .unitReady .. => unitReady ..
  | .unitMappedOut .. => unitMappedOut .. | .fatalError .. => fatalError .. | .dumpResendRequest .. => dumpResendRequest ..
  | .clusterResume .. => clusterResume .. | .softError .. => softError .. | .plbinvDrop .. => plbinvDrop ..
  | .peerReadCompletion .. => peerReadCompletion .. | .malformedCommand .. => malformedCommand ..

end Sys2Proof.Laws.RoundTrip

namespace Sys2Proof

theorem decodeC_encodeC {i : Instr} {w l : BitVec 32} (h : encodeC i = some (w, l)) : decodeC w l = .ok i := (Laws.RoundTrip.statement_holds i).1 w l h

theorem decodeA_encodeA {i : Instr} {w : BitVec 32} (h : encodeA i = some w) : decodeA w = .ok i := (Laws.RoundTrip.statement_holds i).2 w h

/-- Both instructions are what the words decode to. -/
theorem encodeC_injective {i j : Instr} {w l : BitVec 32} (hi : encodeC i = some (w, l)) (hj : encodeC j = some (w, l)) : i = j :=
  Except.ok.inj ((decodeC_encodeC hi).symm.trans (decodeC_encodeC hj))

theorem encodeA_injective {i j : Instr} {w : BitVec 32} (hi : encodeA i = some w) (hj : encodeA j = some w) : i = j :=
  Except.ok.inj ((decodeA_encodeA hi).symm.trans (decodeA_encodeA hj))

/-- Settles O3: decoding inverts each encoder, instruction by instruction, so that neither gives two instructions one word. -/
theorem encodingsRoundTrip : Obligations.EncodingsRoundTrip :=
  ⟨fun _ _ _ => decodeC_encodeC, fun _ _ => decodeA_encodeA, fun _ _ _ _ => encodeC_injective, fun _ _ _ => encodeA_injective⟩

end Sys2Proof
end

section
/-! Every instruction answers a next state, and so does every step (R41, R149, R152). -/

namespace Sys2Proof.Machine

/-- Not a fault and not a refusal. -/
def answersNext (r : Result) : Bool := match r with
  | .next _ => true
  | .fault _ => false
  | .refused _ => false

theorem answersNext_iff {r : Result} : answersNext r = true ↔ ∃ t, r = .next t := by
  cases r <;> simp [answersNext]

/-- An event's meaning is a next state as it stands; an instruction of a slot is issued. -/
theorem stands_or_exec_answersNext (i : Instr) (s : State) : (standsInC i || standsInA i || answersNext (exec i s)) = true := by
  cases i <;> rfl

theorem exec_next (i : Instr) (s : State) : ∃ t, exec i s = .next t := by
  have either := stands_or_exec_answersNext i s
  rw [Bool.or_eq_true, Bool.or_eq_true] at either
  rcases either with stands | answers
  · rw [exec_eq_issue stands]
    exact issue_next ..
  · exact answersNext_iff.mp answers

theorem execEvent_next (e : Event) (s : State) : ∃ t, execEvent e s = .next t := by
  cases e <;> exact ⟨_, rfl⟩

/-- Without an event at that place a core has its cycle. -/
theorem State.agendaStep_next (s : State) (n : Nat) : ∃ t, s.agendaStep n = .next t := by
  unfold State.agendaStep
  split
  · exact execEvent_next ..
  · exact ⟨_, rfl⟩

theorem step_next (s : State) : ∃ t, step s = .next t := by
  unfold step State.advance
  dsimp only
  split
  · split
    · exact State.agendaStep_next ..
    · exact ⟨_, rfl⟩
  · split
    · exact ⟨_, rfl⟩
    · exact State.agendaStep_next ..

/-- Settles O5: a step is a core's cycle or an event performed, an event's meaning is a next state, and issuing answers one whatever it comes to. -/
theorem everyStepAnswers : Obligations.EveryStepAnswers := ⟨step_next, exec_next⟩

end Sys2Proof.Machine
end

section
/-! Conditional branches (R42, R81). -/

namespace Sys2Proof.Machine

/-- Each branch's effect is its jump alone, on the rule's condition: what the model negates for BNE, BGE and BGEU is the converse comparison. -/
theorem slotOp_of_branchRule {s : State} {i : Instr} {taken : Bool} {target : Word} (rule : branchRule s.me i = some (taken, target)) (cur : State) :
    standsInC i = true ∧ slotOp i s cur = .ok cur (if taken then some target else none) := by
  unfold branchRule at rule
  split at rule <;> cases rule <;> refine ⟨rfl, ?_⟩ -- the cases in the rule's order, from BEQ to BGEU
  case h_1 ra rb off => rfl
  case h_2 ra rb off => exact congrArg (branch · off s cur) (decide_not ..).symm
  case h_3 ra rb off => rfl
  case h_4 ra rb off => exact congrArg (branch · off s cur) (BitVec.sle_eq_not_slt ..).symm
  case h_5 ra rb off => rfl
  case h_6 ra rb off => exact congrArg (branch · off s cur) (BitVec.ule_eq_not_ult ..).symm

/-- Settles O10: a ready branch is issued, and retires with the one thing that its effect has, the jump. -/
theorem branchesCompareAndGo : Obligations.BranchesCompareAndGo := by
  intro s i taken target rule ready
  obtain ⟨stands, effect⟩ := slotOp_of_branchRule rule s
  rw [exec_eq_issue (.inl stands), issue_ok ready _ _ effect]

end Sys2Proof.Machine
end

section
/-! What an instruction of the C slot does alone, by what its effect comes to (R41). -/

namespace Sys2Proof.Machine

section
variable {s t : State} {i : Instr} (stands : standsInC i = true) (ready : s.ready i = true)
include stands ready

theorem exec_ok {j : Option Word} (effect : slotOp i s s = .ok t j) : exec i s = .next (t.finish (safePoint i) j) := by
  rw [exec_eq_issue (.inl stands), issue_ok ready _ _ effect]

theorem exec_okG {rd : BitVec 5} {w : Word} (effect : slotOp i s s = okG s rd w) :
    exec i s = .next ((s.setMe (s.me.setG rd w)).finish (safePoint i)) :=
  exec_ok stands ready effect

theorem exec_wait (effect : slotOp i s s = .wait t) : exec i s = .next t.block := by
  rw [exec_eq_issue (.inl stands), issue_wait ready _ _ effect]

end

theorem exec_trap {s : State} {i : Instr} (stands : standsInC i = true) (notA : standsInA i = false) (ready : s.ready i = true)
    {c : Cause} {code : BitVec 10} {a : Word} (effect : slotOp i s s = .trap c code a) :
    exec i s = .next (s.forgetAbsent.trapHere false (safePoint i) c code a) := by
  rw [exec_eq_issue (.inl stands), issue_trap ready _ _ effect, notA]

end Sys2Proof.Machine
end


section
/-! What the scalar groups compute, in the terms of the rules' tables (R78 to R80). -/

namespace Sys2Proof.Machine

/-! ### Sums and products -/

theorem word_toNat (a : Word) : word a.toNat = a := BitVec.eq_of_toNat_eq (by simp [word])

theorem sub_eq_ofInt (a b : Word) : a - b = BitVec.ofInt 64 (a.toInt - b.toInt) :=
  BitVec.eq_of_toInt_eq (by rw [BitVec.toInt_sub, BitVec.toInt_ofInt])

theorem mul_eq_word (a b : Word) : a * b = word (a.toNat * b.toNat) := BitVec.eq_of_toNat_eq (by simp [word])

/-! ### Shifts -/

theorem bf_low_six (b : Word) : bf b 0 6 = b.toNat % 64 := by simp [bf]

theorem shiftLeft_eq_word (a : Word) (n : Nat) : a <<< n = word (a.toNat * 2 ^ n) :=
  BitVec.eq_of_toNat_eq (by simp [word, Nat.shiftLeft_eq])

theorem ushiftRight_eq_word (a : Word) (n : Nat) : a >>> n = word (a.toNat / 2 ^ n) := by
  rw [← Nat.shiftRight_eq_div_pow, ← BitVec.toNat_ushiftRight, word_toNat]

theorem sshiftRight_eq_ofInt (a : Word) (n : Nat) : a.sshiftRight n = BitVec.ofInt 64 (a.toInt / 2 ^ n) := by
  rw [BitVec.sshiftRight, Int.shiftRight_eq_div_pow]
  norm_cast

/-! ### Comparisons -/

theorem flagWord_eq_truth {b : Bool} {p : Prop} [Decidable p] (h : b = decide p) : flagWord b = truth p := by
  simp [flagWord, truth, h]

theorem min_signed (a b : Word) : (if b.slt a then b else a) = BitVec.ofInt 64 (min a.toInt b.toInt) := by
  simp only [BitVec.slt_iff_toInt_lt]
  split
  · rw [Int.min_eq_right (Int.le_of_lt ‹_›), BitVec.ofInt_toInt]
  · rw [Int.min_eq_left (Int.not_lt.mp ‹_›), BitVec.ofInt_toInt]

theorem max_signed (a b : Word) : (if a.slt b then b else a) = BitVec.ofInt 64 (max a.toInt b.toInt) := by
  simp only [BitVec.slt_iff_toInt_lt]
  split
  · rw [Int.max_eq_right (Int.le_of_lt ‹_›), BitVec.ofInt_toInt]
  · rw [Int.max_eq_left (Int.not_lt.mp ‹_›), BitVec.ofInt_toInt]

theorem min_unsigned (a b : Word) : (if b.ult a then b else a) = word (min a.toNat b.toNat) := by
  simp only [BitVec.ult_iff_lt, BitVec.lt_def]
  split
  · rw [Nat.min_eq_right (Nat.le_of_lt ‹_›), word_toNat]
  · rw [Nat.min_eq_left (Nat.not_lt.mp ‹_›), word_toNat]

theorem max_unsigned (a b : Word) : (if a.ult b then b else a) = word (max a.toNat b.toNat) := by
  simp only [BitVec.ult_iff_lt, BitVec.lt_def]
  split
  · rw [Nat.max_eq_right (Nat.le_of_lt ‹_›), word_toNat]
  · rw [Nat.max_eq_left (Nat.not_lt.mp ‹_›), word_toNat]

/-! ### Division -/

theorem toNat_eq_zero_iff (b : Word) : b.toNat = 0 ↔ b = 0 := BitVec.toNat_inj (y := 0#64)

/-- The one quotient that does not fit: the least number by minus one. -/
theorem overflow_iff (a b : Word) : a.toInt = -2 ^ 63 ∧ b.toInt = -1 ↔ a = BitVec.intMin 64 ∧ b = BitVec.allOnes 64 :=
  and_congr (BitVec.toInt_inj (y := BitVec.intMin 64)) (BitVec.toInt_inj (y := BitVec.allOnes 64))

theorem divSigned_eq (a b : Word) : divSigned a b = if b.toNat = 0 then BitVec.allOnes 64
    else if a.toInt = -2 ^ 63 ∧ b.toInt = -1 then a else BitVec.ofInt 64 (a.toInt.tdiv b.toInt) := by
  simp only [divSigned, toNat_eq_zero_iff, overflow_iff]

theorem remSigned_eq (a b : Word) : remSigned a b = if b.toNat = 0 then a
    else if a.toInt = -2 ^ 63 ∧ b.toInt = -1 then 0 else BitVec.ofInt 64 (a.toInt - b.toInt * a.toInt.tdiv b.toInt) := by
  simp only [remSigned, toNat_eq_zero_iff, overflow_iff]

theorem udiv_eq_word (a b : Word) : a / b = word (a.toNat / b.toNat) := by
  rw [← BitVec.toNat_udiv, word_toNat]

theorem umod_eq_word (a b : Word) : a % b = word (a.toNat - b.toNat * (a.toNat / b.toNat)) := by
  rw [← Nat.mod_eq_sub_mul_div, ← BitVec.toNat_umod, word_toNat]

theorem divUnsigned_eq (a b : Word) :
    divUnsigned a b = if b.toNat = 0 then BitVec.allOnes 64 else word (a.toNat / b.toNat) := by
  simp only [divUnsigned, toNat_eq_zero_iff, udiv_eq_word]

theorem remUnsigned_eq (a b : Word) :
    remUnsigned a b = if b.toNat = 0 then a else word (a.toNat - b.toNat * (a.toNat / b.toNat)) := by
  simp only [remUnsigned, toNat_eq_zero_iff, umod_eq_word]

/-! ### SEL, LUI, LEA -/

theorem sel_eq (c a b : Word) : (if (c != 0) = true then a else b) = if c = 0 then b else a := by
  simp only [bne_iff_ne, ne_eq, ite_not]


theorem lui_eq_word (i a : Word) : (i <<< 32) ||| zext (a.setWidth 32) = word (lower i * 2 ^ 32 + lower a) := by
  have high : i.toNat <<< 32 % 2 ^ 64 = (i.toNat % 2 ^ 32) <<< 32 := by
    rw [Nat.shiftLeft_eq, Nat.shiftLeft_eq]; omega
  have low : a.toNat % 2 ^ 32 < 2 ^ 32 := Nat.mod_lt _ (by decide)
  apply BitVec.eq_of_toNat_eq
  simp only [BitVec.toNat_or, BitVec.toNat_shiftLeft, high, zext, BitVec.toNat_setWidth, word, BitVec.toNat_ofNat, lower]
  rw [Nat.mod_eq_of_lt (a := a.toNat % 2 ^ 32) (by omega), ← Nat.shiftLeft_add_eq_or_of_lt low, Nat.shiftLeft_eq]
  omega

theorem lea_eq_ofInt (a b : Word) (n : Nat) (d : BitVec 7) :
    a + (b <<< n) + sext d = BitVec.ofInt 64 (a.toInt + b.toInt * 2 ^ n + d.toInt) := by
  have scaled : b <<< n = BitVec.ofInt 64 (b.toInt * 2 ^ n) := by
    have power : BitVec.ofInt 64 (2 ^ n) = BitVec.twoPow 64 n := by
      exact_mod_cast BitVec.eq_of_toNat_eq (x := BitVec.ofNat 64 (2 ^ n)) (by simp)
    rw [BitVec.shiftLeft_eq_mul_twoPow, BitVec.ofInt_mul, BitVec.ofInt_toInt, power]
  rw [BitVec.ofInt_add, BitVec.ofInt_add, BitVec.ofInt_toInt, scaled]
  rfl


/-! ### The effect of each instruction -/

theorem slt_eq_truth (a b : Word) : flagWord (a.slt b) = truth (a.toInt < b.toInt) := flagWord_eq_truth rfl
theorem sltu_eq_truth (a b : Word) : flagWord (a.ult b) = truth (a.toNat < b.toNat) := flagWord_eq_truth rfl

/-- Each instruction's effect is to write the result that the tables give. -/
theorem slotOp_of_scalarResult {s : State} {i : Instr} {rd : BitVec 5} {w : Word} (rule : scalarResult s.me i = some (rd, w)) (cur : State) :
    standsInC i = true ∧ slotOp i s cur = okG cur rd w := by
  cases i <;> cases rule <;> refine ⟨rfl, congrArg (okG cur rd) ?_⟩
  case add | addi => exact add_eq_word ..
  case sub => exact sub_eq_ofInt ..
  case and | or | xor | andn | andi | ori | xori | mulh | mulhu | clz | ctz | popc | li => rfl
  case sll => rw [bf_low_six, shiftLeft_eq_word]
  case srl => rw [bf_low_six, ushiftRight_eq_word]
  case sra => rw [bf_low_six, sshiftRight_eq_ofInt]
  case slli => exact shiftLeft_eq_word ..
  case srli => exact ushiftRight_eq_word ..
  case srai => exact sshiftRight_eq_ofInt ..
  case slt | slti => exact slt_eq_truth ..
  case sltu | sltiu => exact sltu_eq_truth ..
  case min => exact min_signed ..
  case max => exact max_signed ..
  case minu => exact min_unsigned ..
  case maxu => exact max_unsigned ..
  case mul => exact mul_eq_word ..
  case div => exact divSigned_eq ..
  case divu => exact divUnsigned_eq ..
  case rem => exact remSigned_eq ..
  case remu => exact remUnsigned_eq ..
  case sel => exact sel_eq ..
  case lui => exact lui_eq_word ..
  case lea => exact lea_eq_ofInt ..

/-- Settles O9: a ready instruction of the scalar groups writes the tables' result, and retires. -/
theorem scalarGroupsWriteTheirResults : Obligations.ScalarGroupsWriteTheirResults := by
  intro s i rd w rule ready
  obtain ⟨stands, effect⟩ := slotOp_of_scalarResult rule s
  exact exec_okG stands ready effect

end Sys2Proof.Machine
end

section
/-! Jumps and LOOP (R42, R82, R83). -/

namespace Sys2Proof.Machine

theorem branchTarget_eq {n : Nat} (pc : Word) (off : Imm n) : branchTarget pc off = pc + word (8 * (immWord off).toNat) := by
  rw [branchTarget, shiftLeft_eq_word, show (2 : Nat) ^ 3 = 8 from rfl, Nat.mul_comm]

theorem and_allOnes_shiftLeft {w : Nat} (x : BitVec w) (n : Nat) : x &&& (BitVec.allOnes w <<< n) = (x >>> n) <<< n := by
  ext i hi
  by_cases low : i < n
  · simp [low]
  · simpa [low, Nat.add_sub_cancel' (Nat.le_of_not_lt low)] using (BitVec.getLsbD_eq_getElem hi).symm

/-- The three low bits cleared are a multiple of eight bytes. -/
theorem and_not_seven (x : Word) : x &&& ~~~ 7 = word (x.toNat / 8 * 8) := by
  have eighth : (x >>> 3).toNat = x.toNat / 8 := by rw [BitVec.toNat_ushiftRight, Nat.shiftRight_eq_div_pow]
  rw [show ~~~ (7 : Word) = BitVec.allOnes 64 <<< 3 by decide, and_allOnes_shiftLeft, shiftLeft_eq_word, eighth,
    show (2 : Nat) ^ 3 = 8 from rfl]

theorem slotLoop_eq (ra : BitVec 5) (off : Imm 14) (s : State) : slotLoop ra off s s = .ok (s.setMe (s.me.setG ra (s.me.getG ra - 1)))
    (if s.me.getG ra = 1 then none else some (s.me.pc + word (8 * (immWord off).toNat))) := by
  have ends : (s.me.getG ra - 1 != 0) = true ↔ ¬ s.me.getG ra = 1 := by rw [bne_iff_ne, ne_eq, BitVec.sub_eq_iff_eq_add, show (0 : Word) + 1 = 1 from rfl]
  rw [← branchTarget_eq, ← ite_not]
  simp only [slotLoop, ends]
  rfl

/-- Settles O11: each has its link or count and its jump as its whole effect; LOOP on g0 is not a legal word. -/
theorem jumpsLinkAndLoopsCount : Obligations.JumpsLinkAndLoopsCount := by
  refine ⟨fun s sp rd off ready => ?_, fun s sp rd ra imm ready => ?_, fun s sp ra off ready => ?_, fun s sp off may => ?_⟩
  · rw [← branchTarget_eq]
    cases sp <;> exact exec_ok rfl ready rfl
  · rw [← and_not_seven]
    cases sp <;> exact exec_ok rfl ready rfl
  · exact exec_ok rfl ready (slotLoop_eq ra off s)
  · exact (exec_eq_issue (.inl rfl) s).trans (issue_illegal may (.inl rfl))

end Sys2Proof.Machine
end

section
/-! A hart that parks on a trap (R152): what the withdrawal of its bundle and the trap message leave of the harts. -/

namespace Sys2Proof.Machine

theorem State.hart_of_harts {s t : State} (h : t.harts = s.harts) (k : Nat) : t.hart k = s.hart k := by rw [State.hart, State.hart, h]

/-! ### The trap message -/

section
variable (s : State)

@[simp] theorem State.forgetAbsentOf_harts (h : Nat) : (s.forgetAbsentOf h).harts = s.harts := by
  unfold State.forgetAbsentOf
  dsimp only
  split <;> rfl

@[simp] theorem State.forgetAbsentOf_cur (h : Nat) : (s.forgetAbsentOf h).cur = s.cur := by
  unfold State.forgetAbsentOf
  dsimp only
  split <;> rfl

/-- A message sent to another device, whatever its port does with it, is all that such traffic changes. -/
theorem State.sendOut_nothing (plane : Nat) (m : OutMsg) :
    s.sendOut plane m .nothing = { s with out := (s.sendOut plane m .nothing).out, outHeld := (s.sendOut plane m .nothing).outHeld } := by
  unfold State.sendOut
  dsimp only
  split <;> rfl

@[simp] theorem State.toService_harts (p src x : Nat) (fb : Bool) (payload : List Word) (corr : BitVec 32) :
    (s.toService p src x fb payload corr).harts = s.harts := by
  unfold State.toService
  dsimp only
  split
  · rfl
  · rw [State.sendOut_nothing]

@[simp] theorem State.toService_cur (p src x : Nat) (fb : Bool) (payload : List Word) (corr : BitVec 32) :
    (s.toService p src x fb payload corr).cur = s.cur := by
  unfold State.toService
  dsimp only
  split
  · rfl
  · rw [State.sendOut_nothing]

/-- A trap message of a hart goes to the host, or to a service. -/
theorem State.sendTrap_cases (c p : Nat) (fb : Bool) (src : Nat) (payload : List Word) (corr : BitVec 32) :
    s.sendTrap c p fb src payload corr = s.toHost c p payload ∨
      ∃ x f, s.sendTrap c p fb src payload corr = s.toService p src x f payload corr := by
  unfold State.sendTrap State.passTrap
  split
  · exact .inl rfl
  · split
    · exact .inl rfl
    · exact .inr ⟨_, _, rfl⟩

@[simp] theorem State.sendTrap_harts (c p : Nat) (fb : Bool) (src : Nat) (payload : List Word) (corr : BitVec 32) :
    (s.sendTrap c p fb src payload corr).harts = s.harts := by
  obtain h | ⟨x, f, h⟩ := s.sendTrap_cases c p fb src payload corr <;> rw [h]
  · rfl
  · exact State.toService_harts ..

@[simp] theorem State.sendTrap_cur (c p : Nat) (fb : Bool) (src : Nat) (payload : List Word) (corr : BitVec 32) :
    (s.sendTrap c p fb src payload corr).cur = s.cur := by
  obtain h | ⟨x, f, h⟩ := s.sendTrap_cases c p fb src payload corr <;> rw [h]
  · rfl
  · exact State.toService_cur ..

@[simp] theorem State.trace_harts (k kind : Nat) (corr : BitVec 32) (loc : Nat) : (s.trace k kind corr loc).harts = s.harts := by
  unfold State.trace
  split <;> rfl

@[simp] theorem State.trace_cur (k kind : Nat) (corr : BitVec 32) (loc : Nat) : (s.trace k kind corr loc).cur = s.cur := by
  unfold State.trace
  split <;> rfl

end

/-! ### The hart that parks -/

/-- What parking makes of a hart (R152): its trap registers, its park sequence, and the interval of a requested pre-emption, which stands still. -/
def Hart.parked (x : Hart) (preempt : Option Word) (slotA : Bool) (cause : Cause) (code : BitVec 10) (faddr trappc : Word) (kind : ParkKind) : Hart :=
  { x with
    cause := causeWord slotA code cause, faddr := faddr, trappc := trappc, parkSeq := x.parkSeq + 1, run := .parked, park := kind, wait := .none
    reads := [], lostWord := if cause = .regUncorrectable then none else x.lostWord, preempt := preempt }

/-- What is left of a requested pre-emption's interval where a hart of cluster k parks: it is suspended, unless a halt has done that. -/
def State.suspended (s : State) (k : Nat) (preempt : Option Word) : Option Word :=
  if (s.cluster k).dbg.halted then preempt else preempt.map (fun t => s.time - t)

section
variable (x : Hart) (preempt : Option Word) (slotA : Bool) (cause : Cause) (code : BitVec 10) (faddr trappc : Word) (kind : ParkKind)

@[simp] theorem Hart.parked_cause : (x.parked preempt slotA cause code faddr trappc kind).cause = causeWord slotA code cause := rfl
@[simp] theorem Hart.parked_faddr : (x.parked preempt slotA cause code faddr trappc kind).faddr = faddr := rfl
@[simp] theorem Hart.parked_trappc : (x.parked preempt slotA cause code faddr trappc kind).trappc = trappc := rfl
@[simp] theorem Hart.parked_parkSeq : (x.parked preempt slotA cause code faddr trappc kind).parkSeq = x.parkSeq + 1 := rfl
@[simp] theorem Hart.parked_run : (x.parked preempt slotA cause code faddr trappc kind).run = .parked := rfl
@[simp] theorem Hart.parked_park : (x.parked preempt slotA cause code faddr trappc kind).park = kind := rfl
@[simp] theorem Hart.parked_prio : (x.parked preempt slotA cause code faddr trappc kind).prio = x.prio := rfl
@[simp] theorem Hart.parked_mchecks : (x.parked preempt slotA cause code faddr trappc kind).mchecks = x.mchecks := rfl
@[simp] theorem Hart.parked_g : (x.parked preempt slotA cause code faddr trappc kind).g = x.g := rfl
@[simp] theorem Hart.parked_v : (x.parked preempt slotA cause code faddr trappc kind).v = x.v := rfl
@[simp] theorem Hart.parked_m : (x.parked preempt slotA cause code faddr trappc kind).m = x.m := rfl

end

section
variable (s : State) (h : Nat) (slotA : Bool) (cause : Cause) (code : BitVec 10) (faddr trappc bundle : Word) (kind : ParkKind)

theorem State.hart_parkAs : (s.parkAs h slotA cause code faddr trappc bundle kind).hart h =
    (s.hart h).parked (s.suspended (clusterOf h) (s.hart h).preempt) slotA cause code faddr trappc kind := by
  have rest (t u : State) (same : t.harts = u.harts) : t.hart h = u.hart h := State.hart_of_harts same h
  unfold State.parkAs
  dsimp only
  rw [rest _ _ (State.trace_harts ..), rest _ _ (State.sendTrap_harts ..), rest _ _ (State.forgetAbsentOf_harts ..)]
  unfold State.flipUnlessHalted State.suspended
  rw [State.cluster_setHart]
  split <;> simp [State.flipInterval, State.modHart, Hart.parked]

@[simp] theorem State.flipUnlessHalted_cur : (s.flipUnlessHalted h).cur = s.cur := by
  unfold State.flipUnlessHalted
  split <;> rfl

@[simp] theorem State.parkAs_cur : (s.parkAs h slotA cause code faddr trappc bundle kind).cur = s.cur := by
  unfold State.parkAs
  simp

end

/-! ### A bundle that traps -/

section
variable (s : State) (h : Nat)

@[simp] theorem State.releaseClaim_harts : (s.releaseClaim h).harts = s.harts := rfl

/-- A hart whose bundle is withdrawn: it has no opened latch, and of a bank's rows it keeps the loads given. -/
def Hart.withdrawn (x : Hart) (loads : List PLoad) : Hart := { x with opened := none, loads := loads }

@[simp] theorem Hart.withdrawn_prio (x : Hart) (loads : List PLoad) : (x.withdrawn loads).prio = x.prio := rfl
@[simp] theorem Hart.withdrawn_parkSeq (x : Hart) (loads : List PLoad) : (x.withdrawn loads).parkSeq = x.parkSeq := rfl

theorem State.hart_closeOpened : (s.closeOpened h).hart h = { s.hart h with opened := none } := by
  unfold State.closeOpened
  split
  case h_1 none => rw [← none]
  case h_2 =>
    have noted := State.hart_setHart_same s h { s.hart h with opened := none }
    dsimp only
    split
    · split <;> exact noted
    · exact noted

@[simp] theorem State.closeOpened_cur : (s.closeOpened h).cur = s.cur := by
  unfold State.closeOpened
  dsimp only
  repeat' split
  all_goals rfl

theorem State.hart_withdraw : ∃ loads, (s.withdraw h).hart h = (s.hart h).withdrawn loads := by
  have closed := s.hart_closeOpened h
  unfold State.withdraw
  generalize s.closeOpened h = t at closed ⊢
  have as_closed : t.hart h = (s.hart h).withdrawn (s.hart h).loads := closed
  dsimp only
  split
  case h_1 => exact ⟨_, as_closed⟩
  case h_2 _ b _ =>
    refine ⟨(t.hart h).loads.filter (fun l => l.dest != .bank b), ?_⟩
    split <;> exact (State.hart_setHart_same ..).trans (by rw [as_closed]; rfl)
  case h_3 => exact ⟨_, as_closed⟩

@[simp] theorem State.withdraw_cur : (s.withdraw h).cur = s.cur := by
  rw [← State.closeOpened_cur s h]
  unfold State.withdraw
  dsimp only
  repeat' split
  all_goals rfl

end

section
variable (s : State) (slotA sp : Bool) (cause : Cause) (code : BitVec 10) (faddr : Word)

@[simp] theorem State.trapHere_cur : (s.trapHere slotA sp cause code faddr).cur = s.cur := by
  rw [State.trapHere, State.parkAs_cur, State.withdraw_cur]

/-- The hart of a bundle that traps parks at the bundle (R152). -/
theorem State.hart_trapHere : ∃ loads preempt, (s.trapHere slotA sp cause code faddr).hart s.cur =
    (s.me.withdrawn loads).parked preempt slotA cause code faddr s.me.pc (.bundle sp) := by
  obtain ⟨loads, withdrawn⟩ := s.hart_withdraw s.cur
  exact ⟨loads, _, by rw [State.trapHere, State.hart_parkAs, withdrawn]; rfl⟩

theorem State.me_trapHere : ∃ loads preempt, (s.trapHere slotA sp cause code faddr).me =
    (s.me.withdrawn loads).parked preempt slotA cause code faddr s.me.pc (.bundle sp) := by
  rw [State.me, State.trapHere_cur]
  exact State.hart_trapHere ..

end

end Sys2Proof.Machine
end

section
/-! The checks of a SYW in the order in which they come (R77, R87, R88), and SYW of sy.prio. -/

namespace Sys2Proof.Machine

/-- The hart may not write the value: the register is a privileged one, or a priority is raised. -/
def Hart.syswDenied (x : Hart) (n : Nat) (v : Word) : Prop :=
  (sysPrivileged n = true ∧ x.domain ≠ 0) ∨ (n = 4 ∧ x.domain ≠ 0 ∧ x.prio.toNat < v.toNat)

theorem Hart.privileged_eq_false {x : Hart} : x.privileged = false ↔ x.domain ≠ 0 := by simp [Hart.privileged]

section
variable {s : State} {ra : BitVec 5} {num : BitVec 10}

theorem slotSyw_reserved (reserved : s.me.getG ra &&& ~~~ sysBits num.toNat ≠ 0) : slotSyw ra num s s = .trap .illegal 0 0 :=
  if_pos (bne_iff_ne.mpr reserved)

variable (legal : s.me.getG ra &&& ~~~ sysBits num.toNat = 0)
include legal

theorem slotSyw_legal : slotSyw ra num s s =
    if sysPrivileged num.toNat && !s.me.privileged then .trap .privileged 0 0
    else if num.toNat = 0x004 && !s.me.privileged && s.me.prio.ult (s.me.getG ra) then .trap .privileged 0 0
    else if num.toNat = 0x020 && 256 < (s.writeSys s.cur num.toNat (s.me.getG ra)).minima (coreOf s.cur) then .trap .queue 0 0
    else .ok (s.writeSys s.cur num.toNat (s.me.getG ra)) none :=
  if_neg (by rw [bne_iff_ne, ne_eq, Classical.not_not]; exact legal)

theorem slotSyw_denied (denied : s.me.syswDenied num.toNat (s.me.getG ra)) : slotSyw ra num s s = .trap .privileged 0 0 := by
  rw [slotSyw_legal legal]
  obtain ⟨priv, domain⟩ | ⟨prio, domain, above⟩ := denied <;> have user := Hart.privileged_eq_false.mpr domain
  · exact if_pos (by rw [priv, user]; rfl)
  · have higher : s.me.prio.ult (s.me.getG ra) = true := decide_eq_true above
    rw [if_neg (by rw [prio]; exact Bool.false_ne_true)]
    exact if_pos (by rw [prio, user, higher]; rfl)

/-- Once the hart may write, what is left to refuse is minima that the core's queues cannot have (R70). -/
theorem slotSyw_granted (granted : ¬ s.me.syswDenied num.toNat (s.me.getG ra)) : slotSyw ra num s s =
    if num.toNat = 0x020 ∧ 256 < (s.writeSys s.cur num.toNat (s.me.getG ra)).minima (coreOf s.cur) then .trap .queue 0 0
    else .ok (s.writeSys s.cur num.toNat (s.me.getG ra)) none := by
  rw [slotSyw_legal legal, if_neg, if_neg]
  · simp only [Bool.and_eq_true, decide_eq_true_eq]
  · simp only [Bool.and_eq_true, decide_eq_true_eq, Bool.not_eq_true', Hart.privileged_eq_false, BitVec.ult_iff_lt, BitVec.lt_def]
    exact fun ⟨⟨prio, domain⟩, above⟩ => granted (.inr ⟨prio, domain, above⟩)
  · simp only [Bool.and_eq_true, Bool.not_eq_true', Hart.privileged_eq_false]
    exact fun priv => granted (.inl priv)

end

/-- The bits above the lowest two, which sy.prio has not. -/
theorem reserved_prio_iff (v : Word) : v &&& ~~~ sysBits 4 ≠ 0 ↔ 4 ≤ v.toNat := by
  have quarter : (v >>> 2).toNat = v.toNat / 4 := by rw [BitVec.toNat_ushiftRight, Nat.shiftRight_eq_div_pow]
  rw [show ~~~ sysBits 4 = BitVec.allOnes 64 <<< 2 by decide, and_allOnes_shiftLeft, shiftLeft_eq_word, quarter, ne_eq, ← toNat_eq_zero_iff]
  simp only [word, BitVec.toNat_ofNat]
  omega

theorem syswDenied_prio_iff (x : Hart) (v : Word) : x.syswDenied 4 v ↔ x.domain ≠ 0 ∧ x.prio.toNat < v.toNat := by
  simp [Hart.syswDenied, show sysPrivileged 4 = false from rfl]

/-- Settles O35: the checks of SYW for register 4, and parking keeps the hart's priority. -/
theorem priorityWrites : Obligations.PriorityWrites := by
  intro s sp ra ready i v
  refine ⟨fun high => ?_, fun low domain above => ?_, fun low may => ?_, fun c => ?_⟩
  · exact exec_trap rfl rfl ready (slotSyw_reserved ((reserved_prio_iff v).mpr high))
  · have legal := Classical.not_not.mp (mt (reserved_prio_iff v).mp (Nat.not_le.mpr low))
    exact exec_trap rfl rfl ready (slotSyw_denied legal ((syswDenied_prio_iff ..).mpr ⟨domain, above⟩))
  · have legal := Classical.not_not.mp (mt (reserved_prio_iff v).mp (Nat.not_le.mpr low))
    have granted : ¬ s.me.syswDenied 4 v := fun h => by
      obtain ⟨domain, above⟩ := (syswDenied_prio_iff ..).mp h
      exact may.elim domain (Nat.not_le.mpr above)
    have effect : slotSyw ra 4 s s = .ok (s.writeSys s.cur 4 v) none :=
      (slotSyw_granted (num := 4) legal granted).trans (if_neg (fun h => absurd h.1 (by decide)))
    exact exec_ok (i := .syw sp ra 4) rfl ready effect
  · obtain ⟨loads, preempt, me⟩ := s.forgetAbsent.me_trapHere false sp c 0 0
    rw [me, Hart.parked_prio, Hart.withdrawn_prio, State.forgetAbsent_me]

end Sys2Proof.Machine
end

section
/-! SYR and SYW of every system register (R68, R70, R87, R88). -/

namespace Sys2Proof.Machine

/-! ### SYR -/

/-- The table's value is what SYR reads. -/
theorem readSys_of_sysValue {s : State} {n : Nat} {w : Word} (rule : sysValue s n = some w) : readSys s n = w := by
  obtain ⟨before, after, table, -⟩ := List.lookup_eq_some_iff.mp rule
  have entry := table ▸ List.mem_append_right before (List.mem_cons_self (a := (n, w)) (l := after))
  simp only [List.mem_cons, List.not_mem_nil, or_false, Prod.mk.injEq] at entry
  rcases entry with h | h | h | h | h | h | h | h | h | h | h | h | h | h | h | h | h | h | h | h | h <;> obtain ⟨rfl, rfl⟩ := h <;> rfl

/-- Of sy.fflags SYR waits for the hart's own MMA (R135). -/
theorem slotSyr_fflags {s : State} {j : MmaJob} (rd : BitVec 5) (job : (s.core (coreOf s.cur)).mma = some j) (own : j.hid = s.cur) :
    slotSyr rd 0x010 s s = .wait s := by
  simp [slotSyr, job, own]

theorem slotSyr_read {s : State} {rd : BitVec 5} {num : BitVec 10}
    (free : num = 0x010 → ∀ j, (s.core (coreOf s.cur)).mma = some j → j.hid ≠ s.cur) : slotSyr rd num s s = okG s rd (readSys s num.toNat) := by
  refine if_neg fun h => ?_
  simp only [Bool.and_eq_true, decide_eq_true_eq, Option.any_eq_true, beq_iff_eq] at h
  obtain ⟨num, j, job, own⟩ := h
  exact free num j job own

/-! ### The table of values where one register is written -/

/-- Tables of the same keys whose values agree but at n and at 3, where sy.part stands. -/
def agreeBut {α : Type} (n : Nat) : List (Nat × α) → List (Nat × α) → Prop
  | [], [] => True
  | p :: l, q :: l' => (p.1 = q.1 ∧ (p.1 ≠ n → p.1 ≠ 3 → p.2 = q.2)) ∧ agreeBut n l l'
  | _, _ => False

/-- Such tables give every other key the same value. -/
theorem lookup_of_agreeBut {α : Type} {n m : Nat} (hn : m ≠ n) (h3 : m ≠ 3) {l l' : List (Nat × α)} (agree : agreeBut n l l') :
    l.lookup m = l'.lookup m := by
  induction l, l' using agreeBut.induct with
  | case1 => rfl
  | case2 p l q l' ih =>
    obtain ⟨k, a⟩ := p
    obtain ⟨k', a'⟩ := q
    obtain ⟨⟨rfl : k = k', same⟩, rest⟩ := agree
    by_cases hk : m = k
    · subst hk; simp [show a = a' from same hn h3]
    · simpa [List.lookup_cons, beq_eq_false_iff_ne.mpr hk] using ih rest
  | case3 l l' nil cons => exact absurd agree (by simp [agreeBut])

theorem word_halves (v : Word) : word ((BitVec.setWidth 32 (v >>> 32)).toNat * 2 ^ 32 + (BitVec.setWidth 32 v).toNat) = v := by
  apply BitVec.eq_of_toNat_eq
  simp only [word, BitVec.toNat_ofNat, BitVec.toNat_setWidth, BitVec.toNat_ushiftRight, Nat.shiftRight_eq_div_pow]
  omega

/-- The registers that SYW may write. -/
def sysWritable : List Nat := [0x002, 0x004, 0x008, 0x009, 0x00A, 0x010, 0x011, 0x012, 0x013, 0x020, 0x021, 0x022, 0x023, 0x024]

theorem sysWritable_of_wellFormed {sp : Bool} {ra : BitVec 5} {num : BitVec 10} (h : wellFormed (.syw sp ra num) = true) :
    num.toNat ∈ sysWritable := by
  have h : (sysAssigned num && !sysReadOnly num) = true := h
  simp [sysAssigned, sysReadOnly] at h
  simp [sysWritable]
  omega

/-- What SYR reads of a register that SYW may write is in the table. -/
theorem sysValue_of_writable {n : Nat} (writable : n ∈ sysWritable) (s : State) : sysValue s n = some (readSys s n) := by
  simp only [sysWritable, List.mem_cons, List.not_mem_nil, or_false] at writable
  rcases writable with rfl | rfl | rfl | rfl | rfl | rfl | rfl | rfl | rfl | rfl | rfl | rfl | rfl | rfl <;> rfl

theorem sysValue_writeSys_same {n : Nat} (writable : n ∈ sysWritable) (ne : n ≠ 0x011) (s : State) (v : Word) :
    sysValue (s.writeSys s.cur n v) n = some v := by
  rw [sysValue_of_writable writable, Option.some_inj]
  simp only [sysWritable, List.mem_cons, List.not_mem_nil, or_false] at writable
  rcases writable with rfl | rfl | rfl | rfl | rfl | rfl | rfl | rfl | rfl | rfl | rfl | rfl | rfl | rfl
  all_goals simp [readSys, State.writeSys, State.modHart, State.modCore, State.me, -Nat.reducePow, -BitVec.toNat_setWidth, word_halves] at ne ⊢

theorem sysValue_writeSys_other {n m : Nat} (writable : n ∈ sysWritable) (hn : m ≠ n) (h3 : m ≠ 3) (s : State) (v : Word) :
    sysValue (s.writeSys s.cur n v) m = sysValue s m := by
  refine lookup_of_agreeBut hn h3 ?_
  simp only [sysWritable, List.mem_cons, List.not_mem_nil, or_false] at writable
  rcases writable with rfl | rfl | rfl | rfl | rfl | rfl | rfl | rfl | rfl | rfl | rfl | rfl | rfl | rfl
  all_goals simp [agreeBut, State.writeSys, State.modHart, State.modCore, State.me, State.devnum, State.reg]

/-- The generator's zero is its reset seed (R70). -/
theorem writeSys_rng (s : State) (v : Word) : (s.writeSys s.cur 0x011 v).me.rng = if v = 0 then 0x9E3779B97F4A7C15 else v := by
  simp [State.writeSys, State.modHart, State.me]

/-- A write of the hart's system registers reaches neither its other registers, nor other harts, nor memory. -/
theorem writeSys_frame {n : Nat} (writable : n ∈ sysWritable) (s : State) (v : Word) :
    let t := s.writeSys s.cur n v
    t.me.g = s.me.g ∧ t.me.v = s.me.v ∧ t.me.m = s.me.m ∧ t.me.pc = s.me.pc ∧ (∀ h, h ≠ s.cur → t.hart h = s.hart h) ∧ t.mem = s.mem := by
  simp only [sysWritable, List.mem_cons, List.not_mem_nil, or_false] at writable
  rcases writable with rfl | rfl | rfl | rfl | rfl | rfl | rfl | rfl | rfl | rfl | rfl | rfl | rfl | rfl
  all_goals simp +contextual [State.writeSys, State.modHart, State.modCore, State.me, State.hart_setHart_other]

/-! ### The statement -/

/-- Settles O36: SYR reads the table's register, and SYW's checks come in the statement's order, after which one entry of the table is written. -/
theorem systemRegistersReadAndWrite : Obligations.SystemRegistersReadAndWrite := by
  refine ⟨fun s sp rd num w value ready => ⟨fun free => ?_, ?_⟩, ?_⟩
  · exact exec_okG rfl ready ((slotSyr_read free).trans (by rw [readSys_of_sysValue value]))
  · rintro rfl j job own
    exact exec_wait rfl ready (slotSyr_fflags rd job own)
  · intro s sp ra num ready i v n reserved denied
    obtain ⟨-, wf, -⟩ := State.ready_parts ready
    have writable : n ∈ sysWritable := sysWritable_of_wellFormed wf
    have legal (h : ¬ reserved) : v &&& ~~~ sysBits n = 0 := Classical.not_not.mp h
    refine ⟨fun bad => ?_, fun ok no => ?_, fun ok may queues high => ?_, fun ok may fits => ?_⟩
    · exact exec_trap rfl rfl ready (slotSyw_reserved bad)
    · exact exec_trap rfl rfl ready (slotSyw_denied (legal ok) no)
    · exact exec_trap rfl rfl ready ((slotSyw_granted (legal ok) may).trans (if_pos ⟨queues, high⟩))
    · have effect : slotSyw ra num s s = .ok (s.writeSys s.cur n v) none :=
        (slotSyw_granted (legal ok) may).trans (if_neg fun h => Nat.not_lt.mpr (fits h.1) h.2)
      refine ⟨_, exec_ok rfl ready effect, fun ne => sysValue_writeSys_same writable ne s v, fun seed => ?_,
        fun m ne part => sysValue_writeSys_other writable ne part s v, writeSys_frame writable s v⟩
      rw [seed, writeSys_rng]

end Sys2Proof.Machine
end

section
/-! TRAP, BRK and WAITE (R89, R91, R92, R354). -/

namespace Sys2Proof.Machine

/-! ### A trap instruction parks -/

/-- The trap of a bundle whose absent pages are forgotten, as its hart then stands. -/
theorem State.trapHere_forgetAbsent (s : State) (sp : Bool) (cause : Cause) (code : BitVec 10) (faddr : Word) :
    let x := (s.forgetAbsent.trapHere false sp cause code faddr).hart s.cur
    x.run = .parked ∧ x.cause = word (code.toNat * 256 + cause.num) ∧ x.faddr = faddr ∧ x.trappc = s.me.pc ∧
      x.parkSeq = s.me.parkSeq + 1 ∧ x.park = .bundle sp := by
  obtain ⟨loads, preempt, parks⟩ := s.forgetAbsent.hart_trapHere false sp cause code faddr
  rw [State.forgetAbsent_cur, State.forgetAbsent_me] at parks
  simp [parks, causeWord]

/-! ### Halting -/

theorem State.flipInterval_clusters (s : State) (h : Nat) : (s.flipInterval h).clusters = s.clusters := rfl

theorem State.flipCluster_clusters (s : State) (k : Nat) : (s.flipCluster k).clusters = s.clusters := by
  unfold State.flipCluster
  generalize List.range 64 = js
  induction js generalizing s with
  | nil => rfl
  | cons j js ih =>
    rw [List.foldl_cons, ih]
    split <;> rfl

theorem State.haltOne_halted (s : State) (k : Nat) : ((s.haltOne k).cluster k).dbg.halted = true := by
  unfold State.haltOne
  split
  · assumption
  · simp [State.modCluster]

theorem State.haltOne_keeps {s : State} {j : Nat} (halted : (s.cluster j).dbg.halted = true) (k : Nat) :
    ((s.haltOne k).cluster j).dbg.halted = true := by
  by_cases same : j = k
  · rw [same]; exact s.haltOne_halted k
  · unfold State.haltOne
    split
    · exact halted
    · rw [State.modCluster, State.cluster_setCluster_other same, State.cluster, State.flipCluster_clusters]
      exact halted

theorem State.halted_of_mem {ks : List Nat} {s : State} {j : Nat} (h : (s.cluster j).dbg.halted = true ∨ j ∈ ks) :
    ((ks.foldl (fun s k => s.haltOne k) s).cluster j).dbg.halted = true := by
  induction ks generalizing s with
  | nil => simpa using h
  | cons k ks ih =>
    refine ih ?_
    rcases h with halted | named
    · exact .inl (State.haltOne_keeps halted k)
    · rcases List.mem_cons.mp named with rfl | later
      · exact .inl (s.haltOne_halted j)
      · exact .inr later

/-! ### WAITE -/

/-- The wait has been released, which counts for a wait on a counter. -/
def waiteFired (wait : Wait) (ev : BitVec 10) : Bool := match wait with
  | .released => ev.toNat / 256 == 2
  | _ => false

theorem waiteFired_iff {wait : Wait} {ev : BitVec 10} : waiteFired wait ev = true ↔ ev.toNat / 256 = 2 ∧ wait = .released := by
  cases wait <;> simp [waiteFired]

/-- A bit of the queues that a WAITE names. -/
theorem event_names_queue (ev : BitVec 10) {n : Nat} (h : n < 8) : (ev.toNat % 256 / 2 ^ n % 2 == 1) = ev.getLsbD n := by
  have low : (ev.toNat % 2 ^ 8).testBit n = ev.toNat.testBit n := by rw [Nat.testBit_mod_two_pow, decide_eq_true h, Bool.true_and]
  rw [BitVec.getLsbD, ← low, Nat.testBit_eq_decide_div_mod_eq]
  rfl

/-- The condition of R91 on the time, a queue or a counter. -/
theorem State.eventHolds_iff (s : State) (h : Nat) (ev : BitVec 10) (d : Word) : s.eventHolds h ev d = true ↔
    (ev.toNat / 256 = 0 ∧ d.toNat ≤ s.time.toNat) ∨
    (ev.toNat / 256 = 1 ∧ ∃ n, n < 8 ∧ ev.getLsbD n = true ∧ (s.core (coreOf h)).queue (queueAt h n) ≠ []) ∨
    (2 ≤ ev.toNat / 256 ∧ (s.core (coreOf h)).count (ev.toNat % 64) = 0) := by
  rcases cls : ev.toNat / 256 with _ | _ | k
  · simp [State.eventHolds, cls, BitVec.ule]
  · have one (n : Nat) (h8 : n < 8) : (ev.toNat % 256 / 2 ^ n % 2 == 1 && !((s.core (coreOf h)).queue (queueAt h n)).isEmpty) = true ↔
        ev.getLsbD n = true ∧ (s.core (coreOf h)).queue (queueAt h n) ≠ [] := by
      rw [event_names_queue ev h8, Bool.and_eq_true, Bool.not_eq_true', List.isEmpty_eq_false_iff]
    have any : s.eventHolds h ev d = true ↔
        ∃ n, n < 8 ∧ ev.getLsbD n = true ∧ (s.core (coreOf h)).queue (queueAt h n) ≠ [] := by
      simp only [State.eventHolds, cls, List.any_eq_true, List.mem_range]
      exact exists_congr fun n => and_congr_right (one n)
    simp [any]
  · simp [State.eventHolds, cls]

/-- The event of a WAITE has come, or its wait was released (R91). -/
def State.waiteHolds (s : State) (ev : BitVec 10) (d : Word) : Prop := s.eventHolds s.cur ev d = true ∨ waiteFired s.me.wait ev = true

/-- The hart's wait recorded. -/
def State.awaiting (s : State) (rd : BitVec 5) (ev : BitVec 10) (d : Word) : State := s.modMe (fun x => { x with wait := .event rd ev d })

section
variable {s : State} {sp : Bool} {rd ra : BitVec 5} {ev : BitVec 10}

theorem slotWaite_holds (holds : s.waiteHolds ev (s.me.getG ra)) : slotWaite sp rd ra ev s s = okG s rd 1 :=
  if_pos ((Bool.or_eq_true ..).mpr holds)

variable (still : ¬ s.waiteHolds ev (s.me.getG ra))
include still

theorem slotWaite_late (late : s.me.getG ra ≠ 0 ∧ (s.me.getG ra).toNat ≤ s.time.toNat) : slotWaite sp rd ra ev s s = okG s rd 0 := by
  have passed : (s.me.getG ra != 0 && (s.me.getG ra).ule s.time) = true := by simpa [BitVec.ule] using late
  exact (if_neg fun h => still ((Bool.or_eq_true ..).mp h)).trans (if_pos passed)

variable (early : ¬ (s.me.getG ra ≠ 0 ∧ (s.me.getG ra).toNat ≤ s.time.toNat))
include early

theorem slotWaite_early : slotWaite sp rd ra ev s s =
    if sp && s.me.preempt.isSome then okG s rd 2
    else .wait (if s.me.getG ra != 0 && s.me.wait != .event rd ev (s.me.getG ra) then
      (s.awaiting rd ev (s.me.getG ra)).push (.waiteDeadline s.cur) else s.awaiting rd ev (s.me.getG ra)) := by
  have ahead : ¬ (s.me.getG ra != 0 && (s.me.getG ra).ule s.time) = true := by simpa [BitVec.ule] using early
  exact (if_neg fun h => still ((Bool.or_eq_true ..).mp h)).trans (if_neg ahead)

theorem slotWaite_asked (asked : sp = true ∧ s.me.preempt.isSome = true) : slotWaite sp rd ra ev s s = okG s rd 2 :=
  (slotWaite_early still early).trans (if_pos ((Bool.and_eq_true ..).mpr asked))

/-- Else the hart waits, and a deadline that is new to it is due. -/
theorem slotWaite_waits (unasked : ¬ (sp = true ∧ s.me.preempt.isSome = true)) :
    ∃ t : State, slotWaite sp rd ra ev s s = .wait t ∧ t.me = { s.me with wait := .event rd ev (s.me.getG ra) } ∧
      (s.me.getG ra ≠ 0 → s.me.wait ≠ .event rd ev (s.me.getG ra) → Event.waiteDeadline s.cur ∈ t.agenda) := by
  have me := State.me_modMe s (fun x => { x with wait := .event rd ev (s.me.getG ra) })
  refine ⟨_, (slotWaite_early still early).trans (if_neg fun h => unasked ((Bool.and_eq_true ..).mp h)), ?_, fun nonzero new => ?_⟩
  · split <;> exact me
  · rw [if_pos (by rw [Bool.and_eq_true, bne_iff_ne, bne_iff_ne]; exact ⟨nonzero, new⟩)]
    exact List.mem_append_right _ (List.mem_singleton_self _)

end

/-! ### The statement -/

/-- Settles O37: a trap's hart as parking leaves it, a halt of every cluster named, and WAITE's tests in their order. -/
theorem trapsParkAndWaitesWait : Obligations.TrapsParkAndWaitesWait := by
  refine ⟨⟨fun s sp ra code ready => ?_, fun s sp code ready => ⟨fun off => ?_, fun on => ?_⟩⟩, ?_⟩
  · exact ⟨_, exec_trap rfl rfl ready rfl, s.trapHere_forgetAbsent sp .trapInstr code (s.me.getG ra)⟩
  · have effect : slotBrk code s s = .trap .breakpoint code 0 := if_neg (by simp [off])
    exact ⟨_, exec_trap rfl rfl ready effect, s.trapHere_forgetAbsent sp .breakpoint code 0⟩
  · have effect : slotBrk code s s = .wait (s.haltCluster (clusterOf s.cur)) := if_pos on
    exact ⟨_, exec_wait rfl ready effect, fun k named => State.halted_of_mem (.inr (List.mem_cons.mpr named))⟩
  · intro s sp rd ra ev ready i d c holds late asked answer
    have iff : holds ↔ s.waiteHolds ev d := by
      rw [State.waiteHolds, State.eventHolds_iff, waiteFired_iff, or_assoc, or_assoc]
    rw [iff]
    refine ⟨fun now => ?_, fun still past => ?_, fun still early yes => ?_, fun still early no => ?_⟩
    · exact exec_okG rfl ready (slotWaite_holds now)
    · exact exec_okG rfl ready (slotWaite_late still past)
    · exact exec_okG rfl ready (slotWaite_asked still early yes)
    · obtain ⟨t, effect, me, due⟩ := slotWaite_waits (rd := rd) still early no
      refine ⟨t, exec_wait rfl ready effect, ?_, ?_, due⟩ <;> rw [me]

end Sys2Proof.Machine
end

section
/-! Device reset (R68, R124, R298, R300). -/

namespace Sys2Proof.Machine

theorem Hart.getG_reset (h : Nat) (r : BitVec 5) : (Hart.reset h).getG r = 0 := by
  unfold Hart.getG
  split
  · rfl
  · exact Vector.getElem_replicate ..

theorem Hart.getV_reset (h : Nat) (r : BitVec 5) : (Hart.reset h).getV r = 0 := Vector.getElem_replicate ..

theorem Hart.getM_reset {r : BitVec 3} (ne : r ≠ 0) (h : Nat) : (Hart.reset h).getM r = 0 := by
  rw [Hart.getM, if_neg ne]
  exact Vector.getElem_replicate ..

theorem Core.count_reset (n : Nat) : Core.reset.count n = 0 := by
  have zeros : (List.replicate 64 (0 : BitVec 40)).getD n 0 = 0 := by
    rw [List.getD_eq_getElem?_getD, List.getElem?_replicate]
    split <;> rfl
  exact congrArg BitVec.toNat zeros

theorem Core.latch_reset (l : Bool) : (Core.reset.latch l).st = .closed := by cases l <;> rfl

/-- Settles O1: a hart or core that the reset state does not list holds its reset value. -/
theorem resetState : Obligations.ResetState := by
  refine ⟨fun h => ⟨rfl, rfl, rfl, rfl, rfl, rfl, rfl, rfl, rfl, rfl, rfl, rfl, rfl, rfl, rfl, rfl, rfl, rfl, rfl, Hart.getG_reset h, Hart.getV_reset h,
    fun r ne => Hart.getM_reset ne h⟩, fun c => ⟨fun e => rfl, rfl, rfl, rfl, fun k => rfl, rfl, rfl, Core.count_reset, rfl, rfl, rfl, rfl, rfl, rfl,
    fun n => Vector.getElem_replicate n.isLt, Core.latch_reset⟩, rfl, reset_memWf, fun a => rfl⟩

end Sys2Proof.Machine
end

section
/-! Words of the spec's examples, and the majors that R57 reserves. -/

namespace Sys2Proof

theorem decodeC_reserved (w lit : BitVec 32)
    (h : (fld w 24 6).toNat ∈ [0x0E, 0x0F, 0x1A, 0x1B, 0x1C, 0x1D, 0x1E, 0x1F, 0x34, 0x35, 0x36, 0x37, 0x3D, 0x3E, 0x3F]) :
    decodeC w lit = .error .reservedMajor := by
  unfold decodeC
  generalize (fld w 24 6).toNat = major at h ⊢
  simp only [List.mem_cons, List.not_mem_nil, or_false] at h
  rcases h with rfl | rfl | rfl | rfl | rfl | rfl | rfl | rfl | rfl | rfl | rfl | rfl | rfl | rfl | rfl <;> rfl

theorem decodeA_reserved (w : BitVec 32)
    (h : (fld w 25 7).toNat ∈ [0x0F, 0x1F, 0x26, 0x27, 0x36, 0x37, 0x4C, 0x4D, 0x4E, 0x4F] ∨ 0x56 ≤ (fld w 25 7).toNat) :
    decodeA w = .error .reservedMajor := by
  have bound : (fld w 25 7).toNat < 128 := (fld w 25 7).isLt
  unfold decodeA
  generalize (fld w 25 7).toNat = major at h bound ⊢
  rcases h with listed | above
  · simp only [List.mem_cons, List.not_mem_nil, or_false] at listed
    rcases listed with rfl | rfl | rfl | rfl | rfl | rfl | rfl | rfl | rfl | rfl <;> rfl
  · obtain ⟨k, rfl⟩ := Nat.exists_eq_add_of_le' above
    rfl

/-- Settles O2: the examples are decoded, and a reserved major is refused whatever stands below it. -/
theorem workedWordsDecode : Obligations.WorkedWordsDecode := by
  refine ⟨rfl, rfl, rfl, rfl, rfl, rfl, rfl, rfl, rfl, rfl, rfl, fun w lit i h => ?_, fun w i h => ?_⟩
  · rw [decodeC_reserved w lit h]
    exact nofun
  · rw [decodeA_reserved w h]
    exact nofun

end Sys2Proof
end

section
/-! O57 fails. A visit of a walk that has ended drops the bytes that the walk had asked for from outside the device, so it is not the identity. -/

namespace Sys2Proof.Machine

/-- A Gleaner walk that is complete and has nothing left to visit. -/
def completeWalk : GleanWalk where
  gen := 0
  live := true
  desc := []
  descAddr := 0
  w0 := 0
  w1 := 0
  domain := 0
  launch := none
  cid := 0
  corr := 0
  power := 0
  pinned := true
  service := false
  barDefault := 0
  part := 0
  state := 1
  reason := 0
  pass := 0
  passStart := 0
  passOpen := false
  todo := []
  deferred := []
  reissue := []
  marks := []
  issued := 0
  retired := 0
  starved := 0
  outstanding := 0
  lastCore := none
  issuing := none

/-- The walk stands complete in slot 0 of cluster 0 while one answer from outside the device is still owed to it. -/
def owedToCompleteWalk : State :=
  { State.reset with
    clusters := [(0, { Cluster.reset with glean := [(0, completeWalk)] })]
    posted := [(gleanUnit 0 0 0, ⟨1, [], none, []⟩)] }

theorem owedToCompleteWalk_glean : find 0 (owedToCompleteWalk.cluster 0).glean = some completeWalk := rfl

/-- A visit of a walk that does not run only forgets what the walk's unit waits for. -/
theorem exec_gleanerVisit_of_ended {s : State} {k slot : Nat} {w : GleanWalk} (here : find slot (s.cluster k).glean = some w)
    (ended : w.state ≠ 0) : exec (.gleanerVisit k slot) s = .next (s.setPosted (gleanUnit k slot w.gen) Posted.none) := by
  have visits : exec (.gleanerVisit k slot) s = .next (s.gleanVisit k slot) := rfl
  rw [visits, State.gleanVisit, here]
  simp [ended]

theorem State.setPosted_none_posted (s : State) (u : Nat) : (s.setPosted u Posted.none).posted = drop u s.posted := by
  simp [State.setPosted]

/-- Refutes O57: a visit of a walk that is complete or aborted does not leave the device as it is. Where an answer from outside is still owed to
the walk's unit, as in `owedToCompleteWalk`, the visit drops that unit's entry. -/
theorem not_unitsActOnTheirOwn : ¬ Obligations.UnitsActOnTheirOwn := by
  unfold Obligations.UnitsActOnTheirOwn
  rintro ⟨-, -, -, -, -, -, -, -, -, -, visit, -⟩
  have ended : completeWalk.state ≠ 0 := by decide
  have unchanged := (visit owedToCompleteWalk 0 0 completeWalk owedToCompleteWalk_glean).1 ended
  rw [exec_gleanerVisit_of_ended owedToCompleteWalk_glean ended] at unchanged
  have posted := congrArg State.posted (Host.Outcome.next.inj unchanged)
  rw [State.setPosted_none_posted] at posted
  exact absurd posted (by decide)

end Sys2Proof.Machine
end

section
/-! O56 fails. A context that lands in its save slot can drive a shared range out of the core's near cache, and a load of a task in the run queue that
has taken bytes of that range gives them up (R168, R211). So the arrival does not leave the queue's tasks as they are. -/

namespace Sys2Proof.Machine

/-- A load of the bytes 0 and 32 in one piece: byte 0 is bound, byte 32 is still on its way. -/
def halfBoundLoad : PLoad := ⟨5, .g 1 2 false, false, [⟨0, 0, 0, some 1⟩, ⟨32, 1, 0, none⟩], none, [], true⟩

/-- A ready task whose saved context has the load under way. -/
def halfLoadedTask : Task := { Task.blank with pending := [halfBoundLoad] }

/-- The n-th of the shared ranges of one byte, 64 bytes apart in region 0. -/
def sharedByte (n : Nat) : RangeEntry := ⟨0, 64 * n, 1, 0, 0, .shared, [1], 0, 0, 0⟩

/-- The context of a blank task, its image one byte that lands at address 16, which no range holds. -/
def oneByteContext : CtxMsg := ⟨[(0, [0])], ⟨0, 0, 16, 0⟩, Task.blank⟩

/-- Core 0 has a full set of shared ranges, byte 0 the first to be evicted; the load's task is in its run queue, and its load is named among those that have
left the core; a context is about to land. -/
def contextBesideLoad : State :=
  { State.reset with
    cores := [(0, { Core.reset with
      nc := (List.range 8).map sharedByte
      forwards := [⟨1, [5]⟩]
      runq := [(0, halfLoadedTask)]
      ctxIn := [oneByteContext] })] }

/-- What the pending loads of core 0's ready tasks have bound. -/
def boundInQueue (s : State) : List (Option Byte) :=
  (s.core 0).runq.flatMap (fun e => e.2.pending.flatMap (fun l => l.wants.map (fun w => w.val)))

theorem boundInQueue_contextArrival : boundInQueue (contextBesideLoad.contextArrival 0) = [none, none] := by decide +kernel

/-- Refutes O56: when a context arrives, its task is not merely added to the run queue. In `contextBesideLoad` the byte that the queued task's load
has bound is given up, because the context's bytes evict the shared range that it came from. -/
theorem not_arrivalsAndTasksMove : ¬ Obligations.ArrivalsAndTasksMove := by
  unfold Obligations.ArrivalsAndTasksMove
  rintro ⟨-, -, -, -, -, -, -, -, arrival, -⟩
  obtain ⟨t, effect, -, -, queue⟩ := arrival contextBesideLoad 0 oneByteContext [] rfl
  have arrives : exec (.registerContextArrival 0) contextBesideLoad = .next (contextBesideLoad.contextArrival 0) := rfl
  obtain rfl : contextBesideLoad.contextArrival 0 = t := Host.Outcome.next.inj (arrives.symm.trans effect)
  have bound : boundInQueue (contextBesideLoad.contextArrival 0) = [some 1, none] := by
    rw [boundInQueue, queue]
    decide +kernel
  rw [boundInQueue_contextArrival] at bound
  exact absurd bound (by decide)

end Sys2Proof.Machine
end

section
/-! Elements of vectors (R64, R94): what a lane reads of a vector built element by element, and of one in which elements are replaced. -/

namespace Sys2Proof.Machine

/-! ### Lanes -/

theorem getLsbD_lane {n : Nat} (x : BitVec n) (i w j : Nat) : (lane x i w).getLsbD j = (decide (j < w) && x.getLsbD (w * i + j)) :=
  BitVec.getLsbD_extractLsb' ..

/-- A bit below w of element i lies in element i, at its place there. -/
theorem element_of_bit {w i j : Nat} (h : j < w) : (w * i + j) / w = i ∧ (w * i + j) % w = j :=
  ⟨by rw [Nat.mul_add_div (by omega), Nat.div_eq_of_lt h, Nat.add_zero], by rw [Nat.mul_add_mod, Nat.mod_eq_of_lt h]⟩

/-- The bits of element i end where those of element i + 1 begin. -/
theorem bit_lt_iff {w i j n : Nat} (h : j < w) : w * i + j < w * n ↔ i < n := by
  constructor
  · intro below
    refine Nat.lt_of_not_le fun above => ?_
    have := Nat.mul_le_mul_left w above
    omega
  · intro below
    have := Nat.mul_le_mul_left w (Nat.succ_le_of_lt below)
    rw [Nat.mul_succ] at this
    omega

/-- The bits of a vector whose elements fill it are those of its elements. -/
theorem eq_of_lane_eq {w n width : Nat} (full : w * n = width) {x y : BitVec width} (same : ∀ k, k < n → lane x k w = lane y k w) : x = y := by
  subst full
  refine BitVec.eq_of_getLsbD_eq fun j hj => ?_
  have positive : 0 < w := Nat.pos_of_mul_pos_right (Nat.zero_lt_of_lt hj)
  have within : j / w < n := Nat.div_lt_of_lt_mul hj
  have bits := congrArg (fun v : BitVec w => v.getLsbD (j % w)) (same (j / w) within)
  simpa only [getLsbD_lane, Nat.mod_lt j positive, decide_true, Bool.true_and, Nat.div_add_mod] using bits

theorem getLsbD_ofLanes {width w : Nat} (f : Nat → BitVec w) {n : Nat} (fits : w * n ≤ width) (j : Nat) :
    (ofLanes width w f n).getLsbD j = (decide (j < w * n) && (f (j / w)).getLsbD (j % w)) := by
  induction n with
  | zero => simp [ofLanes]
  | succ n ih =>
    rw [Nat.mul_succ] at fits ⊢
    rw [ofLanes, BitVec.getLsbD_or, ih (by omega), BitVec.getLsbD_shiftLeft, BitVec.getLsbD_setWidth]
    by_cases below : j < w * n
    · rw [decide_eq_true below, decide_eq_true (show j < w * n + w by omega)]
      simp only [Bool.true_and, Bool.not_true, Bool.and_false, Bool.false_and, Bool.or_false]
    · obtain ⟨k, rfl⟩ := Nat.exists_eq_add_of_le (Nat.le_of_not_lt below)
      by_cases here : k < w
      · obtain ⟨quotient, remainder⟩ := element_of_bit (i := n) here
        rw [Nat.add_sub_cancel_left, quotient, remainder, decide_eq_false below, decide_eq_true (show w * n + k < width by omega),
          decide_eq_true (show k < width by omega), decide_eq_true (show w * n + k < w * n + w by omega)]
        simp only [Bool.false_and, Bool.not_false, Bool.true_and, Bool.false_or]
      · rw [Nat.add_sub_cancel_left, BitVec.getLsbD_of_ge _ k (Nat.le_of_not_lt here), decide_eq_false below,
          decide_eq_false (show ¬ w * n + k < w * n + w by omega)]
        simp only [Bool.false_and, Bool.and_false, Bool.or_false]

theorem lane_ofLanes {width w : Nat} (f : Nat → BitVec w) {n k : Nat} (fits : w * n ≤ width) (h : k < n) :
    lane (ofLanes width w f n) k w = f k := by
  refine BitVec.eq_of_getLsbD_eq fun j hj => ?_
  obtain ⟨quotient, remainder⟩ := element_of_bit (i := k) hj
  rw [getLsbD_lane, getLsbD_ofLanes f fits, quotient, remainder, decide_eq_true hj, decide_eq_true ((bit_lt_iff hj).mpr h)]
  rfl

/-! ### Elements replaced -/

theorem getLsbD_setLane {n w : Nat} (x : BitVec n) (i : Nat) (y : BitVec w) (j : Nat) :
    (setLane x i w y).getLsbD j = if w * i ≤ j ∧ j < w * i + w then decide (j < n) && y.getLsbD (j - w * i) else x.getLsbD j := by
  simp only [setLane, BitVec.getLsbD_or, BitVec.getLsbD_and, BitVec.getLsbD_not, BitVec.getLsbD_shiftLeft, BitVec.getLsbD_setWidth,
    BitVec.getLsbD_allOnes]
  by_cases inside : j < n
  · by_cases below : j < w * i
    · simp [inside, below, show ¬ w * i ≤ j by omega]
    · by_cases here : j - w * i < w
      · simp [inside, below, here, show w * i ≤ j ∧ j < w * i + w by omega, show j - w * i < n by omega]
      · simp [inside, below, here, show ¬ j < w * i + w by omega, BitVec.getLsbD_of_ge y _ (Nat.le_of_not_lt here)]
  · simp [inside, BitVec.getLsbD_of_ge x j (Nat.le_of_not_lt inside)]

theorem lane_setLane_same {n w : Nat} (x : BitVec n) {i : Nat} (y : BitVec w) (fits : w * (i + 1) ≤ n) : lane (setLane x i w y) i w = y := by
  rw [Nat.mul_succ] at fits
  refine BitVec.eq_of_getLsbD_eq fun j hj => ?_
  rw [getLsbD_lane, getLsbD_setLane, if_pos (by omega), Nat.add_sub_cancel_left, decide_eq_true hj, decide_eq_true (by omega)]
  rfl

theorem lane_setLane_other {n w : Nat} (x : BitVec n) {i k : Nat} (y : BitVec w) (ne : k ≠ i) : lane (setLane x i w y) k w = lane x k w := by
  refine BitVec.eq_of_getLsbD_eq fun j hj => ?_
  have outside : ¬ (w * i ≤ w * k + j ∧ w * k + j < w * i + w) := by
    rintro ⟨above, below⟩
    have upper : k < i + 1 := (bit_lt_iff hj).mp (by rwa [Nat.mul_succ])
    have lower : ¬ k < i := fun h => absurd ((bit_lt_iff hj).mpr h) (by omega)
    omega
  rw [getLsbD_lane, getLsbD_lane, getLsbD_setLane, if_neg outside]

/-! ### Elements packed -/

/-- Elements of a list packed from place `start` on: those places hold them, the others are as in the base. -/
theorem lane_packElems (base : Vec) (w start : Nat) (xs : List Nat) {k : Nat} (fits : w * (k + 1) ≤ 512) :
    lane (packElems base w start xs) k w =
      if start ≤ k ∧ k < start + xs.length then BitVec.ofNat w (xs.getD (k - start) 0) else lane base k w := by
  induction xs generalizing base start with
  | nil => simp [packElems, show ¬ (start ≤ k ∧ k < start) by omega]
  | cons x xs ih =>
    rw [packElems, ih, List.length_cons]
    by_cases first : k = start
    · subst first
      rw [if_neg (by omega), lane_setLane_same _ _ fits, if_pos (by omega), Nat.sub_self, List.getD_cons_zero]
    · rw [lane_setLane_other _ _ first]
      by_cases later : start + 1 ≤ k ∧ k < start + 1 + xs.length
      · rw [if_pos later, if_pos (by omega), show k - start = k - (start + 1) + 1 by omega, List.getD_cons_succ]
      · rw [if_neg later, if_neg (by omega)]

theorem getLsbD_packElems_above (base : Vec) (w start : Nat) (xs : List Nat) {j : Nat} (above : w * (start + xs.length) ≤ j) :
    (packElems base w start xs).getLsbD j = base.getLsbD j := by
  induction xs generalizing base start with
  | nil => rfl
  | cons x xs ih =>
    rw [List.length_cons] at above
    have next : w * (start + 1) ≤ j := Nat.le_trans (Nat.mul_le_mul_left w (by omega)) above
    rw [packElems, ih _ _ (by rwa [Nat.add_right_comm]), getLsbD_setLane, if_neg (by rw [Nat.mul_succ] at next; omega)]

end Sys2Proof.Machine
end

section
/-! Elements computed one by one, with their flags and draws (R101, R102). -/

namespace Sys2Proof.Machine

/-- The generator's state with k elements computed. -/
def genAfter (draws : Bool) (rng : Word) (k : Nat) : Word := if draws then rngAfter rng k else rng

theorem genAfter_zero (draws : Bool) (rng : Word) : genAfter draws rng 0 = rng := by cases draws <;> rfl

theorem genAfter_succ (draws : Bool) (rng : Word) (k : Nat) :
    genAfter draws rng (k + 1) = genAfter draws (if draws then rngStep rng else rng) k := by cases draws <;> rfl

/-- Encoding and flags of element k of those that start at index i from the state `rng`. -/
def elemAt (f : ElemFn) (draws : Bool) (i : Nat) (rng : Word) (k : Nat) : Nat × Flags := f (i + k) (drawOf (genAfter draws rng (k + 1)))

theorem elemAt_succ (f : ElemFn) (draws : Bool) (i : Nat) (rng : Word) (k : Nat) :
    elemAt f draws i rng (k + 1) = elemAt f draws (i + 1) (if draws then rngStep rng else rng) k := by
  rw [elemAt, elemAt, genAfter_succ, Nat.add_right_comm, Nat.add_assoc]

theorem elemAt_zero (f : ElemFn) (draws : Bool) (i : Nat) (rng : Word) :
    elemAt f draws i rng 0 = f i (drawOf (if draws then rngStep rng else rng)) := by
  rw [elemAt, genAfter_succ, genAfter_zero, Nat.add_zero]

theorem runElems_succ (f : ElemFn) (draws : Bool) (n i : Nat) (rng : Word) :
    runElems f draws (n + 1) i rng =
      let rest := runElems f draws n (i + 1) (if draws then rngStep rng else rng)
      let first := elemAt f draws i rng 0
      (first.1 :: rest.1, first.2 ||| rest.2.1, rest.2.2) := by
  rw [elemAt_zero]
  rfl

theorem runElems_val (f : ElemFn) (draws : Bool) (n i : Nat) (rng : Word) :
    (runElems f draws n i rng).1 = (List.range n).map (fun k => (elemAt f draws i rng k).1) := by
  induction n generalizing i rng with
  | zero => rfl
  | succ n ih =>
    simp only [runElems_succ, ih, List.range_succ_eq_map, List.map_cons, List.map_map, Function.comp_def, Nat.succ_eq_add_one,
      elemAt_succ]

theorem runElems_flags (f : ElemFn) (draws : Bool) (n i : Nat) (rng : Word) (b : Nat) :
    (runElems f draws n i rng).2.1.getLsbD b = (List.range n).any (fun k => (elemAt f draws i rng k).2.getLsbD b) := by
  induction n generalizing i rng with
  | zero => exact BitVec.getLsbD_zero
  | succ n ih =>
    simp only [runElems_succ, BitVec.getLsbD_or, ih, List.range_succ_eq_map, List.any_cons, List.any_map, Function.comp_def, Nat.succ_eq_add_one,
      elemAt_succ]

theorem runElems_rng (f : ElemFn) (draws : Bool) (n i : Nat) (rng : Word) : (runElems f draws n i rng).2.2 = genAfter draws rng n := by
  induction n generalizing i rng with
  | zero => exact (genAfter_zero draws rng).symm
  | succ n ih => rw [runElems_succ, genAfter_succ, ← ih]

/-- Where n elements are packed into a vector from place `start` on, element k of the vector. -/
theorem lane_packElems_runElems (base : Vec) (w start : Nat) (f : ElemFn) (draws : Bool) (n : Nat) (rng : Word) {k : Nat}
    (fits : w * (k + 1) ≤ 512) :
    lane (packElems base w start (runElems f draws n 0 rng).1) k w =
      if start ≤ k ∧ k < start + n then BitVec.ofNat w (elemAt f draws 0 rng (k - start)).1 else lane base k w := by
  rw [lane_packElems _ _ _ _ fits, runElems_val, List.length_map, List.length_range]
  split
  case isTrue h => rw [List.getD_eq_getElem?_getD, List.getElem?_map, List.getElem?_range (by omega), Option.map_some, Option.getD_some]
  case isFalse => rfl

theorem lane_elementwise (w n : Nat) (draws : Bool) (rng : Word) (f : ElemFn) {k : Nat} (h : k < n) (fits : w * n ≤ 512) :
    lane (elementwise w n draws rng f).val k w = BitVec.ofNat w (elemAt f draws 0 rng k).1 := by
  have here : w * (k + 1) ≤ 512 := Nat.le_trans (Nat.mul_le_mul_left w h) fits
  refine (lane_packElems_runElems 0 w 0 f draws n rng here).trans ?_
  rw [if_pos (by omega), Nat.sub_zero]

/-- Settles O40: bits of vectors built from elements, by induction on their number; the run of the elements, by induction on it too. -/
theorem vectorsHoldTheirElements : Obligations.VectorsHoldTheirElements := by
  refine ⟨fun w n f _ fits => ⟨fun k h => lane_ofLanes f fits h, fun j above => ?_⟩,
    fun w n draws rng f _ fits => ⟨fun k h => ?_, fun j above => ?_, ?_, fun b => ?_⟩⟩
  · rw [pureElems, getLsbD_ofLanes f fits, decide_eq_false (Nat.not_lt.mpr above), Bool.false_and]
  · simpa only [elemAt, genAfter, Nat.zero_add] using lane_elementwise w n draws rng f h fits
  · refine (getLsbD_packElems_above 0 w 0 _ ?_).trans BitVec.getLsbD_zero
    simpa [runElems_val] using above
  · exact runElems_rng f draws n 0 rng
  · rw [elementwise, runElems_flags]
    simp only [elemAt, genAfter, Nat.zero_add]

end Sys2Proof.Machine
end

section
/-! What an instruction of the A slot does alone (R41), by what its effect comes to, and where its vector goes (R26, R66, R254). -/

namespace Sys2Proof.Machine

/-! ### Operands read -/

section
variable {pre cur u : State} {t : Ty} {a b : BitVec 6} {x y : Vec}

theorem vec1_none {f : Vec → State → Eff} (read : readOne pre cur (elems t) a = none) : vec1 t a pre cur f = waitQueue pre := by
  rw [vec1, read]

theorem vec1_some {f : Vec → State → Eff} (read : readOne pre cur (elems t) a = some (x, u)) : vec1 t a pre cur f = f x u := by
  rw [vec1, read]

theorem vec2_none {f : Vec → Vec → State → Eff} (read : readTwo pre cur (elems t) (elems t) a b = none) :
    vec2 t a b pre cur f = waitQueue pre := by
  rw [vec2, read]

theorem vec2_some {f : Vec → Vec → State → Eff} (read : readTwo pre cur (elems t) (elems t) a b = some (x, y, u)) :
    vec2 t a b pre cur f = f x y u := by
  rw [vec2, read]

end

/-! ### Entries pushed -/

theorem Core.queue_setQueue_same (c : Core) (k : Nat) {q : List Vec} (entries : q ≠ []) : (c.setQueue k q).queue k = q := by
  rw [Core.queue, Core.setQueue, if_neg (by simpa using entries)]
  simp

theorem Core.queue_setQueue_other (c : Core) {j k : Nat} (ne : j ≠ k) (q : List Vec) : (c.setQueue k q).queue j = c.queue j := by
  rw [Core.queue, Core.queue, Core.setQueue]
  split
  · rw [find_drop_other ne]
  · rw [find_put_other ne]

/-- Binding a task to its core's channels leaves the hart's registers. -/
theorem Hart.bind_eq (x : Hart) (h n : Nat) : ∃ job, x.bind h n = { x with job := job } := by
  unfold Hart.bind
  split
  · exact ⟨_, rfl⟩
  · exact ⟨x.job, rfl⟩

theorem State.me_modHart_bind (s : State) (h n : Nat) : ∃ job, (s.modHart h (fun x => x.bind h n)).me = { s.me with job := job } := by
  by_cases here : s.cur = h
  · obtain ⟨job, bound⟩ := s.me.bind_eq h n
    refine ⟨job, ?_⟩
    rw [← bound, ← here]
    exact State.hart_setHart_same ..
  · exact ⟨s.me.job, State.hart_setHart_other here ..⟩

section
variable {cur lim : State} {h n : Nat}

theorem State.pushQ_full (full : queueTakes lim (cur.core (coreOf h)) (coreOf h) (queueAt h n) 1 = false) (v : Vec) : cur.pushQ lim h n v = none := by
  simp [State.pushQ, full]

/-- A push that the queue takes is its only change of the core, and it leaves every register of the hart that issues. -/
theorem State.pushQ_takes (takes : queueTakes lim (cur.core (coreOf h)) (coreOf h) (queueAt h n) 1 = true) (v : Vec) :
    ∃ t : State, cur.pushQ lim h n v = some t ∧
      (t.core (coreOf h)).queue (queueAt h n) = (cur.core (coreOf h)).queue (queueAt h n) ++ [v] ∧
      (∀ j, j ≠ queueAt h n → (t.core (coreOf h)).queue j = (cur.core (coreOf h)).queue j) ∧
      t.me.g = cur.me.g ∧ t.me.v = cur.me.v ∧ t.me.m = cur.me.m ∧ t.me.fflags = cur.me.fflags ∧ t.me.rng = cur.me.rng ∧ t.mem = cur.mem := by
  let c := cur.core (coreOf h)
  let pushed := cur.setCore (coreOf h) (c.setQueue (queueAt h n) (c.queue (queueAt h n) ++ [v]))
  have core : (pushed.modHart h (fun x => x.bind h n)).core (coreOf h) = c.setQueue (queueAt h n) (c.queue (queueAt h n) ++ [v]) :=
    State.core_setCore_same ..
  obtain ⟨job, me⟩ := pushed.me_modHart_bind h n
  have same : pushed.me = cur.me := rfl
  refine ⟨pushed.modHart h (fun x => x.bind h n), by rw [State.pushQ, if_pos takes], ?_, fun j ne => ?_, ?_⟩
  · rw [core, Core.queue_setQueue_same _ _ (List.append_ne_nil_of_right_ne_nil _ (List.cons_ne_nil v []))]
  · rw [core, Core.queue_setQueue_other _ ne]
  · rw [me, same]
    exact ⟨rfl, rfl, rfl, rfl, rfl, rfl⟩

end

/-! ### Where the vector goes -/

/-- A raw result goes where the statements say that a vector goes. -/
theorem writesVec_finishRaw (s u : State) (d : BitVec 6) (v : Vec) : writesVec s u d v (.next (s.settle true false (finishRaw s u d v))) := by
  refine ⟨fun register => ?_, fun queue takes => ?_, fun queue full => ?_⟩
  · rw [finishRaw, writeVec, if_pos register]
    rfl
  · obtain ⟨t, push, effects⟩ := State.pushQ_takes takes v
    refine ⟨t, ?_, effects⟩
    rw [finishRaw, writeVec, if_neg (Nat.not_lt.mpr queue), push]
    rfl
  · rw [finishRaw, writeVec, if_neg (Nat.not_lt.mpr queue), State.pushQ_full full]
    rfl

/-- A result with flags and draws goes there from the state in which they are raised and made. -/
theorem writesVec_finishV (s u : State) (d : BitVec 6) (r : VRes) :
    writesVec s (u.flagged s r) d r.val (.next (s.settle true false (finishV s u d r))) :=
  writesVec_finishRaw s (u.flagged s r) d r.val

/-- A result with flags and draws whose destination is one of the registers. -/
theorem settle_finishV_register (s u : State) (d : BitVec 5) (r : VRes) :
    s.settle true false (finishV s u (d.setWidth 6) r) = ((u.flagged s r).modMe (fun h => h.setV d r.val)).finish false := by
  have small : (d.setWidth 6).toNat = d.toNat := BitVec.toNat_setWidth_of_le (by decide)
  have back : (d.setWidth 6).setWidth 5 = d := BitVec.eq_of_toNat_eq (by rw [BitVec.toNat_setWidth, small, Nat.mod_eq_of_lt d.isLt])
  have goes := (writesVec_finishV s u (d.setWidth 6) r).1 (by rw [small]; exact d.isLt)
  rw [Host.Outcome.next.inj goes, back]

/-! ### The instruction issued -/

theorem standsInA_and_safePoint (i : Instr) : (standsInA i && safePoint i) = false := by cases i <;> rfl

section
variable {s : State} {i : Instr} (stands : standsInA i = true) (ready : s.ready i = true)
include stands ready

theorem exec_slotA : exec i s = .next (s.settle true false (slotOp i s s)) := by
  have plain : safePoint i = false := by simpa [stands] using standsInA_and_safePoint i
  rw [exec_eq_issue (.inr stands), issue_ready ready, stands, plain]

variable {t : Ty} {d a b : BitVec 6}

theorem exec_vec1 {f : Vec → State → Eff} (effect : slotOp i s s = vec1 t a s s f) :
    (readOne s s (elems t) a = none → exec i s = .next s.blockOnQueue) ∧
    (∀ x u, readOne s s (elems t) a = some (x, u) → exec i s = .next (s.settle true false (f x u))) := by
  rw [exec_slotA stands ready, effect]
  exact ⟨fun read => by rw [vec1_none read]; rfl, fun x u read => by rw [vec1_some read]⟩

theorem exec_vec2 {f : Vec → Vec → State → Eff} (effect : slotOp i s s = vec2 t a b s s f) :
    (readTwo s s (elems t) (elems t) a b = none → exec i s = .next s.blockOnQueue) ∧
    (∀ x y u, readTwo s s (elems t) (elems t) a b = some (x, y, u) → exec i s = .next (s.settle true false (f x y u))) := by
  rw [exec_slotA stands ready, effect]
  exact ⟨fun read => by rw [vec2_none read]; rfl, fun x y u read => by rw [vec2_some read]⟩

end

end Sys2Proof.Machine
end

section
/-! The float groups of the A slot: VADD to VMAX, the unary group, and NOPA (R57, R107, R109). -/

namespace Sys2Proof.Machine

/-- The rule's choice between two elements, with the flags stated once. -/
theorem pickElem_eq (t : Ty) (larger : Bool) (a b : Nat) :
    pickElem t larger a b =
      let x := fdecode t a
      let y := fdecode t b
      (if x.isNan && y.isNan then t.nanBits else if x.isNan then b else if y.isNan then a
        else if (if larger then x.ltZ y else y.ltZ x) then b else a, if x.isSig || y.isSig then flagInvalid else 0) := by
  unfold pickElem
  dsimp only
  cases larger <;> cases (fdecode t a).isNan <;> cases (fdecode t b).isNan <;> rfl

theorem slotOp_of_floatTwo {i : Instr} {d a b : BitVec 6} {ty : BitVec 4} {rm : BitVec 3} {f : Nat → Nat → Nat → Nat × Flags}
    (rule : floatTwo i = some (d, a, b, ty, rm, f)) (pre cur : State) :
    standsInA i = true ∧ slotOp i pre cur = map2 (Ty.of ty) d a b rm pre cur f := by
  unfold floatTwo at rule
  split at rule <;> cases rule <;> refine ⟨rfl, ?_⟩
  case h_1 | h_2 | h_3 => rfl -- VADD, VSUB, VMUL
  case h_4 => exact congrArg (map2 _ _ _ _ _ _ _) (funext fun _ => funext fun x => funext fun y => pickElem_eq (Ty.of ty) false x y)
  case h_5 => exact congrArg (map2 _ _ _ _ _ _ _) (funext fun _ => funext fun x => funext fun y => pickElem_eq (Ty.of ty) true x y)

theorem slotOp_of_floatOne {i : Instr} {d a : BitVec 6} {ty : BitVec 4} {rm : BitVec 3} {f : Nat → Nat → Nat × Flags}
    (rule : floatOne i = some (d, a, ty, rm, f)) (pre cur : State) :
    standsInA i = true ∧ slotOp i pre cur = map1 (Ty.of ty) d a rm pre cur f := by
  unfold floatOne at rule
  split at rule <;> cases rule <;> exact ⟨rfl, rfl⟩

/-- Settles O41: each instruction's effect is its rule's function over the elements, and the vector goes where vectors go. -/
theorem floatGroupsCompute : Obligations.FloatGroupsCompute := by
  refine ⟨fun s i d a b ty rm f rule ready => ?_, fun s i d a ty rm f rule ready => ?_, fun s ready => exec_slotA rfl ready⟩
  · obtain ⟨stands, effect⟩ := slotOp_of_floatTwo rule s s
    obtain ⟨waits, computes⟩ := exec_vec2 stands ready effect
    exact ⟨waits, fun x y u read => by rw [computes x y u read]; exact writesVec_finishV ..⟩
  · obtain ⟨stands, effect⟩ := slotOp_of_floatOne rule s s
    obtain ⟨waits, computes⟩ := exec_vec1 stands ready effect
    exact ⟨waits, fun x u read => by rw [computes x u read]; exact writesVec_finishV ..⟩

end Sys2Proof.Machine
end

section
/-! Integer elements (R98), and the accumulating groups VFMA to VFNMA, VDOT4 and VDOT2 (R108, R117). -/

namespace Sys2Proof.Machine

theorem idecode_eq_intOf (t : Ty) (x : Nat) : idecode t x = intOf t x := by
  unfold idecode intOf signedOf
  cases t.signed <;> simp

theorem fmaElem_eq (t : Ty) (rm : BitVec 3) (np na : Bool) (draw a b c : Nat) :
    fmaElem t rm np na draw a b c =
      arith t rm draw [fdecode t a, fdecode t b, fdecode t c] ((mulVals (fdecode t a) (fdecode t b)).bind
        (fun m => sumVals rm [if np then m.neg else m, if na then (fdecode t c).neg else fdecode t c])) := by
  unfold fmaElem
  dsimp only
  cases mulVals (fdecode t a) (fdecode t b) <;> rfl

theorem slotOp_of_fusedShape {i : Instr} {d : BitVec 5} {a b : BitVec 6} {ty : BitVec 4} {rm : BitVec 3} {np na : Bool}
    (rule : fusedShape i = some (d, a, b, ty, rm, np, na)) (pre cur : State) :
    standsInA i = true ∧ slotOp i pre cur = fused d a b ty rm np na pre cur := by
  unfold fusedShape at rule
  split at rule <;> cases rule <;> exact ⟨rfl, rfl⟩

theorem slotOp_of_dot {i : Instr} {d : BitVec 5} {a b : BitVec 6} {ty : BitVec 4} {rm : BitVec 3} {n : Nat}
    (rule : (i = .vdot4 d a b ty rm ∧ n = 4) ∨ (i = .vdot2 d a b ty rm ∧ n = 2)) (pre cur : State) :
    standsInA i = true ∧ slotOp i pre cur = dot d a b ty rm n pre cur := by
  rcases rule with ⟨rfl, rfl⟩ | ⟨rfl, rfl⟩ <;> exact ⟨rfl, rfl⟩

/-- A left fold that adds is its start and the sum. -/
theorem foldl_add_eq_sum {α : Type} (f : α → Int) (l : List α) (start : Int) :
    l.foldl (fun n x => n + f x) start = start + (l.map f).sum := by
  induction l generalizing start with
  | nil => simp
  | cons x l ih => rw [List.foldl_cons, ih, List.map_cons, List.sum_cons, Int.add_assoc]

/-- Settles O42: the register is read before the bundle and written after, its elements rounded once or kept modulo 2^32. -/
theorem accumulatingGroupsCompute : Obligations.AccumulatingGroupsCompute := by
  refine ⟨fun s i d a b ty rm np na rule ready => ?_, fun s i d a b ty rm n rule ready => ?_⟩
  · obtain ⟨stands, effect⟩ := slotOp_of_fusedShape rule s s
    obtain ⟨waits, computes⟩ := exec_vec2 stands ready effect
    refine ⟨waits, fun x y u read => ?_⟩
    rw [computes x y u read, settle_finishV_register]
    simp only [fmaElem_eq]
  · obtain ⟨stands, effect⟩ := slotOp_of_dot rule s s
    obtain ⟨waits, computes⟩ := exec_vec2 stands ready effect
    refine ⟨waits, fun x y u read => ?_⟩
    rw [computes x y u read, settle_finishV_register]
    simp only [wrapInt, idecode_eq_intOf, foldl_add_eq_sum]
    rfl

end Sys2Proof.Machine
end

section
/-! The integer group (R110): each result as the low bits of the rule's exact integer. -/

namespace Sys2Proof.Machine

theorem Ty.width_pos (t : Ty) : 0 < t.width := by cases t <;> decide

/-! ### Elements as integers -/

theorem signedOf_toNat {w : Nat} (positive : 0 < w) (x : BitVec w) : signedOf w x.toNat = x.toInt := by
  have half : 2 ^ w = 2 * 2 ^ (w - 1) := by rw [← Nat.pow_succ', Nat.succ_eq_add_one, Nat.sub_add_cancel positive]
  have modulus : (2 : Int) ^ w = ((2 ^ w : Nat) : Int) := by push_cast; rfl
  rw [signedOf, BitVec.toInt_eq_toNat_cond, modulus, half]
  by_cases high : 2 ^ (w - 1) ≤ x.toNat
  · rw [if_pos high, if_neg (by omega)]
  · rw [if_neg high, if_pos (by omega)]

theorem intOf_toNat (t : Ty) (x : BitVec t.width) : intOf t x.toNat = if t.signed then x.toInt else x.toNat := by
  rw [intOf, signedOf_toNat (Ty.width_pos t)]

/-- An element is the low bits of the integer that it stands for. -/
theorem ofInt_intOf (t : Ty) (x : BitVec t.width) : BitVec.ofInt t.width (intOf t x.toNat) = x := by
  rw [intOf_toNat]
  split
  · exact BitVec.ofInt_toInt
  · rw [BitVec.ofInt_natCast, BitVec.ofNat_toNat, BitVec.setWidth_eq]

/-! ### The operations -/

section
variable {w : Nat} (a b : BitVec w)

theorem add_eq_ofInt_toNat : a + b = BitVec.ofInt w ((a.toNat : Int) + b.toNat) := by
  rw [BitVec.ofInt_add, BitVec.ofInt_natCast, BitVec.ofInt_natCast]
  simp

theorem sub_eq_ofInt_toNat : a - b = BitVec.ofInt w ((a.toNat : Int) - b.toNat) :=
  BitVec.eq_of_toInt_eq (by
    rw [BitVec.toInt_ofInt, BitVec.toInt_sub, BitVec.toInt_eq_toNat_bmod, BitVec.toInt_eq_toNat_bmod, ← Int.sub_bmod])

theorem mul_eq_ofInt_toNat : a * b = BitVec.ofInt w ((a.toNat : Int) * b.toNat) := by
  rw [BitVec.ofInt_mul, BitVec.ofInt_natCast, BitVec.ofInt_natCast]
  simp

theorem and_eq_ofInt_toNat : a &&& b = BitVec.ofInt w ((a.toNat &&& b.toNat : Nat) : Int) := by
  rw [BitVec.ofInt_natCast, ← BitVec.toNat_and, BitVec.ofNat_toNat, BitVec.setWidth_eq]

theorem or_eq_ofInt_toNat : a ||| b = BitVec.ofInt w ((a.toNat ||| b.toNat : Nat) : Int) := by
  rw [BitVec.ofInt_natCast, ← BitVec.toNat_or, BitVec.ofNat_toNat, BitVec.setWidth_eq]

theorem xor_eq_ofInt_toNat : a ^^^ b = BitVec.ofInt w ((a.toNat ^^^ b.toNat : Nat) : Int) := by
  rw [BitVec.ofInt_natCast, ← BitVec.toNat_xor, BitVec.ofNat_toNat, BitVec.setWidth_eq]

theorem shiftLeft_eq_ofInt (n : Nat) : a <<< n = BitVec.ofInt w ((a.toNat : Int) * 2 ^ n) := by
  have exact_product : (a.toNat : Int) * 2 ^ n = ((a.toNat * 2 ^ n : Nat) : Int) := by push_cast; rfl
  rw [exact_product, BitVec.ofInt_natCast]
  exact BitVec.eq_of_toNat_eq (by rw [BitVec.toNat_shiftLeft, BitVec.toNat_ofNat, Nat.shiftLeft_eq])

theorem ushiftRight_eq_ofInt (n : Nat) : a >>> n = BitVec.ofInt w ((a.toNat : Int) / 2 ^ n) := by
  have exact_quotient : (a.toNat : Int) / 2 ^ n = ((a >>> n).toNat : Int) := by
    rw [BitVec.toNat_ushiftRight, Nat.shiftRight_eq_div_pow]
    push_cast
    rfl
  rw [exact_quotient, BitVec.ofInt_natCast, BitVec.ofNat_toNat, BitVec.setWidth_eq]

theorem sshiftRight_eq_ofInt_signedOf (positive : 0 < w) (n : Nat) : a.sshiftRight n = BitVec.ofInt w (signedOf w a.toNat / 2 ^ n) := by
  rw [signedOf_toNat positive, BitVec.sshiftRight, Int.shiftRight_eq_div_pow]
  norm_cast

end

/-! ### The group -/

theorem bits2_congr {t : Ty} {d a b : BitVec 6} {pre cur : State} {f g : BitVec t.width → BitVec t.width → BitVec t.width}
    (same : ∀ p q, f p q = g p q) : bits2 t d a b pre cur f = bits2 t d a b pre cur g :=
  congrArg (bits2 t d a b pre cur) (funext fun p => funext (same p))

section
variable (d a b : BitVec 6) (ty : BitVec 4) (pre cur : State)

theorem slotVshl_eq : slotVshl d a b ty pre cur = bits2 (Ty.of ty) d a b pre cur (fun p q =>
    BitVec.ofInt (Ty.of ty).width ((p.toNat : Int) * 2 ^ (q.toNat % (Ty.of ty).width))) :=
  bits2_congr fun p q => shiftLeft_eq_ofInt p (shiftBy q)

theorem slotVshr_eq : slotVshr d a b ty pre cur = bits2 (Ty.of ty) d a b pre cur (fun p q =>
    BitVec.ofInt (Ty.of ty).width ((p.toNat : Int) / 2 ^ (q.toNat % (Ty.of ty).width))) :=
  bits2_congr fun p q => ushiftRight_eq_ofInt p (shiftBy q)

theorem slotVsra_eq : slotVsra d a b ty pre cur = bits2 (Ty.of ty) d a b pre cur (fun p q =>
    BitVec.ofInt (Ty.of ty).width (signedOf (Ty.of ty).width p.toNat / 2 ^ (q.toNat % (Ty.of ty).width))) :=
  bits2_congr fun p q => sshiftRight_eq_ofInt_signedOf p (Ty.width_pos _) (shiftBy q)

theorem slotVimulh_eq : slotVimulh d a b ty pre cur = bits2 (Ty.of ty) d a b pre cur (fun p q =>
    BitVec.ofInt (Ty.of ty).width (intOf (Ty.of ty) p.toNat * intOf (Ty.of ty) q.toNat / 2 ^ (Ty.of ty).width)) := by
  simp only [slotVimulh, idecode_eq_intOf]

theorem slotVimin_eq : slotVimin d a b ty pre cur = bits2 (Ty.of ty) d a b pre cur (fun p q =>
    BitVec.ofInt (Ty.of ty).width (min (intOf (Ty.of ty) p.toNat) (intOf (Ty.of ty) q.toNat))) := by
  unfold slotVimin
  refine bits2_congr fun p q => ?_
  rw [idecode_eq_intOf, idecode_eq_intOf]
  split
  case isTrue h => rw [Int.min_eq_right (Int.le_of_lt h), ofInt_intOf]
  case isFalse h => rw [Int.min_eq_left (Int.not_lt.mp h), ofInt_intOf]

theorem slotVimax_eq : slotVimax d a b ty pre cur = bits2 (Ty.of ty) d a b pre cur (fun p q =>
    BitVec.ofInt (Ty.of ty).width (max (intOf (Ty.of ty) p.toNat) (intOf (Ty.of ty) q.toNat))) := by
  unfold slotVimax
  refine bits2_congr fun p q => ?_
  rw [idecode_eq_intOf, idecode_eq_intOf]
  split
  case isTrue h => rw [Int.max_eq_right (Int.le_of_lt h), ofInt_intOf]
  case isFalse h => rw [Int.max_eq_left (Int.not_lt.mp h), ofInt_intOf]

end

theorem slotOp_of_intTwo {i : Instr} {d a b : BitVec 6} {ty : BitVec 4} {f : Nat → Nat → Int} (rule : intTwo i = some (d, a, b, ty, f))
    (pre cur : State) : standsInA i = true ∧
      slotOp i pre cur = bits2 (Ty.of ty) d a b pre cur (fun p q => BitVec.ofInt (Ty.of ty).width (f p.toNat q.toNat)) := by
  unfold intTwo at rule
  split at rule <;> cases rule <;> refine ⟨rfl, ?_⟩ -- the cases in the table's order, from VIADD to VIMAX
  case h_1 => exact bits2_congr add_eq_ofInt_toNat
  case h_2 => exact bits2_congr sub_eq_ofInt_toNat
  case h_3 => exact bits2_congr mul_eq_ofInt_toNat
  case h_4 => exact slotVimulh_eq ..
  case h_5 => exact bits2_congr and_eq_ofInt_toNat
  case h_6 => exact bits2_congr or_eq_ofInt_toNat
  case h_7 => exact bits2_congr xor_eq_ofInt_toNat
  case h_8 => exact slotVshl_eq ..
  case h_9 => exact slotVshr_eq ..
  case h_10 => exact slotVsra_eq ..
  case h_11 => exact slotVimin_eq ..
  case h_12 => exact slotVimax_eq ..

/-- Settles O43: each instruction's effect is the table's integer, cut to the element's width, over the elements. -/
theorem integerGroupComputes : Obligations.IntegerGroupComputes := by
  intro s i d a b ty f rule ready
  obtain ⟨stands, effect⟩ := slotOp_of_intTwo rule s s
  obtain ⟨waits, computes⟩ := exec_vec2 stands ready effect
  exact ⟨waits, fun x y u read => by rw [computes x y u read]; exact writesVec_finishRaw ..⟩

end Sys2Proof.Machine
end

section
/-! Compares and the mask group (R53, R111, R113). -/

namespace Sys2Proof.Machine

/-! ### Bits of a mask, and their count -/

theorem getLsbD_maskOf (f : Nat → Bool) (n k : Nat) : (maskOf f n).getLsbD k = (decide (k < n) && decide (k < 64) && f k) := by
  induction n with
  | zero => simp [maskOf]
  | succ n ih =>
    have one : (if f n then (1 : Word) <<< n else 0).getLsbD k = (decide (k = n) && decide (k < 64) && f k) := by
      by_cases same : k = n
      · subst same
        cases f k <;> simp
      · split <;> simp [same]
        omega
    rw [maskOf, BitVec.getLsbD_or, ih, one, ← Bool.and_or_distrib_right, ← Bool.and_or_distrib_right]
    congr 2
    rw [← Bool.decide_or]
    exact decide_eq_decide.mpr (by omega)

theorem foldl_count_eq_countP {α : Type} (p : α → Bool) (l : List α) (start : Nat) :
    l.foldl (fun n x => if p x then n + 1 else n) start = start + l.countP p := by
  induction l generalizing start with
  | nil => rfl
  | cons x l ih =>
    rw [List.foldl_cons, ih, List.countP_cons]
    split <;> omega

theorem popcount_eq_countP {w : Nat} (x : BitVec w) : popcount x = (List.range w).countP (fun k => x.getLsbD k) := by
  rw [popcount, foldl_count_eq_countP, Nat.zero_add]

/-- The lowest set bit, or the width where none is set. -/
theorem lowestSet_eq {w n : Nat} {x : BitVec w} (clear : ∀ k, k < n → x.getLsbD k = false)
    (first : (n < w ∧ x.getLsbD n = true) ∨ (n = w ∧ x = 0)) : lowestSet x = n := by
  rw [lowestSet]
  rcases first with ⟨below, set⟩ | ⟨rfl, rfl⟩
  · rw [List.find?_range_eq_some.mpr ⟨set, by simpa using below, fun k h => by simp [clear k h]⟩, Option.getD_some]
  · rw [List.find?_eq_none.mpr (by simp), Option.getD_none]

/-! ### Conditions -/

theorem condFloat_eq (t : Ty) (cond : BitVec 3) (a b : Nat) : condFloat t cond a b = floatCond cond.toNat (fdecode t a) (fdecode t b) := rfl

theorem condInt_eq (t : Ty) (cond : BitVec 3) (a b : Nat) : condInt t cond a b = intCond cond.toNat (intOf t a) (intOf t b) := by
  unfold condInt intCond
  rw [idecode_eq_intOf, idecode_eq_intOf]
  rcases cond.toNat with _ | _ | _ | _ | _ | c
  · exact Bool.eq_iff_iff.mpr (beq_iff_eq.trans decide_eq_true_iff.symm)
  · exact Bool.eq_iff_iff.mpr (bne_iff_ne.trans decide_eq_true_iff.symm)
  · rfl
  · rfl
  · rfl
  · rfl

/-! ### The statement -/

/-- Settles O44: the mask of a compare bit by bit, the mask group as its effects stand, and the counts as they are counted. -/
theorem comparesAndMasksWrite : Obligations.ComparesAndMasksWrite := by
  refine ⟨fun s d a b ty cond ready => ?_, fun s d a b ty cond ready => ?_, fun s d a b => ?_, fun s rd a => ?_⟩
  · obtain ⟨waits, computes⟩ := exec_vec2 rfl ready rfl
    refine ⟨waits, fun x y u read => ⟨_, fun k => ?_, computes x y u read⟩⟩
    simp only [getLsbD_maskOf, condFloat_eq]
  · obtain ⟨waits, computes⟩ := exec_vec2 rfl ready rfl
    refine ⟨waits, fun x y u read => ⟨_, fun k => ?_, computes x y u read⟩⟩
    rw [getLsbD_maskOf, condInt_eq]
  · exact ⟨exec_slotA rfl, exec_slotA rfl, exec_slotA rfl, exec_slotA rfl⟩
  · refine ⟨fun ready => ?_, fun n clear first ready => ?_⟩
    · rw [exec_slotA rfl ready, ← popcount_eq_countP]
      rfl
    · rw [exec_slotA rfl ready, ← lowestSet_eq clear first]
      rfl

end Sys2Proof.Machine
end

section
/-! VSEL and the permute group (R112, R114). -/

namespace Sys2Proof.Machine

theorem ofNat_toNat_self {w : Nat} (x : BitVec w) : BitVec.ofNat w x.toNat = x := by rw [BitVec.ofNat_toNat, BitVec.setWidth_eq]

/-- An element chosen between two is the encoding chosen between theirs. -/
theorem ite_eq_ofNat {w : Nat} (c : Prop) [Decidable c] (x y : BitVec w) :
    (if c then x else y) = BitVec.ofNat w (if c then x.toNat else y.toNat) := by
  split <;> exact (ofNat_toNat_self _).symm

theorem move2_congr {t : Ty} {d a b : BitVec 6} {pre cur : State} {f g : (Nat → BitVec t.width) → (Nat → BitVec t.width) → Nat → BitVec t.width}
    (same : ∀ p q k, f p q k = g p q k) : move2 t d a b pre cur f = move2 t d a b pre cur g :=
  congrArg (move2 t d a b pre cur) (funext fun p => funext fun q => funext (same p q))

section
variable (s cur : State) (d a b : BitVec 6) (ty : BitVec 4)

theorem slotVsel_eq (m : BitVec 3) : slotVsel d a b ty m s cur = move2 (Ty.of ty) d a b s cur (fun p q i => BitVec.ofNat (Ty.of ty).width
    (if (s.me.getM m).getLsbD (if (Ty.of ty).lanes = 128 then i / 2 else i) then (p i).toNat else (q i).toNat)) := by
  unfold slotVsel
  exact move2_congr fun p q i => ite_eq_ofNat ..

theorem slotVperm_eq : slotVperm d a b ty s cur = move2 (Ty.of ty) d a b s cur (fun p q i => BitVec.ofNat (Ty.of ty).width
    (p ((q i).toNat % (Ty.of ty).lanes)).toNat) := by
  unfold slotVperm
  exact move2_congr fun p q i => (ofNat_toNat_self _).symm

theorem slotVzip_eq (h : BitVec 3) : slotVzip d a b ty h s cur = move2 (Ty.of ty) d a b s cur (fun p q i => BitVec.ofNat (Ty.of ty).width
    (if i % 2 = 0 then (p (i / 2 + h.toNat * ((Ty.of ty).lanes / 2))).toNat else (q (i / 2 + h.toNat * ((Ty.of ty).lanes / 2))).toNat)) := by
  unfold slotVzip
  exact move2_congr fun p q i => ite_eq_ofNat ..

theorem slotVunzip_eq (h : BitVec 3) : slotVunzip d a b ty h s cur = move2 (Ty.of ty) d a b s cur (fun p q i => BitVec.ofNat (Ty.of ty).width
    (if i < (Ty.of ty).lanes / 2 then (p (2 * i + h.toNat)).toNat else (q (2 * (i - (Ty.of ty).lanes / 2) + h.toNat)).toNat)) := by
  unfold slotVunzip
  exact move2_congr fun p q i => ite_eq_ofNat ..

end

theorem slotOp_of_moveTwo {s : State} {i : Instr} {d a b : BitVec 6} {ty : BitVec 4} {f : (Nat → Nat) → (Nat → Nat) → Nat → Nat}
    (rule : moveTwo s.me i = some (d, a, b, ty, f)) (cur : State) : standsInA i = true ∧
      slotOp i s cur = move2 (Ty.of ty) d a b s cur
        (fun p q k => BitVec.ofNat (Ty.of ty).width (f (fun j => (p j).toNat) (fun j => (q j).toNat) k)) := by
  unfold moveTwo at rule
  split at rule <;> cases rule <;> refine ⟨rfl, ?_⟩ -- the cases VSEL, VPERM, VZIP, VUNZIP
  case h_1 => exact slotVsel_eq ..
  case h_2 => exact slotVperm_eq ..
  case h_3 => exact slotVzip_eq ..
  case h_4 => exact slotVunzip_eq ..

theorem Ty.width_mul_lanes {t : Ty} (wide : t.isW = true) : t.width * t.lanes = 512 := by
  revert wide
  cases t <;> decide

theorem Ty.width_mul_lanes_le (t : Ty) : t.width * t.lanes ≤ 512 := by cases t <;> decide

/-- Element k replaced, the others kept: the vector's elements say it all where they fill it. -/
theorem setLane_eq_pureElems {t : Ty} (wide : t.isW = true) (x : Vec) (i : Nat) (y : BitVec t.width) :
    setLane x i t.width y = pureElems t.width t.lanes (fun k => if k = i then y else lane x k t.width) := by
  refine eq_of_lane_eq (Ty.width_mul_lanes wide) fun k h => ?_
  rw [pureElems, lane_ofLanes _ (Ty.width_mul_lanes_le t) h]
  split
  case isTrue same =>
    subst same
    exact lane_setLane_same x y (Nat.le_trans (Nat.mul_le_mul_left _ h) (Ty.width_mul_lanes_le t))
  case isFalse other => exact lane_setLane_other x y other

/-- What a permute of one source does with it: element k of the result from the source's elements and those of the old vd. -/
def movedFrom (s : State) (t : Ty) (d : BitVec 6) (f : (Nat → Nat) → (Nat → Nat) → Nat → Nat) (x : Vec) (u : State) : Eff :=
  finishRaw s u d (pureElems t.width t.lanes (fun k => BitVec.ofNat t.width (f (elemOf t x) (elemOf t (s.me.getV (d.setWidth 5))) k)))

theorem vec1_congr {t : Ty} {a : BitVec 6} {pre cur : State} {f g : Vec → State → Eff} (same : ∀ x u, f x u = g x u) :
    vec1 t a pre cur f = vec1 t a pre cur g :=
  congrArg (vec1 t a pre cur) (funext fun p => funext (same p))

theorem move1_eq_movedFrom {s cur : State} {t : Ty} {d a : BitVec 6} {g : (Nat → BitVec t.width) → Nat → BitVec t.width}
    {f : (Nat → Nat) → (Nat → Nat) → Nat → Nat}
    (same : ∀ x i, g (fun j => lane x j t.width) i = BitVec.ofNat t.width (f (elemOf t x) (elemOf t (s.me.getV (d.setWidth 5))) i)) :
    move1 t d a s cur g = vec1 t a s cur (movedFrom s t d f) :=
  vec1_congr fun x u => congrArg (fun h => finishRaw s u d (pureElems t.width t.lanes h)) (funext (same x))

section
variable (s cur : State) (d a k : BitVec 6) (ty : BitVec 4)

theorem slotVbcast_eq : slotVbcast d a k ty s cur = vec1 (Ty.of ty) a s cur (movedFrom s (Ty.of ty) d (fun p _ _ => p k.toNat)) := by
  unfold slotVbcast
  exact move1_eq_movedFrom fun x i => (ofNat_toNat_self _).symm

theorem slotVrot_eq : slotVrot d a k ty s cur =
    vec1 (Ty.of ty) a s cur (movedFrom s (Ty.of ty) d (fun p _ i => p ((i + k.toNat) % (Ty.of ty).lanes))) := by
  unfold slotVrot
  exact move1_eq_movedFrom fun x i => (ofNat_toNat_self _).symm

theorem slotVslide_eq : slotVslide d a k ty s cur = vec1 (Ty.of ty) a s cur (movedFrom s (Ty.of ty) d (fun p old i =>
    if i + k.toNat < (Ty.of ty).lanes then p (i + k.toNat) else old (i + k.toNat - (Ty.of ty).lanes))) := by
  unfold slotVslide
  exact move1_eq_movedFrom fun x i => ite_eq_ofNat ..

theorem slotVins_eq (wide : (Ty.of ty).isW = true) : slotVins d a k ty s cur =
    vec1 (Ty.of ty) a s cur (movedFrom s (Ty.of ty) d (fun p old i => if i = k.toNat then p 0 else old i)) := by
  unfold slotVins
  refine vec1_congr fun x u => congrArg (finishRaw s u d) ?_
  rw [setLane_eq_pureElems wide]
  exact congrArg (pureElems _ _) (funext fun i => ite_eq_ofNat ..)

end

theorem isW_of_vins {d a k : BitVec 6} {ty : BitVec 4} (legal : wellFormed (.vins d a k ty) = true) : (Ty.of ty).isW = true := by
  have fields : (destRead d && (Ty.of ty).isW && decide (k.toNat < (Ty.of ty).lanes)) = true := legal
  rw [Bool.and_eq_true, Bool.and_eq_true] at fields
  obtain ⟨⟨-, wide⟩, -⟩ := fields
  exact wide

theorem slotOp_of_moveOne {s : State} {i : Instr} {d a : BitVec 6} {ty : BitVec 4} {f : (Nat → Nat) → (Nat → Nat) → Nat → Nat}
    (rule : moveOne i = some (d, a, ty, f)) (legal : wellFormed i = true) (cur : State) :
    standsInA i = true ∧ slotOp i s cur = vec1 (Ty.of ty) a s cur (movedFrom s (Ty.of ty) d f) := by
  unfold moveOne at rule
  split at rule <;> cases rule <;> refine ⟨rfl, ?_⟩ -- the cases VBCAST, VROT, VSLIDE, VINS
  case h_1 => exact slotVbcast_eq ..
  case h_2 => exact slotVrot_eq ..
  case h_3 => exact slotVslide_eq ..
  case h_4 => exact slotVins_eq s cur _ _ _ _ (isW_of_vins legal)

/-- An element in a g register is the integer that it stands for (R98, R114, R116). -/
theorem elemWord_eq_ofInt (t : Ty) (x : BitVec t.width) : elemWord t x = BitVec.ofInt 64 (intOf t x.toNat) := by
  rw [intOf_toNat, elemWord]
  split
  · rfl
  · rw [BitVec.ofInt_natCast, BitVec.ofNat_toNat]

theorem slotVextr_eq (rd : BitVec 5) (a k : BitVec 6) (ty : BitVec 4) (s cur : State) : slotVextr rd a k ty s cur =
    vec1 (Ty.of ty) a s cur (fun x u => okG u rd (BitVec.ofInt 64 (intOf (Ty.of ty) (elemOf (Ty.of ty) x k.toNat)))) := by
  unfold slotVextr
  exact vec1_congr fun x u => congrArg (okG u rd) (elemWord_eq_ofInt ..)

/-- Settles O45: each instruction's effect is its rule's choice of elements; VEXTR's element is extended by its type. -/
theorem permutesMoveElements : Obligations.PermutesMoveElements := by
  refine ⟨fun s i d a b ty f rule ready => ?_, fun s i d a ty f rule ready => ?_, fun s rd a k ty ready => ?_⟩
  · obtain ⟨stands, effect⟩ := slotOp_of_moveTwo rule s
    obtain ⟨waits, computes⟩ := exec_vec2 stands ready effect
    exact ⟨waits, fun x y u read => by rw [computes x y u read]; exact writesVec_finishRaw ..⟩
  · obtain ⟨-, legal, -⟩ := State.ready_parts ready
    obtain ⟨stands, effect⟩ := slotOp_of_moveOne rule legal s
    obtain ⟨waits, computes⟩ := exec_vec1 stands ready effect
    exact ⟨waits, fun x u read => by rw [computes x u read]; exact writesVec_finishRaw ..⟩
  · obtain ⟨waits, computes⟩ := exec_vec1 (i := .vextr rd a k ty) rfl ready (slotVextr_eq rd a k ty s s)
    refine ⟨waits, fun x u read => ?_⟩
    have extended : BitVec.ofInt 64 (intOf (Ty.of ty) (elemOf (Ty.of ty) x k.toNat)) = if (Ty.of ty).signed
        then BitVec.ofInt 64 (signedOf (Ty.of ty).width (elemOf (Ty.of ty) x k.toNat)) else word (elemOf (Ty.of ty) x k.toNat) := by
      rw [intOf]
      split <;> rfl
    rw [computes x u read, extended]
    rfl

end Sys2Proof.Machine
end

section
/-! Reductions (R115, R116): what a tree of pairs makes of its leaves. -/

namespace Sys2Proof.Machine

/-! ### Trees -/

section
variable (draws : Bool) (f : Nat → Nat → Nat → Nat × Flags)

theorem length_treeLevel (l : List Nat) (fl : Flags) (rng : Word) : (treeLevel draws f l fl rng).1.length = (l.length + 1) / 2 := by
  induction l, fl, rng using treeLevel.induct draws f with
  | case1 a b r fl rng _ _ ih =>
    rw [treeLevel, List.length_cons, ih, List.length_cons, List.length_cons]
    omega
  | case2 l fl rng short =>
    rcases l with _ | ⟨a, _ | ⟨b, r⟩⟩
    · rw [treeLevel] <;> simp
    · rw [treeLevel] <;> simp
    · exact absurd rfl (short a b r)

theorem flags_treeLevel (quiet : ∀ d a b, (f d a b).2 = 0) (l : List Nat) (fl : Flags) (rng : Word) : (treeLevel draws f l fl rng).2.1 = fl := by
  induction l, fl, rng using treeLevel.induct draws f with
  | case1 a b r fl rng _ _ ih =>
    rw [treeLevel]
    exact ih.trans ((congrArg (fl ||| ·) (quiet ..)).trans BitVec.or_zero)
  | case2 l fl rng short => rw [treeLevel]; exact short

/-- What every node keeps of its two operands, and what it takes from either of them: both pass up through a level. -/
theorem treeLevel_all {P : Nat → Prop} (keeps : ∀ d a b, P a → P b → P (f d a b).1) (l : List Nat) (fl : Flags) (rng : Word)
    (all : ∀ x ∈ l, P x) : ∀ x ∈ (treeLevel draws f l fl rng).1, P x := by
  induction l, fl, rng using treeLevel.induct draws f with
  | case1 a b r fl rng _ _ ih =>
    rw [treeLevel]
    rw [List.forall_mem_cons, List.forall_mem_cons] at all
    obtain ⟨left, right, rest⟩ := all
    exact List.forall_mem_cons.mpr ⟨keeps _ a b left right, ih rest⟩
  | case2 l fl rng short => rwa [treeLevel]; exact short

theorem treeLevel_any {P : Nat → Prop} (takes : ∀ d a b, P a ∨ P b → P (f d a b).1) (l : List Nat) (fl : Flags) (rng : Word)
    (one : ∃ x ∈ l, P x) : ∃ x ∈ (treeLevel draws f l fl rng).1, P x := by
  induction l, fl, rng using treeLevel.induct draws f with
  | case1 a b r fl rng _ _ ih =>
    rw [treeLevel]
    obtain ⟨y, member, has⟩ := one
    rcases List.mem_cons.mp member with first | later
    · exact ⟨_, List.mem_cons_self, takes _ a b (.inl (first ▸ has))⟩
    · rcases List.mem_cons.mp later with second | later
      · exact ⟨_, List.mem_cons_self, takes _ a b (.inr (second ▸ has))⟩
      · obtain ⟨z, above, holds⟩ := ih ⟨y, later, has⟩
        exact ⟨z, List.mem_cons_of_mem _ above, holds⟩
  | case2 l fl rng short => rwa [treeLevel]; exact short

theorem flags_treeReduce (quiet : ∀ d a b, (f d a b).2 = 0) (n : Nat) (l : List Nat) (fl : Flags) (rng : Word) :
    (treeReduce draws f n l fl rng).2.1 = fl := by
  induction n generalizing l fl rng with
  | zero => rfl
  | succ n ih => rw [treeReduce, ih, flags_treeLevel draws f quiet]

/-- What all leaves have and every node keeps, the tree's value has. -/
theorem treeReduce_of_all {P : Nat → Prop} (keeps : ∀ d a b, P a → P b → P (f d a b).1) (n : Nat) {l : List Nat} (fl : Flags) (rng : Word)
    (leaves : 0 < l.length) (all : ∀ x ∈ l, P x) : P (treeReduce draws f n l fl rng).1 := by
  induction n generalizing l fl rng with
  | zero =>
    obtain ⟨x, r, rfl⟩ := List.exists_cons_of_length_pos leaves
    exact all x List.mem_cons_self
  | succ n ih => exact ih _ _ (by rw [length_treeLevel]; omega) (treeLevel_all draws f keeps l fl rng all)

/-- What some leaf has and every node takes from either side, the value of a tree that reaches its root has. -/
theorem treeReduce_of_any {P : Nat → Prop} (takes : ∀ d a b, P a ∨ P b → P (f d a b).1) (n : Nat) {l : List Nat} (fl : Flags) (rng : Word)
    (reaches : l.length ≤ 2 ^ n) (one : ∃ x ∈ l, P x) : P (treeReduce draws f n l fl rng).1 := by
  induction n generalizing l fl rng with
  | zero =>
    obtain ⟨x, member, has⟩ := one
    obtain ⟨y, rfl⟩ := List.length_eq_one_iff.mp (Nat.le_antisymm reaches (List.length_pos_of_mem member))
    rw [List.mem_singleton.mp member] at has
    exact has
  | succ n ih =>
    rw [Nat.pow_succ] at reaches
    exact ih _ _ (by rw [length_treeLevel]; omega) (treeLevel_any draws f takes l fl rng one)

end

/-! ### The largest and the smallest integer -/

/-- Element x is no better than y where the larger, or the smaller, is sought. -/
def noBetter (t : Ty) (larger : Bool) (x y : Nat) : Prop := if larger then intOf t x ≤ intOf t y else intOf t y ≤ intOf t x

theorem noBetter_refl (t : Ty) (larger : Bool) (x : Nat) : noBetter t larger x x := by
  unfold noBetter
  split <;> exact Int.le_refl _

theorem pickInt_eq_or (t : Ty) (larger : Bool) (a b : Nat) : pickInt t larger a b = a ∨ pickInt t larger a b = b := by
  unfold pickInt
  dsimp only
  split <;> split <;> simp

theorem noBetter_pickInt {t : Ty} {larger : Bool} {x a b : Nat} (h : noBetter t larger x a ∨ noBetter t larger x b) :
    noBetter t larger x (pickInt t larger a b) := by
  unfold noBetter pickInt at *
  simp only [idecode_eq_intOf, decide_eq_true_eq] at *
  cases larger
  case true =>
    simp only [if_true] at *
    split <;> omega
  case false =>
    simp only [Bool.false_eq_true, if_false] at *
    split <;> omega

theorem Ty.lanes_eq_two_pow (t : Ty) : t.lanes = 2 ^ Nat.log2 t.lanes := by cases t <;> rfl

theorem mem_elemList {t : Ty} {x : Vec} {y : Nat} : y ∈ elemList t x ↔ ∃ k, k < t.lanes ∧ elemOf t x k = y := by
  simp [elemList]

theorem length_elemList (t : Ty) (x : Vec) : (elemList t x).length = t.lanes := by simp [elemList]

theorem length_elemList_pos (t : Ty) (x : Vec) : 0 < (elemList t x).length := by
  rw [length_elemList]
  cases t <;> decide

/-- The tree of the larger, or smaller, of two integers over the elements of a vector. -/
def extremeInt (t : Ty) (larger : Bool) (x : Vec) (rng : Word) : Nat × Flags × Word :=
  treeReduce false (fun _ a b => (pickInt t larger a b, 0)) (Nat.log2 t.lanes) (elemList t x) 0 rng

theorem flags_extremeInt (t : Ty) (larger : Bool) (x : Vec) (rng : Word) : (extremeInt t larger x rng).2.1 = 0 :=
  flags_treeReduce false _ (fun _ _ _ => rfl) ..

/-- The tree's value is an element, and none is better. -/
theorem extremeInt_spec (t : Ty) (larger : Bool) (x : Vec) (rng : Word) : ∃ j, j < t.lanes ∧
    (∀ k, k < t.lanes → noBetter t larger (elemOf t x k) (elemOf t x j)) ∧ (extremeInt t larger x rng).1 = elemOf t x j := by
  have element : (extremeInt t larger x rng).1 ∈ elemList t x := by
    refine treeReduce_of_all false _ (P := (· ∈ elemList t x)) (fun _ a b left right => ?_) _ _ _ (length_elemList_pos t x) (fun _ h => h)
    dsimp only
    rcases pickInt_eq_or t larger a b with same | same <;> rw [same]
    · exact left
    · exact right
  obtain ⟨j, within, here⟩ := mem_elemList.mp element
  refine ⟨j, within, fun k below => ?_, here.symm⟩
  rw [here]
  refine treeReduce_of_any false _ (P := noBetter t larger (elemOf t x k)) (fun _ _ _ => noBetter_pickInt) _ _ _ ?_ ?_
  · exact Nat.le_of_eq ((length_elemList t x).trans (Ty.lanes_eq_two_pow t))
  · exact ⟨_, mem_elemList.mpr ⟨k, below, rfl⟩, noBetter_refl ..⟩

/-! ### The tree of floats -/

theorem ite_lt {c : Prop} [Decidable c] {x y n : Nat} (left : x < n) (right : y < n) : (if c then x else y) < n :=
  iteInduction (motive := (· < n)) (fun _ => left) (fun _ => right)

theorem pickElem_lt {t : Ty} {n : Nat} (nan : t.nanBits < n) (larger : Bool) {a b : Nat} (left : a < n) (right : b < n) :
    (pickElem t larger a b).1 < n := by
  rw [pickElem_eq]
  exact ite_lt nan (ite_lt right (ite_lt left (ite_lt right left)))

theorem Ty.nanBits_lt (t : Ty) : t.nanBits < 2 ^ t.width := by cases t <;> decide

/-- A number below 2^w is the g register's value of an element of a float type. -/
theorem elemWord_ofNat {t : Ty} (unsigned : t.signed = false) {n : Nat} (small : n < 2 ^ t.width) : elemWord t (BitVec.ofNat t.width n) = word n := by
  rw [elemWord, unsigned]
  exact BitVec.eq_of_toNat_eq (by simp [word, Nat.mod_eq_of_lt small])

/-! ### The instructions -/

theorem Ty.isF_eq_isFloat {t : Ty} (legal : (t.isF || t.isI) = true) : t.isF = t.isFloat := by
  revert legal
  cases t <;> decide

theorem Ty.signed_of_isFloat {t : Ty} (h : t.isFloat = true) : t.signed = false := by
  revert h
  cases t <;> decide

theorem slotOp_of_minMax {i : Instr} {rd : BitVec 5} {a : BitVec 6} {ty : BitVec 4} {larger : Bool}
    (rule : (i = .vrmax rd a ty ∧ larger = true) ∨ (i = .vrmin rd a ty ∧ larger = false)) (pre cur : State) :
    standsInA i = true ∧ slotOp i pre cur = reduceMinMax rd a ty larger pre cur ∧ wellFormed i = ((Ty.of ty).isF || (Ty.of ty).isI) := by
  rcases rule with ⟨rfl, rfl⟩ | ⟨rfl, rfl⟩ <;> exact ⟨rfl, rfl, rfl⟩

section
variable (rd : BitVec 5) (a : BitVec 6) (ty : BitVec 4) (larger : Bool) (pre cur : State)

theorem reduceMinMax_int (integer : (Ty.of ty).isF = false) : reduceMinMax rd a ty larger pre cur = vec1 (Ty.of ty) a pre cur (fun x u =>
    let r := extremeInt (Ty.of ty) larger x pre.me.rng
    okG (u.modMe (fun h => h.raise r.2.1)) rd (elemWord (Ty.of ty) (BitVec.ofNat (Ty.of ty).width r.1))) := by
  simp only [reduceMinMax, integer, Bool.false_eq_true, if_false]
  rfl

theorem reduceMinMax_float (float : (Ty.of ty).isF = true) : reduceMinMax rd a ty larger pre cur = vec1 (Ty.of ty) a pre cur (fun x u =>
    let r := treeReduce false (fun _ => pickElem (Ty.of ty) larger) (Nat.log2 (Ty.of ty).lanes) (elemList (Ty.of ty) x) 0 pre.me.rng
    okG (u.modMe (fun h => h.raise r.2.1)) rd (elemWord (Ty.of ty) (BitVec.ofNat (Ty.of ty).width r.1))) := by
  simp only [reduceMinMax, float, if_true]

end

theorem State.modMe_modMe (s : State) (f g : Hart → Hart) : (s.modMe f).modMe g = s.modMe (fun h => g (f h)) := by
  rw [State.modMe, State.me_modMe]
  exact State.setMe_setMe ..

theorem Hart.raise_zero (x : Hart) : x.raise 0 = x := by simp [Hart.raise, zext]

/-- Settles O46: VRSUM's tree as it stands; the tree of VRMAX and VRMIN by what passes up from its leaves; VIRSUM's sum as a fold. -/
theorem reductionsReduce : Obligations.ReductionsReduce := by
  refine ⟨fun s rd a ty rm x u ready read => ?_, fun s i rd a ty larger x u rule ready read => ?_, fun s rd a ty x u ready read => ?_⟩
  · obtain ⟨-, computes⟩ := exec_vec1 rfl ready rfl
    exact computes x u read
  · obtain ⟨stands, effect, types⟩ := slotOp_of_minMax rule s s
    obtain ⟨-, legal, -⟩ := State.ready_parts ready
    have same : (Ty.of ty).isF = (Ty.of ty).isFloat := Ty.isF_eq_isFloat (types ▸ legal)
    refine ⟨fun integer => ?_, fun float => ?_⟩
    · obtain ⟨-, computes⟩ := exec_vec1 stands ready (effect.trans (reduceMinMax_int rd a ty larger s s (same.trans integer)))
      obtain ⟨j, within, best, here⟩ := extremeInt_spec (Ty.of ty) larger x s.me.rng
      refine ⟨j, within, best, (computes x u read).trans ?_⟩
      simp only [here, flags_extremeInt, Hart.raise_zero]
      rw [elemOf, ofNat_toNat_self, elemWord_eq_ofInt]
      exact congrArg (fun t => Host.Outcome.next (State.finish t false)) (State.modMe_modMe ..)
    · obtain ⟨-, computes⟩ := exec_vec1 stands ready (effect.trans (reduceMinMax_float rd a ty larger s s (same.trans float)))
      refine (computes x u read).trans ?_
      have small := treeReduce_of_all false (fun _ => pickElem (Ty.of ty) larger) (P := (· < 2 ^ (Ty.of ty).width))
        (fun _ _ _ => pickElem_lt (Ty.nanBits_lt _) larger) (Nat.log2 (Ty.of ty).lanes) 0 s.me.rng (length_elemList_pos (Ty.of ty) x)
        (fun y member => by obtain ⟨k, -, rfl⟩ := mem_elemList.mp member; exact BitVec.isLt _)
      dsimp only
      rw [elemWord_ofNat (Ty.signed_of_isFloat float) small]
      exact congrArg (fun t => Host.Outcome.next (State.finish t false)) (State.modMe_modMe ..)
  · obtain ⟨-, computes⟩ := exec_vec1 rfl ready rfl
    rw [computes x u read]
    simp only [idecode_eq_intOf, foldl_add_eq_sum, elemList, List.map_map, Function.comp_def, Int.zero_add]
    rfl

end Sys2Proof.Machine
end

section
/-! Conversions (R103, R118, R119, R120). -/

namespace Sys2Proof.Machine

/-! ### VCVT -/

/-- A 6-bit vector's bits from 384 up cleared (R94). -/
def cut (t : Ty) (v : Vec) : Vec := if t.width = 6 then v &&& (BitVec.allOnes 384).setWidth 512 else v

theorem lane_zero {n : Nat} (i w : Nat) : lane (0 : BitVec n) i w = 0 :=
  BitVec.eq_of_getLsbD_eq fun j _ => by simp [lane]

/-- The cut leaves every element. -/
theorem lane_cut {t : Ty} (v : Vec) {k : Nat} (h : k < t.lanes) : lane (cut t v) k t.width = lane v k t.width := by
  unfold cut
  split
  case isFalse => rfl
  case isTrue six =>
    have within : t.width * (k + 1) ≤ 384 := by
      have lanes : t.lanes = 64 := by revert six; cases t <;> decide
      rw [six]
      omega
    rw [Nat.mul_succ] at within
    refine BitVec.eq_of_getLsbD_eq fun j hj => ?_
    have low : t.width * k + j < 384 := by omega
    rw [getLsbD_lane, getLsbD_lane, BitVec.getLsbD_and, BitVec.getLsbD_setWidth, BitVec.getLsbD_allOnes, decide_eq_true low,
      decide_eq_true (show t.width * k + j < 512 by omega), Bool.and_true, Bool.and_true]

/-- VCVT's result: n elements of type t computed by f and packed from place `start` on into a base, with their flags and draws. -/
def converted (t : Ty) (base : Vec) (start n : Nat) (draws : Bool) (rng : Word) (f : ElemFn) : VRes :=
  let r := runElems f draws n 0 rng
  ⟨cut t (packElems base t.width start r.1), r.2.1, r.2.2⟩

/-- The places of the n elements hold them as a vector of their own would, the other places what the base has. -/
theorem lane_converted (t : Ty) (base : Vec) (start : Nat) {n : Nat} (fits : n ≤ t.lanes) (draws : Bool) (rng : Word) (f : ElemFn) {k : Nat}
    (h : k < t.lanes) : lane (converted t base start n draws rng f).val k t.width =
      if start ≤ k ∧ k < start + n then lane (elementwise t.width n draws rng f).val (k - start) t.width else lane base k t.width := by
  have here : t.width * (k + 1) ≤ 512 := Nat.le_trans (Nat.mul_le_mul_left _ h) (Ty.width_mul_lanes_le t)
  have all : t.width * n ≤ 512 := Nat.le_trans (Nat.mul_le_mul_left _ fits) (Ty.width_mul_lanes_le t)
  rw [converted, lane_cut _ h, lane_packElems_runElems _ _ _ _ _ _ _ here]
  split
  case isTrue place => rw [lane_elementwise _ _ _ _ _ (by omega) all]
  case isFalse => rfl

/-- The first element of the source that VCVT reads, or of the destination that it writes, for its part. -/
def partStart (part n shorter longer : Nat) : Nat := if shorter < longer then part * n else 0

/-- What VCVT makes of the vector x of type z, with the old vd beside it. -/
def cvtResult (z t : Ty) (part : Nat) (rm : BitVec 3) (old : Vec) (rng : Word) (x : Vec) : VRes :=
  let n := min z.lanes t.lanes
  converted t (if z.lanes < t.lanes then old else 0) (partStart part n z.lanes t.lanes) n (rmDraws rm) rng
    (fun k dr => convert t rm dr (valueOf z (elemOf z x (partStart part n t.lanes z.lanes + k))))

theorem slotVcvt_eq (d a : BitVec 6) (part : BitVec 2) (src ty : BitVec 4) (rm : BitVec 3) (pre cur : State) :
    slotVcvt d a part src ty rm pre cur = vec1 (Ty.of src) a pre cur (fun x u =>
      finishV pre u d (cvtResult (Ty.of src) (Ty.of ty) part.toNat rm (pre.me.getV (d.setWidth 5)) pre.me.rng x)) := rfl

/-! ### VPACK, VUNPACK, VQNT -/

theorem packSource_eq (t : Ty) : packSource t = if t.width = 8 then .s16 else if t.width = 16 then .s32 else .s64 := by
  cases t <;> rfl

theorem slotVpack_eq {z : Ty} {ty : BitVec 4} (source : packSource (Ty.of ty) = z) (d a b : BitVec 6) (pre cur : State) :
    slotVpack d a b ty pre cur = vec2 z a b pre cur (fun x y u =>
      finishV pre u d (elementwise (Ty.of ty).width (Ty.of ty).lanes false pre.me.rng (fun k _ => clampInt (Ty.of ty)
        (intOf z (if k < (Ty.of ty).lanes / 2 then elemOf z x k else elemOf z y (k - (Ty.of ty).lanes / 2)))))) := by
  subst source
  simp only [slotVpack, idecode_eq_intOf]

theorem slotVunpack_eq (d a part : BitVec 6) (ty : BitVec 4) (pre cur : State) :
    slotVunpack d a part ty pre cur = vec1 (unpackSource (Ty.of ty)) a pre cur (fun x u =>
      let t := Ty.of ty
      let z := unpackSource t
      finishRaw pre u d (pureElems t.width t.lanes (fun k => BitVec.ofInt t.width (intOf z (elemOf z x (part.toNat * t.lanes + k)))))) := by
  simp only [slotVunpack, idecode_eq_intOf]

theorem bf_low_byte (x : Word) : bf x 0 8 = x.toNat % 256 := by simp [bf]

theorem slotVqnt_eq (d a : BitVec 6) (gs ty : BitVec 4) (rm : BitVec 3) (pre cur : State) :
    slotVqnt d a gs ty rm pre cur = vec1 .bf16 a pre cur (fun x u =>
      let t := Ty.of ty
      let scale := (pre.me.getG (BitVec.ofNat 5 (16 + gs.toNat))).toNat % 256
      finishV pre u d (elementwise t.width 32 (rmDraws rm) pre.me.rng (fun k dr => convert t rm dr
        (if scale = 255 then .nan false else (fdecode .bf16 (elemOf .bf16 x k)).scale (127 - (scale : Int)))))) := by
  simp only [slotVqnt, bf_low_byte]
  rfl

/-- Settles O47: VCVT's elements packed where its part says, and the others' elements computed one by one. -/
theorem conversionsConvert : Obligations.ConversionsConvert := by
  refine ⟨fun s d a part src ty rm x u ready => ?_, fun s d a b ty x y u ready => ?_, fun s d a part ty x u ready => ?_,
    fun s d a gs ty rm x u ready => ?_⟩
  · intro t z read n from0 to0
    obtain ⟨-, computes⟩ := exec_vec1 (i := .vcvt d a part src ty rm) rfl ready (slotVcvt_eq d a part src ty rm s s)
    refine ⟨cvtResult z t part.toNat rm (s.me.getV (d.setWidth 5)) s.me.rng x, ?_, rfl, rfl, fun k h => ?_⟩
    · rw [computes x u read]
      exact writesVec_finishV ..
    · refine (lane_converted t _ _ (Nat.min_le_right ..) _ _ _ h).trans ?_
      congr 1
      split
      · rfl
      · exact lane_zero ..
  · intro t z read
    obtain ⟨-, computes⟩ := exec_vec2 (i := .vpack d a b ty) rfl ready (slotVpack_eq (packSource_eq _) d a b s s)
    rw [computes x y u read]
    exact writesVec_finishV ..
  · intro t z read
    obtain ⟨-, computes⟩ := exec_vec1 (i := .vunpack d a part ty) rfl ready (slotVunpack_eq d a part ty s s)
    rw [computes x u read]
    exact writesVec_finishRaw ..
  · intro t scale read
    obtain ⟨-, computes⟩ := exec_vec1 (i := .vqnt d a gs ty rm) rfl ready (slotVqnt_eq d a gs ty rm s s)
    rw [computes x u read]
    exact writesVec_finishV ..

end Sys2Proof.Machine
end

section
/-! Sparse bitmaps and VCBD (R99, R121, R122, R123). -/

namespace Sys2Proof.Machine

/-! ### The places that a bitmap names -/

/-- How many places below k a bitmap names. -/
def rankIn (b : Vec) (k : Nat) : Nat := (List.range k).countP (fun j => b.getLsbD j)

theorem length_siteList (t : Ty) (b : Vec) : (siteList t b).length = rankIn b t.lanes := List.countP_eq_length_filter.symm

/-- A place that the bitmap names divides the list: before it stand the named places below it. -/
theorem siteList_split {t : Ty} {b : Vec} {k : Nat} (h : k < t.lanes) (named : b.getLsbD k = true) :
    ∃ rest, siteList t b = (List.range k).filter (fun j => bit b j) ++ k :: rest := by
  obtain ⟨n, sum⟩ := Nat.exists_eq_add_of_lt h
  refine ⟨((List.range n).map (k + 1 + ·)).filter (fun j => bit b j), ?_⟩
  have divided : List.range t.lanes = List.range k ++ k :: (List.range n).map (k + 1 + ·) := by
    rw [sum, Nat.add_right_comm, List.range_add, List.range_succ, List.append_assoc, List.singleton_append]
  rw [siteList, divided, List.filter_append, List.filter_cons_of_pos (p := fun j => bit b j) named]

theorem length_sites_below (b : Vec) (k : Nat) : ((List.range k).filter (fun j => bit b j)).length = rankIn b k := List.countP_eq_length_filter.symm

theorem siteList_at_rank {t : Ty} {b : Vec} {k : Nat} (h : k < t.lanes) (named : b.getLsbD k = true) : (siteList t b)[rankIn b k]? = some k := by
  obtain ⟨rest, split⟩ := siteList_split h named
  rw [split, ← length_sites_below, List.getElem?_append_right (Nat.le_refl _), Nat.sub_self, List.getElem?_cons_zero]

theorem rank_lt {t : Ty} {b : Vec} {k : Nat} (h : k < t.lanes) (named : b.getLsbD k = true) : rankIn b k < t.lanes := by
  have inside : rankIn b k < (siteList t b).length := (List.getElem?_eq_some_iff.mp (siteList_at_rank h named)).1
  exact Nat.lt_of_lt_of_le inside (Nat.le_trans (List.length_filter_le ..) (Nat.le_of_eq List.length_range))

theorem siteList_contains {t : Ty} {b : Vec} {k : Nat} (h : k < t.lanes) : (siteList t b).contains k = b.getLsbD k := by
  rw [Bool.eq_iff_iff]
  simp [siteList, bit, h]

/-- The named places before k in the list are those below it. -/
theorem length_takeWhile_siteList {t : Ty} {b : Vec} {k : Nat} (h : k < t.lanes) (named : b.getLsbD k = true) :
    ((siteList t b).takeWhile (fun j => j != k)).length = rankIn b k := by
  obtain ⟨rest, split⟩ := siteList_split h named
  have before : ∀ j ∈ (List.range k).filter (fun j => bit b j), (j != k) = true := fun j member => by
    have below := List.mem_range.mp (List.mem_filter.mp member).1
    simp [Nat.ne_of_lt below]
  rw [split, List.takeWhile_append_of_pos before, List.takeWhile_cons_of_neg (by simp), List.append_nil, length_sites_below]

/-! ### VCOMPR and VEXPND -/

/-- Elements gathered: the named ones in order, zero after. -/
def compressed (t : Ty) (x y : Vec) : Vec := pureElems t.width t.lanes (fun j => match (siteList t y)[j]? with
  | some k => lane x k t.width
  | none => 0)

/-- Elements spread: at each named place the next, zero elsewhere. -/
def expanded (t : Ty) (x y : Vec) : Vec := pureElems t.width t.lanes (fun k =>
  if (siteList t y).contains k then lane x ((siteList t y).takeWhile (fun j => j != k)).length t.width else 0)

theorem lane_compressed_of_named {t : Ty} (x : Vec) {y : Vec} {k : Nat} (h : k < t.lanes) (named : y.getLsbD k = true) :
    lane (compressed t x y) (rankIn y k) t.width = lane x k t.width := by
  rw [compressed, pureElems, lane_ofLanes _ (Ty.width_mul_lanes_le t) (rank_lt h named), siteList_at_rank h named]

theorem lane_compressed_above {t : Ty} (x : Vec) {y : Vec} {j : Nat} (above : rankIn y t.lanes ≤ j) (h : j < t.lanes) :
    lane (compressed t x y) j t.width = 0 := by
  rw [compressed, pureElems, lane_ofLanes _ (Ty.width_mul_lanes_le t) h, List.getElem?_eq_none (by rwa [length_siteList])]

theorem lane_expanded {t : Ty} (x y : Vec) {k : Nat} (h : k < t.lanes) :
    lane (expanded t x y) k t.width = if y.getLsbD k then lane x (rankIn y k) t.width else 0 := by
  rw [expanded, pureElems, lane_ofLanes _ (Ty.width_mul_lanes_le t) h, siteList_contains h]
  split
  case isTrue named => rw [length_takeWhile_siteList h named]
  case isFalse => rfl

section
variable {pre cur u : State} {x y : Vec} {a b : BitVec 6}

theorem slotVpopx_read (read : readTwo pre cur ⟨64, 8⟩ ⟨64, 8⟩ a b = some (x, y, u)) (rd : BitVec 5) :
    slotVpopx rd a b pre cur = okG u rd (word ((List.range 512).countP (fun k => x.getLsbD k && y.getLsbD k))) := by
  rw [slotVpopx, wholeWord, read]
  simp only [popcount_eq_countP, BitVec.getLsbD_and]

variable {ty : BitVec 4} (read : readTwo pre cur (elems (Ty.of ty)) ⟨64, 8⟩ a b = some (x, y, u)) (d : BitVec 6)
include read

theorem slotVcompr_read : slotVcompr d a b ty pre cur = finishRaw pre u d (compressed (Ty.of ty) x y) := by
  rw [slotVcompr, sparse2, wholeWord, read]
  rfl

theorem slotVexpnd_read : slotVexpnd d a b ty pre cur = finishRaw pre u d (expanded (Ty.of ty) x y) := by
  rw [slotVexpnd, sparse2, wholeWord, read]
  rfl

end

/-! ### VCBD -/

section
variable (c : Core) (bank : BitVec 1)

theorem Core.bankLoading_eq : c.bankLoading (bank == 1) = if bank = 1 then c.loading1 else c.loading0 := by simp [Core.bankLoading]

theorem Core.bankOf_eq : c.bankOf (bank == 1) = if bank = 1 then c.cb1 else c.cb0 := by simp [Core.bankOf]

end

theorem cbdCount_eq (t : Ty) : cbdCount t = if t = .f32 then 2 else 4 := by cases t <;> rfl

theorem slotVcbd_loading {d a : BitVec 6} {bank : BitVec 1} {start : BitVec 5} {ty : BitVec 4} {s : State}
    (loading : (if bank = 1 then (s.core (coreOf s.cur)).loading1 else (s.core (coreOf s.cur)).loading0) = true) :
    slotVcbd d a bank start ty s s = .wait s := by
  unfold slotVcbd
  dsimp only
  rw [Core.bankLoading_eq, if_pos loading]

theorem slotVcbd_loaded {d a : BitVec 6} {bank : BitVec 1} {start : BitVec 5} {ty : BitVec 4} {s : State}
    (loaded : (if bank = 1 then (s.core (coreOf s.cur)).loading1 else (s.core (coreOf s.cur)).loading0) = false) :
    slotVcbd d a bank start ty s s = vec1 .cb2 a s s (fun x u =>
      let rows : Bank := if bank = 1 then (s.core (coreOf s.cur)).cb1 else (s.core (coreOf s.cur)).cb0
      finishRaw s u d (pureElems (Ty.of ty).width (8 * if Ty.of ty = .f32 then 2 else 4) (fun k =>
        let w := elemOf .cb2 x (start.toNat + k / 8)
        BitVec.ofNat (Ty.of ty).width (fencode (Ty.of ty) 0 0 (cb2Weight w (lane rows (w / 256 % 256) 32).toNat (k % 8))).1))) := by
  unfold slotVcbd
  dsimp only
  rw [Core.bankLoading_eq, if_neg (ne_true_of_eq_false loaded), Core.bankOf_eq, cbdCount_eq]
  rfl

/-- Settles O48: the named places in order give VCOMPR and VEXPND their elements; VCBD waits for its bank, or decodes from its rows. -/
theorem sparseAndCodebookInstructions : Obligations.SparseAndCodebookInstructions := by
  refine ⟨fun s rd a b x y u ready read => ?_, fun s d a b ty x y u ready => ?_, fun s d a b ty x y u ready => ?_,
    fun s d a bank start ty ready => ⟨fun loading => ?_, fun loaded x u read => ?_⟩⟩
  · have effect : slotOp (.vpopx rd a b) s s = _ := slotVpopx_read read rd
    rw [exec_slotA rfl ready, effect]
    rfl
  · intro t read rank
    refine ⟨compressed t x y, ?_, fun k => lane_compressed_of_named x, fun j => lane_compressed_above x⟩
    have effect : slotOp (.vcompr d a b ty) s s = _ := slotVcompr_read read d
    rw [exec_slotA rfl ready, effect]
    exact writesVec_finishRaw ..
  · intro t read rank
    refine ⟨expanded t x y, ?_, fun k => lane_expanded x y⟩
    have effect : slotOp (.vexpnd d a b ty) s s = _ := slotVexpnd_read read d
    rw [exec_slotA rfl ready, effect]
    exact writesVec_finishRaw ..
  · have effect : slotOp (.vcbd d a bank start ty) s s = _ := slotVcbd_loading loading
    rw [exec_slotA rfl ready, effect]
    rfl
  · obtain ⟨-, computes⟩ := exec_vec1 (i := .vcbd d a bank start ty) rfl ready (slotVcbd_loaded loaded)
    rw [computes x u read]
    exact writesVec_finishRaw ..

end Sys2Proof.Machine
end

section
/-! Elements packed into one wide word, lowest first, and the flags of all of them (R101, R102): what a lane of the word reads. -/

namespace Sys2Proof.Machine

/-! ### Numbers in places of w bits -/

/-- Place k of numbers that each fit their place. -/
theorem digit_of_packed {w : Nat} {xs : List Nat} (small : ∀ x ∈ xs, x < 2 ^ w) (k : Nat) :
    xs.foldr (fun x n => x + 2 ^ w * n) 0 / 2 ^ (w * k) % 2 ^ w = xs.getD k 0 := by
  induction xs generalizing k with
  | nil => simp
  | cons x xs ih =>
    have first : x < 2 ^ w := small x List.mem_cons_self
    rw [List.foldr_cons]
    cases k with
    | zero => simp [Nat.mod_eq_of_lt first]
    | succ k =>
      rw [Nat.mul_succ, Nat.add_comm (w * k), Nat.pow_add, ← Nat.div_div_eq_div_mul, Nat.add_mul_div_left _ _ (Nat.two_pow_pos w),
        Nat.div_eq_of_lt first, Nat.zero_add, ih (fun y hy => small y (List.mem_cons_of_mem x hy)), List.getD_cons_succ]

/-- Lane k of a word made of results with flags. -/
theorem lane_of_packed {w n : Nat} {xs : List (Nat × Flags)} (small : ∀ x ∈ xs, x.1 < 2 ^ w) {k : Nat} (fits : w * (k + 1) ≤ n) :
    lane (BitVec.ofNat n (xs.foldr (fun x m => x.1 + 2 ^ w * m) 0)) k w = BitVec.ofNat w (xs.getD k (0, 0)).1 := by
  have digit := digit_of_packed (xs := xs.map Prod.fst) (List.forall_mem_map.mpr small) k
  have first : (xs.map Prod.fst).getD k 0 = (xs.getD k (0, 0)).1 := by
    rw [List.getD_eq_getElem?_getD, List.getD_eq_getElem?_getD, List.getElem?_map]
    cases xs[k]? <;> rfl
  rw [List.foldr_map, first] at digit
  refine BitVec.eq_of_toNat_eq ?_
  rw [Nat.mul_succ] at fits
  obtain ⟨m, rfl⟩ := Nat.exists_eq_add_of_le fits
  rw [lane, BitVec.extractLsb'_toNat, BitVec.toNat_ofNat, BitVec.toNat_ofNat, ← digit, Nat.mod_mod, Nat.shiftRight_eq_div_pow,
    Nat.add_assoc, Nat.pow_add, Nat.mod_mul_right_div_self, Nat.pow_add, Nat.mod_mul_right_mod]

theorem getLsbD_foldl_flags (xs : List (Nat × Flags)) (start : Flags) (b : Nat) :
    (xs.foldl (fun f x => f ||| x.2) start).getLsbD b = (start.getLsbD b || xs.any (fun x => x.2.getLsbD b)) := by
  induction xs generalizing start with
  | nil => simp
  | cons x xs ih => rw [List.foldl_cons, ih, BitVec.getLsbD_or, List.any_cons, Bool.or_assoc]

/-! ### Bytes of a word, and of a memory -/

theorem length_toBytes {w : Nat} (x : BitVec w) (n : Nat) : (toBytes x n).length = n := by
  induction n generalizing x with
  | zero => rfl
  | succ n ih => rw [toBytes, List.length_cons, ih]

theorem readBytes_getD (m : List Host.Cell) {a n k : Nat} (h : k < n) : (readBytes m a n).getD k 0 = readByte m (a + k) := by
  induction n generalizing a k with
  | zero => omega
  | succ n ih =>
    cases k with
    | zero => rfl
    | succ k => rw [readBytes, List.getD_cons_succ, ih (by omega), Nat.add_assoc, Nat.add_comm 1 k]

theorem readByte_writeBytes (m : List Host.Cell) (a : Nat) (bs : List Byte) (p : Nat) :
    readByte (writeBytes m a bs) p = if a ≤ p ∧ p < a + bs.length then bs.getD (p - a) 0 else readByte m p := by
  split
  case isTrue inside =>
    have byte := readBytes_getD (writeBytes m a bs) (a := a) (show p - a < bs.length by omega)
    rw [readBytes_writeBytes, show a + (p - a) = p by omega] at byte
    exact byte.symm
  case isFalse outside => exact readByte_writeBytes_outside m bs (by omega)

/-- Local memory after a store: the bytes that lie in range (R205). -/
theorem Core.localByte_localWrite (c : Core) (a : Nat) (bs : List Byte) (o : Nat) :
    (c.localWrite a bs).localByte o = if a ≤ o ∧ o < a + bs.length ∧ o < localSize then bs.getD (o - a) 0 else c.localByte o := by
  by_cases range : o < localSize
  · have below : o < a + (bs.take (localSize - a)).length ↔ o < a + bs.length := by rw [List.length_take]; omega
    rw [Core.localByte, Core.localByte, if_pos range, if_pos range, Core.localWrite, readByte_writeBytes]
    simp only [below, range, and_true]
    split
    case isTrue inside => rw [List.getD_eq_getElem?_getD, List.getD_eq_getElem?_getD, List.getElem?_take_of_lt (by omega)]
    case isFalse => rfl
  · simp [Core.localByte, range]

end Sys2Proof.Machine
end

section
/-! Encodings of f32 and s32 fit 32 bits: what a word of an accumulator holds (R95, R100, R131, R137). -/

namespace Sys2Proof.Machine

theorem overflowed_f32_lt (rm : BitVec 3) (s : Bool) : (overflowed .f32 rm s).1 < 2 ^ 32 := by
  revert rm s
  decide

/-- Cut to the unit of its last place, which is at most 23 places below its highest bit, a significand has at most 24 bits. -/
theorem significand_lt {m : Nat} {e q : Int} (unit : (Nat.log2 m : Int) + e - 23 ≤ q) :
    (if q ≤ e then m * 2 ^ (e - q).toNat else m / 2 ^ (q - e).toNat) < 2 ^ 24 := by
  have bound : m < 2 ^ (Nat.log2 m + 1) := Nat.lt_log2_self
  split
  · calc m * 2 ^ (e - q).toNat < 2 ^ (Nat.log2 m + 1) * 2 ^ (e - q).toNat := Nat.mul_lt_mul_of_pos_right bound (Nat.two_pow_pos _)
      _ = 2 ^ (Nat.log2 m + 1 + (e - q).toNat) := (Nat.pow_add ..).symm
      _ ≤ 2 ^ 24 := Nat.pow_le_pow_right (by decide) (by omega)
  · refine Nat.div_lt_of_lt_mul (Nat.lt_of_lt_of_le bound ?_)
    rw [← Nat.pow_add]
    exact Nat.pow_le_pow_right (by decide) (by omega)

/-- A significand of 24 bits, its last place worth 2^q, that is not beyond the largest finite f32 has an exponent below the one of infinity. -/
theorem unit_le_of_not_beyond {k : Nat} {q : Int} (normal : 2 ^ 23 ≤ k) (finite : dyLt (2 ^ 24 - 1) 104 k q = false) :
    q ≤ 104 ∧ (k = 2 ^ 24 → q < 104) := by
  have large (n : Nat) (positive : 0 < n) : 2 * k ≤ k * 2 ^ n := by
    rw [Nat.mul_comm]
    exact Nat.mul_le_mul_left k (by simpa using Nat.pow_le_pow_right (n := 2) (by decide) positive)
  simp only [dyLt] at finite
  split at finite
  case isTrue above =>
    have value := of_decide_eq_false finite
    rcases Int.lt_or_eq_of_le above with later | rfl
    · have := large (q - 104).toNat (by omega)
      omega
    · simp at value
      omega
  case isFalse below => omega

/-- The f32 encoding of the magnitude k * 2^q with k ≤ 2^24, beside its flags, as the last step of a rounding makes it. -/
def encodeF32 (s : Bool) (k : Nat) (q : Int) (fl : Flags) : Nat × Flags :=
  let c : Nat × Int := if k = 2 ^ 24 then (2 ^ 23, q + 1) else (k, q)
  let sign := if s then 2 ^ 31 else 0
  if c.1 < 2 ^ 23 then (sign + c.1, fl) else (sign + (c.2 + 23 + 127).toNat * 2 ^ 23 + (c.1 - 2 ^ 23), fl)

/-- A rounding to f32 overflows, or encodes a significand of at most 24 bits, or 2^24. -/
theorem roundTo_f32_eq (rm : BitVec 3) (draw : Nat) (s : Bool) (m : Nat) (e : Int) (st : Bool) :
    ∃ (k : Nat) (q : Int) (fl : Flags), k ≤ 2 ^ 24 ∧
    roundTo .f32 rm draw s m e st = if dyLt (2 ^ 24 - 1) 104 k q then overflowed .f32 rm s else encodeF32 s k q fl := by
  let q : Int := max ((Nat.log2 m : Int) + e) (1 - 127) - 23
  let cut : Nat × Nat × Nat :=
    if q ≤ e then (m * 2 ^ (e - q).toNat, 0, 0) else (m / 2 ^ (q - e).toNat, m % 2 ^ (q - e).toNat, (q - e).toNat)
  refine ⟨if roundsUp rm s draw cut.1 cut.2.1 cut.2.2 st then cut.1 + 1 else cut.1, q, _, ?_, rfl⟩
  have small : cut.1 < 2 ^ 24 := by
    rw [show cut.1 = if q ≤ e then m * 2 ^ (e - q).toNat else m / 2 ^ (q - e).toNat from apply_ite Prod.fst ..]
    exact significand_lt (by omega)
  split <;> omega

theorem encodeF32_lt (s : Bool) {k : Nat} {q : Int} (bits : k ≤ 2 ^ 24) (finite : dyLt (2 ^ 24 - 1) 104 k q = false) (fl : Flags) :
    (encodeF32 s k q fl).1 < 2 ^ 32 := by
  have sign : (if s then 2 ^ 31 else 0) ≤ 2 ^ 31 := by cases s <;> decide
  unfold encodeF32
  generalize (if s then 2 ^ 31 else 0 : Nat) = sg at *
  by_cases carry : k = 2 ^ 24
  · obtain ⟨-, below⟩ := unit_le_of_not_beyond (by omega) finite
    rw [if_pos carry]
    have := below carry
    simp only [Nat.lt_irrefl, if_false]
    omega
  · rw [if_neg carry]
    dsimp only
    split
    case isTrue => omega
    case isFalse normal =>
      obtain ⟨below, -⟩ := unit_le_of_not_beyond (Nat.le_of_not_lt normal) finite
      omega

theorem roundTo_f32_lt (rm : BitVec 3) (draw : Nat) (s : Bool) (m : Nat) (e : Int) (st : Bool) : (roundTo .f32 rm draw s m e st).1 < 2 ^ 32 := by
  obtain ⟨k, q, fl, bits, rounded⟩ := roundTo_f32_eq rm draw s m e st
  rw [rounded]
  split
  case isTrue => exact overflowed_f32_lt rm s
  case isFalse finite => exact encodeF32_lt s bits (by simpa using finite) fl

theorem fencode_f32_lt (rm : BitVec 3) (draw : Nat) (v : FVal) : (fencode .f32 rm draw v).1 < 2 ^ 32 := by
  cases v with
  | nan g => exact Ty.nanBits_lt .f32
  | inf s => cases s <;> simp only [fencode] <;> decide
  | num s m e =>
    simp only [fencode]
    split
    · cases s <;> decide
    · exact roundTo_f32_lt ..

theorem convert_f32_lt (rm : BitVec 3) (draw : Nat) (v : FVal) : (convert .f32 rm draw v).1 < 2 ^ 32 := by
  have infinities : Ty.f32.hasInf = true := rfl
  unfold convert
  rw [if_neg (by decide)]
  split
  case h_1 =>
    rw [if_pos infinities]
    exact Ty.nanBits_lt .f32
  case h_2 =>
    rw [if_pos infinities]
    exact fencode_f32_lt ..
  case h_3 => exact fencode_f32_lt ..

theorem wrapInt_lt (w : Nat) (i : Int) : wrapInt w i < 2 ^ w := by
  have positive : (0 : Int) < 2 ^ w := Int.pow_pos (by decide)
  have below := Int.emod_lt_of_pos i positive
  have above := Int.emod_nonneg i (Int.ne_of_gt positive)
  rw [wrapInt]
  have cast : ((2 ^ w : Nat) : Int) = 2 ^ w := Int.natCast_pow 2 w
  omega

/-- A word of MMA fits its place. -/
theorem mmaWord_lt (old : Nat) (xs ys : List FVal) : (mmaWord old xs ys).1 < 2 ^ 32 := by
  have nan : Ty.f32.nanBits < 2 ^ 32 := Ty.nanBits_lt .f32
  unfold mmaWord
  dsimp only
  split
  · exact nan
  · split
    · exact nan
    · split
      · exact nan
      · exact fencode_f32_lt ..

/-- A word of MLD fits its place, where the element fits its own. -/
theorem mldWord_lt {t : Ty} {x : Nat} (fits : x < 2 ^ t.width) : (mldWord t x).1 < 2 ^ 32 := by
  unfold mldWord
  split
  case h_1 | h_2 | h_3 => exact fits
  case h_4 | h_5 => exact convert_f32_lt ..
  case h_6 => exact wrapInt_lt ..

end Sys2Proof.Machine
end

section
/-! The exact sum of products behind a word of an accumulator (R131): its value as a rational number, and mma_word. -/

namespace Sys2Proof.Machine

/-! ### Powers of two -/

theorem two_zpow_add (e f : Int) : (2 : Rat) ^ (e + f) = 2 ^ e * 2 ^ f := Rat.zpow_add (by decide) e f

theorem two_zpow_natCast (n : Nat) : (2 : Rat) ^ (n : Int) = 2 ^ n := Rat.zpow_natCast 2 n

theorem two_zpow_pos (e : Int) : (0 : Rat) < 2 ^ e := Rat.zpow_pos (by decide)

/-! ### Values of numbers -/

theorem toRat_num_mul (s s' : Bool) (m m' : Nat) (e e' : Int) :
    (FVal.num (s != s') (m * m') (e + e')).toRat = (FVal.num s m e).toRat * (FVal.num s' m' e').toRat := by
  simp only [FVal.toRat, two_zpow_add]
  generalize (2 : Rat) ^ e = unit, (2 : Rat) ^ e' = unit'
  have product : ((m * m' : Nat) : Rat) = m * m' := Rat.natCast_mul m m'
  rw [product]
  cases s <;> cases s' <;>
    simp only [bne_self_eq_false, Bool.false_bne, Bool.true_bne, Bool.not_false, if_true, Bool.false_eq_true, if_false] <;> grind

/-- A scaled integer as a value. -/
theorem toRat_ofScaled (x : Int) (e : Int) (z : Bool) : (FVal.ofScaled x e z).toRat = x * 2 ^ e := by
  have value : (x : Rat) = (if decide (x < 0) then -1 else 1) * (x.natAbs : Rat) := by
    by_cases negative : x < 0
    · rw [if_pos (decide_eq_true negative)]
      calc (x : Rat) = ((-(x.natAbs : Int) : Int) : Rat) := congrArg Int.cast (by omega)
        _ = -(x.natAbs : Rat) := rfl
        _ = -1 * (x.natAbs : Rat) := by grind
    · rw [if_neg (by simpa using negative)]
      calc (x : Rat) = ((x.natAbs : Int) : Rat) := congrArg Int.cast (by omega)
        _ = (x.natAbs : Rat) := rfl
        _ = 1 * (x.natAbs : Rat) := by grind
  unfold FVal.ofScaled
  split
  case isTrue zero => simp [zero, FVal.toRat]
  case isFalse _ => rw [FVal.toRat, ← value]

/-! ### Sums at a common exponent -/

/-- A term of a sum as a value. -/
def termValue (t : Bool × Nat × Int) : FVal := .num t.1 t.2.1 t.2.2

/-- A term of a sum as an integer, in units of 2^e. -/
def termUnits (e : Int) (t : Bool × Nat × Int) : Int := (if t.1 then -1 else 1) * ((t.2.1 : Int) * 2 ^ (t.2.2 - e).toNat)

theorem termUnits_mul {e : Int} {t : Bool × Nat × Int} (below : e ≤ t.2.2) : (termUnits e t : Rat) * 2 ^ e = (termValue t).toRat := by
  obtain ⟨s, m, f⟩ := t
  have shift : (2 : Rat) ^ (f - e).toNat * 2 ^ e = 2 ^ f := by
    rw [← two_zpow_natCast, ← two_zpow_add, Int.toNat_of_nonneg (Int.sub_nonneg.mpr below), Int.sub_add_cancel]
  have units : (((m : Int) * 2 ^ (f - e).toNat : Int) : Rat) = m * 2 ^ (f - e).toNat := by push_cast; rfl
  simp only [termUnits, termValue, FVal.toRat, ← shift]
  cases s <;> simp only [Bool.false_eq_true, if_true, if_false]
  · rw [Int.one_mul, units]
    grind
  · rw [Int.neg_one_mul, Rat.intCast_neg, units]
    grind

/-- The exponent at which the model adds: that of the first term or a smaller one. -/
def commonExp (ts : List (Bool × Nat × Int)) : Int := ts.foldl (fun a t => min a t.2.2) (match ts with
  | t :: _ => t.2.2
  | [] => 0)

theorem foldl_min_le (ts : List (Bool × Nat × Int)) (start : Int) :
    ts.foldl (fun a t => min a t.2.2) start ≤ start ∧ ∀ t ∈ ts, ts.foldl (fun a t => min a t.2.2) start ≤ t.2.2 := by
  induction ts generalizing start with
  | nil => simp
  | cons t ts ih =>
    obtain ⟨first, rest⟩ := ih (min start t.2.2)
    rw [List.foldl_cons]
    refine ⟨by omega, fun u mem => ?_⟩
    rcases List.mem_cons.mp mem with rfl | later
    · omega
    · exact rest u later

theorem commonExp_le {ts : List (Bool × Nat × Int)} {t : Bool × Nat × Int} (mem : t ∈ ts) : commonExp ts ≤ t.2.2 :=
  (foldl_min_le ts _).2 t mem

/-- The sum of the terms, as an integer in units of the common exponent. -/
def sumUnits (ts : List (Bool × Nat × Int)) : Int := (ts.map (termUnits (commonExp ts))).sum

theorem sum_termUnits_mul {e : Int} {ts : List (Bool × Nat × Int)} (below : ∀ t ∈ ts, e ≤ t.2.2) :
    ((ts.map (termUnits e)).sum : Rat) * 2 ^ e = (ts.map (fun t => (termValue t).toRat)).sum := by
  induction ts with
  | nil => exact Rat.zero_mul _
  | cons t ts ih =>
    obtain ⟨first, rest⟩ := List.forall_mem_cons.mp below
    have add (i j : Int) : ((i + j : Int) : Rat) = i + j := Rat.intCast_add i j
    rw [List.map_cons, List.sum_cons, List.map_cons, List.sum_cons, add, Rat.add_mul, termUnits_mul first, ih rest]

theorem sumUnits_mul (ts : List (Bool × Nat × Int)) : (sumUnits ts : Rat) * 2 ^ commonExp ts = (ts.map (fun t => (termValue t).toRat)).sum :=
  sum_termUnits_mul fun _ mem => commonExp_le mem

/-- The sum to nearest even: an exact zero is -0 where every term is a zero of negative sign. -/
theorem sumNums_eq (ts : List (Bool × Nat × Int)) :
    sumNums 0 ts = FVal.ofScaled (sumUnits ts) (commonExp ts) (ts.all (fun t => (termValue t).isNegZero)) := by
  have step : (fun (a : Int) (t : Bool × Nat × Int) =>
      if t.1 then a - (t.2.1 : Int) * 2 ^ (t.2.2 - commonExp ts).toNat else a + (t.2.1 : Int) * 2 ^ (t.2.2 - commonExp ts).toNat) =
      fun a t => a + termUnits (commonExp ts) t := by
    funext a t
    cases sign : t.1 <;> simp [termUnits, sign, Int.sub_eq_add_neg]
  have sum := foldl_add_eq_sum (termUnits (commonExp ts)) ts 0
  rw [← step, Int.zero_add] at sum
  have negative : (ts.all fun t => t.2.1 == 0 && t.1) = ts.all (fun t => (termValue t).isNegZero) :=
    congrArg ts.all (funext fun t => Bool.and_comm ..)
  rw [sumUnits, ← sum, ← negative]
  cases h : (ts.all fun t => t.2.1 == 0 && t.1) <;> simp [sumNums, h] <;> rfl

/-- A sum encoded: its zero keeps the sign that is given, and another value is rounded once. -/
theorem fencode_ofScaled (x e : Int) (z : Bool) : let sum : Rat := x * 2 ^ e
    (sum = 0 → fencode .f32 0 0 (FVal.ofScaled x e z) = (if z then 0x80000000 else 0, 0)) ∧
    (sum ≠ 0 → ∃ (m : Nat) (f : Int), (FVal.num (decide (sum < 0)) m f).toRat = sum ∧
      fencode .f32 0 0 (FVal.ofScaled x e z) = roundTo .f32 0 0 (decide (sum < 0)) m f false) := by
  have zero_iff : (x : Rat) * 2 ^ e = 0 ↔ x = 0 :=
    Rat.mul_eq_zero.trans ((or_iff_left (Rat.ne_of_gt (two_zpow_pos e))).trans Rat.intCast_eq_zero_iff)
  have neg_iff : (x : Rat) * 2 ^ e < 0 ↔ x < 0 := (Rat.mul_neg_iff_of_pos_right (two_zpow_pos e)).trans Rat.intCast_neg_iff
  refine ⟨fun zero => ?_, fun nonzero => ?_⟩
  · rw [FVal.ofScaled, if_pos (zero_iff.mp zero)]
    rfl
  · have ne : x ≠ 0 := fun zero => nonzero (zero_iff.mpr zero)
    have value := toRat_ofScaled x e z
    rw [FVal.ofScaled, if_neg ne] at value ⊢
    rw [decide_eq_decide.mpr neg_iff]
    refine ⟨x.natAbs, e, value, ?_⟩
    rw [fencode, if_neg (by simpa using ne)]

/-! ### Terms that are numbers -/

/-- A value that is neither a NaN nor an infinity. -/
def FVal.finite : FVal → Prop
  | .num .. => True
  | _ => False

theorem FVal.finite_iff {v : FVal} : v.finite ↔ v.isNan = false ∧ ∀ s, v ≠ .inf s := by
  cases v <;> simp [FVal.finite, FVal.isNan]

/-- The sign, significand and exponent of a number. -/
def FVal.parts : FVal → Option (Bool × Nat × Int)
  | .num s m e => some (s, m, e)
  | _ => none

theorem map_termValue_parts {vs : List FVal} (finite : ∀ v ∈ vs, v.finite) : (vs.filterMap FVal.parts).map termValue = vs := by
  induction vs with
  | nil => rfl
  | cons v vs ih =>
    obtain ⟨first, rest⟩ := List.forall_mem_cons.mp finite
    cases v with
    | num s m e =>
      exact congrArg (FVal.num s m e :: ·) (ih rest)
    | nan g => exact first.elim
    | inf s => exact first.elim

theorem sumVals_eq (rm : BitVec 3) (vs : List FVal) : sumVals rm vs =
    if FVal.inf false ∈ vs then if FVal.inf true ∈ vs then none else some (.inf false)
    else if FVal.inf true ∈ vs then some (.inf true) else some (sumNums rm (vs.filterMap FVal.parts)) := by
  have has (s : Bool) : vs.any (fun v => v == .inf s) = decide (FVal.inf s ∈ vs) := by
    rw [Bool.eq_iff_iff]
    simp
  unfold sumVals
  simp only [has]
  by_cases pos : FVal.inf false ∈ vs <;> by_cases neg : FVal.inf true ∈ vs <;> simp only [pos, neg, decide_true, decide_false] <;> rfl

/-- The sum of numbers, encoded: as rational numbers say it. -/
theorem fencode_sum {vs : List FVal} (finite : ∀ v ∈ vs, v.finite) : let sum : Rat := (vs.map FVal.toRat).sum
    let r := fencode .f32 0 0 (sumNums 0 (vs.filterMap FVal.parts))
    (sum = 0 → r = (if vs.all FVal.isNegZero then 0x80000000 else 0, 0)) ∧
    (sum ≠ 0 → ∃ (m : Nat) (e : Int), (FVal.num (decide (sum < 0)) m e).toRat = sum ∧ r = roundTo .f32 0 0 (decide (sum < 0)) m e false) := by
  have back := map_termValue_parts finite
  have sum : (vs.map FVal.toRat).sum = sumUnits (vs.filterMap FVal.parts) * 2 ^ commonExp (vs.filterMap FVal.parts) := by
    rw [sumUnits_mul]
    conv => lhs; rw [← back, List.map_map]
    rfl
  have negative : (vs.filterMap FVal.parts).all (fun t => (termValue t).isNegZero) = vs.all FVal.isNegZero := by
    conv => rhs; rw [← back, List.all_map]
    rfl
  rw [sum, sumNums_eq, negative]
  exact fencode_ofScaled ..

/-! ### Products -/

/-- A product of operands that are no NaN is invalid, an infinity, or the number that the rule names. -/
theorem mulVals_cases {a b : FVal} (ha : a.isNan = false) (hb : b.isNan = false) :
    mulVals a b = none ∨ (∃ s, mulVals a b = some (.inf s)) ∨
      ∃ v : FVal, mulVals a b = some v ∧ v.finite ∧ v.toRat = a.toRat * b.toRat := by
  cases a with
  | nan g => cases ha
  | inf s =>
    cases b with
    | nan g => cases hb
    | inf s' => exact .inr (.inl ⟨_, rfl⟩)
    | num s' m' e' =>
      by_cases zero : m' = 0
      · exact .inl (if_pos zero)
      · exact .inr (.inl ⟨_, if_neg zero⟩)
  | num s m e =>
    cases b with
    | nan g => cases hb
    | inf s' =>
      by_cases zero : m = 0
      · exact .inl (if_pos zero)
      · exact .inr (.inl ⟨_, if_neg zero⟩)
    | num s' m' e' => exact .inr (.inr ⟨_, rfl, trivial, toRat_num_mul ..⟩)

/-- The products of a row and a column without NaN, none of them invalid or an infinity, are numbers whose sum is that of the rule. -/
theorem products_finite {xs ys : List FVal} (hx : ∀ v ∈ xs, v.isNan = false) (hy : ∀ v ∈ ys, v.isNan = false)
    (valid : none ∉ List.zipWith mulVals xs ys) (bounded : ∀ s, FVal.inf s ∉ (List.zipWith mulVals xs ys).filterMap id) :
    (∀ v ∈ (List.zipWith mulVals xs ys).filterMap id, v.finite) ∧
    (((List.zipWith mulVals xs ys).filterMap id).map FVal.toRat).sum = (List.zipWith (fun x y => FVal.toRat x * FVal.toRat y) xs ys).sum := by
  induction xs generalizing ys with
  | nil => simp
  | cons x xs ih =>
    cases ys with
    | nil => simp
    | cons y ys =>
      obtain ⟨hx0, hx⟩ := List.forall_mem_cons.mp hx
      obtain ⟨hy0, hy⟩ := List.forall_mem_cons.mp hy
      rw [List.zipWith_cons_cons] at valid bounded ⊢
      rcases mulVals_cases hx0 hy0 with invalid | ⟨s, infinite⟩ | ⟨v, product, finite, value⟩
      · exact absurd (invalid ▸ List.mem_cons_self) valid
      · exact absurd (infinite ▸ List.mem_cons_self) (bounded s)
      · have rest (s : Bool) : FVal.inf s ∉ (List.zipWith mulVals xs ys).filterMap id := fun mem =>
          bounded s (by rw [product]; exact List.mem_cons_of_mem _ mem)
        obtain ⟨numbers, sum⟩ := ih hx hy (fun mem => valid (List.mem_cons_of_mem _ mem)) rest
        have terms : (mulVals x y :: List.zipWith mulVals xs ys).filterMap id = v :: (List.zipWith mulVals xs ys).filterMap id := by
          rw [product]
          rfl
        rw [terms, List.map_cons, List.sum_cons, List.zipWith_cons_cons, List.sum_cons, sum, value]
        exact ⟨List.forall_mem_cons.mpr ⟨finite, numbers⟩, rfl⟩

/-! ### mma_word -/

section
variable {old : Nat} {xs ys : List FVal}

theorem mmaWord_nan (nan : ∃ v ∈ fdecode .f32 old :: (xs ++ ys), FVal.isNan v = true) :
    mmaWord old xs ys = (0x7FC00000, if (fdecode .f32 old :: (xs ++ ys)).any FVal.isSig then flagInvalid else 0) := by
  rw [mmaWord, if_pos (List.any_eq_true.mpr nan)]
  rfl

variable (numbers : ¬ ∃ v ∈ fdecode .f32 old :: (xs ++ ys), FVal.isNan v = true)
include numbers

theorem mmaWord_invalid (invalid : none ∈ List.zipWith mulVals xs ys) : mmaWord old xs ys = (0x7FC00000, flagInvalid) := by
  rw [mmaWord, if_neg (by rwa [List.any_eq_true]), if_pos (List.any_eq_true.mpr ⟨none, invalid, rfl⟩)]
  rfl

theorem mmaWord_valid (valid : none ∉ List.zipWith mulVals xs ys) : mmaWord old xs ys =
    (sumVals 0 (fdecode .f32 old :: (List.zipWith mulVals xs ys).filterMap id)).elim (0x7FC00000, flagInvalid) (fencode .f32 0 0) := by
  have all : ¬ (List.zipWith mulVals xs ys).any (fun p => p.isNone) = true := by
    rw [List.any_eq_true]
    rintro ⟨p, mem, isNone⟩
    exact valid (Option.isNone_iff_eq_none.mp isNone ▸ mem)
  rw [mmaWord, if_neg (by rwa [List.any_eq_true]), if_neg all]
  generalize sumVals 0 _ = sum
  cases sum <;> rfl

end

/-- The model's mma_word is the rule's (R131). -/
theorem mmaWord_is (old : Nat) (xs ys : List FVal) : MmaWordIs old xs ys (mmaWord old xs ys) := by
  refine ⟨mmaWord_nan, fun numbers clash => ?_, fun numbers clear s infinite => ?_, fun numbers clear noNeg noPos => ?_⟩
  · by_cases valid : none ∈ List.zipWith mulVals xs ys
    · exact mmaWord_invalid numbers valid
    · obtain ⟨neg, pos⟩ := clash.resolve_left valid
      rw [mmaWord_valid numbers valid, sumVals_eq, if_pos pos, if_pos neg, Option.elim_none]
  · obtain ⟨valid, one⟩ := not_or.mp clear
    rw [mmaWord_valid numbers valid, sumVals_eq]
    cases s with
    | true =>
      rw [if_neg (fun pos => one ⟨infinite, pos⟩), if_pos infinite, Option.elim_some]
      rfl
    | false =>
      rw [if_pos infinite, if_neg (fun neg => one ⟨neg, infinite⟩), Option.elim_some]
      rfl
  · obtain ⟨valid, -⟩ := not_or.mp clear
    have quiet (v : FVal) (mem : v ∈ fdecode .f32 old :: (xs ++ ys)) : v.isNan = false := by
      simpa using fun nan => numbers ⟨v, mem, nan⟩
    have bounded (s : Bool) : FVal.inf s ∉ fdecode .f32 old :: (List.zipWith mulVals xs ys).filterMap id := by
      cases s
      · exact noPos
      · exact noNeg
    obtain ⟨finite, sum⟩ := products_finite (fun v mem => quiet v (by simp [mem])) (fun v mem => quiet v (by simp [mem])) valid
      (fun s mem => bounded s (List.mem_cons_of_mem _ mem))
    have start : (fdecode .f32 old).finite :=
      FVal.finite_iff.mpr ⟨quiet _ List.mem_cons_self, fun s eq => bounded s (eq ▸ List.mem_cons_self)⟩
    have rounded := fencode_sum (List.forall_mem_cons.mpr ⟨start, finite⟩)
    rw [List.map_cons, List.sum_cons, sum] at rounded
    rw [mmaWord_valid numbers valid, sumVals_eq, if_neg noPos, if_neg noNeg]
    exact rounded

end Sys2Proof.Machine
end

section
/-! All words of a product (R129, R131): word 32i + j is that of row i and column j. -/

namespace Sys2Proof.Machine

/-! ### Rows of words -/

theorem flatMap_rows {α : Type} (f : Nat → Nat → α) (rows n : Nat) :
    (List.range rows).flatMap (fun i => (List.range n).map (f i)) = (List.range (rows * n)).map (fun k => f (k / n) (k % n)) := by
  induction rows with
  | zero => simp
  | succ rows ih =>
    rw [List.range_succ, List.flatMap_append, ih, Nat.succ_mul, List.range_add, List.map_append, List.flatMap_singleton, List.map_map]
    refine congrArg _ (List.map_congr_left fun j mem => ?_)
    obtain ⟨quotient, remainder⟩ := element_of_bit (i := rows) (List.mem_range.mp mem)
    rw [Function.comp_apply, Nat.mul_comm, quotient, remainder]

theorem mapIdx_eq_map_range {α β : Type} (l : List α) (default : α) (f : Nat → α → β) :
    l.mapIdx f = (List.range l.length).map (fun i => f i (l.getD i default)) := by
  refine List.ext_getElem (by simp) fun i h _ => ?_
  rw [List.length_mapIdx] at h
  simp [h]

/-! ### The words of a product -/

/-- The word of row i and column j, with its flags. -/
def Pair.cell (p : Pair) (old : AccWords) (rows columns : List (List FVal)) (i j : Nat) : Nat × Flags :=
  let c := (lane old (32 * i + j) 32).toNat
  if p.a = .s8 then mmaInt c (rows.getD i []) (columns.getD j []) else mmaWord c (rows.getD i []) (columns.getD j [])

theorem Pair.cell_lt (p : Pair) (old : AccWords) (rows columns : List (List FVal)) (i j : Nat) : (p.cell old rows columns i j).1 < 2 ^ 32 := by
  unfold Pair.cell
  dsimp only
  split
  · exact wrapInt_lt ..
  · exact mmaWord_lt ..

/-- The words of a product in order. -/
def Pair.cells (p : Pair) (old : AccWords) (rows columns : List (List FVal)) : List (Nat × Flags) :=
  (List.range 1024).map (fun k => p.cell old rows columns (k / 32) (k % 32))

section
variable {rows columns : List (List FVal)} (hr : rows.length = 32) (hc : columns.length = 32)
include hr hc

theorem Pair.product_eq (p : Pair) (old : AccWords) : p.product old rows columns =
    (BitVec.ofNat 32768 ((p.cells old rows columns).foldr (fun w n => w.1 + 2 ^ 32 * n) 0),
      (p.cells old rows columns).foldl (fun f w => f ||| w.2) 0) := by
  have words : (rows.mapIdx (fun r xs => columns.mapIdx (fun j ys =>
      let c := (lane old (32 * r + j) 32).toNat
      if p.a = .s8 then mmaInt c xs ys else mmaWord c xs ys))).flatMap id = p.cells old rows columns := by
    simp only [mapIdx_eq_map_range _ ([] : List FVal), hr, hc, List.flatMap_map]
    exact flatMap_rows (p.cell old rows columns) 32 32
  rw [Pair.product, words]

end

/-- The word of MMA.s8: the sum modulo 2^32. -/
theorem mmaInt_eq (old : Nat) (xs ys : List FVal) : mmaInt old xs ys =
    ((((old : Int) + (List.zipWith (fun (x y : FVal) => x.toInteger * y.toInteger) xs ys).sum) % 2 ^ 32).toNat, 0) := by
  have sum := foldl_add_eq_sum id (List.zipWith (fun x y => FVal.toInteger x * FVal.toInteger y) xs ys) old
  rw [List.map_id] at sum
  rw [mmaInt, wrapInt, ← sum]
  rfl

/-- Settles O50: the words are those of `Pair.cell`, each fits its place, and each is the rule's. -/
theorem productsAreExactAndRoundedOnce : Obligations.ProductsAreExactAndRoundedOnce := by
  intro p old rows columns hr hc
  rw [p.product_eq hr hc old]
  have place {i j : Nat} (hi : i < 32) (hj : j < 32) : (p.cells old rows columns).getD (32 * i + j) (0, 0) = p.cell old rows columns i j := by
    obtain ⟨quotient, remainder⟩ := element_of_bit (i := i) hj
    rw [Pair.cells, List.getD_eq_getElem?_getD, List.getElem?_map, List.getElem?_range (by omega), Option.map_some, Option.getD_some, quotient,
      remainder]
  refine ⟨p.cell old rows columns, fun i j hi hj => ⟨fun integer => ?_, fun float => ?_⟩, fun i j hi hj => ?_, fun b => ?_⟩
  · rw [Pair.cell, if_pos integer, mmaInt_eq]
  · rw [Pair.cell, if_neg float]
    exact mmaWord_is ..
  · have small : ∀ x ∈ p.cells old rows columns, x.1 < 2 ^ 32 := by
      simpa [Pair.cells] using fun k _ => p.cell_lt old rows columns (k / 32) (k % 32)
    rw [lane_of_packed small (by omega), place hi hj]
  · have zero : (0 : Flags).getLsbD b = false := BitVec.getLsbD_zero
    rw [getLsbD_foldl_flags, zero, Bool.false_or, Pair.cells, ← flatMap_rows _ 32 32, List.any_flatMap]
    simp only [List.any_map]
    rfl

end Sys2Proof.Machine
end

section
/-! The matrix unit's claim and latches (R124, R125, R133), and what an instruction of the A slot comes to by its effect (R41). -/

namespace Sys2Proof.Machine

/-! ### A core written -/

@[simp] theorem State.core_modCore_same (s : State) (k : Nat) (f : Core → Core) : (s.modCore k f).core k = f (s.core k) :=
  State.core_setCore_same ..
@[simp] theorem State.modCore_me (s : State) (k : Nat) (f : Core → Core) : (s.modCore k f).me = s.me := rfl

theorem State.modCore_modCore (s : State) (k : Nat) (f g : Core → Core) : (s.modCore k f).modCore k g = s.modCore k (fun c => g (f c)) := by
  rw [State.modCore, State.core_modCore_same, State.modCore, State.setCore_setCore]
  rfl

theorem State.mem_push (s : State) (e : Event) : e ∈ (s.push e).agenda := List.mem_append_right _ (List.mem_singleton_self e)

/-! ### An instruction of the A slot alone -/

section
variable {s t : State} {i : Instr} (stands : standsInA i = true) (ready : s.ready i = true)
include stands ready

theorem exec_slotA_ok (effect : slotOp i s s = .ok t none) : exec i s = .next (t.finish false) := by
  rw [exec_slotA stands ready, effect]
  rfl

theorem exec_slotA_wait (effect : slotOp i s s = .wait t) : exec i s = .next t.block := by
  rw [exec_slotA stands ready, effect]
  rfl

theorem exec_slotA_trap {c : Cause} {a : Word} (effect : slotOp i s s = .trap c 0 a) :
    exec i s = .next (s.forgetAbsent.trapHere true false c 0 a) := by
  rw [exec_slotA stands ready, effect]
  rfl

end

/-! ### The claim -/

theorem Core.claimedBy_claim (c : Core) (h : Nat) : (c.claimedBy h).claim = some h := by
  unfold Core.claimedBy
  split
  case isTrue held => exact held
  case isFalse => rfl

theorem Core.claimedBy_of_claim {c : Core} {h : Nat} (held : c.claim = some h) : c.claimedBy h = c := if_pos held

/-- A claim changes nothing of the core but its matrix unit. -/
theorem Core.claimedBy_eq (c : Core) (h : Nat) : c.claimedBy h = { c with
    claim := (c.claimedBy h).claim, acc := (c.claimedBy h).acc, bl := (c.claimedBy h).bl } := by
  unfold Core.claimedBy
  split <;> rfl

@[simp] theorem Core.claimedBy_mma (c : Core) (h : Nat) : (c.claimedBy h).mma = c.mma := by rw [Core.claimedBy_eq]
@[simp] theorem Core.claimedBy_loc (c : Core) (h : Nat) : (c.claimedBy h).loc = c.loc := by rw [Core.claimedBy_eq]
@[simp] theorem Core.claimedBy_queue (c : Core) (h k : Nat) : (c.claimedBy h).queue k = c.queue k := by rw [Core.claimedBy_eq]; rfl
@[simp] theorem Core.claimedBy_localByte (c : Core) (h o : Nat) : (c.claimedBy h).localByte o = c.localByte o := by
  rw [Core.localByte, Core.claimedBy_loc, Core.localByte]
@[simp] theorem Core.claimedBy_accBusy (c : Core) (h : Nat) (n : BitVec 2) : (c.claimedBy h).accBusy n = c.accBusy n := by
  rw [Core.accBusy, Core.claimedBy_mma, Core.accBusy]

theorem State.claimUnit_eq (s : State) (h : Nat) : s.claimUnit h = s.modCore (coreOf h) (fun c => c.claimedBy h) := rfl

@[simp] theorem State.core_claimUnit (s : State) (h : Nat) : (s.claimUnit h).core (coreOf h) = (s.core (coreOf h)).claimedBy h :=
  State.core_modCore_same ..

@[simp] theorem State.claimUnit_cur (s : State) (h : Nat) : (s.claimUnit h).cur = s.cur := rfl
@[simp] theorem State.claimUnit_me (s : State) (h : Nat) : (s.claimUnit h).me = s.me := rfl

theorem State.unitFree_of_claim {s : State} {h : Nat} (held : (s.core (coreOf h)).claim = some h) : s.unitFree h = true := by
  simp [State.unitFree, held]

section
variable {s : State} {f : State → Eff}

theorem withUnit_free (free : s.unitFree s.cur = true) : withUnit s s f = f (s.claimUnit s.cur) := if_pos free

theorem withUnit_taken (taken : s.unitFree s.cur = false) : withUnit s s f = .wait s := if_neg (by simp [taken])

end

/-! ### Latches -/

@[simp] theorem Core.latch_setLatch_same (c : Core) (l : Bool) (x : Latch) : (c.setLatch l x).latch l = x := by
  cases l <;> simp [Core.latch, Core.setLatch]

@[simp] theorem Core.latch_setLatch_other (c : Core) (l : Bool) (x : Latch) : (c.setLatch l x).latch (!l) = c.latch (!l) := by
  cases l <;> simp [Core.latch, Core.setLatch]

@[simp] theorem Core.setLatch_queue (c : Core) (l : Bool) (x : Latch) (k : Nat) : (c.setLatch l x).queue k = c.queue k := rfl

/-- A core whose latch l is opened where it was CLOSED (R133). -/
def Core.opening (c : Core) (l : Bool) : Core := if (c.latch l).st = .closed then c.setLatch l { c.latch l with st := .opened } else c

theorem Core.opening_claim (c : Core) (l : Bool) : (c.opening l).claim = c.claim := by unfold Core.opening; split <;> rfl
theorem Core.opening_acc (c : Core) (l : Bool) : (c.opening l).acc = c.acc := by unfold Core.opening; split <;> rfl

theorem Core.opening_st (c : Core) (l : Bool) :
    ((c.opening l).latch l).st = if (c.latch l).st = .closed then .opened else (c.latch l).st := by
  unfold Core.opening
  split
  · rw [Core.latch_setLatch_same]
  · rfl

theorem State.core_openLatch (s : State) (cid : Nat) (l : Bool) : (s.openLatch cid l).core cid = (s.core cid).opening l := by
  unfold State.openLatch Core.opening
  dsimp only
  split
  · split <;> exact State.core_setCore_same ..
  · rfl

theorem State.core_noteOpened (s pre : State) (l : Bool) (c : Nat) : (s.noteOpened pre l).core c = s.core c := by
  unfold State.noteOpened
  dsimp only
  split <;> rfl

/-- The state in which a bundle waits for latch l with the unit its hart's: the latch is opened, and who opened it is noted. -/
def State.openedFor (s : State) (l : Bool) : State := ((s.claimUnit s.cur).openLatch (coreOf s.cur) l).noteOpened s l

theorem State.core_openedFor (s : State) (l : Bool) :
    (s.openedFor l).core (coreOf s.cur) = ((s.core (coreOf s.cur)).claimedBy s.cur).opening l := by
  rw [State.openedFor, State.core_noteOpened, State.core_openLatch, State.core_claimUnit]

section
variable {s : State} {l : Bool} {f : State → Eff}

theorem withFull_taken (taken : s.unitFree s.cur = false) : withFull s s l f = .wait s := withUnit_taken taken

theorem withFull_full (free : s.unitFree s.cur = true) (full : (((s.core (coreOf s.cur)).claimedBy s.cur).latch l).st = .full) :
    withFull s s l f = f (s.claimUnit s.cur) := by
  rw [withFull, withUnit_free free, State.core_claimUnit, if_pos full]

theorem withFull_waits (free : s.unitFree s.cur = true) (notFull : (((s.core (coreOf s.cur)).claimedBy s.cur).latch l).st ≠ .full) :
    withFull s s l f = .wait (s.openedFor l) := by
  rw [withFull, withUnit_free free, State.core_claimUnit, if_neg notFull]
  rfl

/-- With the claim and the latch FULL there is nothing to wait for. -/
theorem withFull_mine (mine : (s.core (coreOf s.cur)).claim = some s.cur) (full : ((s.core (coreOf s.cur)).latch l).st = .full) :
    withFull s s l f = f (s.claimUnit s.cur) :=
  withFull_full (State.unitFree_of_claim mine) (by rwa [Core.claimedBy_of_claim mine])

end

/-- Latches at claim are CLOSED: one that is FULL as the claim stands was FULL under the hart's own claim. -/
theorem Core.mine_of_full {c : Core} {h : Nat} {l : Bool} (full : ((c.claimedBy h).latch l).st = .full) :
    c.claim = some h ∧ (c.latch l).st = .full := by
  by_cases held : c.claim = some h
  · exact ⟨held, by rwa [Core.claimedBy_of_claim held] at full⟩
  · rw [Core.claimedBy, if_neg held] at full
    cases l <;> cases full

/-! ### Earlier accesses, and the record of bytes out of range -/

theorem Hart.accessesDone_iff {x : Hart} : x.accessesDone = true ↔ x.loads = [] ∧ x.stores = [] := by
  simp [Hart.accessesDone]

@[simp] theorem State.recordRange_core (s : State) (h : Nat) (runs : List (Nat × Nat)) (write : Bool) (c : Nat) :
    (s.recordRange h runs write).core c = s.core c := by
  unfold State.recordRange
  split <;> rfl

/-- The record of an access out of range stands in two registers of the hart (R205). -/
theorem State.me_recordRange (s : State) (runs : List (Nat × Nat)) (write : Bool) :
    ∃ flag addr, (s.recordRange s.cur runs write).me = { s.me with lmflag := flag, lmaddr := addr } := by
  unfold State.recordRange
  split
  case h_1 o _ =>
    have me : (s.outOfRange s.cur o write).me = if bit s.me.lmflag 0 then s.me
        else { s.me with lmflag := if write then 3 else 1, lmaddr := word (localBase + o) } := State.hart_setHart_same ..
    rw [me]
    split
    · exact ⟨s.me.lmflag, s.me.lmaddr, rfl⟩
    · exact ⟨_, _, rfl⟩
  case h_2 => exact ⟨s.me.lmflag, s.me.lmaddr, rfl⟩

end Sys2Proof.Machine
end

section
/-! The MMA instructions (R127 to R129, R133, R135). -/

namespace Sys2Proof.Machine

theorem slotOp_of_mmaShape {i : Instr} {p : Pair} {acc : BitVec 2} {ga : BitVec 5} {l b : BitVec 1} {st : BitVec 6}
    (rule : mmaShape i = some (p, acc, ga, l, b, st)) (pre cur : State) :
    standsInA i = true ∧ slotOp i pre cur = mma p acc ga l b st pre cur := by
  unfold mmaShape at rule
  split at rule <;> cases rule <;> exact ⟨rfl, rfl⟩

/-- The runs of the 32 rows of A: where each begins, and its bytes (R128). -/
def Pair.rowRuns (p : Pair) (base : Nat) (st : BitVec 6) : List (Nat × Nat) :=
  (List.range 32).map (fun r => (base + r * (16 * (st.toNat + 1)), p.rowBytes))

/-- The lowest byte of a row that lies outside the window. -/
def Pair.rowsOutside (p : Pair) (base : Nat) (st : BitVec 6) : Option Nat :=
  ((p.rowRuns base st).filterMap (fun r => outsideWindow r.1 r.2)).min?

/-- The product of an MMA, from its rows, its latch and its old accumulator. -/
def Core.productOf (c : Core) (p : Pair) (acc : BitVec 2) (base : Nat) (l b : Bool) (st : BitVec 6) : AccWords × Flags :=
  p.product (c.acc.toList.getD acc.toNat 0) ((p.rowRuns base st).map (fun r => p.rowValues (c.bankOf b) (c.stream r.1 r.2)))
    (p.columnValues (c.latch l).data)

/-- The job of an MMA of hart h (R135). -/
def Core.mmaJob (c : Core) (h : Nat) (p : Pair) (acc : BitVec 2) (base : Nat) (l b : Bool) (st : BitVec 6) : MmaJob :=
  ⟨h, acc, l, if p.a = .cb2 then some b else none, (c.productOf p acc base l b st).1, (c.productOf p acc base l b st).2⟩

/-- Nothing under way holds an MMA of this pair back (R133, R135, R143). -/
def State.mmaClear (s : State) (p : Pair) (b : Bool) : Prop :=
  (s.core (coreOf s.cur)).mma = none ∧ s.me.loads = [] ∧ s.me.stores = [] ∧ (p.a = .cb2 → (s.core (coreOf s.cur)).bankLoading b = false)

theorem State.not_mmaClear_iff {s : State} {p : Pair} {b : Bool} : ¬ s.mmaClear p b ↔
    ((s.core (coreOf s.cur)).mma.isSome || !s.me.accessesDone || (p.a = .cb2 && (s.core (coreOf s.cur)).bankLoading b)) = true := by
  rw [State.mmaClear, ← and_assoc (a := s.me.loads = []), ← Hart.accessesDone_iff]
  cases (s.core (coreOf s.cur)).mma <;> cases s.me.accessesDone <;> simp

/-- The state with an MMA of these rows issued: its accesses out of range recorded, its job under way and its completion due. -/
def State.withMma (s : State) (runs : List (Nat × Nat)) (j : MmaJob) : State :=
  ((s.recordRange s.cur runs false).modCore (coreOf s.cur) (fun c => { c with mma := some j })).push (.mmaComplete (coreOf s.cur))

theorem State.core_withMma (s : State) (runs : List (Nat × Nat)) (j : MmaJob) :
    (s.withMma runs j).core (coreOf s.cur) = { s.core (coreOf s.cur) with mma := some j } := by
  rw [State.withMma, State.push_core, State.core_modCore_same, State.recordRange_core]

theorem State.me_withMma (s : State) (runs : List (Nat × Nat)) (j : MmaJob) :
    ∃ flag addr, (s.withMma runs j).me = { s.me with lmflag := flag, lmaddr := addr } :=
  s.me_recordRange runs false

section
variable {s : State} {p : Pair} {acc : BitVec 2} {ga : BitVec 5} {l b : BitVec 1} {st : BitVec 6}

theorem mma_outside {a : Nat} (outside : p.rowsOutside (s.me.getG ga).toNat st = some a) :
    mma p acc ga l b st s s = .trap .protection 0 (word a) := by
  unfold Pair.rowsOutside Pair.rowRuns at outside
  simp only [mma, outside]

section
variable (inside : p.rowsOutside (s.me.getG ga).toNat st = none)
include inside

theorem mma_taken (taken : s.unitFree s.cur = false) : mma p acc ga l b st s s = .wait s := by
  unfold Pair.rowsOutside Pair.rowRuns at inside
  simp only [mma, inside, withFull_taken taken]

theorem mma_unfilled (free : s.unitFree s.cur = true) (notFull : (((s.core (coreOf s.cur)).claimedBy s.cur).latch (l == 1)).st ≠ .full) :
    mma p acc ga l b st s s = .wait (s.openedFor (l == 1)) := by
  unfold Pair.rowsOutside Pair.rowRuns at inside
  simp only [mma, inside, withFull_waits free notFull]

variable (mine : (s.core (coreOf s.cur)).claim = some s.cur) (full : ((s.core (coreOf s.cur)).latch (l == 1)).st = .full)
include mine full

theorem mma_held (held : ¬ s.mmaClear p (b == 1)) : mma p acc ga l b st s s = .wait s := by
  unfold Pair.rowsOutside Pair.rowRuns at inside
  simp only [mma, inside, withFull_mine mine full, State.core_claimUnit, Core.claimedBy_of_claim mine]
  rw [if_pos (State.not_mmaClear_iff.mp held)]

theorem mma_starts (clear : s.mmaClear p (b == 1)) : mma p acc ga l b st s s =
    .ok ((s.claimUnit s.cur).withMma (p.rowRuns (s.me.getG ga).toNat st)
      ((s.core (coreOf s.cur)).mmaJob s.cur p acc (s.me.getG ga).toNat (l == 1) (b == 1) st)) none := by
  unfold Pair.rowsOutside Pair.rowRuns at inside
  simp only [mma, inside, withFull_mine mine full, State.core_claimUnit, Core.claimedBy_of_claim mine]
  rw [if_neg (fun held => State.not_mmaClear_iff.mpr held clear)]
  rfl

end
end

/-- Settles O49: the checks in their order, each by what `mma` comes to there; with nothing in its way the MMA changes only its job. -/
theorem mmaStartsItsProduct : Obligations.MmaStartsItsProduct := by
  intro s i p acc ga l b st rule ready
  obtain ⟨stands, effect⟩ := slotOp_of_mmaShape rule s s
  refine ⟨fun a outside => ?_, fun inside taken => ?_, fun inside free notMine => ?_, fun mine busy => ?_, fun mine clear => ?_⟩
  · exact exec_slotA_trap stands ready (effect.trans (mma_outside outside))
  · exact exec_slotA_wait stands ready (effect.trans (mma_taken inside taken))
  · have notFull : (((s.core (coreOf s.cur)).claimedBy s.cur).latch (l == 1)).st ≠ .full := fun full => notMine (Core.mine_of_full full)
    refine ⟨_, exec_slotA_wait stands ready (effect.trans (mma_unfilled inside free notFull)), ?_⟩
    rw [State.core_openedFor, Core.opening_claim, Core.opening_st]
    refine ⟨Core.claimedBy_claim .., ?_⟩
    split
    case isTrue => exact ⟨by decide, by decide⟩
    case isFalse notClosed => exact ⟨notClosed, notFull⟩
  · obtain ⟨inside, held, full⟩ := mine
    rw [← Core.bankLoading_eq] at busy
    exact ⟨s, exec_slotA_wait stands ready (effect.trans (mma_held inside held full busy)), fun c => rfl, rfl, rfl, rfl, rfl, rfl, rfl, rfl, rfl,
      rfl, rfl, rfl⟩
  · obtain ⟨inside, held, full⟩ := mine
    rw [← Core.bankLoading_eq] at clear
    refine ⟨_, exec_slotA_ok stands ready (effect.trans (mma_starts inside held full clear)), ?_⟩
    have core := (s.claimUnit s.cur).core_withMma (p.rowRuns (s.me.getG ga).toNat st)
      ((s.core (coreOf s.cur)).mmaJob s.cur p acc (s.me.getG ga).toNat (l == 1) (b == 1) st)
    obtain ⟨flag, addr, me⟩ := (s.claimUnit s.cur).me_withMma (p.rowRuns (s.me.getG ga).toNat st)
      ((s.core (coreOf s.cur)).mmaJob s.cur p acc (s.me.getG ga).toNat (l == 1) (b == 1) st)
    rw [State.claimUnit_cur, State.core_claimUnit, Core.claimedBy_of_claim held] at core
    rw [core, me]
    refine ⟨?_, State.mem_push .., rfl, rfl, rfl, rfl, rfl, rfl⟩
    rw [Core.mmaJob, Core.productOf, Core.bankOf_eq]
    rfl

end Sys2Proof.Machine
end

section
/-! MZERO, MST and MLD (R136 to R138). -/

namespace Sys2Proof.Machine

/-! ### MZERO -/

section
variable {s : State} {acc : BitVec 2}

theorem slotMzero_taken (taken : s.unitFree s.cur = false) : slotMzero acc s s = .wait s := withUnit_taken taken

theorem slotMzero_idle (free : s.unitFree s.cur = true) (idle : (s.core (coreOf s.cur)).accBusy acc = false) :
    slotMzero acc s s = .ok (s.modCore (coreOf s.cur) (fun c => (c.claimedBy s.cur).setAcc acc 0)) none := by
  rw [slotMzero, withUnit_free free, State.core_claimUnit, Core.claimedBy_accBusy, idle, State.claimUnit_eq, State.modCore_modCore]
  rfl

end

/-! ### MST -/

/-- The elements that MST makes of the words of an accumulator, with their flags and the generator after their draws (R137). -/
def Core.mstElems (c : Core) (acc : BitVec 2) (t : Ty) (rm : BitVec 3) (rng : Word) : List Nat × Flags × Word :=
  runElems (fun k dr =>
    let x := (lane (c.acc.toList.getD acc.toNat 0) k 32).toNat
    if t = .s32 then (x, 0) else if t.isFloat then convert t rm dr (fdecode .f32 x) else clampInt t (intOf .s32 x))
    (t.isFloat && rmDraws rm) 1024 0 rng

theorem Core.length_mstElems (c : Core) (acc : BitVec 2) (t : Ty) (rm : BitVec 3) (rng : Word) : (c.mstElems acc t rm rng).1.length = 1024 := by
  rw [Core.mstElems, runElems_val, List.length_map, List.length_range]

/-- The state with a stream of bytes stored from the window's address `base` up, its flags raised and its draws made. -/
def State.withStream (s : State) (base n : Nat) (bytes : List Byte) (fl : Flags) (rng : Word) : State :=
  ((s.recordRange s.cur [(base, n)] true).modCore (coreOf s.cur) (fun c => c.localWrite (base - localBase) bytes)).modMe
    (fun h => h.settle s.me.rng ⟨0, fl, rng⟩)

theorem State.core_withStream (s : State) (base n : Nat) (bytes : List Byte) (fl : Flags) (rng : Word) :
    (s.withStream base n bytes fl rng).core (coreOf s.cur) = (s.core (coreOf s.cur)).localWrite (base - localBase) bytes := by
  rw [State.withStream, State.modMe_core, State.core_modCore_same, State.recordRange_core]

theorem State.me_withStream (s : State) (base n : Nat) (bytes : List Byte) (fl : Flags) (rng : Word) : ∃ flag addr,
    (s.withStream base n bytes fl rng).me = { s.me with fflags := s.me.fflags ||| fl.setWidth 64, rng := rng, lmflag := flag, lmaddr := addr } := by
  obtain ⟨flag, addr, me⟩ := s.me_recordRange [(base, n)] true
  refine ⟨flag, addr, ?_⟩
  rw [State.withStream, State.me_modMe, State.modCore_me, me, Hart.settle]
  by_cases drawn : rng = s.me.rng
  · simp only [drawn, if_true]
    rfl
  · simp only [drawn, if_false]
    rfl

@[simp] theorem Core.localWrite_claim (c : Core) (a : Nat) (bs : List Byte) : (c.localWrite a bs).claim = c.claim := rfl
@[simp] theorem Core.localWrite_acc (c : Core) (a : Nat) (bs : List Byte) : (c.localWrite a bs).acc = c.acc := rfl
@[simp] theorem Core.localWrite_bl (c : Core) (a : Nat) (bs : List Byte) : (c.localWrite a bs).bl = c.bl := rfl

section
variable {s : State} {acc : BitVec 2} {ga : BitVec 5} {ty : BitVec 4} {rm : BitVec 3}

theorem slotMst_outside {a : Nat} (outside : outsideWindow (s.me.getG ga).toNat (128 * (Ty.of ty).width) = some a) :
    slotMst acc ga ty rm s s = .trap .protection 0 (word a) := by
  simp only [slotMst, outside]

theorem slotOp_mst : slotOp (.mst acc ga ty rm) s s = slotMst acc ga ty rm s s := rfl

variable (inside : outsideWindow (s.me.getG ga).toNat (128 * (Ty.of ty).width) = none)
include inside

theorem slotMst_taken (taken : s.unitFree s.cur = false) : slotMst acc ga ty rm s s = .wait s := by
  simp only [slotMst, inside, withUnit_taken taken]

theorem slotMst_stores (free : s.unitFree s.cur = true) (idle : (s.core (coreOf s.cur)).accBusy acc = false)
    (released : s.me.storeHeld true = false) :
    let words := ((s.core (coreOf s.cur)).claimedBy s.cur).mstElems acc (Ty.of ty) rm s.me.rng
    slotMst acc ga ty rm s s = .ok ((s.claimUnit s.cur).withStream (s.me.getG ga).toNat (128 * (Ty.of ty).width)
      (streamBytes (Ty.of ty).width words.1) words.2.1 words.2.2) none := by
  simp only [slotMst, inside, withUnit_free free, State.core_claimUnit, Core.claimedBy_accBusy, idle, released, idecode_eq_intOf, Bool.or_self,
    Bool.false_eq_true, if_false, State.withStream, Core.mstElems, State.claimUnit_cur, State.claimUnit_me]

end

/-! ### MLD -/

/-- The words that MLD makes of the bytes at `base` (R138). -/
def Core.mldElems (c : Core) (t : Ty) (base : Nat) : List (Nat × Flags) :=
  (List.range 1024).map (fun k => mldWord t (streamElem (ofBytes (c.stream base (128 * t.width))) t.width k))

theorem streamElem_lt (n w k : Nat) : streamElem n w k < 2 ^ w := Nat.mod_lt _ (Nat.two_pow_pos w)

theorem Core.mldElems_lt (c : Core) (t : Ty) (base : Nat) : ∀ x ∈ c.mldElems t base, x.1 < 2 ^ 32 := by
  simpa [Core.mldElems] using fun k _ => mldWord_lt (t := t) (streamElem_lt (ofBytes (c.stream base (128 * t.width))) t.width k)

theorem Core.getD_mldElems (c : Core) (t : Ty) (base : Nat) {k : Nat} (h : k < 1024) :
    (c.mldElems t base).getD k (0, 0) = mldWord t (streamElem (ofBytes (c.stream base (128 * t.width))) t.width k) := by
  rw [Core.mldElems, List.getD_eq_getElem?_getD, List.getElem?_map, List.getElem?_range h, Option.map_some, Option.getD_some]

/-- The accumulator of those words. -/
def packWords (ws : List (Nat × Flags)) : AccWords := BitVec.ofNat 32768 (ws.foldr (fun w m => w.1 + 2 ^ 32 * m) 0)

/-- The state with an accumulator loaded from the window's address `base`, and the flags of its words raised. -/
def State.withAcc (s : State) (base n : Nat) (acc : BitVec 2) (ws : List (Nat × Flags)) : State :=
  ((s.recordRange s.cur [(base, n)] false).modCore (coreOf s.cur) (fun c => c.setAcc acc (packWords ws))).modMe
    (fun h => h.raise (ws.foldl (fun f w => f ||| w.2) 0))

theorem State.core_withAcc (s : State) (base n : Nat) (acc : BitVec 2) (ws : List (Nat × Flags)) :
    (s.withAcc base n acc ws).core (coreOf s.cur) = (s.core (coreOf s.cur)).setAcc acc (packWords ws) := by
  rw [State.withAcc, State.modMe_core, State.core_modCore_same, State.recordRange_core]

theorem State.me_withAcc (s : State) (base n : Nat) (acc : BitVec 2) (ws : List (Nat × Flags)) : ∃ flag addr, (s.withAcc base n acc ws).me =
    { s.me with fflags := s.me.fflags ||| (ws.foldl (fun (f : Flags) w => f ||| w.2) 0).setWidth 64, lmflag := flag, lmaddr := addr } := by
  obtain ⟨flag, addr, me⟩ := s.me_recordRange [(base, n)] false
  refine ⟨flag, addr, ?_⟩
  rw [State.withAcc, State.me_modMe, State.modCore_me, me]
  rfl

theorem Core.getD_setAcc_same (c : Core) (acc : BitVec 2) (x : AccWords) : (c.setAcc acc x).acc.toList.getD acc.toNat 0 = x := by
  have := acc.isLt
  simp [Core.setAcc, List.getD_eq_getElem?_getD]

theorem Core.getD_setAcc_other (c : Core) (acc : BitVec 2) (x : AccWords) {m : Nat} (ne : m ≠ acc.toNat) :
    (c.setAcc acc x).acc.toList.getD m 0 = c.acc.toList.getD m 0 := by
  simp [Core.setAcc, List.getD_eq_getElem?_getD, ne.symm]

section
variable {s : State} {acc : BitVec 2} {ga : BitVec 5} {ty : BitVec 4}

theorem slotMld_outside {a : Nat} (outside : outsideWindow (s.me.getG ga).toNat (128 * (Ty.of ty).width) = some a) :
    slotMld acc ga ty s s = .trap .protection 0 (word a) := by
  simp only [slotMld, outside]

theorem slotOp_mld : slotOp (.mld acc ga ty) s s = slotMld acc ga ty s s := rfl

variable (inside : outsideWindow (s.me.getG ga).toNat (128 * (Ty.of ty).width) = none)
include inside

theorem slotMld_taken (taken : s.unitFree s.cur = false) : slotMld acc ga ty s s = .wait s := by
  simp only [slotMld, inside, withUnit_taken taken]

theorem slotMld_loads (free : s.unitFree s.cur = true) (idle : (s.core (coreOf s.cur)).accBusy acc = false) (done : s.me.accessesDone = true) :
    slotMld acc ga ty s s = .ok ((s.claimUnit s.cur).withAcc (s.me.getG ga).toNat (128 * (Ty.of ty).width) acc
      ((s.core (coreOf s.cur)).mldElems (Ty.of ty) (s.me.getG ga).toNat)) none := by
  simp only [slotMld, inside, withUnit_free free, State.core_claimUnit, Core.claimedBy_accBusy, idle, done, Bool.not_true, Bool.or_self,
    Bool.false_eq_true, if_false, State.withAcc, packWords, Core.mldElems, State.claimUnit_cur]

end

/-- Settles O51: each instruction by what it comes to; the bytes of MST by the write of its stream, the words of MLD by the place of each. -/
theorem accumulatorsClearStoreAndLoad : Obligations.AccumulatorsClearStoreAndLoad := by
  refine ⟨fun s acc ready => ⟨fun taken => ?_, fun free idle => ?_⟩,
    fun s acc ga ty rm ready => ⟨fun a outside => ?_, fun inside taken => ?_, fun inside free idle released => ?_⟩,
    fun s acc ga ty ready => ⟨fun a outside => ?_, fun inside taken => ?_, fun inside free idle loads stores => ?_⟩⟩
  · exact exec_slotA_wait rfl ready (slotMzero_taken taken)
  · exact exec_slotA_ok rfl ready (slotMzero_idle free idle)
  · exact exec_slotA_trap rfl ready (slotOp_mst.trans (slotMst_outside outside))
  · exact exec_slotA_wait rfl ready (slotOp_mst.trans (slotMst_taken inside taken))
  · let words := ((s.core (coreOf s.cur)).claimedBy s.cur).mstElems acc (Ty.of ty) rm s.me.rng
    have core := (s.claimUnit s.cur).core_withStream (s.me.getG ga).toNat (128 * (Ty.of ty).width) (streamBytes (Ty.of ty).width words.1)
      words.2.1 words.2.2
    obtain ⟨flag, addr, me⟩ := (s.claimUnit s.cur).me_withStream (s.me.getG ga).toNat (128 * (Ty.of ty).width)
      (streamBytes (Ty.of ty).width words.1) words.2.1 words.2.2
    have length : (streamBytes (Ty.of ty).width words.1).length = 128 * (Ty.of ty).width := by
      rw [streamBytes, length_toBytes, Core.length_mstElems]
      omega
    rw [State.claimUnit_cur, State.core_claimUnit] at core
    refine ⟨_, exec_slotA_ok rfl ready (slotOp_mst.trans (slotMst_stores inside free idle released)), fun o => ?_, ?_⟩
    · rw [core, Core.localByte_localWrite, length, Core.claimedBy_localByte]
      rfl
    · rw [core, me, Core.localWrite_claim, Core.localWrite_acc, Core.localWrite_bl, Core.claimedBy_claim, State.claimUnit_me]
      dsimp only [words, Core.mstElems]
      exact ⟨rfl, rfl, rfl, rfl, rfl, rfl, rfl⟩
  · exact exec_slotA_trap rfl ready (slotOp_mld.trans (slotMld_outside outside))
  · exact exec_slotA_wait rfl ready (slotOp_mld.trans (slotMld_taken inside taken))
  · let ws := (s.core (coreOf s.cur)).mldElems (Ty.of ty) (s.me.getG ga).toNat
    have core := (s.claimUnit s.cur).core_withAcc (s.me.getG ga).toNat (128 * (Ty.of ty).width) acc ws
    obtain ⟨flag, addr, me⟩ := (s.claimUnit s.cur).me_withAcc (s.me.getG ga).toNat (128 * (Ty.of ty).width) acc ws
    rw [State.claimUnit_cur, State.core_claimUnit] at core
    refine ⟨_, exec_slotA_ok rfl ready (slotMld_loads inside free idle (Hart.accessesDone_iff.mpr ⟨loads, stores⟩)), ?_⟩
    rw [core, me]
    refine ⟨Core.claimedBy_claim .., rfl, fun k hk => ?_, fun m _ ne => Core.getD_setAcc_other _ acc _ ne, Core.claimedBy_loc .., rfl, rfl⟩
    rw [Core.getD_setAcc_same, packWords, lane_of_packed ((s.core (coreOf s.cur)).mldElems_lt _ _) (by omega), Core.getD_mldElems _ _ _ hk]
    rfl

end Sys2Proof.Machine
end

section
/-! BLD, BPASS and BWAIT (R133, R134, R139 to R141). -/

namespace Sys2Proof.Machine

/-! ### A latch filled -/

theorem State.core_fillLatch (s : State) (cid : Nat) (l : Bool) (bytes : List Byte) : (s.fillLatch cid l bytes).core cid =
    (s.core cid).setLatch l { (s.core cid).latch l with st := .full, data := BitVec.ofNat 16384 (ofBytes bytes) } :=
  State.core_modCore_same ..

@[simp] theorem State.fillLatch_me (s : State) (cid : Nat) (l : Bool) (bytes : List Byte) : (s.fillLatch cid l bytes).me = s.me := rfl

/-! ### BLD from memory -/

section
variable {s : State} {ga : BitVec 5} {l : BitVec 1}

theorem slotBldMemory_outside {a : Nat} (outside : outsideWindow (s.me.getG ga).toNat 2048 = some a) :
    slotBldMemory ga l s s = .trap .protection 0 (word a) := by
  simp only [slotBldMemory, outside]

variable (inside : outsideWindow (s.me.getG ga).toNat 2048 = none)
include inside

theorem slotBldMemory_taken (taken : s.unitFree s.cur = false) : slotBldMemory ga l s s = .wait s := by
  simp only [slotBldMemory, inside, withUnit_taken taken]

variable (free : s.unitFree s.cur = true)
include free

theorem slotBldMemory_held
    (held : ((s.core (coreOf s.cur)).claimedBy s.cur).latchBusy (l == 1) = true ∨ s.me.loads ≠ [] ∨ s.me.stores ≠ []) :
    slotBldMemory ga l s s = .wait s := by
  have waits : (((s.core (coreOf s.cur)).claimedBy s.cur).latchBusy (l == 1) || !s.me.accessesDone) = true := by
    rw [← Classical.not_and_iff_not_or_not, ← Hart.accessesDone_iff] at held
    simpa using held
  simp only [slotBldMemory, inside, withUnit_free free, State.core_claimUnit, waits, if_true]

theorem slotBldMemory_fills (idle : ((s.core (coreOf s.cur)).claimedBy s.cur).latchBusy (l == 1) = false) (done : s.me.accessesDone = true) :
    slotBldMemory ga l s s = .ok (((s.claimUnit s.cur).recordRange s.cur [((s.me.getG ga).toNat, 2048)] false).fillLatch (coreOf s.cur) (l == 1)
      ((s.core (coreOf s.cur)).stream (s.me.getG ga).toNat 2048)) none := by
  simp only [slotBldMemory, inside, withUnit_free free, State.core_claimUnit, idle, done, Bool.not_true, Bool.or_self, Bool.false_eq_true, if_false]

end

/-! ### BLD from a queue -/

theorem Core.queue_setQueue_drop (c : Core) (k n : Nat) : (c.setQueue k ((c.queue k).drop n)).queue k = (c.queue k).drop n := by
  by_cases none : (c.queue k).drop n = []
  · rw [none, Core.setQueue, Core.queue]
    simp [find_drop_same]
  · exact Core.queue_setQueue_same c k none

theorem State.core_popQ (s : State) (h n count : Nat) : (s.popQ h n count).core (coreOf h) =
    (s.core (coreOf h)).setQueue (queueAt h n) (((s.core (coreOf h)).queue (queueAt h n)).drop count) :=
  State.core_modCore_same s (coreOf h) (fun c => c.setQueue (queueAt h n) ((c.queue (queueAt h n)).drop count))

section
variable {s : State} {q : BitVec 3} {l : BitVec 1}

theorem slotBldQueue_short (short : queueCap s (coreOf s.cur) (queueAt s.cur q.toNat) < 32) :
    slotBldQueue q l s s = .trap .queue 0 (word q.toNat) := by
  have number : zext q = word q.toNat := (BitVec.ofNat_toNat 64 q).symm
  simp only [slotBldQueue, if_pos short, number]

variable (room : 32 ≤ queueCap s (coreOf s.cur) (queueAt s.cur q.toNat))
include room

theorem slotBldQueue_taken (taken : s.unitFree s.cur = false) : slotBldQueue q l s s = .wait s := by
  simp only [slotBldQueue, if_neg (Nat.not_lt.mpr room), withUnit_taken taken]

variable (free : s.unitFree s.cur = true)
include free

theorem slotBldQueue_few (few : (((s.core (coreOf s.cur)).queue (queueAt s.cur q.toNat)).take 32).length < 32) :
    slotBldQueue q l s s = waitQueue s := by
  simp only [slotBldQueue, if_neg (Nat.not_lt.mpr room), withUnit_free free, if_pos few]

variable (entries : (((s.core (coreOf s.cur)).queue (queueAt s.cur q.toNat)).take 32).length = 32)
include entries

theorem slotBldQueue_held (held : ((s.core (coreOf s.cur)).claimedBy s.cur).latchBusy (l == 1) = true) : slotBldQueue q l s s = .wait s := by
  simp only [slotBldQueue, if_neg (Nat.not_lt.mpr room), withUnit_free free, entries, Nat.lt_irrefl, if_false, State.core_claimUnit, held, if_true]

theorem slotBldQueue_fills (idle : ((s.core (coreOf s.cur)).claimedBy s.cur).latchBusy (l == 1) = false) : slotBldQueue q l s s =
    .ok (((s.claimUnit s.cur).popQ s.cur q.toNat 32).fillLatch (coreOf s.cur) (l == 1)
      ((((s.core (coreOf s.cur)).queue (queueAt s.cur q.toNat)).take 32).flatMap (fun e => toBytes e 64))) none := by
  simp only [slotBldQueue, if_neg (Nat.not_lt.mpr room), withUnit_free free, entries, Nat.lt_irrefl, if_false, State.core_claimUnit, idle,
    Bool.false_eq_true]

end

/-! ### BPASS and BWAIT -/

/-- BPASS and BWAIT wait alike. -/
theorem slotOp_of_passOrWait {i : Instr} {l : BitVec 1} (which : i = .bpass l ∨ i = .bwait l) (s : State) :
    standsInA i = true ∧ ∃ f, slotOp i s s = withFull s s (l == 1) f := by
  rcases which with rfl | rfl
  · exact ⟨rfl, _, slotBpass.eq_1 ..⟩
  · exact ⟨rfl, _, slotBwait.eq_1 ..⟩

section
variable {s : State} {l : BitVec 1} (mine : (s.core (coreOf s.cur)).claim = some s.cur)
  (full : ((s.core (coreOf s.cur)).latch (l == 1)).st = .full)
include mine

/-- A claim that the hart has is no change. -/
theorem State.alike_claimUnit : s.alike (s.claimUnit s.cur) := by
  refine ⟨fun c => ?_, rfl, rfl, rfl, rfl, rfl, rfl, rfl, rfl, rfl, rfl, rfl⟩
  by_cases here : c = coreOf s.cur
  · rw [here, State.core_claimUnit, Core.claimedBy_of_claim mine]
  · exact State.core_setCore_other here ..

include full

theorem slotBwait_full : slotBwait l s s = .ok (s.claimUnit s.cur) none := withFull_mine mine full

theorem slotBpass_full : slotBpass l s s = .ok (((s.claimUnit s.cur).modCore (coreOf s.cur) (fun c =>
    c.setLatch (l == 1) { c.latch (l == 1) with st := .sending, pass := true })).push (.seamHandoffBegin (coreOf s.cur) (l == 1))) none :=
  withFull_mine mine full

end

end Sys2Proof.Machine
end

section
/-! CBLD (R142): a load into a bank, and what one from local memory comes to. -/

namespace Sys2Proof.Machine

/-! ### A checked access -/

theorem checked_pass {s : State} {k : Kind} {a n : Nat} (pass : s.plbCheck s.cur k a n = .pass) (unwatched : s.watchHit s.cur k [(a, n)] = none)
    (e : Eff) : checked s k [(a, n)] e = e := by
  have probed : s.checkProbes s.cur k ([(a, n)].flatMap (fun r => probes r.1 r.2)) = .pass := by
    rw [List.flatMap_singleton]
    exact pass
  rw [checked, probed, ExtCheck.eff, watched, unwatched]

/-! ### A load of local bytes -/

theorem zone_of_inLocal {a n k : Nat} (here : inLocal a n) (below : k < n) : zone (a + k) = .loc (a + k - localBase) := by
  obtain ⟨above, within⟩ := here
  have size : localBase + localSize ≤ 0x0100000000000000 := by decide
  rw [zone, if_neg (by omega), if_pos (by omega)]

/-- No entry of the near buffer serves a run that none meets. -/
theorem State.nearServes_clear {s : State} {h a n : Nat} (clear : (s.hart h).clearOf a n) (some : 0 < n) (pos acc : Nat) :
    s.nearServes h [⟨a, n, pos, acc⟩] = (s, []) := by
  have serves : (s.hart h).nearFor [⟨a, n, pos, acc⟩] = [] := by
    rw [Hart.nearFor, List.filter_eq_nil_iff]
    intro e mem
    have apart := clear e mem
    simp only [overlaps, decide_eq_false_iff_not] at apart
    simp
    omega
  simp [State.nearServes, List.eraseDups_cons, serves]

/-- The load of a local run, every byte of which is there. -/
def Core.localLoad (c : Core) (id a n : Nat) (dest : Dest) : PLoad :=
  ⟨id, dest, false, (List.range n).map (fun k => ⟨a + k, 0 + k, pieceOf 0 (a + k), some (c.localByte (a + k - localBase))⟩), none, [], false⟩

theorem Core.mem_localLoad {c : Core} {id a n : Nat} {dest : Dest} {w : Want} (here : inLocal a n) (mem : w ∈ (c.localLoad id a n dest).wants) :
    (∃ o, zone w.addr = .loc o ∧ o < localSize) ∧ w.val.isSome = true := by
  obtain ⟨k, below, rfl⟩ := List.mem_map.mp mem
  rw [List.mem_range] at below
  refine ⟨⟨_, zone_of_inLocal here below, ?_⟩, rfl⟩
  obtain ⟨above, within⟩ := here
  omega

theorem State.loadNow_bank_local {s : State} {h a n : Nat} (here : inLocal a n) (clear : (s.hart h).clearOf a n) (positive : 0 < n) (b : Bool) :
    s.loadNow h (.bank b) true false false [⟨a, n, 0, 0⟩] =
      s.fresh.bindLoad h ((s.core (coreOf h)).localLoad s.fresh.serial a n (.bank b)) := by
  have served := State.nearServes_clear clear positive 0 0
  have wants : (List.range n).map (fun k => (⟨a + k, 0 + k, pieceOf 0 (a + k), (s.core (coreOf h)).nearByte (a + k)⟩ : Want)) =
      ((s.core (coreOf h)).localLoad s.fresh.serial a n (.bank b)).wants :=
    List.map_congr_left fun k mem => by rw [Core.nearByte, zone_of_inLocal here (List.mem_range.mp mem)]
  have bytes : ((s.core (coreOf h)).localLoad s.fresh.serial a n (.bank b)).wants.all (fun w => w.val.isSome) = true :=
    List.all_eq_true.mpr fun w mem => (Core.mem_localLoad here mem).2
  have notMem : (zone a == .mem) = false := by
    rw [← Nat.add_zero a, zone_of_inLocal here positive]
    rfl
  simp only [State.loadNow, served, Bool.false_eq_true, if_false, Bool.and_true, Bool.and_false, if_true, find, List.flatMap_singleton, wants, bytes,
    Option.isNone_none, List.filter_cons, List.filter_nil, notMem, List.flatMap_nil, List.any_nil, List.foldl_nil]
  rw [List.filterMap_eq_nil_iff.mpr ?inRange]
  case inRange =>
    intro w mem
    obtain ⟨o, place, below⟩ := (Core.mem_localLoad here mem).1
    simp [place, below]
  rfl

/-! ### The bank is written -/

/-- A load into a bank that is not the wait of its bundle writes the bank at once. -/
theorem State.core_bindLoad_bank {s : State} {h : Nat} {l : PLoad} {b : Bool} (dest : l.dest = .bank b) (awake : (s.hart h).wait ≠ .bank b) :
    (s.bindLoad h l).core (coreOf h) = (s.core (coreOf h)).fillBank b (l.wants.map (fun w => w.val.getD 0)) := by
  have binds : s.keepsLoad h l = false := by simpa [State.keepsLoad, dest] using awake
  simp only [State.bindLoad, binds, Bool.false_eq_true, if_false, dest]
  exact State.core_modCore_same s (coreOf h) (fun c => c.fillBank b (l.wants.map (fun w => w.val.getD 0)))

theorem Core.localLoad_bytes (c : Core) (id : Nat) {a n : Nat} (here : inLocal a n) (dest : Dest) :
    ofBytes ((c.localLoad id a n dest).wants.map (fun w => w.val.getD 0)) = c.localNum (a - localBase) n := by
  rw [Core.localLoad, Core.localNum, List.map_map]
  refine congrArg ofBytes (List.map_congr_left fun k _ => ?_)
  rw [Function.comp_apply, Option.getD_some, Nat.sub_add_comm here.1]

theorem Core.fillBank_bank (c : Core) (b : Bool) (bytes : List Byte) :
    (if b then (c.fillBank b bytes).cb1 else (c.fillBank b bytes).cb0) = BitVec.ofNat 8192 (ofBytes bytes) := by cases b <;> rfl

theorem Core.fillBank_loading (c : Core) (b : Bool) (bytes : List Byte) :
    (if b then (c.fillBank b bytes).loading1 else (c.fillBank b bytes).loading0) = false := by cases b <;> rfl

/-! ### CBLD -/

/-- The state in which the load of a bank is under way (R142). -/
def State.bankMarked (s : State) (b : Bool) : State := s.modCore (coreOf s.cur) (fun c => c.setLoading b true)

theorem State.bankMarked_eq (s : State) (b : Bool) :
    s.bankMarked b = s.modCore (coreOf s.cur) (fun c => if b then { c with loading1 := true } else { c with loading0 := true }) := rfl

/-- An MMA reads the bank, or an earlier CBLD loads it. -/
def Core.bankInUse (c : Core) (b : Bool) : Prop := c.mma.any (fun j => j.bank == some b) = true ∨ c.bankLoading b = true

section
variable {s : State} {ra bank : BitVec 5} (pass : s.plbCheck s.cur .load (s.me.getG ra).toNat 1024 = .pass)
  (unwatched : s.watchHit s.cur .load [((s.me.getG ra).toNat, 1024)] = none)
include pass unwatched

theorem slotCbld_inUse (inUse : (s.core (coreOf s.cur)).bankInUse (bank == 1)) : slotCbld ra bank s s = .wait s := by
  rw [slotCbld, checked_pass pass unwatched, if_pos (Bool.or_eq_true_iff.mpr inUse)]

variable (unused : ¬ (s.core (coreOf s.cur)).bankInUse (bank == 1))
include unused

theorem slotCbld_unused : slotCbld ra bank s s =
    okOrWait s ((s.bankMarked (bank == 1)).load s.cur (.bank (bank == 1)) true false false [⟨(s.me.getG ra).toNat, 1024, 0, 0⟩]) := by
  rw [slotCbld, checked_pass pass unwatched, if_neg (fun inUse => unused (Bool.or_eq_true_iff.mp inUse))]
  rfl

theorem slotCbld_held (held : s.me.loadHeld [((s.me.getG ra).toNat, 1024)] = true) : slotCbld ra bank s s = .wait s := by
  rw [slotCbld_unused pass unwatched unused, State.load]
  exact congrArg (okOrWait s) (if_pos held)

theorem slotCbld_loads (free : s.me.loadHeld [((s.me.getG ra).toNat, 1024)] = false) : slotCbld ra bank s s =
    .ok ((s.bankMarked (bank == 1)).loadNow s.cur (.bank (bank == 1)) true false false [⟨(s.me.getG ra).toNat, 1024, 0, 0⟩]) none := by
  have goes : ¬ ((s.bankMarked (bank == 1)).hart s.cur).loadHeld [((s.me.getG ra).toNat, 1024)] = true := ne_true_of_eq_false free
  rw [slotCbld_unused pass unwatched unused, State.load]
  exact congrArg (okOrWait s) (if_neg goes)

end

@[simp] theorem Core.setLoading_localNum (c : Core) (b on : Bool) (o n : Nat) : (c.setLoading b on).localNum o n = c.localNum o n := by
  cases b <;> rfl

/-- CBLD from local memory fills the bank at once. -/
theorem State.core_loadNow_bankMarked {s : State} {a : Nat} (b : Bool) (here : inLocal a 1024) (clear : s.me.clearOf a 1024)
    (awake : s.me.wait ≠ .bank b) : ∃ bytes : List Byte,
    ((s.bankMarked b).loadNow s.cur (.bank b) true false false [⟨a, 1024, 0, 0⟩]).core (coreOf s.cur) =
      ((s.core (coreOf s.cur)).setLoading b true).fillBank b bytes ∧ ofBytes bytes = (s.core (coreOf s.cur)).localNum (a - localBase) 1024 := by
  have marked : (s.bankMarked b).core (coreOf s.cur) = (s.core (coreOf s.cur)).setLoading b true := State.core_modCore_same ..
  have waits : ((s.bankMarked b).fresh.hart s.cur).wait ≠ .bank b := awake
  have near : ((s.bankMarked b).hart s.cur).clearOf a 1024 := clear
  rw [State.loadNow_bank_local here near (by decide) b, State.core_bindLoad_bank rfl waits, State.fresh_core, marked]
  refine ⟨_, rfl, ?_⟩
  rw [Core.localLoad_bytes _ _ here, Core.setLoading_localNum]

/-- Settles O52: BLD, BPASS and BWAIT by what the claim and the latch allow; a CBLD of local bytes finds every byte there, and is bound at once. -/
theorem latchesAndBanksFill : Obligations.LatchesAndBanksFill := by
  refine ⟨⟨fun s ga l ready => ⟨fun a outside => ?_, fun inside taken => ?_, fun inside free held => ?_,
      fun inside free idle loads stores => ?_⟩,
    fun s q l ready => ⟨fun short => ?_, fun room free idle entries => ?_, fun room taken => ?_, fun room free few => ?_,
      fun room free held entries => ?_⟩,
    fun s l => ⟨fun ready mine full => ?_, fun ready mine full => ?_, fun i which ready => ⟨fun free closed => ?_, fun taken => ?_⟩⟩⟩,
    fun s sp ra b ready pass unwatched => ⟨fun inUse => ?_, fun unused held => ?_, fun unused free => ⟨?_, fun here clear awake => ?_⟩⟩⟩
  · exact exec_slotA_trap rfl ready (slotBldMemory_outside outside)
  · exact exec_slotA_wait rfl ready (slotBldMemory_taken inside taken)
  · exact exec_slotA_wait rfl ready (slotBldMemory_held inside free held)
  · have done := Hart.accessesDone_iff.mpr ⟨loads, stores⟩
    obtain ⟨flag, addr, me⟩ := (s.claimUnit s.cur).me_recordRange [((s.me.getG ga).toNat, 2048)] false
    refine ⟨_, exec_slotA_ok rfl ready (slotBldMemory_fills inside free idle done), ?_⟩
    rw [State.claimUnit_cur] at me
    rw [State.core_fillLatch, State.recordRange_core, State.core_claimUnit, State.fillLatch_me, me, Core.latch_setLatch_same]
    exact ⟨Core.claimedBy_claim .., rfl, rfl, Core.latch_setLatch_other .., rfl, rfl, rfl⟩
  · exact exec_slotA_trap rfl ready (slotBldQueue_short short)
  · refine ⟨_, exec_slotA_ok rfl ready (slotBldQueue_fills room free entries idle), ?_⟩
    rw [State.core_fillLatch, State.core_popQ, State.core_claimUnit, Core.latch_setLatch_same]
    refine ⟨Core.claimedBy_claim .., rfl, rfl, ?_, rfl⟩
    rw [Core.setLatch_queue, Core.queue_setQueue_drop, Core.claimedBy_queue]
  · exact exec_slotA_wait rfl ready (slotBldQueue_taken room taken)
  · exact exec_slotA_wait rfl ready (slotBldQueue_few room free few)
  · exact exec_slotA_wait rfl ready (slotBldQueue_held room free entries held)
  · refine ⟨_, exec_slotA_ok rfl ready (slotBpass_full mine full), ?_⟩
    rw [State.push_core, State.core_modCore_same, Core.latch_setLatch_same, State.core_claimUnit, Core.claimedBy_of_claim mine]
    exact ⟨rfl, rfl, rfl, State.mem_push ..⟩
  · exact ⟨_, exec_slotA_ok rfl ready (slotBwait_full mine full), State.alike_claimUnit mine⟩
  · obtain ⟨stands, f, effect⟩ := slotOp_of_passOrWait which s
    refine ⟨_, exec_slotA_wait stands ready (effect.trans (withFull_waits free (by rw [closed]; decide))), ?_⟩
    rw [State.core_openedFor, Core.opening_claim, Core.opening_st, Core.opening_acc, if_pos closed]
    exact ⟨Core.claimedBy_claim .., rfl, rfl⟩
  · obtain ⟨stands, f, effect⟩ := slotOp_of_passOrWait which s
    exact exec_slotA_wait stands ready (effect.trans (withFull_taken taken))
  · exact exec_wait rfl ready (slotCbld_inUse pass unwatched inUse)
  · exact exec_wait rfl ready (slotCbld_held pass unwatched unused held)
  · exact exec_ok rfl ready (slotCbld_loads pass unwatched unused free)
  · obtain ⟨bytes, filled, value⟩ := State.core_loadNow_bankMarked (b == 1) here clear awake
    rw [← State.bankMarked_eq, filled, Core.fillBank_bank, Core.fillBank_loading, value]
    exact ⟨rfl, rfl⟩

end Sys2Proof.Machine
end

section
/-! What parking leaves of the device beside its hart, and where its trap message goes (R152 to R155, R257). -/

namespace Sys2Proof.Machine

/-! ### Words joined from fields -/

/-- A number below 2 ^ k stands beside a multiple of 2 ^ k. -/
theorem word_mul_or (a : Nat) {b k : Nat} (low : b < 2 ^ k) : word (a * 2 ^ k) ||| word b = word (a * 2 ^ k + b) := by
  rw [word, word, word, ← BitVec.ofNat_or, Nat.mul_comm a, ← Nat.two_pow_add_eq_or_of_lt low]

theorem and_low_sixteen (x : Word) : x &&& 0xFFFF = word (x.toNat % 65536) := by
  apply BitVec.eq_of_toNat_eq
  rw [BitVec.toNat_and, show (0xFFFF : Word).toNat = 2 ^ 16 - 1 from rfl, Nat.and_two_pow_sub_one_eq_mod]
  simp only [word, BitVec.toNat_ofNat]
  omega

/-- A location has 24 bits, for a device number has 10 (R68). -/
theorem State.location_lt (s : State) (h : Nat) : s.devnum * 16384 + h % 16384 < 2 ^ 32 := by
  have ten : s.devnum < 2 ^ 10 := Nat.mod_lt _ (by decide)
  omega

/-! ### Who takes a trap message -/

/-- The service that takes a trap message raised on cluster k, if one does and not the host (R154). -/
def State.serviceFor (s : State) (k p : Nat) (fb : Bool) : Option (Nat × Bool) := if s.partOf? k = none then none else s.trapService p fb

section
variable {s : State} {c p : Nat} {fb : Bool}

theorem State.sendTrap_host (host : s.serviceFor (c / 16) p fb = none) (src : Nat) (payload : List Word) (corr : BitVec 32) :
    s.sendTrap c p fb src payload corr = s.toHost c p payload := by
  unfold State.serviceFor at host
  unfold State.sendTrap State.passTrap
  split at host
  case isTrue invalid => rw [if_pos (Option.isNone_iff_eq_none.mpr invalid)]
  case isFalse valid => rw [if_neg (mt Option.isNone_iff_eq_none.mp valid), host]

theorem State.sendTrap_service {x : Nat} {f : Bool} (service : s.serviceFor (c / 16) p fb = some (x, f)) (src : Nat) (payload : List Word)
    (corr : BitVec 32) : s.sendTrap c p fb src payload corr = s.toService p src x f payload corr := by
  unfold State.serviceFor at service
  unfold State.sendTrap State.passTrap
  split at service
  case isTrue => cases service
  case isFalse valid => rw [if_neg (mt Option.isNone_iff_eq_none.mp valid), service]

end

section
variable (s : State)

theorem State.toService_here {x : Nat} (here : x / 256 % 2 ^ 22 / 4096 = s.devnum) (p src : Nat) (fb : Bool) (payload : List Word)
    (corr : BitVec 32) : s.toService p src x fb payload corr = (s.modCore (x / 256 % 2 ^ 22 % 4096) (fun y => { y with port := y.port ++
      [.msg (trapHeader0 (x % 256) corr) (header1 p src (x / 256 % 2 ^ 22)) (bytesOf payload) [] (.trap p fb) none 0] })).push
        (.messageArrival (x / 256 % 2 ^ 22 % 4096)) :=
  if_pos (beq_iff_eq.mpr here)

/-- Whoever takes a trap message, clusters and memory stay. -/
theorem State.sendTrap_keeps (c p : Nat) (fb : Bool) (src : Nat) (payload : List Word) (corr : BitVec 32) :
    (s.sendTrap c p fb src payload corr).clusters = s.clusters ∧ (s.sendTrap c p fb src payload corr).mem = s.mem := by
  obtain h | ⟨x, f, h⟩ := s.sendTrap_cases c p fb src payload corr <;> rw [h]
  · exact ⟨rfl, rfl⟩
  · unfold State.toService
    dsimp only
    split
    · exact ⟨rfl, rfl⟩
    · rw [State.sendOut_nothing]
      exact ⟨rfl, rfl⟩

/-! ### The trace record -/

theorem State.trace_core (k kind : Nat) (corr : BitVec 32) (loc c : Nat) : (s.trace k kind corr loc).core c = s.core c := by
  unfold State.trace
  split <;> rfl

theorem State.trace_agenda (k kind : Nat) (corr : BitVec 32) (loc : Nat) : (s.trace k kind corr loc).agenda = s.agenda := by
  unfold State.trace
  split <;> rfl

theorem State.trace_off {k : Nat} (off : (s.cluster k).dbg.trace = false) (kind : Nat) (corr : BitVec 32) (loc : Nat) :
    s.trace k kind corr loc = s :=
  if_neg (by simp [Debug.tracing, off])

end

/-! ### Parking before its message is sent -/

/-- The parked hart in its place, with nothing on its core that waits for a walk for it (R287). -/
def State.parkedHere (s : State) (h : Nat) (slotA : Bool) (cause : Cause) (code : BitVec 10) (faddr trappc : Word) (kind : ParkKind) : State :=
  ((s.setHart h ((s.hart h).parked (s.hart h).preempt slotA cause code faddr trappc kind)).flipUnlessHalted h).forgetAbsentOf h

/-- The mark of the hart's task by which its trap message goes to the fallback (R154). -/
def Hart.serves (x : Hart) : Bool := match x.job with
  | some j => j.service
  | none => false

/-- The payload of R153. -/
def State.trapPayload (s : State) (h : Nat) (slotA : Bool) (cause : Cause) (code : BitVec 10) (faddr trappc bundle : Word) : List Word :=
  let x := s.hart h
  let p := s.partOf (clusterOf h)
  [word ((x.parkSeq + 1).toNat * 2 ^ 32 + (s.devnum * 16384 + h % 16384)), causeWord slotA code cause, faddr, trappc, x.task,
    word (p * 65536 + x.domain.toNat % 65536), s.time, bundle]

section
variable (s : State) (h : Nat) (slotA : Bool) (cause : Cause) (code : BitVec 10) (faddr trappc bundle : Word) (kind : ParkKind)

/-- Parking is the hart's change, its message, and its trace record. -/
theorem State.parkAs_eq : s.parkAs h slotA cause code faddr trappc bundle kind =
    ((s.parkedHere h slotA cause code faddr trappc kind).sendTrap (coreOf h) (s.partOf (clusterOf h)) (s.hart h).serves (s.location h).toNat
      (s.trapPayload h slotA cause code faddr trappc bundle) ((s.hart h).task.setWidth 32)).trace (clusterOf h) 6 ((s.hart h).task.setWidth 32)
        (s.location h).toNat := by
  have handle := word_mul_or ((s.hart h).parkSeq + 1).toNat (s.location_lt h)
  have domain : word (s.partOf (clusterOf h) * 65536) ||| ((s.hart h).domain &&& 0xFFFF) =
      word (s.partOf (clusterOf h) * 65536 + (s.hart h).domain.toNat % 65536) := by
    rw [and_low_sixteen]
    exact word_mul_or (k := 16) _ (Nat.mod_lt _ (by decide))
  dsimp only [State.trapPayload]
  rw [← handle, ← domain]
  rfl

/-- Only harts and cores change. -/
theorem State.parkedHere_eq : ∃ harts cores, s.parkedHere h slotA cause code faddr trappc kind = { s with harts := harts, cores := cores } := by
  unfold State.parkedHere State.flipUnlessHalted State.forgetAbsentOf
  dsimp only
  repeat' split
  all_goals exact ⟨_, _, rfl⟩

theorem State.parkedHere_serviceFor (k p : Nat) (fb : Bool) :
    (s.parkedHere h slotA cause code faddr trappc kind).serviceFor k p fb = s.serviceFor k p fb := by
  obtain ⟨harts, cores, same⟩ := s.parkedHere_eq h slotA cause code faddr trappc kind
  rw [same]
  rfl

theorem State.parkedHere_devnum : (s.parkedHere h slotA cause code faddr trappc kind).devnum = s.devnum := by
  obtain ⟨harts, cores, same⟩ := s.parkedHere_eq h slotA cause code faddr trappc kind
  rw [same]
  rfl

/-- A core keeps its port and its egress. -/
theorem State.parkedHere_core (c : Nat) :
    ((s.parkedHere h slotA cause code faddr trappc kind).core c).port = (s.core c).port ∧
      ((s.parkedHere h slotA cause code faddr trappc kind).core c).egress = (s.core c).egress := by
  have flip (t : State) : (t.flipUnlessHalted h).core c = t.core c := by
    unfold State.flipUnlessHalted
    split <;> rfl
  have forget (t : State) : ((t.forgetAbsentOf h).core c).port = (t.core c).port ∧ ((t.forgetAbsentOf h).core c).egress = (t.core c).egress := by
    unfold State.forgetAbsentOf
    dsimp only
    split
    · by_cases own : c = coreOf h
      · simp [own, Core.forgetAbsentOf]
      · simp [State.core_setCore_other own]
    · exact ⟨rfl, rfl⟩
  have step := forget ((s.setHart h ((s.hart h).parked (s.hart h).preempt slotA cause code faddr trappc kind)).flipUnlessHalted h)
  rwa [flip] at step

/-- Another hart stays as it is. -/
theorem State.hart_parkAs_other {k : Nat} (other : k ≠ h) : (s.parkAs h slotA cause code faddr trappc bundle kind).hart k = s.hart k := by
  have harts : (s.parkAs h slotA cause code faddr trappc bundle kind).harts = (s.parkedHere h slotA cause code faddr trappc kind).harts := by
    rw [State.parkAs_eq, State.trace_harts, State.sendTrap_harts]
  rw [State.hart_of_harts harts, State.parkedHere, State.hart_of_harts (State.forgetAbsentOf_harts ..)]
  unfold State.flipUnlessHalted
  split
  · exact State.hart_setHart_other other ..
  · exact (State.hart_setHart_other other ..).trans (State.hart_setHart_other other ..)

/-- Where the cluster is not traced, no byte of HBM changes (R357). -/
theorem State.parkAs_mem (untraced : (s.cluster (clusterOf h)).dbg.trace = false) :
    (s.parkAs h slotA cause code faddr trappc bundle kind).mem = s.mem := by
  obtain ⟨harts, cores, here⟩ := s.parkedHere_eq h slotA cause code faddr trappc kind
  obtain ⟨clusters, mem⟩ := (s.parkedHere h slotA cause code faddr trappc kind).sendTrap_keeps (coreOf h) (s.partOf (clusterOf h))
    (s.hart h).serves (s.location h).toNat (s.trapPayload h slotA cause code faddr trappc bundle) ((s.hart h).task.setWidth 32)
  rw [State.parkAs_eq, State.trace_off, mem, here]
  rw [State.cluster, clusters, here]
  exact untraced

section
variable {s h}

/-- With no service for it the message waits in the core's egress (R346). -/
theorem State.parkAs_host (host : s.serviceFor (clusterOf h) (s.partOf (clusterOf h)) (s.hart h).serves = none) :
    let t := s.parkAs h slotA cause code faddr trappc bundle kind
    (t.core (coreOf h)).egress = (s.core (coreOf h)).egress ++
        [⟨s.partOf (clusterOf h), s.trapPayload h slotA cause code faddr trappc bundle⟩] ∧
      Event.hostTrapDelivery (coreOf h) ∈ t.agenda := by
  have cluster : coreOf h / 16 = clusterOf h := Nat.div_div_eq_div_mul ..
  rw [← cluster, ← State.parkedHere_serviceFor s h slotA cause code faddr trappc kind] at host
  obtain ⟨-, egress⟩ := s.parkedHere_core h slotA cause code faddr trappc kind (coreOf h)
  dsimp only
  rw [State.parkAs_eq, State.trace_core, State.trace_agenda, ← cluster, State.sendTrap_host host, State.toHost, State.push_core,
    State.core_modCore_same, egress]
  exact ⟨rfl, State.mem_push ..⟩

/-- A service on this device finds the message last in its core's port (R155, R257). -/
theorem State.parkAs_service {x : Nat} {f : Bool} (service : s.serviceFor (clusterOf h) (s.partOf (clusterOf h)) (s.hart h).serves = some (x, f))
    (here : x / 256 % 2 ^ 22 / 4096 = s.devnum) :
    let t := s.parkAs h slotA cause code faddr trappc bundle kind
    let d := x / 256 % 2 ^ 22 % 4096
    (t.core d).port = (s.core d).port ++ [.msg (trapHeader0 (x % 256) ((s.hart h).task.setWidth 32))
        (header1 (s.partOf (clusterOf h)) (s.location h).toNat (x / 256 % 2 ^ 22)) (bytesOf (s.trapPayload h slotA cause code faddr trappc bundle)) []
        (.trap (s.partOf (clusterOf h)) f) none 0] ∧
      Event.messageArrival d ∈ t.agenda := by
  have cluster : coreOf h / 16 = clusterOf h := Nat.div_div_eq_div_mul ..
  rw [← cluster, ← State.parkedHere_serviceFor s h slotA cause code faddr trappc kind] at service
  obtain ⟨port, -⟩ := s.parkedHere_core h slotA cause code faddr trappc kind (x / 256 % 2 ^ 22 % 4096)
  rw [← State.parkedHere_devnum s h slotA cause code faddr trappc kind] at here
  dsimp only
  rw [State.parkAs_eq, State.trace_core, State.trace_agenda, ← cluster, State.sendTrap_service service, State.toService_here _ here,
    State.push_core, State.core_modCore_same, port]
  exact ⟨rfl, State.mem_push ..⟩

end
end

/-- Settles O39: the parked hart's fields, the frame of parking, and its message by who takes it. -/
theorem parkingWritesTheTrapRegisters : Obligations.ParkingWritesTheTrapRegisters := by
  intro s h slotA c code faddr trappc bundle kind t x y p payload svc
  have parks : y = _ := State.hart_parkAs s h slotA c code faddr trappc bundle kind
  rw [parks]
  refine ⟨rfl, rfl, rfl, rfl, rfl, rfl, rfl, rfl, rfl, rfl, rfl, rfl, rfl, rfl, fun k other => ?_, fun untraced => ?_, fun host => ?_,
    fun e fb service here => ?_⟩
  · exact State.hart_parkAs_other s h slotA c code faddr trappc bundle kind other
  · exact State.parkAs_mem s h slotA c code faddr trappc bundle kind untraced
  · exact State.parkAs_host slotA c code faddr trappc bundle kind host
  · exact State.parkAs_service slotA c code faddr trappc bundle kind service here

end Sys2Proof.Machine
end

section
/-! RESUME (R157, R158): its checks, what it answers, and how a parked hart comes back. -/

namespace Sys2Proof.Machine

/-! ### Its answer in the hart's register -/

theorem Hart.getG_setG_clear (x : Hart) (r : BitVec 5) : (x.setG r 0).getG r = 0 := by
  by_cases zero : r = 0
  · rw [zero]; rfl
  · exact Hart.getG_setG_same zero x 0

/-- A g register written by the issuing hart reaches no other hart. -/
theorem State.hart_setG_other {s : State} {k : Nat} (other : k ≠ s.cur) (rd : BitVec 5) (w : Word) :
    (s.modMe (fun x => x.setG rd w)).hart k = s.hart k :=
  State.hart_setHart_other other ..

/-- No hart starts, stops or changes its task by a write of a g register. -/
theorem State.hart_setG_keeps (s : State) (rd : BitVec 5) (w : Word) (k : Nat) :
    ((s.modMe (fun x => x.setG rd w)).hart k).run = (s.hart k).run ∧ ((s.modMe (fun x => x.setG rd w)).hart k).job = (s.hart k).job ∧
      ((s.modMe (fun x => x.setG rd w)).hart k).cancelled = (s.hart k).cancelled := by
  by_cases own : k = s.cur
  · rw [own, State.modMe, State.hart_setHart_same, Hart.setG_run, Hart.setG_job, Hart.setG_cancelled]
    exact ⟨rfl, rfl, rfl⟩
  · rw [State.hart_setG_other own]
    exact ⟨rfl, rfl, rfl⟩

/-! ### The hart that comes back -/

/-- What resuming makes of a hart: it runs at an address with an empty near buffer, its requested pre-emption's interval counting again. -/
def Hart.resumed (x : Hart) (preempt : Option Word) (trappc pc : Word) : Hart :=
  { x.clearNear with run := .running, trappc := trappc, pc := pc, wait := .none, preempt := preempt }

section
variable (s : State) (h : Nat)

/-- Parking's suspension of the interval, and its end, change the pre-emption only. -/
theorem State.hart_flipUnlessHalted : ∃ preempt, (s.flipUnlessHalted h).hart h = { s.hart h with preempt := preempt } := by
  unfold State.flipUnlessHalted
  split
  · exact ⟨_, rfl⟩
  · exact ⟨_, State.hart_setHart_same ..⟩

theorem State.hart_unparkRetry :
    ∃ preempt, (s.unparkRetry h).hart h = (s.hart h).resumed preempt (s.hart h).trappc (s.hart h).trapPc := by
  obtain ⟨preempt, flipped⟩ := s.hart_flipUnlessHalted h
  refine ⟨preempt, ?_⟩
  rw [State.unparkRetry, State.modHart, State.hart_setHart_same, flipped]
  rfl

theorem State.hart_unparkSkip (sBit : Bool) : ∃ preempt, (s.unparkSkip h sBit).hart h =
    (s.hart h).resumed preempt (successor (s.hart h).trapPc sBit) (successor (s.hart h).trapPc sBit) := by
  obtain ⟨preempt, flipped⟩ := s.hart_flipUnlessHalted h
  refine ⟨preempt, ?_⟩
  rw [State.unparkSkip, State.modHart, State.hart_setHart_same, flipped]
  rfl

theorem State.unparkRetry_cur : (s.unparkRetry h).cur = s.cur := State.flipUnlessHalted_cur ..

theorem State.unparkSkip_cur (sBit : Bool) : (s.unparkSkip h sBit).cur = s.cur := State.flipUnlessHalted_cur ..

/-! ### The hart whose task ends -/

theorem State.hart_freeHart : ((s.freeHart h).hart h).run = .free ∧ ((s.freeHart h).hart h).job = none := by
  rw [State.freeHart, State.push_hart, State.modHart, State.hart_setHart_same]
  exact ⟨rfl, rfl⟩

/-- Whatever the end of a task brings about, its hart is free thereafter (R317). -/
theorem State.hart_endTask (cancelled : Bool) : ((s.endTask h cancelled).hart h).run = .free ∧ ((s.endTask h cancelled).hart h).job = none := by
  unfold State.endTask
  split <;> exact State.hart_freeHart ..

end

section
variable {s : State} {h : Nat}

theorem State.cancelParked_ends (may : s.mayEnd h = true) : s.cancelParked h = s.endTask h true := if_pos may

/-- A task with something open goes on to its end with the hart blocked (R318). -/
theorem State.hart_cancelParked_open (still : s.mayEnd h = false) :
    (s.cancelParked h).hart h = { s.hart h with cancelled := true, run := .blocked, wait := .none } := by
  rw [State.cancelParked, if_neg (Bool.not_eq_true _ ▸ still)]
  exact State.hart_setHart_same ..

end

/-! ### The actions on a hart -/

/-- The hart is parked with that sequence (R158). -/
def State.parkedWith (s : State) (h seq : Nat) : Prop := (s.hart h).run = .parked ∧ (s.hart h).parkSeq.toNat = seq

/-- The hart's task is no point of a Gleaner walk. -/
def Hart.plainTask (x : Hart) : Prop := ∀ t, x.job = some t → ∀ kid slot gen point, t.kind ≠ .glean kid slot gen point

section
variable {s : State} {h seq action : Nat}

theorem State.resumeHart_refuses (unmatched : (s.hart h).run ≠ .parked ∨ (s.hart h).parkSeq.toNat ≠ seq) : s.resumeHart h seq action = (s, 1) :=
  if_pos (by simpa only [Bool.or_eq_true, bne_iff_ne] using unmatched)

/-- A location without a copy hart names its hart. -/
theorem State.resumeAt_hart (alone : copyHartAt h = none) : s.resumeAt h seq action = s.resumeHart h seq action := by
  rw [State.resumeAt, alone]

variable (parked : s.parkedWith h seq)
include parked

/-- At a shared location the core's hart comes first where it is parked with the sequence (log 14). -/
theorem State.resumeAt_parked : s.resumeAt h seq action = s.resumeHart h seq action := by
  obtain ⟨run, sequence⟩ := parked
  unfold State.resumeAt
  split
  · exact if_pos (by rw [run, sequence, Bool.and_eq_true, beq_iff_eq, beq_iff_eq]; exact ⟨rfl, rfl⟩)
  · rfl

theorem State.parkedWith.not_refused : ¬ ((s.hart h).run != .parked || (s.hart h).parkSeq.toNat != seq) = true := by
  obtain ⟨run, sequence⟩ := parked
  simp [run, sequence]

theorem State.resumeHart_cancel : s.resumeHart h seq 2 = (s.cancelParked h, 0) := (if_neg parked.not_refused).trans (if_pos rfl)

variable {sBit : Bool} (bundle : (s.hart h).park = .bundle sBit)
include bundle

theorem State.resumeHart_skip : s.resumeHart h seq 1 = (s.unparkSkip h sBit, 0) := by
  unfold State.resumeHart
  dsimp only
  rw [if_neg parked.not_refused, if_neg (by decide), bundle]
  exact if_pos rfl

theorem State.resumeHart_retry (plain : (s.hart h).plainTask) : s.resumeHart h seq 0 = (s.unparkRetry h, 0) := by
  unfold State.resumeHart
  dsimp only
  rw [if_neg parked.not_refused, if_neg (by decide), bundle]
  dsimp only
  rw [if_neg (by decide)]
  split
  case h_1 t job =>
    split
    case h_1 kid slot gen point kind => exact absurd kind (plain t job kid slot gen point)
    case h_2 => rfl
  case h_2 => rfl

end

/-- A retry or a skip brings the hart back at its bundle or past it. -/
theorem State.hart_resumeHart {s : State} {h seq : Nat} {action : BitVec 10} (parked : s.parkedWith h seq) {b : Bool}
    (bundle : (s.hart h).park = .bundle b) (plain : (s.hart h).plainTask) (low : action.toNat < 2) :
    let q := (s.hart h).trapPc
    let pc := if action = 0 then q else q + if b then 16 else 8
    ∃ t preempt, s.resumeHart h seq action.toNat = (t, 0) ∧ t.cur = s.cur ∧
      t.hart h = (s.hart h).resumed preempt (if action = 0 then (s.hart h).trappc else pc) pc := by
  by_cases zero : action = 0
  · obtain ⟨preempt, retried⟩ := s.hart_unparkRetry h
    refine ⟨_, preempt, ?_, s.unparkRetry_cur h, ?_⟩
    · rw [zero]; exact State.resumeHart_retry parked bundle plain
    · rw [if_pos zero, if_pos zero, retried]
  · obtain ⟨preempt, skipped⟩ := s.hart_unparkSkip h b
    have one : action.toNat = 1 := by
      have nonzero : action.toNat ≠ 0 := fun e => zero (BitVec.eq_of_toNat_eq e)
      omega
    have next : successor (s.hart h).trapPc b = (s.hart h).trapPc + if b then 16 else 8 := by cases b <;> rfl
    refine ⟨_, preempt, ?_, s.unparkSkip_cur h b, ?_⟩
    · rw [one]; exact State.resumeHart_skip parked bundle
    · rw [if_neg zero, if_neg zero, skipped, next]

/-! ### The checks of RESUME in their order -/

theorem handleBad_iff (v : Word) : handleBad v = true ↔ v.toNat / 2 ^ 48 ≠ 0 ∨ v.toNat / 2 ^ 24 % 256 ≠ 0 := by
  have top : bf v 48 16 = v.toNat / 2 ^ 48 := Nat.mod_eq_of_lt (by omega)
  have low : bf v 24 8 = v.toNat / 2 ^ 24 % 256 := rfl
  rw [handleBad, Bool.or_eq_true, bne_iff_ne, bne_iff_ne, top, low]

section
variable {s : State} {rd ra : BitVec 5} {action : BitVec 10}

theorem slotResume_illegal (bad : handleBad (s.me.getG ra) = true) : slotResume rd ra action s s = .trap .illegal 0 0 := if_pos bad

variable (good : ¬ handleBad (s.me.getG ra) = true)
include good

theorem slotResume_denied (user : s.me.privileged = false) : slotResume rd ra action s s = .trap .privileged 0 0 :=
  (if_neg good).trans (if_pos (by rw [user]; rfl))

variable (privileged : s.me.privileged = true)
include privileged

theorem slotResume_held (held : s.me.storeHeld true = true) : slotResume rd ra action s s = .wait s :=
  (if_neg good).trans ((if_neg (by simp [privileged])).trans (if_pos held))

variable (free : s.me.storeHeld true = false)
include free

theorem slotResume_free : slotResume rd ra action s s =
    let v := s.me.getG ra
    if 576 ≤ bf v 14 10 then okG s rd 2
    else if bf v 14 10 != s.devnum then
      okG (s.drawFree.sendOut (bf v 0 14 / 4 % 18) (.resume (bf v 0 14 / 4 % 18) (bf v 14 10) v action.toNat) .nothing) rd
        (word ((Config.outsideByte s.free 0).toNat % 3))
    else if s.partOf (clusterOf (bf v 0 14)) != s.partOf (clusterOf s.cur) then okG s rd 2
    else okG (s.resumeAt (bf v 0 14) (bf v 32 16) action.toNat).1 rd (word (s.resumeAt (bf v 0 14) (bf v 32 16) action.toNat).2) :=
  (if_neg good).trans ((if_neg (by simp [privileged])).trans (if_neg (by simp [free])))

theorem slotResume_outside (outside : 576 ≤ bf (s.me.getG ra) 14 10 ∨ (bf (s.me.getG ra) 14 10 = s.devnum ∧
    s.partOf (clusterOf (bf (s.me.getG ra) 0 14)) ≠ s.partOf (clusterOf s.cur))) : slotResume rd ra action s s = okG s rd 2 := by
  rw [slotResume_free good privileged free]
  dsimp only
  split
  case isTrue => rfl
  case isFalse inside =>
    obtain ⟨here, other⟩ := outside.resolve_left inside
    rw [if_neg (by simp [here]), if_pos (bne_iff_ne.mpr other)]

theorem slotResume_here (here : bf (s.me.getG ra) 14 10 = s.devnum) (inside : bf (s.me.getG ra) 14 10 < 576)
    (same : s.partOf (clusterOf (bf (s.me.getG ra) 0 14)) = s.partOf (clusterOf s.cur)) {t : State} {r : Nat}
    (resumes : s.resumeAt (bf (s.me.getG ra) 0 14) (bf (s.me.getG ra) 32 16) action.toNat = (t, r)) :
    slotResume rd ra action s s = okG t rd (word r) := by
  rw [slotResume_free good privileged free]
  dsimp only
  rw [if_neg (Nat.not_le.mpr inside), if_neg (by simp [here]), if_neg (by simp [same]), resumes]

end

/-! ### The statement -/

/-- Settles O38: RESUME's checks in their order, and each action by what it makes of the hart. -/
theorem resumeBringsHartsBack : Obligations.ResumeBringsHartsBack := by
  intro s sp rd ra action ready i v h dev seq x bad may here answer q plain
  have handle : handleBad v = true ↔ bad := handleBad_iff v
  have target : bf v 0 14 = h := congrArg (· % 2 ^ 14) (Nat.div_one v.toNat)
  have allowed (ok : may) : ¬ handleBad v = true ∧ s.me.privileged = true ∧ s.me.storeHeld true = false := by
    obtain ⟨good, domain, free⟩ := ok
    exact ⟨mt handle.mp good, beq_iff_eq.mpr domain, free⟩
  have resumes (ok : may) (atHome : here) {t : State} {r : Nat} (comes : s.resumeAt h seq action.toNat = (t, r)) :
      slotOp i s s = okG t rd (word r) := by
    obtain ⟨good, privileged, free⟩ := allowed ok
    obtain ⟨device, inside, same⟩ := atHome
    exact slotResume_here good privileged free device inside (by rwa [target]) (by rwa [target])
  refine ⟨fun no => ?_, fun good user => ?_, fun good domain held => ?_, fun ok outside => ?_, fun ok atHome alone unmatched => ?_,
    fun ok atHome run sequence other single b bundle low => ?_, fun ok atHome run sequence other cancel => ?_⟩
  · exact exec_trap rfl rfl ready (slotResume_illegal (handle.mpr no))
  · exact exec_trap rfl rfl ready (slotResume_denied (mt handle.mp good) (Hart.privileged_eq_false.mpr user))
  · exact exec_wait rfl ready (slotResume_held (mt handle.mp good) (beq_iff_eq.mpr domain) held)
  · obtain ⟨good, privileged, free⟩ := allowed ok
    exact exec_okG rfl ready (slotResume_outside good privileged free (by rwa [target]))
  · exact exec_okG rfl ready (resumes ok atHome ((State.resumeAt_hart alone).trans (State.resumeHart_refuses unmatched)))
  · have parked : s.parkedWith h seq := ⟨run, sequence⟩
    obtain ⟨t, preempt, comes, cur, back⟩ := State.hart_resumeHart parked bundle single low
    refine ⟨_, exec_ok rfl ready (resumes ok atHome ((State.resumeAt_parked parked).trans comes)), ?_⟩
    rw [State.me_modMe, State.hart_setG_other (by rwa [cur]), back]
    exact ⟨Hart.getG_setG_clear .., rfl, rfl, rfl, rfl, rfl, rfl, rfl, rfl⟩
  · have parked : s.parkedWith h seq := ⟨run, sequence⟩
    have comes : s.resumeAt h seq action.toNat = (s.cancelParked h, 0) := by
      rw [State.resumeAt_parked parked, cancel]
      exact State.resumeHart_cancel parked
    obtain ⟨runs, job, cancelled⟩ := (s.cancelParked h).hart_setG_keeps rd 0 h
    refine ⟨_, exec_ok rfl ready (resumes ok atHome comes), ?_, fun ends => ?_, fun still => ?_⟩
    · rw [State.me_modMe]
      exact Hart.getG_setG_clear ..
    · obtain ⟨free, left⟩ := State.cancelParked_ends ends ▸ s.hart_endTask h true
      exact ⟨runs.trans free, job.trans left⟩
    · refine ⟨runs.trans ?_, cancelled.trans ?_, job.trans ?_⟩ <;> rw [State.hart_cancelParked_open still]

end Sys2Proof.Machine
end

section
/-! QSTAT and QRESV (R267, R269). -/

namespace Sys2Proof.Machine

/-! ### QSTAT -/

theorem State.qstat_eq (s : State) (h n : Nat) : s.qstat h n = word ((if (s.core (coreOf h)).port = [] then 0 else 1) * 2 ^ 32
    + min 255 (256 - (s.core (coreOf h)).queues.foldl (fun t e => t + e.2.length) 0) * 2 ^ 24
    + min 255 (queueCap s (coreOf h) (queueAt h n)) * 2 ^ 16 + min 255 (queueMin s (coreOf h) (queueAt h n)) * 2 ^ 8
    + min 255 ((s.core (coreOf h)).queue (queueAt h n)).length) := by
  have scaled (p : List Arrival) : (if p.isEmpty then 0 else 2 ^ 32) = (if p = [] then 0 else 1) * 2 ^ 32 := by cases p <;> simp
  rw [← scaled]
  rfl

/-! ### QRESV -/

/-- Handler entry e of the core that issues replaced. -/
def State.withHandler (s : State) (e : Nat) (h : Handler) : State :=
  s.modCore (coreOf s.cur) (fun c => { c with handlers := put e h c.handlers })

/-- The bytes of a word above its lowest, as R267 reserves them. -/
theorem bf_above_byte (x : Word) : bf x 8 56 = x.toNat / 256 := by
  have small := x.isLt
  simp only [bf]
  omega

section
variable {s : State} {rd ra rb : BitVec 5}

theorem slotQresv_invalid (bad : (s.core (coreOf s.cur)).handler? ((s.me.getG ra).toNat % 256) = none ∨ (s.me.getG ra).toNat / 256 ≠ 0) :
    slotQresv rd ra rb s s = okG s rd 2 := by
  unfold slotQresv
  dsimp only
  rw [bf_low_byte, bf_above_byte]
  split
  · rfl
  case h_2 h valid =>
    have reserved : (s.me.getG ra).toNat / 256 ≠ 0 := bad.resolve_left (by simp [valid])
    rw [if_pos (by simpa using reserved)]

section
variable {h : Handler} (valid : (s.core (coreOf s.cur)).handler? ((s.me.getG ra).toNat % 256) = some h)
  (legal : (s.me.getG ra).toNat / 256 = 0)
include valid legal

theorem slotQresv_valid : slotQresv rd ra rb s s =
    if 0 ≤ (s.me.getG rb).toInt then
      if (s.me.getG rb).toInt ≤ h.free then
        okG (s.withHandler ((s.me.getG ra).toNat % 256)
          { h with free := h.free - (s.me.getG rb).toInt.toNat, reserved := h.reserved + (s.me.getG rb).toInt.toNat }) rd 0
      else okG s rd 1
    else okG (s.withHandler ((s.me.getG ra).toNat % 256)
      { h with reserved := h.reserved - min (-(s.me.getG rb).toInt).toNat h.reserved
               free := h.free + min (-(s.me.getG rb).toInt).toNat h.reserved }) rd 0 := by
  unfold slotQresv
  dsimp only
  rw [bf_low_byte, bf_above_byte, legal, valid]
  rfl

theorem slotQresv_exceeds (more : (h.free : Int) < (s.me.getG rb).toInt) : slotQresv rd ra rb s s = okG s rd 1 := by
  rw [slotQresv_valid valid legal, if_pos (by omega), if_neg (by omega)]

theorem slotQresv_takes (positive : 0 ≤ (s.me.getG rb).toInt) (within : (s.me.getG rb).toInt ≤ h.free) : slotQresv rd ra rb s s =
    okG (s.withHandler ((s.me.getG ra).toNat % 256)
      { h with free := h.free - (s.me.getG rb).toInt.toNat, reserved := h.reserved + (s.me.getG rb).toInt.toNat }) rd 0 := by
  rw [slotQresv_valid valid legal, if_pos positive, if_pos within]

theorem slotQresv_gives (negative : (s.me.getG rb).toInt < 0) : slotQresv rd ra rb s s =
    okG (s.withHandler ((s.me.getG ra).toNat % 256)
      { h with reserved := h.reserved - min (s.me.getG rb).toInt.natAbs h.reserved
               free := h.free + min (s.me.getG rb).toInt.natAbs h.reserved }) rd 0 := by
  have size : (-(s.me.getG rb).toInt).toNat = (s.me.getG rb).toInt.natAbs := by omega
  rw [slotQresv_valid valid legal, if_neg (by omega), size]

end
end

/-- Settles O29: QSTAT's word is that of `qstat_eq`, and QRESV by the case of its entry and its request. -/
theorem queuesReportAndReserve : Obligations.QueuesReportAndReserve := by
  refine ⟨fun s sp rd q ready => ?_, fun s sp rd ra rb ready => ⟨fun bad => ?_, fun h valid legal => ⟨fun more => ?_, fun positive within => ?_,
    fun negative => ?_⟩⟩⟩
  · exact exec_okG rfl ready (congrArg (okG s rd) (s.qstat_eq s.cur q.toNat))
  · exact exec_okG rfl ready (slotQresv_invalid bad)
  · exact exec_okG rfl ready (slotQresv_exceeds valid legal more)
  · exact exec_ok rfl ready (slotQresv_takes valid legal positive within)
  · exact exec_ok rfl ready (slotQresv_gives valid legal negative)

end Sys2Proof.Machine
end

section
/-! SEND and SENDX (R258 to R260): their checks, and where a message goes (R257, R263, R347). -/

namespace Sys2Proof.Machine

/-! ### An access of no runs -/

theorem checked_nil (s : State) (k : Kind) (e : Eff) : checked s k [] e = e := by
  have unwatched : s.watchHit s.cur k [] = none := by simp [State.watchHit]
  have probed : s.checkProbes s.cur k (([] : List (Nat × Nat)).flatMap (fun r => probes r.1 r.2)) = .pass := rfl
  rw [checked, probed, ExtCheck.eff, watched, unwatched]

/-- The run that SENDX and the like read, where it may be empty. -/
theorem checked_run {s : State} {k : Kind} {a n : Nat}
    (pass : n ≠ 0 → s.plbCheck s.cur k a n = .pass ∧ s.watchHit s.cur k [(a, n)] = none) (e : Eff) :
    checked s k (if n = 0 then [] else [(a, n)]) e = e := by
  split
  case isTrue => exact checked_nil s k e
  case isFalse positive => exact checked_pass (pass positive).1 (pass positive).2 e

theorem readable_held {s : State} {a n : Nat} (held : s.peekHeld s.cur a n = true) (e : Eff) :
    readable s a n e = .wait (s.askAtIssue s.cur a n) := if_pos held

theorem readable_there {s : State} {a n : Nat} (there : s.peekHeld s.cur a n = false) (e : Eff) : readable s a n e = e :=
  if_neg (by simp [there])

/-! ### The effects of SEND -/

section
variable {s : State} {ra rb vp : BitVec 5}

theorem slotSend_refused (bad : headerBad (s.me.getG ra) (s.me.getG rb) = true ∨ 4 < hdrLen16 (s.me.getG ra)) :
    slotSend ra rb vp s s = .trap .queue 0 0 :=
  if_pos (by simpa using bad)

section
variable (good : headerBad (s.me.getG ra) (s.me.getG rb) = false) (short : hdrLen16 (s.me.getG ra) ≤ 4)
include good short

theorem slotSend_good : slotSend ra rb vp s s = if s.me.storeHeld true then .wait s else .ok (s.deliver s.cur (s.me.getG ra) (s.me.getG rb)
    (toBytes (s.me.getV vp) (16 * hdrLen16 (s.me.getG ra))) []) none :=
  if_neg (by simp [good]; omega)

theorem slotSend_waits (held : s.me.storeHeld true = true) : slotSend ra rb vp s s = .wait s := by
  rw [slotSend_good good short, if_pos held]

theorem slotSend_sends (free : s.me.storeHeld true = false) : slotSend ra rb vp s s = .ok (s.deliver s.cur (s.me.getG ra) (s.me.getG rb)
    (toBytes (s.me.getV vp) (16 * hdrLen16 (s.me.getG ra))) []) none := by
  rw [slotSend_good good short, if_neg (by simp [free])]

end
end

/-! ### The effects of SENDX -/

section
variable {s : State} {rp ra rb : BitVec 5}

theorem slotSendx_refused (bad : headerBad (s.me.getG ra) (s.me.getG rb) = true) : slotSendx rp ra rb s s = .trap .queue 0 0 := if_pos bad

/-- The tags that SENDX's payload takes along (R279). -/
def State.payloadTags (s : State) (h0 : Word) (a n : Nat) : List Bool :=
  if hdrXform h0 = 6 then (List.range (n / 8)).map (fun k => a % 8 == 0 && s.peekTag s.cur (a + 8 * k)) else []

section
variable (good : headerBad (s.me.getG ra) (s.me.getG rb) = false)
  (pass : hdrLen16 (s.me.getG ra) ≠ 0 → s.plbCheck s.cur .load (s.me.getG rp).toNat (16 * hdrLen16 (s.me.getG ra)) = .pass ∧
    s.watchHit s.cur .load [((s.me.getG rp).toNat, 16 * hdrLen16 (s.me.getG ra))] = none)
include good pass

theorem slotSendx_good : slotSendx rp ra rb s s =
    if s.me.storeHeld true then .wait s
    else readable s (s.me.getG rp).toNat (16 * hdrLen16 (s.me.getG ra))
      (.ok ((s.readAtIssue s.cur (s.me.getG rp).toNat (16 * hdrLen16 (s.me.getG ra))).2.deliver s.cur (s.me.getG ra) (s.me.getG rb)
        (s.readAtIssue s.cur (s.me.getG rp).toNat (16 * hdrLen16 (s.me.getG ra))).1
        (s.payloadTags (s.me.getG ra) (s.me.getG rp).toNat (16 * hdrLen16 (s.me.getG ra)))) none) :=
  (if_neg (by simp [good])).trans (checked_run (fun positive => pass (by omega)) _)

theorem slotSendx_waits (held : s.me.storeHeld true = true) : slotSendx rp ra rb s s = .wait s := by
  rw [slotSendx_good good pass, if_pos held]

section
variable (free : ¬ s.me.storeHeld true = true)
include free

theorem slotSendx_asks (away : s.peekHeld s.cur (s.me.getG rp).toNat (16 * hdrLen16 (s.me.getG ra)) = true) :
    slotSendx rp ra rb s s = .wait (s.askAtIssue s.cur (s.me.getG rp).toNat (16 * hdrLen16 (s.me.getG ra))) := by
  rw [slotSendx_good good pass, if_neg free, readable_held away]

theorem slotSendx_sends (there : ¬ s.peekHeld s.cur (s.me.getG rp).toNat (16 * hdrLen16 (s.me.getG ra)) = true) : slotSendx rp ra rb s s =
    .ok ((s.readAtIssue s.cur (s.me.getG rp).toNat (16 * hdrLen16 (s.me.getG ra))).2.deliver s.cur (s.me.getG ra) (s.me.getG rb)
        (s.readAtIssue s.cur (s.me.getG rp).toNat (16 * hdrLen16 (s.me.getG ra))).1
        (s.payloadTags (s.me.getG ra) (s.me.getG rp).toNat (16 * hdrLen16 (s.me.getG ra)))) none := by
  rw [slotSendx_good good pass, if_neg free, readable_there (by simpa using there)]

end
end
end

/-! ### Where a message goes -/

@[simp] theorem State.hart_modHart_same (s : State) (k : Nat) (f : Hart → Hart) : (s.modHart k f).hart k = f (s.hart k) :=
  State.hart_setHart_same ..

/-- Traffic on a plane whose port is up leaves, and its answer is under way. -/
theorem State.sendOut_up {s : State} {plane : Nat} (up : s.portState (s.planePort plane) = .up) (m : OutMsg) (x : Answer) :
    s.sendOut plane m x = ({ s with out := s.out ++ [m] } : State).answer (s.planePort plane) x := by
  simp only [State.sendOut, up]

/-- What is acknowledged to a hart is still counted, until the acknowledgement is taken. -/
theorem State.stores_answer_ack (s : State) (port k : Nat) (a : Ack) : ((s.answer port (.ack k a)).hart k).stores = (s.hart k).stores := by
  simp [State.answer]

/-- A message that leaves and will be acknowledged to a hart is still counted, and memory stays. -/
theorem State.sendOut_ack_up {s : State} {plane : Nat} (up : s.portState (s.planePort plane) = .up) (m : OutMsg) (k : Nat) (a : Ack) :
    (s.sendOut plane m (.ack k a)).out = s.out ++ [m] ∧ ((s.sendOut plane m (.ack k a)).hart k).stores = (s.hart k).stores ∧
      (s.sendOut plane m (.ack k a)).mem = s.mem := by
  rw [State.sendOut_up up]
  exact ⟨rfl, State.stores_answer_ack .., rfl⟩

theorem State.core_toPort (s : State) (c : Nat) (a : Arrival) : ((s.toPort c a).core c).port = (s.core c).port ++ [a] := by
  simp [State.toPort]

/-- Header word 1 as the device writes it for hart h (R257). -/
theorem header1_dest (part loc : Nat) (h1 : Word) :
    header1 part loc (hdrDest h1) = word (part % 16 * 2 ^ 48 + loc % 2 ^ 24 * 2 ^ 24 + hdrDest h1 * 4) := by
  rw [header1, show hdrDest h1 % 2 ^ 22 = hdrDest h1 from Nat.mod_mod ..]

/-- The state in which one more access of hart h, its newest, is not acknowledged. -/
def State.counted (s : State) (h : Nat) : State :=
  s.fresh.modHart h (fun x => { x with stores := x.stores ++ [⟨s.serial + 1, 0, 0, 1, false, none, []⟩] })

theorem State.stores_counted (s : State) (h : Nat) : ((s.counted h).hart h).stores.length = (s.hart h).stores.length + 1 := by
  simp [State.counted, State.modHart]

/-- A message of hart h as it leaves, its source written (R257). -/
def State.sourced (s : State) (h : Nat) (h1 : Word) : Word := header1 (s.partOf (clusterOf h)) (s.location h).toNat (hdrDest h1)

section
variable {s : State} {h : Nat} {h0 h1 : Word} {payload : List Byte} {tags : List Bool}

section
variable (here : hdrDest h1 / 4096 = s.devnum)
include here

theorem State.deliver_here (mapped : s.mappedOut (hdrDest h1 % 4096 / 16) = false) : s.deliver h h0 h1 payload tags =
    (s.counted h).toPort (hdrDest h1 % 4096) (.msg h0 (s.sourced h h1) payload tags .plain (some (h, s.serial + 1)) (s.hart h).dom) :=
  (if_pos here).trans (if_neg (by simp [mapped]))

theorem State.deliver_mappedOut (out : s.mappedOut (hdrDest h1 % 4096 / 16) = true) : s.deliver h h0 h1 payload tags =
    s.bounce (hdrDest h1 % 4096) h0 (s.sourced h h1) 6 :=
  (if_pos here).trans (if_pos out)

end

section
variable (away : hdrDest h1 / 4096 ≠ s.devnum)
include away

theorem State.deliver_outside (outside : 576 ≤ hdrDest h1 / 4096) : s.deliver h h0 h1 payload tags = s.bounce (coreOf h) h0 (s.sourced h h1) 6 :=
  (if_neg away).trans (if_pos outside)

theorem State.deliver_away (inside : hdrDest h1 / 4096 < 576) : s.deliver h h0 h1 payload tags =
    (s.counted h).sendOut (hdrDest h1 % 18) (.message (hdrDest h1 % 18) (hdrDest h1 / 4096)
      (.msg h0 (s.sourced h h1) payload tags .plain none (s.hart h).dom)) (.ack h ⟨s.serial + 1, 0, none, 0, none⟩) :=
  (if_neg away).trans (if_neg (by omega))

end

end

/-! ### Bounces -/

section
variable (h0 h1 : Word)

theorem hdrSource_core : hdrSource h1 / 4 % 4096 = h1.toNat / 2 ^ 26 % 4096 := by
  simp only [hdrSource, bf]
  omega

theorem hdrSource_location : hdrSource h1 / 4 = h1.toNat / 2 ^ 26 % 2 ^ 22 := by
  simp only [hdrSource, bf]
  omega

theorem hdrCorr_toNat : (hdrCorr h0).toNat = h0.toNat / 2 ^ 32 := by
  have small := h0.isLt
  simp only [hdrCorr, bf, BitVec.toNat_ofNat]
  omega

end

theorem State.bounce_here {s : State} {h1 : Word} (here : hdrSource h1 / 16384 = s.devnum) (c : Nat) (h0 : Word) (code : Nat) :
    s.bounce c h0 h1 code = s.toPort (h1.toNat / 2 ^ 26 % 4096) (.msg (word (h0.toNat / 2 ^ 32 * 2 ^ 32 + 2 * 2 ^ 24 + 255 * 256))
      (header1 (s.partOf (c / 16)) ((s.devnum * 4096 + c) * 4) (h1.toNat / 2 ^ 26 % 2 ^ 22)) (bytesOf [h0, h1, word code, 0]) [] .bounce none 0) := by
  rw [← hdrSource_core, ← hdrSource_location, ← hdrCorr_toNat]
  exact if_pos here

/-! ### The statement -/

theorem tags_of_xform (s : State) (h0 : Word) (a n : Nat) : s.payloadTags h0 a n =
    if h0.toNat / 2 ^ 29 % 8 = 6 then (List.range (n / 8)).map (fun k => decide (a % 8 = 0) && s.peekTag s.cur (a + 8 * k)) else [] := rfl

/-- Settles O28: the instructions by the checks of their header and payload, `deliver` by where the message goes, `bounce` by its sender's port. -/
theorem messagesAreSent : Obligations.MessagesAreSent := by
  refine ⟨fun s sp ra rb vp ready => ⟨fun bad => ?_, fun good short held => ?_, fun good short free => ?_⟩,
    fun s sp rp ra rb ready => ⟨fun bad => ?_, fun good pass => ⟨fun held => ?_, fun free away => ?_, fun free there => ?_⟩⟩,
    fun s h h0 h1 payload tags => ⟨fun here mapped => ?_, fun here out => ?_, fun away outside => ?_, fun away inside up => ?_⟩,
    fun s c h0 h1 code here => ?_⟩
  · exact exec_trap rfl rfl ready (slotSend_refused bad)
  · exact exec_wait rfl ready (slotSend_waits good short held)
  · exact exec_ok rfl ready (slotSend_sends good short free)
  · exact exec_trap rfl rfl ready (slotSendx_refused bad)
  · exact exec_wait rfl ready (slotSendx_waits good pass held)
  · exact exec_wait rfl ready (slotSendx_asks good pass free away)
  · exact exec_ok rfl ready (slotSendx_sends good pass free there)
  · rw [State.deliver_here here mapped, State.sourced, header1_dest]
    exact ⟨State.core_toPort .., s.stores_counted h, List.length_append⟩
  · rw [State.deliver_mappedOut here out, State.sourced, header1_dest]
    rfl
  · rw [State.deliver_outside away outside, State.sourced, header1_dest]
    rfl
  · rw [State.deliver_away away inside, State.sourced, header1_dest]
    obtain ⟨left, stores, mem⟩ := (s.counted h).sendOut_ack_up up (.message (hdrDest h1 % 18) (hdrDest h1 / 4096) (.msg h0 _ payload tags .plain none
      (s.hart h).dom)) h ⟨s.serial + 1, 0, none, 0, none⟩
    exact ⟨left, (congrArg List.length stores).trans (s.stores_counted h), mem⟩
  · rw [State.bounce_here here]
    exact ⟨State.core_toPort .., rfl⟩

end Sys2Proof.Machine
end

section
/-! ENQ, JOBQ and JOBW (R271, R274): the engine that a command joins, and the state of a job. -/

namespace Sys2Proof.Machine

/-! ### Engines -/

@[simp] theorem State.cluster_modCluster_same (s : State) (k : Nat) (f : Cluster → Cluster) : (s.modCluster k f).cluster k = f (s.cluster k) :=
  State.cluster_setCluster_same ..

@[simp] theorem State.engine_setEngine_same (s : State) (n : Nat) (x : Engine) : (s.setEngine n x).engine n = x := by
  unfold State.setEngine State.engine
  split <;> simp

@[simp] theorem State.setEngine_agenda (s : State) (n : Nat) (x : Engine) : (s.setEngine n x).agenda = s.agenda := by
  unfold State.setEngine
  split <;> rfl

@[simp] theorem State.push_engine (s : State) (e : Event) (n : Nat) : (s.push e).engine n = s.engine n := rfl
@[simp] theorem State.modMe_engine (s : State) (f : Hart → Hart) (n : Nat) : (s.modMe f).engine n = s.engine n := rfl

theorem watched_none {s : State} {k : Kind} {runs : List (Nat × Nat)} (unwatched : s.watchHit s.cur k runs = none) (e : Eff) :
    watched s k runs e = e := by
  rw [watched, unwatched]

/-- What an instruction reads as it issues changes harts, the events under way and the next free value alone. -/
theorem State.readAtIssue_frame (s : State) (h a n : Nat) :
    ∃ free harts agenda, (s.readAtIssue h a n).2 = { s with free := free, harts := harts, agenda := agenda } := by
  unfold State.readAtIssue State.checkRange State.outOfRange State.checkAt
  dsimp only
  repeat' split
  all_goals exact ⟨_, _, _, rfl⟩

@[simp] theorem State.readAtIssue_engine (s : State) (h a n e : Nat) : (s.readAtIssue h a n).2.engine e = s.engine e := by
  obtain ⟨free, harts, agenda, same⟩ := s.readAtIssue_frame h a n
  rw [same]
  rfl

/-! ### ENQ in the order of its checks -/

/-- The bits of a cluster operand that R271 reserves. -/
theorem bf_above_cluster (x : Word) : bf x 18 46 = x.toNat / 2 ^ 18 := by
  have small := x.isLt
  simp only [bf]
  omega

/-- Command c queued at engine n by hart h, the newest of its queue (R271). -/
def State.withCommand (s : State) (n h : Nat) (c : Cmd) : State :=
  let x := s.engine n
  s.setEngine n { x with
    queue := x.queue ++ [c], nextId := x.nextId + 1, states := put x.nextId.toNat 0 x.states,
    lastCluster := clusterOf h, lastCores := put (clusterOf h) (coreOf h % 16) x.lastCores }

/-- The command that the hart that issues reads at a for engine n. -/
def State.commandAt (s : State) (n a : Nat) : Cmd :=
  ⟨wordsOf (s.readAtIssue s.cur a 64).1, s.me.domain.setWidth 16, BitVec.ofNat 4 (s.partOf (clusterOf s.cur)), (s.engine n).nextId, clusterOf s.cur⟩

section
variable {s : State} {rd ra rb e : BitVec 5}

/-- ENQ names no engine, whatever it may reach (R271). -/
def Hart.enqIllegal (x : Hart) (e rb : BitVec 5) : Prop := e.toNat < 8 ∧ rb ≠ 0 ∧ (x.getG rb).toNat / 2 ^ 18 ≠ 0

theorem Hart.enqIllegal_iff {x : Hart} : (e.toNat < 8 && rb != 0 && bf (x.getG rb) 18 46 != 0) = true ↔ x.enqIllegal e rb := by
  simp only [bf_above_cluster, Hart.enqIllegal, Bool.and_eq_true, decide_eq_true_eq, bne_iff_ne, and_assoc]

theorem slotEnq_illegal (bad : s.me.enqIllegal e rb) : slotEnq rd ra rb e s s = .trap .illegal 0 0 := if_pos (Hart.enqIllegal_iff.mpr bad)

section
variable (legal : ¬ s.me.enqIllegal e rb)
include legal

theorem slotEnq_misaligned (misaligned : (s.me.getG ra).toNat % 64 ≠ 0) :
    slotEnq rd ra rb e s s = .trap .queue 0 (word (s.me.getG ra).toNat) :=
  (if_neg (mt Hart.enqIllegal_iff.mp legal)).trans (if_pos (by simpa using misaligned))

section
variable (aligned : (s.me.getG ra).toNat % 64 = 0) (pass : s.plbCheck s.cur .load (s.me.getG ra).toNat 64 = .pass)
include aligned pass

theorem slotEnq_unreached (none : s.engineOf s.cur e rb = none) : slotEnq rd ra rb e s s = .trap .protection 0 (s.me.getG rb) := by
  unfold slotEnq
  dsimp only
  rw [if_neg (mt Hart.enqIllegal_iff.mp legal), if_neg (by simp [aligned]), pass, none]

section
variable {n place : Nat} (engine : s.engineOf s.cur e rb = some (n, place)) (unwatched : s.watchHit s.cur .load [((s.me.getG ra).toNat, 64)] = none)
  (mapped : ¬ (1024 ≤ n ∧ (s.reg 0x240).getLsbD (30 + (n - 1024)) = true))
include engine unwatched mapped

theorem slotEnq_reached : slotEnq rd ra rb e s s =
    if s.me.storeHeld true then .wait s
    else readable s (s.me.getG ra).toNat 64
      (if 64 ≤ (s.engine n).queue.length || !s.enqTurn n s.cur then .wait (s.modMe (fun x => { x with wait := .enq n }))
      else okG (((s.readAtIssue s.cur (s.me.getG ra).toNat 64).2.withCommand n s.cur (s.commandAt n (s.me.getG ra).toNat)).push
        (commandEvent n (s.commandAt n (s.me.getG ra).toNat).words)) rd (word (place + e.toNat * 2 ^ 16 + (s.engine n).nextId.toNat))) := by
  have mapped' : ¬ (1024 ≤ n && bit (s.reg 0x240) (30 + (n - 1024))) = true := by simpa [bit] using mapped
  have id (x : BitVec 16) : BitVec.ofNat 16 x.toNat = x := ofNat_toNat_self x
  unfold slotEnq State.withCommand
  dsimp only
  rw [if_neg (mt Hart.enqIllegal_iff.mp legal), if_neg (by simp [aligned]), pass, engine]
  dsimp only
  rw [watched_none unwatched, if_neg mapped', id, State.readAtIssue_engine]
  rfl

theorem slotEnq_open (held : s.me.storeHeld true = true) : slotEnq rd ra rb e s s = .wait s := by
  rw [slotEnq_reached legal aligned pass engine unwatched mapped, if_pos held]

theorem slotEnq_unread (free : ¬ s.me.storeHeld true = true) (away : s.peekHeld s.cur (s.me.getG ra).toNat 64 = true) :
    slotEnq rd ra rb e s s = .wait (s.askAtIssue s.cur (s.me.getG ra).toNat 64) := by
  rw [slotEnq_reached legal aligned pass engine unwatched mapped, if_neg free, readable_held away]

section
variable (ready : ¬ (s.me.storeHeld true = true ∨ s.peekHeld s.cur (s.me.getG ra).toNat 64 = true))
include ready

theorem slotEnq_read : slotEnq rd ra rb e s s =
    if 64 ≤ (s.engine n).queue.length || !s.enqTurn n s.cur then .wait (s.modMe (fun x => { x with wait := .enq n }))
    else okG (((s.readAtIssue s.cur (s.me.getG ra).toNat 64).2.withCommand n s.cur (s.commandAt n (s.me.getG ra).toNat)).push
      (commandEvent n (s.commandAt n (s.me.getG ra).toNat).words)) rd (word (place + e.toNat * 2 ^ 16 + (s.engine n).nextId.toNat)) := by
  obtain ⟨free, there⟩ := not_or.mp ready
  rw [slotEnq_reached legal aligned pass engine unwatched mapped, if_neg free, readable_there (by simpa using there)]

theorem slotEnq_full (full : 64 ≤ (s.engine n).queue.length ∨ s.enqTurn n s.cur = false) :
    slotEnq rd ra rb e s s = .wait (s.modMe (fun x => { x with wait := .enq n })) := by
  rw [slotEnq_read legal aligned pass engine unwatched mapped ready, if_pos (by simpa using full)]

theorem slotEnq_queues (room : (s.engine n).queue.length < 64) (turn : s.enqTurn n s.cur = true) : slotEnq rd ra rb e s s =
    okG (((s.readAtIssue s.cur (s.me.getG ra).toNat 64).2.withCommand n s.cur (s.commandAt n (s.me.getG ra).toNat)).push
      (commandEvent n (s.commandAt n (s.me.getG ra).toNat).words)) rd (word (place + e.toNat * 2 ^ 16 + (s.engine n).nextId.toNat)) := by
  rw [slotEnq_read legal aligned pass engine unwatched mapped ready, if_neg (by simp [turn]; omega)]

end
end
end
end
end

/-! ### JOBQ and JOBW -/

section
variable {s : State} {rd ra : BitVec 5}

section
variable (none : s.jobOf (s.me.getG ra) = none)
include none

theorem slotJobq_unknown : slotJobq rd ra s s = .trap .queue 0 0 := by rw [slotJobq, none]
theorem slotJobw_unknown (sp : Bool) : slotJobw sp rd ra s s = .trap .queue 0 0 := by rw [slotJobw, none]

end

section
variable {n id : Nat} (known : s.jobOf (s.me.getG ra) = some (some n, id))
include known

theorem slotJobq_known : slotJobq rd ra s s =
    .ok (s.setMe ((if 2 ≤ s.jobState (some n) id then s.me.clearNear else s.me).setG rd (word (s.jobState (some n) id)))) none := by
  simp only [slotJobq, known, okG]
  split
  · exact congrArg (Eff.ok · none) (State.modMe_modMe ..)
  · rfl

theorem slotJobw_done (sp : Bool) (done : 2 ≤ s.jobState (some n) id) :
    slotJobw sp rd ra s s = .ok (s.setMe (s.me.clearNear.setG rd (word (s.jobState (some n) id)))) none := by
  simp only [slotJobw, known, if_pos done]
  exact congrArg (Eff.ok · none) (State.modMe_modMe ..)

section
variable (runs : s.jobState (some n) id < 2)
include runs

theorem slotJobw_asked (asked : s.me.preempt.isSome = true) : slotJobw true rd ra s s = okG s rd 1 := by
  simp only [slotJobw, known, if_neg (Nat.not_le_of_lt runs)]
  exact if_pos asked

theorem slotJobw_waits {sp : Bool} (unasked : sp = false ∨ s.me.preempt = none) : slotJobw sp rd ra s s = .wait s := by
  simp only [slotJobw, known, if_neg (Nat.not_le_of_lt runs)]
  exact if_neg (by rcases unasked with h | h <;> simp [h])

end
end
end

/-! ### The statement -/

section
variable (s : State) (n h : Nat) (c : Cmd)

theorem State.engine_withCommand : (s.withCommand n h c).engine n = { s.engine n with
    queue := (s.engine n).queue ++ [c], nextId := (s.engine n).nextId + 1, states := put (s.engine n).nextId.toNat 0 (s.engine n).states,
    lastCluster := clusterOf h, lastCores := put (clusterOf h) (coreOf h % 16) (s.engine n).lastCores } :=
  State.engine_setEngine_same ..

end

theorem Hart.getG_setG (x : Hart) (r : BitVec 5) (v : Word) : (x.setG r v).getG r = if r = 0 then 0 else v := by
  split
  case isTrue zero => subst zero; rfl
  case isFalse ne => exact Hart.getG_setG_same ne x v

/-- Settles O30: each instruction by its checks in their order; the engine that ENQ joins is that of `engine_withCommand`. -/
theorem enginesTakeCommands : Obligations.EnginesTakeCommands := by
  refine ⟨fun s sp rd ra rb e ready => ⟨fun bad => ?_, fun legal misaligned => ?_, fun legal aligned pass => ⟨fun none => ?_,
      fun n place engine unwatched mapped => ⟨fun held => ?_, fun free away => ?_, fun there full => ?_, fun there room turn => ?_⟩⟩⟩,
    fun s sp rd ra ready => ⟨fun none => ?_, fun n id known => ?_⟩,
    fun s sp rd ra ready => ⟨fun none => ?_, fun n id known => ⟨fun done => ?_, fun runs safe asked => ?_, fun runs unasked => ?_⟩⟩⟩
  · exact exec_trap rfl rfl ready (slotEnq_illegal bad)
  · exact exec_trap rfl rfl ready (slotEnq_misaligned legal misaligned)
  · exact exec_trap rfl rfl ready (slotEnq_unreached legal aligned pass none)
  · exact exec_wait rfl ready (slotEnq_open legal aligned pass engine unwatched mapped held)
  · exact exec_wait rfl ready (slotEnq_unread legal aligned pass engine unwatched mapped free away)
  · exact exec_wait rfl ready (slotEnq_full legal aligned pass engine unwatched mapped there full)
  · refine ⟨_, exec_ok rfl ready (slotEnq_queues legal aligned pass engine unwatched mapped there room turn), ?_⟩
    simp only [State.modMe_engine, State.push_engine, State.engine_withCommand, State.readAtIssue_engine, find_put_same, State.me_modMe,
      Hart.getG_setG]
    exact ⟨rfl, trivial, trivial, trivial, State.mem_push ..⟩
  · exact exec_trap rfl rfl ready (slotJobq_unknown none)
  · exact exec_ok rfl ready (slotJobq_known known)
  · exact exec_trap rfl rfl ready (slotJobw_unknown none sp)
  · exact exec_ok rfl ready (slotJobw_done known sp done)
  · subst safe
    exact exec_okG rfl ready (slotJobw_asked known runs asked)
  · exact exec_wait rfl ready (slotJobw_waits known runs unasked)

end Sys2Proof.Machine
end

section
/-! What leaves the device's engines, its debug modules, the streams of its media blocks and what waits at the host interface as they are: everything
that moves bytes, requests, tasks and messages. -/

namespace Sys2Proof.Machine

/-- The engines and debug modules of the clusters, the media blocks with their streams, and what waits at the host interface. -/
def State.units (s : State) : (Nat → List (Nat × Engine) × Debug) × List (Nat × Engine) × List Nat × List Event :=
  (fun k => ((s.cluster k).engines, (s.cluster k).dbg), s.media, s.streams, s.hostIn)

section
variable {s t : State} (same : t.units = s.units)
include same

theorem State.hostIn_of_units : t.hostIn = s.hostIn := congrArg (fun u => u.2.2.2) same
theorem State.streams_of_units : t.streams = s.streams := congrArg (fun u => u.2.2.1) same
theorem State.dbg_of_units (k : Nat) : (t.cluster k).dbg = (s.cluster k).dbg := congrArg (fun u => (u.1 k).2) same

theorem State.engine_of_units (e : Nat) : t.engine e = s.engine e := by
  have engines : (t.cluster (e / 4)).engines = (s.cluster (e / 4)).engines := congrArg (fun u => (u.1 (e / 4)).1) same
  have media : t.media = s.media := congrArg (fun u => u.2.1) same
  rw [State.engine, State.engine, engines, media]

end

/-! ### Single updates -/

section
variable (s : State)

@[simp] theorem State.setHart_units (h : Nat) (x : Hart) : (s.setHart h x).units = s.units := rfl
@[simp] theorem State.setCore_units (c : Nat) (x : Core) : (s.setCore c x).units = s.units := rfl
@[simp] theorem State.setHome_units (h : Nat) (x : Home) : (s.setHome h x).units = s.units := rfl
@[simp] theorem State.setDie_units (d : Nat) (x : Die) : (s.setDie d x).units = s.units := rfl
@[simp] theorem State.modHart_units (h : Nat) (f : Hart → Hart) : (s.modHart h f).units = s.units := rfl
@[simp] theorem State.modCore_units (c : Nat) (f : Core → Core) : (s.modCore c f).units = s.units := rfl
@[simp] theorem State.modHome_units (h : Nat) (f : Home → Home) : (s.modHome h f).units = s.units := rfl
@[simp] theorem State.modDie_units (d : Nat) (f : Die → Die) : (s.modDie d f).units = s.units := rfl
@[simp] theorem State.push_units (e : Event) : (s.push e).units = s.units := rfl
@[simp] theorem State.fresh_units : s.fresh.units = s.units := rfl
@[simp] theorem State.drawFree_units : s.drawFree.units = s.units := rfl
@[simp] theorem State.setPosted_units (u : Nat) (x : Posted) : (s.setPosted u x).units = s.units := rfl
@[simp] theorem State.owe_units (u n : Nat) : (s.owe u n).units = s.units := rfl
@[simp] theorem State.tellUnit_units (u : Nat) (a : UnitAck) : (s.tellUnit u a).units = s.units := rfl

/-- A cluster changed in nothing but what it filters, sends, walks and stores. -/
theorem State.setCluster_units {k : Nat} {x : Cluster} (engines : x.engines = (s.cluster k).engines) (dbg : x.dbg = (s.cluster k).dbg) :
    (s.setCluster k x).units = s.units := by
  unfold State.units
  congr 1
  funext j
  by_cases own : j = k
  · subst own; simp [engines, dbg]
  · simp [State.cluster_setCluster_other own]

theorem State.modCluster_units {k : Nat} {f : Cluster → Cluster} (engines : (f (s.cluster k)).engines = (s.cluster k).engines)
    (dbg : (f (s.cluster k)).dbg = (s.cluster k).dbg) : (s.modCluster k f).units = s.units :=
  s.setCluster_units engines dbg

/-- What every step of a sequence keeps, the sequence keeps. -/
theorem State.foldl_units {α : Type} {f : State → α → State} (step : ∀ s x, (f s x).units = s.units) (l : List α) :
    (l.foldl f s).units = s.units := by
  induction l generalizing s with
  | nil => rfl
  | cons x l ih => exact (ih (f s x)).trans (step s x)

end

/-! ### Traffic -/

section
variable (s : State)

@[simp] theorem State.sendDown_units (k sender : Nat) (d : Down) : (s.sendDown k sender d).units = s.units :=
  s.modCluster_units (f := fun c => { c with down := c.down ++ [(sender, d)] }) rfl rfl

@[simp] theorem State.answer_units (port : Nat) (x : Answer) : (s.answer port x).units = s.units := by
  cases x with
  | fill dev ms r => exact s.foldl_units (fun s m => s.sendDown_units ..) ms
  | _ => rfl

@[simp] theorem State.sendOut_units (plane : Nat) (m : OutMsg) (x : Answer) : (s.sendOut plane m x).units = s.units := by
  unfold State.sendOut
  dsimp only
  split
  · exact State.answer_units ..
  · rfl
  · exact State.answer_units ..

@[simp] theorem State.leaves_units (r : Req) (x : Answer) : (s.leaves r x).units = s.units := State.sendOut_units ..

@[simp] theorem State.sendAway_units (r : Req) : (s.sendAway r).units = s.units := by
  unfold State.sendAway
  split <;> simp

theorem State.arrived_units (r : Req) (rs : List Req) : (s.arrived r rs).units = s.units := by
  unfold State.arrived
  split <;> rfl

@[simp] theorem State.intoHome_units (h : Nat) (r : Req) : (s.intoHome h r).units = s.units := s.arrived_units ..

@[simp] theorem State.intoBolt_units (k : Nat) (r : Req) : (s.intoBolt k r).units = s.units := by
  unfold State.intoBolt
  rw [State.push_units]
  exact (State.modCluster_units _ rfl rfl).trans (s.arrived_units ..)

@[simp] theorem State.route_units (key : Nat) (r : Req) : (s.route key r).units = s.units := by
  unfold State.route
  split
  · simp
  · split <;> simp

@[simp] theorem State.toHome_units (key : Nat) (r : Req) : (s.toHome key r).units = s.units := by
  unfold State.toHome
  split
  · split
    · rw [State.push_units]
      exact s.modCluster_units rfl rfl
    · simp
  · simp

/-! ### Trace records and trap messages -/

@[simp] theorem State.ringWrite_units (d : Nat) (bs : List Byte) : (s.ringWrite d bs).units = s.units := rfl

@[simp] theorem State.trace_units (k kind : Nat) (corr : BitVec 32) (loc : Nat) : (s.trace k kind corr loc).units = s.units := by
  unfold State.trace
  split <;> rfl

@[simp] theorem State.toService_units (p src x : Nat) (fb : Bool) (payload : List Word) (corr : BitVec 32) :
    (s.toService p src x fb payload corr).units = s.units := by
  unfold State.toService
  dsimp only
  split
  · rfl
  · simp

@[simp] theorem State.sendTrap_units (c p : Nat) (fb : Bool) (src : Nat) (payload : List Word) (corr : BitVec 32) :
    (s.sendTrap c p fb src payload corr).units = s.units := by
  obtain h | ⟨x, f, h⟩ := s.sendTrap_cases c p fb src payload corr <;> rw [h]
  · rfl
  · simp

theorem State.units_of_queueHost {m : HostMsg} {t : State} (queued : s.queueHost m = some t) : t.units = s.units := by
  unfold State.queueHost at queued
  dsimp only at queued
  split at queued
  · cases queued; rfl
  · split at queued <;> cases queued
    rfl

@[simp] theorem State.unitTrap_units (d : Option Nat) (p : Nat) (cause : Cause) (faddr : Word) (corr : BitVec 32) :
    (s.unitTrap d p cause faddr corr).units = s.units := by
  have place (waiting : Bool) (m : HostMsg) (kept : State) (same : kept.units = s.units) :
      (match (if waiting then none else s.queueHost m) with
        | some t => t
        | none => kept).units = s.units := by
    cases waiting
    · cases queued : s.queueHost m with
      | some t => exact s.units_of_queueHost queued
      | none => exact same
    · exact same
  unfold State.unitTrap
  cases d with
  | some d =>
    dsimp only
    split
    · simp
    · exact place _ _ _ rfl
  | none =>
    dsimp only
    split
    · simp
    · exact place _ _ _ rfl

/-! ### Homes -/

@[simp] theorem State.toHbm_units (h : Nat) (e : RangeEntry) (a b : Nat) : (s.toHbm h e a b).units = s.units := by
  unfold State.toHbm
  split
  · rfl
  · split <;> rfl

@[simp] theorem State.settleHome_units (h region a b : Nat) : (s.settleHome h region a b).units = s.units := by
  unfold State.settleHome
  dsimp only
  refine (State.foldl_units _ (fun s e => ?_) _).trans (by simp)
  split <;> simp

@[simp] theorem State.homeMerge_units (h region a : Nat) (cls : Cls) (data : List Byte) (tags : BitVec 64) (poison : BitVec 32) :
    (s.homeMerge h region a cls data tags poison).units = s.units := by
  unfold State.homeMerge
  split <;> simp

@[simp] theorem State.cleanHome_units (h a n : Nat) : (s.cleanHome h a n).units = s.units := by
  unfold State.cleanHome
  dsimp only
  rw [State.settleHome_units, State.modHome_units]
  exact s.foldl_units (fun s d => by simp) _

@[simp] theorem State.writeThrough_units (a n : Nat) : (s.writeThrough a n).units = s.units := by
  refine s.foldl_units (fun s p => ?_) _
  split
  · split
    · rfl
    · split
      · split <;> simp
      · rfl
  · rfl

/-! ### Near caches -/

@[simp] theorem State.outOfRange_units (h o : Nat) (write : Bool) : (s.outOfRange h o write).units = s.units := rfl
@[simp] theorem State.peerWrite_units (data : List (Nat × Byte)) : (s.peerWrite data).units = s.units := rfl
@[simp] theorem State.mapLoads_units (f : PLoad → PLoad) : (s.mapLoads f).units = s.units := rfl
@[simp] theorem State.checkAt_units (h a : Nat) : (s.checkAt h a).units = s.units := rfl

@[simp] theorem State.giveUpAt_units (cid : Nat) (lost : Nat → Bool) : (s.giveUpAt cid lost).units = s.units := by
  unfold State.giveUpAt
  dsimp only
  split
  · refine s.foldl_units (fun s k => ?_) _
    split <;> simp
  · rw [State.mapLoads_units]
    refine s.foldl_units (fun s k => ?_) _
    split <;> simp

@[simp] theorem State.giveUpShared_units (cid region a b : Nat) : (s.giveUpShared cid region a b).units = s.units := s.giveUpAt_units ..

@[simp] theorem State.staleAt_units (cid region a b : Nat) : (s.staleAt cid region a b).units = s.units := by
  unfold State.staleAt
  dsimp only
  refine (State.foldl_units _ (fun s k => ?_) _).trans ?_
  · split <;> simp
  · split <;> simp

@[simp] theorem State.settleNear_units (cid region a b : Nat) : (s.settleNear cid region a b).units = s.units := by
  unfold State.settleNear
  dsimp only
  refine (State.foldl_units _ (fun s e => ?_) _).trans (by simp)
  split
  · split <;> simp
  · split <;> simp

@[simp] theorem State.fillNear_units (cid : Nat) (r : Reply) (gone : List (Nat × Nat)) : (s.fillNear cid r gone).units = s.units := by
  unfold State.fillNear
  dsimp only
  split <;> simp

/-! ### Sharers -/

@[simp] theorem State.trimCore_units (cid region a b : Nat) : (s.trimCore cid region a b).units = s.units := by
  simp [State.trimCore]

@[simp] theorem State.trimCluster_units (k region lo hi : Nat) : (s.trimCluster k region lo hi).units = s.units :=
  s.foldl_units (fun s _ => s.trimCore_units ..) _

/-- A cluster's filter changed. -/
@[simp] theorem State.setFilter_units (k : Nat) (f : Cluster → List FilterEntry) : (s.modCluster k (fun c => { c with filter := f c })).units = s.units :=
  s.modCluster_units rfl rfl

@[simp] theorem State.enterFilter_units (cid region : Nat) : (s.enterFilter cid region).units = s.units := by
  unfold State.enterFilter
  dsimp only
  split
  · simp
  · rw [State.setFilter_units]
    generalize (if (s.cluster (cid / 16)).filter.length < 8 then ([] : List FilterEntry) else _) = mine
    split
    · split
      · rfl
      · simp
    · rfl

@[simp] theorem State.forgetRegion_units (k region : Nat) : (s.forgetRegion k region).units = s.units :=
  (State.foldl_units _ (fun s _ => s.staleAt_units ..) _).trans (s.trimCluster_units ..)

theorem State.setRemoteFilter_units (f : List (Nat × BitVec 256)) : ({ s with remoteFilter := f } : State).units = s.units := rfl

@[simp] theorem State.enterRemote_units (k region : Nat) : (s.enterRemote k region).units = s.units := by
  unfold State.enterRemote
  dsimp only
  split
  · rfl
  · refine (State.setRemoteFilter_units _ _).trans ?_
    generalize (if s.remoteFilter.length < 8 then ([] : List (Nat × BitVec 256)) else _) = mine
    split
    · split
      · rfl
      · exact (State.setRemoteFilter_units _ _).trans (s.foldl_units (fun s _ => s.forgetRegion_units ..) _)
    · rfl

/-! ### Replies -/

@[simp] theorem State.bindLoad_units (h : Nat) (l : PLoad) : (s.bindLoad h l).units = s.units := by
  unfold State.bindLoad
  split
  · rfl
  · dsimp only
    rw [State.modHart_units]
    split <;> rfl

@[simp] theorem State.routeFrom_units (k key : Nat) (r : Req) : (s.routeFrom k key r).units = s.units := by
  unfold State.routeFrom
  rw [State.route_units]
  split
  · split <;> simp
  · rfl

@[simp] theorem State.sendFill_units (cid hm addr len : Nat) (shared : BitVec 8) (cache : Bool) (who : Option Asker) :
    (s.sendFill cid hm addr len shared cache who).units = s.units := by
  unfold State.sendFill
  dsimp only
  split
  · split <;> simp
  · split
    · exact s.setCluster_units rfl rfl
    · rw [State.push_units]
      exact s.setCluster_units rfl rfl

@[simp] theorem State.requestHull_units (h : Nat) (who : Option Asker) (a n : Nat) : (s.requestHull h who a n).units = s.units := by
  unfold State.requestHull
  dsimp only
  split
  · simp
  · simp
  · split
    · split
      · simp
      · rfl
    · rfl
  · rfl

@[simp] theorem State.requestPiece_units (h : Nat) (l : PLoad) (piece : Nat) : (s.requestPiece h l piece).units = s.units := by
  unfold State.requestPiece
  split <;> simp

@[simp] theorem State.giveReply_units (q : Asker) (r : Reply) (gone : List (Nat × Nat)) : (s.giveReply q r gone).units = s.units := by
  have drawn : (if r.refused then s.drawFree else s).units = s.units := by split <;> rfl
  have checked (c : Bool) : (if c then (if r.refused then s.drawFree else s).checkAt q.hid r.addr else if r.refused then s.drawFree else s).units =
      s.units := by
    split
    · exact (State.checkAt_units ..).trans drawn
    · exact drawn
  unfold State.giveReply
  dsimp only
  split
  · split
    · exact (State.bindLoad_units ..).trans (checked _)
    · exact (State.requestPiece_units ..).trans (checked _)
  · split
    · split
      · rfl
      · exact checked _
    · rfl

@[simp] theorem State.landReply_units (cid : Nat) (r : Reply) : (s.landReply cid r).units = s.units := by
  unfold State.landReply
  dsimp only
  refine (State.foldl_units _ (fun s q => ?_) _).trans ?_
  · split <;> simp
  · rw [State.fillNear_units]
    split
    · rw [State.enterFilter_units]
      split <;> simp
    · split <;> simp

/-! ### Stores of the device's units -/

@[simp] theorem State.remoteTrimmed_units (k region : Nat) (left : Bool) : (s.remoteTrimmed k region left).units = s.units := by
  unfold State.remoteTrimmed
  split
  · rfl
  · dsimp only
    split
    · exact State.sendOut_units ..
    · rfl

@[simp] theorem State.actOnInval_units (k : Nat) (v : Inval) : (s.actOnInval k v).units = s.units := by
  unfold State.actOnInval
  dsimp only
  split <;> split <;> simp

@[simp] theorem State.deliverDown_units (k : Nat) (d : Down) : (s.deliverDown k d).units = s.units := by
  cases d <;> simp [State.deliverDown]

@[simp] theorem State.landFor_units (cid region : Nat) : (s.landFor cid region).units = s.units :=
  (State.foldl_units _ (fun s _ => s.deliverDown_units ..) _).trans (s.modCluster_units rfl rfl)

@[simp] theorem State.trimAllCores_units (region a b : Nat) : (s.trimAllCores region a b).units = s.units :=
  s.foldl_units (fun s c => by simp) _

@[simp] theorem State.startWait_units (h : Nat) (w : HomeWait) : (s.startWait h w).units = s.units := by
  unfold State.startWait
  dsimp only
  refine (State.foldl_units _ (fun s dev => by simp) _).trans ?_
  exact (State.foldl_units _ (fun s k => by simp) _).trans (by simp)

@[simp] theorem State.postStore_units (u : Option Nat) (r : Nat × List Byte × Bool) : (s.postStore u r).units = s.units := by
  cases u with
  | some u => simp [State.postStore]
  | none =>
    unfold State.postStore
    dsimp only
    split <;> simp

@[simp] theorem State.postStores_units (u : Option Nat) (a : Nat) (data : List Byte) (tags : BitVec 64) :
    (s.postStores u a data tags).units = s.units :=
  s.foldl_units (fun s _ => s.postStore_units ..) _

@[simp] theorem State.tellDevices_units (u : Option Nat) (h a n : Nat) : (s.tellDevices u h a n).units = s.units := by
  unfold State.tellDevices
  split
  · rfl
  · rfl
  · cases u <;> simp

@[simp] theorem State.devStorePiece_units (u : Option Nat) (a : Nat) (data : List Byte) (tags : BitVec 64) :
    (s.devStorePiece u a data tags).1.units = s.units := by
  unfold State.devStorePiece
  split
  · split
    · simp
    · dsimp only
      split
      · exact s.modCluster_units rfl rfl
      · rfl
  · split <;> simp
  · split
    · simp
    · split
      · rfl
      · dsimp only
        split
        · rfl
        · split <;> simp
  · rfl

@[simp] theorem State.devStoreFor_units (u : Option Nat) (a : Nat) (data : List Byte) : (s.devStoreFor u a data).1.units = s.units := by
  have pieces (r : State × Bool) (l : List (Nat × Nat)) : (l.foldl (fun r p =>
      let (s, ok) := r
      let (s', ok') := s.devStorePiece u p.1 ((data.drop (p.1 - a)).take p.2) 0
      (s', ok && ok')) r).1.units = r.1.units := by
    induction l generalizing r with
    | nil => rfl
    | cons p l ih => exact (ih _).trans (r.1.devStorePiece_units ..)
  exact pieces _ _

@[simp] theorem State.devStore_units (a : Nat) (data : List Byte) : (s.devStore a data).1.units = s.units := s.devStoreFor_units ..

end

end Sys2Proof.Machine
end

section
/-! The jobs of engines (R271 to R277): a command that is taken up, a job that changes and ends, and what an access for it does not depend on. -/

namespace Sys2Proof.Machine

/-! ### An engine changed -/

section
variable (s : State) (e : Nat)

/-- A state that differs from another in its clusters and media blocks alone, and in no Bolt. -/
def State.besideEngines (s t : State) : Prop :=
  (∀ k, (t.cluster k).bolt = (s.cluster k).bolt) ∧ t = { s with clusters := t.clusters, media := t.media }

theorem State.setEngine_beside (x : Engine) : s.besideEngines (s.setEngine e x) := by
  unfold State.setEngine
  split
  · refine ⟨fun k => ?_, rfl⟩
    by_cases own : k = e / 4
    · rw [own, State.cluster_modCluster_same]
    · rw [State.modCluster, State.cluster_setCluster_other own]
  · exact ⟨fun k => rfl, rfl⟩

theorem State.modJob_beside (f : Job → Job) : s.besideEngines (s.modJob e f) := s.setEngine_beside ..
theorem State.started_beside (c : Cmd) (rest : List Cmd) : s.besideEngines (s.started e c rest) := s.setEngine_beside ..

@[simp] theorem State.engine_modEngine_same (f : Engine → Engine) : (s.modEngine e f).engine e = f (s.engine e) := s.engine_setEngine_same ..

@[simp] theorem State.engine_modJob_same (f : Job → Job) : (s.modJob e f).engine e = { s.engine e with job := (s.engine e).job.map f } :=
  s.engine_setEngine_same ..

@[simp] theorem State.engine_started_same (c : Cmd) (rest : List Cmd) : (s.started e c rest).engine e =
    { s.engine e with queue := rest, job := some ⟨c, 0, 0, 0, false, none⟩, states := put c.id.toNat 1 (s.engine e).states } :=
  s.engine_setEngine_same ..

@[simp] theorem State.setPosted_engine (u : Nat) (x : Posted) (n : Nat) : (s.setPosted u x).engine n = s.engine n := rfl

end

section
variable {s t : State} (beside : s.besideEngines t)
include beside

/-- What a state holds beside its engines is what any state holds that differs in them alone. -/
theorem State.besideEngines_field {α : Type} (f : State → α) (blind : ∀ cl md, f { s with clusters := cl, media := md } = f s) : f t = f s := by
  obtain ⟨-, same⟩ := beside
  rw [same]
  exact blind ..

theorem State.unitLeaf_beside (a : Nat) : t.unitLeaf a = s.unitLeaf a := State.besideEngines_field beside (·.unitLeaf a) fun _ _ => rfl
theorem State.reachesOut_beside (a : Nat) : t.reachesOut a = s.reachesOut a := State.besideEngines_field beside (·.reachesOut a) fun _ _ => rfl
theorem State.unitRead_beside (u a : Nat) : t.unitRead u a = s.unitRead u a := State.besideEngines_field beside (·.unitRead u a) fun _ _ => rfl
theorem State.allowed_beside (d : BitVec 16) (k : Kind) (a : Nat) : t.allowed d k a = s.allowed d k a :=
  State.besideEngines_field beside (·.allowed d k a) fun _ _ => rfl
theorem State.isolates_beside (p a : Nat) : t.isolates p a = s.isolates p a := State.besideEngines_field beside (·.isolates p a) fun _ _ => rfl
theorem State.devHeld_beside (w : Bool) (a n : Nat) : t.devHeld w a n = s.devHeld w a n :=
  State.besideEngines_field beside (·.devHeld w a n) fun _ _ => rfl
theorem State.groupOf_beside (g : Nat) : t.groupOf g = s.groupOf g := State.besideEngines_field beside (·.groupOf g) fun _ _ => rfl
theorem State.homes_beside : t.homes = s.homes := State.besideEngines_field beside (·.homes) fun _ _ => rfl
theorem State.mem_beside : t.mem = s.mem := State.besideEngines_field beside (·.mem) fun _ _ => rfl
theorem State.cores_beside : t.cores = s.cores := State.besideEngines_field beside (·.cores) fun _ _ => rfl
theorem State.out_beside : t.out = s.out := State.besideEngines_field beside (·.out) fun _ _ => rfl
theorem State.free_beside : t.free = s.free := State.besideEngines_field beside (·.free) fun _ _ => rfl
theorem State.posted_beside : t.posted = s.posted := State.besideEngines_field beside (·.posted) fun _ _ => rfl
theorem State.agenda_beside : t.agenda = s.agenda := State.besideEngines_field beside (·.agenda) fun _ _ => rfl

theorem State.devByte_beside (a : Nat) : t.devByte a = s.devByte a := by
  obtain ⟨bolts, same⟩ := beside
  have devnum : t.devnum = s.devnum := by rw [same]; rfl
  unfold State.devByte
  split
  · rfl
  · rfl
  · rw [same]
  · rw [bolts, devnum, show t.free = s.free by rw [same]]
  · rw [same]; rfl

theorem State.unitByte_beside (u a : Nat) : t.unitByte u a = s.unitByte u a := by
  rw [State.unitByte, State.unitByte, State.reachesOut_beside beside, State.unitRead_beside beside, State.devByte_beside beside]

theorem State.engineFails_beside (e : Nat) (c : Cmd) (k : Kind) (a : Nat) : t.engineFails e c k a = s.engineFails e c k a := by
  unfold State.engineFails
  rw [State.allowed_beside beside, State.isolates_beside beside, State.reachesOut_beside beside, State.unitRead_beside beside,
    State.devByte_beside beside]

theorem State.engineFault_beside (e : Nat) (c : Cmd) (k : Kind) (a n : Nat) : t.engineFault e c k a n = s.engineFault e c k a n := by
  simp only [State.engineFault, State.engineFails_beside beside]

end

/-! ### Jobs that begin and end -/

section
variable {s : State} {e : Nat}

section
variable {ev : Event} {c : Cmd} {rest : List Cmd} (takes : s.takes e ev c rest) {held : Cmd → Option State} {f : State → Cmd → State}
include takes

theorem State.takeCommand_held {v : State} (waits : held c = some v) : s.takeCommand e ev held f = v.push ev := by
  obtain ⟨idle, queue, kind, unparked⟩ := takes
  simp [State.takeCommand, idle, queue, kind, unparked, waits]

theorem State.takeCommand_taken (free : held c = none) : s.takeCommand e ev held f = f (s.started e c rest) c := by
  obtain ⟨idle, queue, kind, unparked⟩ := takes
  simp [State.takeCommand, State.started, idle, queue, kind, unparked, free]

end

theorem State.engine_endJob {j : Job} (runs : (s.engine e).job = some j) (status written : Nat) :
    (s.endJob e status written).engine e = { s.engine e with job := some { j with status := status, written := written, ended := true } } := by
  rw [State.endJob, State.push_engine, State.engine_modJob_same, State.setPosted_engine, runs]
  rfl

theorem State.endJob_complete (status written : Nat) : Event.jobComplete e ∈ (s.endJob e status written).agenda := State.mem_push ..

variable (s e) in
/-- The end of a job's data movement leaves memory, homes, cores and what has left the device as they are. -/
theorem State.endJob_keeps (status written : Nat) : (s.endJob e status written).mem = s.mem ∧ (s.endJob e status written).homes = s.homes ∧
    (s.endJob e status written).cores = s.cores ∧ (s.endJob e status written).out = s.out := by
  have beside := (s.setPosted (readUnit e) Posted.none).modJob_beside e (fun j => { j with status := status, written := written, ended := true })
  exact ⟨(State.mem_beside beside :), (State.homes_beside beside :), (State.cores_beside beside :), (State.out_beside beside :)⟩

/-- The job of a command that has just become the engine's, ended. -/
theorem State.engine_started_endJob (c : Cmd) (rest : List Cmd) (status written : Nat) :
    ((s.started e c rest).endJob e status written).engine e =
      { s.engine e with
        queue := rest
        job := some ⟨c, 0, written, status, true, none⟩
        states := put c.id.toNat 1 (s.engine e).states } := by
  rw [State.engine_endJob (j := ⟨c, 0, 0, 0, false, none⟩) (by simp), State.engine_started_same]

theorem State.mem_endJob {c : Cmd} {rest : List Cmd} {status written : Nat} : ((s.started e c rest).endJob e status written).mem = s.mem :=
  (State.endJob_keeps ..).1.trans (State.mem_beside (s.started_beside e c rest))

end

end Sys2Proof.Machine
end

section
/-! Copy harts (R272, R275 to R277): what a copy command comes to, and one chunk of a plain copy. -/

namespace Sys2Proof.Machine

section
variable (s : State) (e : Nat) (c : Cmd) (rest : List Cmd)

/-- What a copy command that is taken up comes to (R272, R275). -/
def State.beginCopy : State :=
  if c.len = 0 then (s.started e c rest).endJob e 0 0
  else if c.xform = 5 && c.len % 128 != 0 then (s.started e c rest).endJob e 2 0
  else (s.started e c rest).push (.copyChunk e)

theorem execCopy_takes {s : State} {e : Nat} {c : Cmd} {rest : List Cmd} (takes : s.takes e (.copy e) c rest) :
    execCopy e s = .next (s.beginCopy e c rest) :=
  congrArg Host.Outcome.next (State.takeCommand_taken (held := fun _ => none) takes rfl)

end

/-! ### A chunk of a plain copy -/

section
variable {s : State} {e : Nat} {j : Job}

theorem State.engineFault_within {c : Cmd} {k : Kind} {a n x : Nat} (fault : s.engineFault e c k a n = some x) : a ≤ x ∧ x - a < n := by
  obtain ⟨i, found, rfl⟩ := Option.map_eq_some_iff.mp fault
  have := List.mem_range.mp (List.mem_of_find?_eq_some found)
  omega

/-- The bytes that the next chunk of a plain copy moves: at most 512 of what is left (R275). -/
def Job.chunk (j : Job) : Nat := min 512 (j.cmd.len - j.done)

/-- A plain copy: its bytes land as they are, without tags, and its extents do not overlap (R265, R275, R276). -/
def Job.plain (j : Job) : Prop :=
  j.cmd.xform = 0 ∧ j.cmd.tagp = false ∧ j.held = none ∧ overlaps j.cmd.src j.cmd.len j.cmd.dst j.cmd.len = false

section
variable (plain : j.plain)
include plain

theorem Cmd.landed_plain (rd : Nat → Byte) : j.cmd.landed rd = j.cmd.len := by
  obtain ⟨xform, -, -, -⟩ := plain
  simp [Cmd.landed, xform]

theorem Job.reads_plain : j.reads = j.chunk := by
  have landed := Cmd.landed_plain plain
  obtain ⟨xform, -, -, apart⟩ := plain
  unfold Job.reads Job.chunk
  simp only [landed, apart, xform]
  split
  · rfl
  case isFalse start => simp [show j.done = 0 by simpa using start]

theorem State.holdSource_plain : s.holdSource e j = some j := by
  have landed := Cmd.landed_plain plain
  obtain ⟨-, -, -, apart⟩ := plain
  unfold State.holdSource
  simp [landed, apart]

theorem Cmd.land_plain (bs : List Byte) : j.cmd.land bs = some bs := by
  obtain ⟨xform, -, -, -⟩ := plain
  simp [Cmd.land, xform, transform]

theorem State.chunkTags_plain (n : Nat) : s.chunkTags e j n = [] := by
  obtain ⟨-, tagp, -, -⟩ := plain
  simp [State.chunkTags, tagp]

theorem State.srcByte_plain (i : Nat) : s.srcByte e j i = (s.unitByte (readUnit e) (j.cmd.src + i)).getD 0 := by
  obtain ⟨-, -, held, -⟩ := plain
  simp [State.srcByte, held]

theorem nextChunk_plain (left : Nat) (rd : Nat → Byte) : nextChunk j.cmd.xform left none rd = .ok (min 512 left) := by
  obtain ⟨xform, -, -, -⟩ := plain
  simp [nextChunk, xform]

theorem nextChunk_plain_fails {left bad : Nat} (within : bad < min 512 left) (rd : Nat → Byte) :
    nextChunk j.cmd.xform left (some bad) rd = .fails bad := by
  obtain ⟨xform, -, -, -⟩ := plain
  simp only [nextChunk, xform, if_pos within]
  rfl

/-- The bytes of the next chunk of a plain copy, as they stand (R275). -/
def State.chunkBytes (s : State) (e : Nat) (j : Job) : List Byte :=
  (List.range j.chunk).map (fun i => (s.unitByte (readUnit e) (j.cmd.src + (j.done + i))).getD 0)

omit plain in
theorem State.length_chunkBytes : (s.chunkBytes e j).length = j.chunk := by simp [State.chunkBytes]

/-- What follows a chunk of n bytes that has been written (R275). -/
def State.afterChunk (s : State) (e : Nat) (j : Job) (n : Nat) : State :=
  if j.cmd.len ≤ j.done + n then s.endJob e 0 (j.written + n)
  else (s.modJob e (fun j => { j with done := j.done + n, written := j.written + n })).push (.copyChunk e)

theorem State.writeChunk_plain (stores : s.engineFault e j.cmd .store (j.cmd.dst + j.written) j.chunk = none)
    (free : s.devHeld true (j.cmd.dst + j.written) j.chunk = false) :
    s.writeChunk e j j.chunk = (s.chunkWrite e (j.cmd.dst + j.written) (s.chunkBytes e j) []).afterChunk e j j.chunk := by
  have bytes : (List.range j.chunk).map (fun i => s.srcByte e j (j.done + i)) = s.chunkBytes e j :=
    List.map_congr_left fun i _ => State.srcByte_plain plain _
  unfold State.writeChunk
  simp only [bytes, Cmd.land_plain plain, State.chunkTags_plain plain, State.length_chunkBytes, stores, free]
  rfl

section
variable (job : (s.engine e).job = some j) (runs : j.ended = false) (unparked : (s.engine e).parked = false)
  (goes : (s.cluster (e / 4)).dbg.halted = false) (there : s.devHeld false (j.cmd.src + j.done) j.chunk = false)
include job runs unparked goes there

theorem State.copyChunk_asks {v : State} (far : s.gather (readUnit e) (s.readPieces j.cmd (j.cmd.src + j.done) j.chunk) = some v) :
    s.copyChunk e = v.push (.copyChunk e) := by
  unfold State.copyChunk
  simp [job, runs, unparked, goes, Job.reads_plain plain, there, far]

section
variable (near : s.gather (readUnit e) (s.readPieces j.cmd (j.cmd.src + j.done) j.chunk) = none)
include near

theorem State.copyChunk_moves (loads : s.engineFault e j.cmd .load (j.cmd.src + j.done) j.chunk = none) :
    s.copyChunk e = (s.modJob e (fun _ => j)).writeChunk e j j.chunk := by
  unfold State.copyChunk
  have loads' : s.engineFault e j.cmd .load (j.cmd.src + j.done) (min 512 (j.cmd.len - j.done)) = none := loads
  simp only [job, runs, unparked, goes, Job.reads_plain plain, there, near, State.holdSource_plain plain, loads', Option.map_none,
    nextChunk_plain plain]
  rfl

theorem State.copyChunk_faults {a : Nat} (stores : s.engineFault e j.cmd .store (j.cmd.dst + j.written) j.chunk = none)
    (loads : s.engineFault e j.cmd .load (j.cmd.src + j.done) j.chunk = some a) :
    s.copyChunk e = (s.modJob e (fun _ => j)).copyFault e j.cmd a := by
  obtain ⟨low, within⟩ := State.engineFault_within loads
  have xform := plain.1
  have beside := s.modJob_beside e (fun _ => j)
  have stores' : (s.modJob e (fun _ => j)).engineFault e j.cmd .store (j.cmd.dst + j.written) (j.cmd.landLength (min 512 (j.cmd.len - j.done))) =
      none := by
    rw [State.engineFault_beside beside, Cmd.landLength, if_neg (by simp [xform])]
    exact stores
  have loads' : s.engineFault e j.cmd .load (j.cmd.src + j.done) (min 512 (j.cmd.len - j.done)) = some a := loads
  unfold State.copyChunk
  simp only [job, runs, unparked, goes, Job.reads_plain plain, there, near, State.holdSource_plain plain, loads', Option.map_some,
    nextChunk_plain_fails plain within, stores', ite_self, Option.toList_none, List.foldl_cons, List.foldl_nil, min_self,
    show j.cmd.src + j.done + (a - (j.cmd.src + j.done)) = a by omega]
  rfl

end
end
end
end

/-! ### A copy hart that parks -/

section
variable (s : State) (e : Nat) (c : Cmd) (a : Nat)

@[simp] theorem State.sendTrap_homes (k p : Nat) (fb : Bool) (src : Nat) (payload : List Word) (corr : BitVec 32) :
    (s.sendTrap k p fb src payload corr).homes = s.homes := by
  obtain h | ⟨x, f, h⟩ := s.sendTrap_cases k p fb src payload corr <;> rw [h]
  · rfl
  · unfold State.toService
    dsimp only
    split
    · rfl
    · rw [State.sendOut_nothing]

@[simp] theorem State.trace_homes (k kind : Nat) (corr : BitVec 32) (loc : Nat) : (s.trace k kind corr loc).homes = s.homes := by
  unfold State.trace
  split <;> rfl

theorem State.copyFault_parks : ((s.copyFault e c a).engine e).parked = true ∧ ((s.copyFault e c a).engine e).faddr = word a ∧
    ((s.copyFault e c a).engine e).parkSeq = (s.engine e).parkSeq + 1 := by
  unfold State.copyFault
  dsimp only
  rw [State.engine_of_units ((State.trace_units ..).trans (State.sendTrap_units ..)), State.engine_setEngine_same]
  exact ⟨rfl, rfl, rfl⟩

theorem State.copyFault_homes : (s.copyFault e c a).homes = s.homes := by
  unfold State.copyFault
  dsimp only
  rw [State.trace_homes, State.sendTrap_homes]
  exact (State.homes_beside ((s.setPosted (readUnit e) Posted.none).setEngine_beside e _) :)

end

end Sys2Proof.Machine
end

section
/-! Collective and media engines (R350 to R352). -/

namespace Sys2Proof.Machine

/-- The group of a collective command, and its root's rank (R350). -/
def Cmd.group (c : Cmd) : Nat := bf (dw c.words 6) 0 16
def Cmd.root (c : Cmd) : Nat := bf (dw c.words 6) 48 16

/-- An empty extent is held nowhere. -/
theorem State.devHeld_nothing (s : State) (w : Bool) (a : Nat) : s.devHeld w a 0 = false := by
  simp [State.devHeld, extentSplit, extentSplit.go]

section
variable {s : State} {e : Nat} {ev : Event} {reads : Nat → Nat → Bool} {rooted : Bool} {size : Nat → Cmd → Nat}
  {out : Nat → Nat → State → Cmd → List Byte} {c : Cmd} {rest : List Cmd}

/-- What a collective reads through its engine: its group's member list and, where this device's source is read, that (R350). -/
def State.collectReads (s : State) (c : Cmd) (read : Bool) : List (Nat × Nat) :=
  extentSplit (s.reg (0x7000 + 16 * c.group)).toNat (2 * (s.groupOf c.group).1) ++ s.readPieces c c.src (if read then c.len else 0)

section
variable (takes : s.takes e ev c rest) (list : s.devHeld false (s.reg (0x7000 + 16 * c.group)).toNat (2 * (s.groupOf c.group).1) = false)
  (source : reads (s.groupOf c.group).2 c.root = true → s.devHeld false c.src c.len = false)
  (landing : s.devHeld true c.dst (size (s.groupOf c.group).1 c) = false)

include list source landing in
/-- Nothing that it moves is held at a home. -/
theorem State.collective_free : ¬ (s.devHeld false (s.reg (0x7000 + 16 * c.group)).toNat (2 * (s.groupOf c.group).1) ||
    s.devHeld false c.src (if reads (s.groupOf c.group).2 c.root then c.len else 0) || s.devHeld true c.dst (size (s.groupOf c.group).1 c)) = true := by
  have source' : s.devHeld false c.src (if reads (s.groupOf c.group).2 c.root then c.len else 0) = false := by
    split
    case isTrue read => exact source read
    case isFalse => exact s.devHeld_nothing ..
  simp only [list, source', landing]
  decide

include takes list source landing

theorem State.collective_asks {v : State} (far : s.gather (readUnit e) (s.collectReads c (reads (s.groupOf c.group).2 c.root)) = some v) :
    s.collective e ev reads rooted size out = v.push ev := by
  unfold State.collective
  refine State.takeCommand_held takes ?_
  exact (if_neg (State.collective_free list source landing)).trans far

section
variable (near : s.gather (readUnit e) (s.collectReads c (reads (s.groupOf c.group).2 c.root)) = none)
include near

theorem State.collective_started : s.collective e ev reads rooted size out =
    (let u := s.started e c rest
     let n := (s.groupOf c.group).1
     let own := (s.groupOf c.group).2
     if n = 0 || 576 < n || n ≤ own || (rooted && n ≤ c.root) then u.endJob e 2 0
     else match u.membersOf e c.group n with
      | none => u.endJob e 1 0
      | some members =>
        let bs := out n own u c
        if (reads own c.root && (u.engineFault e c .load c.src c.len).isSome) || (u.engineFault e c .store c.dst bs.length).isSome then u.endJob e 1 0
        else
          let v := if reads own c.root then u.shareSource e c own members else u
          (({ v with free := v.free + n } : State).devStoreFor (some e) c.dst bs).1.endJob e 0 bs.length) := by
  have group : (s.started e c rest).groupOf c.group = s.groupOf c.group := State.groupOf_beside (s.started_beside e c rest) _
  unfold State.collective
  refine (State.takeCommand_taken takes ?_).trans ?_
  · exact (if_neg (State.collective_free list source landing)).trans near
  · rw [← group]
    rfl

theorem State.collective_malformed (bad : (s.groupOf c.group).1 = 0 ∨ 576 < (s.groupOf c.group).1 ∨
    (s.groupOf c.group).1 ≤ (s.groupOf c.group).2 ∨ (rooted = true ∧ (s.groupOf c.group).1 ≤ c.root)) :
    s.collective e ev reads rooted size out = (s.started e c rest).endJob e 2 0 := by
  rw [State.collective_started takes list source landing near]
  exact if_pos (by simpa [or_assoc] using bad)

section
variable (member : (s.groupOf c.group).2 < (s.groupOf c.group).1) (few : (s.groupOf c.group).1 ≤ 576)
  (root : rooted = true → c.root < (s.groupOf c.group).1)

include member few root in
omit takes list source landing near in
theorem collective_wellFormed : ¬ ((s.groupOf c.group).1 = 0 || 576 < (s.groupOf c.group).1 || (s.groupOf c.group).1 ≤ (s.groupOf c.group).2 ||
    (rooted && (s.groupOf c.group).1 ≤ c.root)) = true := by
  cases rooted
  · simp; omega
  · have := root rfl
    simp; omega

include member few root

theorem State.collective_unlisted (unlisted : (s.started e c rest).membersOf e c.group (s.groupOf c.group).1 = none) :
    s.collective e ev reads rooted size out = (s.started e c rest).endJob e 1 0 := by
  rw [State.collective_started takes list source landing near]
  dsimp only
  rw [if_neg (collective_wellFormed member few root), unlisted]

theorem State.collective_runs {members : List Nat} (listed : (s.started e c rest).membersOf e c.group (s.groupOf c.group).1 = some members)
    (loads : reads (s.groupOf c.group).2 c.root = true → (s.started e c rest).engineFault e c .load c.src c.len = none)
    (stores : (s.started e c rest).engineFault e c .store c.dst (out (s.groupOf c.group).1 (s.groupOf c.group).2 (s.started e c rest) c).length = none) :
    s.collective e ev reads rooted size out =
      (let u := s.started e c rest
       let n := (s.groupOf c.group).1
       let own := (s.groupOf c.group).2
       let bs := out n own u c
       let v := if reads own c.root then u.shareSource e c own members else u
       (({ v with free := v.free + n } : State).devStoreFor (some e) c.dst bs).1.endJob e 0 bs.length) := by
  rw [State.collective_started takes list source landing near]
  dsimp only
  rw [if_neg (collective_wellFormed member few root), listed]
  refine if_neg ?_
  rw [stores]
  cases read : reads (s.groupOf c.group).2 c.root
  · simp
  · simp [loads read]

end
end
end
end

/-! ### Reductions of two ranks -/

theorem collTree_two (f : Nat → Nat → Nat) (x : Nat → Nat) : collTree 2 f x 2 0 2 = f (x 0) (x 1) := by
  simp [collTree, Nat.mod_one]

/-! ### Media blocks -/

section
variable {s : State} {e : Nat} {c : Cmd} {rest : List Cmd} (takes : s.takes e (.mediaDecode e) c rest) (source : s.devHeld false c.src c.len = false)
  (landing : s.devHeld true c.dst c.tensorBytes = false)
include takes source landing

theorem State.mediaDecode_asks {v : State} (far : s.gather (readUnit e) (s.readPieces c c.src c.len) = some v) :
    s.mediaDecode e = v.push (.mediaDecode e) :=
  State.takeCommand_held takes ((if_neg (by simp [source, landing])).trans far)

theorem State.mediaDecode_runs (near : s.gather (readUnit e) (s.readPieces c c.src c.len) = none)
    (loads : (s.started e c rest).engineFault e c .load c.src c.len = none)
    (stores : (s.started e c rest).engineFault e c .store c.dst c.tensorBytes = none) : ∃ bs,
    s.mediaDecode e =
      (let u := s.started e c rest
       let key := 256 * (e - 1024) + bf (dw c.words 6) 0 8
       let left := u.streams.filter (· != key)
       let ok := Config.mediaDecodes u.free
       (({ u with free := u.free + 1, streams := if ok then left ++ [key] else left } : State).devStoreFor (some e) c.dst bs).1.endJob e
        (if ok then 0 else 4) c.tensorBytes) := by
  refine ⟨_, (State.takeCommand_taken takes ((if_neg (by simp [source, landing])).trans near)).trans (if_neg ?_)⟩
  simp [loads, stores]

end

/-- What a frame's store leaves: the job ended, and the stream kept where it decodes (R351, R352). -/
theorem State.mediaDecode_leaves {u : State} {e key : Nat} {c : Cmd} {ok : Bool} {bs : List Byte} {n : Nat}
    (runs : (u.engine e).job = some ⟨c, 0, 0, 0, false, none⟩) :
    let left := u.streams.filter (· != key)
    let t := (({ u with free := u.free + 1, streams := if ok then left ++ [key] else left } : State).devStoreFor (some e) c.dst bs).1.endJob e
      (if ok then 0 else 4) n
    (t.engine e).job = some ⟨c, 0, n, if ok then 0 else 4, true, none⟩ ∧ (key ∈ t.streams ↔ ok = true) := by
  intro left t
  have units := State.devStoreFor_units ({ u with free := u.free + 1, streams := if ok then left ++ [key] else left } : State) (some e) c.dst bs
  have job := congrArg Engine.job (State.engine_of_units units e)
  have streams : t.streams = if ok then left ++ [key] else left :=
    (State.besideEngines_field (State.modJob_beside ..) (·.streams) fun _ _ => rfl).trans (State.streams_of_units units)
  refine ⟨congrArg Engine.job (State.engine_endJob (job.trans runs) ..), ?_⟩
  rw [streams]
  cases ok <;> simp [left]

theorem Cmd.tensorBytes_eq (c : Cmd) : c.tensorBytes =
    (let n := 3 * bf (dw c.words 7) 0 16 * bf (dw c.words 7) 16 16
     if bf (dw c.words 6) 10 2 = 1 then n else 2 * n) := by
  dsimp only
  unfold Cmd.tensorBytes
  split <;> ring

end Sys2Proof.Machine
end

section
/-! A job that has ended completes (R273): its mailbox word, its counter, its state, and the next command. -/

namespace Sys2Proof.Machine

@[simp] theorem dw_setAt_zero (i : Nat) (l : List Word) : dw (setAt i 0 l) i = 0 := by
  induction l generalizing i with
  | nil => simp [setAt, dw]
  | cons x l ih =>
    cases i with
    | zero => rfl
    | succ i => exact ih i

section
variable {s : State} {e : Nat} {j : Job}

theorem State.setEngine_dbg (s : State) (n : Nat) (x : Engine) (k : Nat) : ((s.setEngine n x).cluster k).dbg = (s.cluster k).dbg := by
  unfold State.setEngine
  split
  · by_cases own : k = n / 4
    · rw [own, State.cluster_modCluster_same]
    · rw [State.modCluster, State.cluster_setCluster_other own]
  · rfl

/-! ### The mailbox -/

/-- The job without its mailbox, whose word has been stored. -/
def Job.posted (j : Job) : Job := { j with cmd := { j.cmd with words := setAt 4 0 j.cmd.words } }

/-- The mailbox of the job's command, and its word (R273). -/
def Job.mbox (j : Job) : Nat := (dw j.cmd.words 4).toNat
def Job.mailWord (j : Job) : Word := word (j.cmd.id.toNat * 2 ^ 48 + j.status * 2 ^ 40 + j.written % 2 ^ 40)

theorem State.storeMailbox_cases (s : State) (e : Nat) (j : Job) :
    s.storeMailbox e j = s.modJob e Job.posted ∨ s.storeMailbox e j = (s.devStoreFor (some e) j.mbox (toBytes j.mailWord 8)).1.modJob e Job.posted := by
  unfold State.storeMailbox
  dsimp only
  split
  · exact .inl rfl
  · exact .inr rfl

theorem State.storeMailbox_none (none : j.mbox = 0) : s.storeMailbox e j = s.modJob e Job.posted := by
  unfold State.storeMailbox Job.mbox at *
  dsimp only
  rw [if_pos (by simp [none])]
  rfl

theorem State.storeMailbox_stores (named : j.mbox ≠ 0) (aligned : j.mbox % 8 = 0) (stores : s.engineFault e j.cmd .store j.mbox 8 = none) :
    s.storeMailbox e j = (s.devStoreFor (some e) j.mbox (toBytes j.mailWord 8)).1.modJob e Job.posted := by
  unfold State.storeMailbox Job.mbox at *
  dsimp only
  rw [if_neg (by simp [named, aligned, stores])]
  rfl

theorem State.storeMailbox_engine (job : (s.engine e).job = some j) :
    (s.storeMailbox e j).engine e = { s.engine e with job := some j.posted } := by
  rcases s.storeMailbox_cases e j with stored | stored <;> rw [stored, State.engine_modJob_same]
  · rw [job]; rfl
  · rw [State.engine_of_units (State.devStoreFor_units ..), job]; rfl

theorem State.storeMailbox_dbg (s : State) (e : Nat) (j : Job) (k : Nat) : ((s.storeMailbox e j).cluster k).dbg = (s.cluster k).dbg := by
  rcases s.storeMailbox_cases e j with stored | stored <;> rw [stored]
  · exact State.setEngine_dbg ..
  · exact (State.setEngine_dbg ..).trans (State.dbg_of_units (State.devStoreFor_units ..) k)

/-! ### The stages of a completion -/

/-- The counter that the command names is told (R273, step 2). -/
def State.tellJobCounter (s : State) (j : Job) : State :=
  let loc := bf (dw j.cmd.words 5) 0 22
  if !bit (dw j.cmd.words 0) 22 then s
  else if loc / 4096 = s.devnum then s.countAt (loc % 4096) (bf (dw j.cmd.words 0) 16 6) 1 j.cmd.corr
  else s.sendOut (loc % 18) (.message (loc % 18) (loc / 4096) (.count (bf (dw j.cmd.words 0) 16 6) 1 j.cmd.corr)) .nothing

/-- The job has left its engine, in the state that its status gives (R274). -/
def State.retireJob (s : State) (e : Nat) (j : Job) : State :=
  s.modEngine e (fun x => { x with job := none, states := put j.cmd.id.toNat (if j.status = 0 then 2 else 3) x.states })

/-- The cluster whose debug module records the job's completion. -/
def tracesJob (e : Nat) (j : Job) : Nat := if e < 1024 then e / 4 else j.cmd.cluster

/-- The job is over: its stores are acknowledged, and its counter, state and record follow (R273). -/
def State.retired (s : State) (e : Nat) (j : Job) : State :=
  let t := ((s.setPosted e Posted.none).tellJobCounter j).retireJob e j
  t.trace (tracesJob e j) 5 j.cmd.corr (t.engineLoc e j.cmd)

/-- The next command of the engine begins (R271). -/
def State.nextCommand (s : State) (e : Nat) : State :=
  match (s.engine e).queue with
  | c :: _ => s.push (commandEvent e c.words)
  | [] => s

section
variable (job : (s.engine e).job = some j)
include job

theorem State.completeJob_runs (runs : j.ended = false) : s.completeJob e = s := by
  simp [State.completeJob, job, runs]

section
variable (ended : j.ended = true)
include ended

theorem State.completeJob_ended : s.completeJob e =
    if !s.settled e || (j.mbox != 0 && j.mbox % 8 == 0 && s.devHeld true j.mbox 8) then s.push (.jobComplete e)
    else if (s.storeMailbox e j).settled e then ((s.storeMailbox e j).retired e j).nextCommand e
    else (s.storeMailbox e j).push (.jobComplete e) := by
  unfold State.completeJob
  rw [job]
  dsimp only
  rw [if_neg (by simp [ended])]
  congr 1
  cases (s.storeMailbox e j).settled e <;> rfl

theorem State.completeJob_waits (waits : s.settled e = false ∨ (j.mbox ≠ 0 ∧ j.mbox % 8 = 0 ∧ s.devHeld true j.mbox 8 = true)) :
    s.completeJob e = s.push (.jobComplete e) := by
  rw [State.completeJob_ended job ended]
  refine if_pos ?_
  rcases waits with unsettled | ⟨named, aligned, held⟩
  · simp [unsettled]
  · simp [named, aligned, held]

section
variable (settled : s.settled e = true) (free : j.mbox ≠ 0 → j.mbox % 8 = 0 → s.devHeld true j.mbox 8 = false)
include settled free

theorem State.completeJob_posts : s.completeJob e =
    if (s.storeMailbox e j).settled e then ((s.storeMailbox e j).retired e j).nextCommand e else (s.storeMailbox e j).push (.jobComplete e) := by
  rw [State.completeJob_ended job ended]
  refine if_neg ?_
  simp only [settled, Bool.not_true, Bool.false_or, Bool.and_eq_true, bne_iff_ne, beq_iff_eq, not_and, Bool.not_eq_true, and_imp]
  exact free

end
end
end

/-! ### What a completed job leaves -/

section
variable (s : State) (e : Nat) (j : Job)

@[simp] theorem State.tellJobCounter_units : (s.tellJobCounter j).units = s.units := by
  unfold State.tellJobCounter
  dsimp only
  split
  · rfl
  · split
    · rfl
    · exact State.sendOut_units ..

theorem State.tellJobCounter_keeps : (s.tellJobCounter j).mem = s.mem ∧ (s.tellJobCounter j).homes = s.homes := by
  unfold State.tellJobCounter
  dsimp only
  split
  · exact ⟨rfl, rfl⟩
  · split
    · exact ⟨rfl, rfl⟩
    · rw [State.sendOut_nothing]
      exact ⟨rfl, rfl⟩

theorem State.tellJobCounter_port (tells : bit (dw j.cmd.words 0) 22 = true) (here : bf (dw j.cmd.words 5) 0 22 / 4096 = s.devnum) :
    ((s.tellJobCounter j).core (bf (dw j.cmd.words 5) 0 22 % 4096)).port =
      (s.core (bf (dw j.cmd.words 5) 0 22 % 4096)).port ++ [.count (bf (dw j.cmd.words 0) 16 6) 1 j.cmd.corr] := by
  simp [State.tellJobCounter, tells, here, State.countAt]

theorem State.retired_engine : (s.retired e j).engine e =
    { s.engine e with job := none, states := put j.cmd.id.toNat (if j.status = 0 then 2 else 3) (s.engine e).states } := by
  unfold State.retired
  dsimp only
  rw [State.engine_of_units (State.trace_units ..), State.retireJob, State.engine_modEngine_same, State.engine_of_units (State.tellJobCounter_units ..)]
  rfl

theorem State.retired_core (c : Nat) : (s.retired e j).core c = ((s.setPosted e Posted.none).tellJobCounter j).core c := by
  unfold State.retired
  dsimp only
  rw [State.trace_core]
  exact congrArg (fun cs => (find c cs).getD Core.reset) (State.cores_beside (State.setEngine_beside ..))

theorem State.retired_keeps (off : (s.cluster (tracesJob e j)).dbg.trace = false) : (s.retired e j).mem = s.mem ∧ (s.retired e j).homes = s.homes := by
  have beside : (State.besideEngines ((s.setPosted e Posted.none).tellJobCounter j) (((s.setPosted e Posted.none).tellJobCounter j).retireJob e j)) :=
    State.setEngine_beside ..
  have dbg : (((((s.setPosted e Posted.none).tellJobCounter j).retireJob e j).cluster (tracesJob e j)).dbg) = (s.cluster (tracesJob e j)).dbg :=
    (State.setEngine_dbg ..).trans (State.dbg_of_units (State.tellJobCounter_units ..) _)
  obtain ⟨mem, homes⟩ := (s.setPosted e Posted.none).tellJobCounter_keeps j
  unfold State.retired
  dsimp only
  rw [State.trace_off _ ((congrArg Debug.trace dbg).trans off), State.mem_beside beside, State.homes_beside beside, mem, homes]
  exact ⟨rfl, rfl⟩

theorem State.nextCommand_engine : (s.nextCommand e).engine e = s.engine e := by
  unfold State.nextCommand
  split <;> rfl

theorem State.nextCommand_keeps : (s.nextCommand e).mem = s.mem ∧ (s.nextCommand e).homes = s.homes ∧ (s.nextCommand e).cores = s.cores := by
  unfold State.nextCommand
  split <;> exact ⟨rfl, rfl, rfl⟩

theorem State.nextCommand_due {c : Cmd} {rest : List Cmd} (queue : (s.engine e).queue = c :: rest) :
    commandEvent e c.words ∈ (s.nextCommand e).agenda := by
  unfold State.nextCommand
  rw [queue]
  exact State.mem_push ..

/-- What a job that is over leaves: its state, the next command, its counter's decrement, and no byte of memory but the trace's (R273). -/
theorem State.completed_leaves :
    let t := (s.retired e j).nextCommand e
    (t.engine e).job = none ∧ find j.cmd.id.toNat (t.engine e).states = some (if j.status = 0 then 2 else 3) ∧
      (∀ c rest, (s.engine e).queue = c :: rest → commandEvent e c.words ∈ t.agenda) ∧
      (bit (dw j.cmd.words 0) 22 = true → bf (dw j.cmd.words 5) 0 22 / 4096 = s.devnum →
        (t.core (bf (dw j.cmd.words 5) 0 22 % 4096)).port =
          (s.core (bf (dw j.cmd.words 5) 0 22 % 4096)).port ++ [.count (bf (dw j.cmd.words 0) 16 6) 1 j.cmd.corr]) ∧
      ((s.cluster (tracesJob e j)).dbg.trace = false → t.mem = s.mem ∧ t.homes = s.homes) := by
  intro t
  obtain ⟨mem, homes, cores⟩ := (s.retired e j).nextCommand_keeps e
  have engine : t.engine e = _ := ((s.retired e j).nextCommand_engine e).trans (s.retired_engine e j)
  refine ⟨congrArg Engine.job engine, ?_, fun c rest queue => ?_, fun tells here => ?_, fun off => ?_⟩
  · rw [engine]
    exact find_put_same ..
  · refine State.nextCommand_due (rest := rest) _ _ ?_
    rw [State.retired_engine]
    exact queue
  · rw [State.core, cores, ← State.core, State.retired_core]
    exact (s.setPosted e Posted.none).tellJobCounter_port j tells here
  · obtain ⟨mem', homes'⟩ := s.retired_keeps e j off
    exact ⟨mem.trans mem', homes.trans homes'⟩

end
end

end Sys2Proof.Machine
end

section
/-! The jobs of engines: the statement (R271 to R277, R350 to R352). -/

namespace Sys2Proof.Machine

section
variable {s : State} {e : Nat} {ev : Event} {reads : Nat → Nat → Bool} {rooted : Bool} {size : Nat → Cmd → Nat}
  {out : Nat → Nat → State → Cmd → List Byte} {c : Cmd} {rest : List Cmd} {i : Instr}

/-- What a collective's event comes to: it waits, ends with a status of its own, or moves the data (R350). -/
theorem exec_collective (is : exec i s = .next (s.collective e ev reads rooted size out)) (takes : s.takes e ev c rest)
    (list : s.devHeld false (s.reg (0x7000 + 16 * c.group)).toNat (2 * (s.groupOf c.group).1) = false)
    (source : reads (s.groupOf c.group).2 c.root = true → s.devHeld false c.src c.len = false)
    (landing : s.devHeld true c.dst (size (s.groupOf c.group).1 c) = false) :
    let u := s.started e c rest
    let n := (s.groupOf c.group).1
    let own := (s.groupOf c.group).2
    let far := s.gather (readUnit e) (s.collectReads c (reads own c.root))
    (∀ v, far = some v → exec i s = .next (v.push ev)) ∧ (far = none →
      (n = 0 ∨ 576 < n ∨ n ≤ own ∨ (rooted = true ∧ n ≤ c.root) → ∃ t : State, exec i s = .next t ∧
        (t.engine e).job = some ⟨c, 0, 0, 2, true, none⟩ ∧ t.mem = s.mem ∧ t.out = s.out) ∧
      (own < n → n ≤ 576 → (rooted = true → c.root < n) →
        (u.membersOf e c.group n = none → ∃ t : State, exec i s = .next t ∧ (t.engine e).job = some ⟨c, 0, 0, 1, true, none⟩ ∧ t.mem = s.mem) ∧
        (∀ members, u.membersOf e c.group n = some members → (reads own c.root = true → u.engineFault e c .load c.src c.len = none) →
          u.engineFault e c .store c.dst (out n own u c).length = none →
          let v := if reads own c.root then u.shareSource e c own members else u
          exec i s = .next ((({ v with free := v.free + n } : State).devStoreFor (some e) c.dst (out n own u c)).1.endJob e 0
            (out n own u c).length)))) := by
  intro u n own far
  have job (status : Nat) : ((u.endJob e status 0).engine e).job = some ⟨c, 0, 0, status, true, none⟩ :=
    congrArg Engine.job (State.engine_started_endJob ..)
  refine ⟨fun v asks => is.trans (congrArg Host.Outcome.next (State.collective_asks takes list source landing asks)), fun near => ⟨fun bad => ?_,
    fun member few root => ⟨fun unlisted => ?_, fun members listed loads stores => ?_⟩⟩⟩
  · obtain ⟨-, -, -, sent⟩ := u.endJob_keeps e 2 0
    exact ⟨_, is.trans (congrArg Host.Outcome.next (State.collective_malformed takes list source landing near bad)), job 2, State.mem_endJob,
      sent.trans (State.out_beside (s.started_beside e c rest))⟩
  · exact ⟨_, is.trans (congrArg Host.Outcome.next (State.collective_unlisted takes list source landing near member few root unlisted)), job 1,
      State.mem_endJob⟩
  · exact is.trans (congrArg Host.Outcome.next (State.collective_runs takes list source landing near member few root listed loads stores))

/-- Each collective's event moves its data in its own way: what is read, how much lands, and what (R350). -/
theorem exec_collective_kinds {z n lands : Nat} {bytes : State → Nat → Nat → List Byte} {sends : Nat → Bool} {others : List (List Byte)}
    (kind : (i = .allReduce e others ∧ ev = .allReduce e [] ∧ sends = (fun _ => true) ∧ rooted = false ∧ lands = c.len ∧
        bytes = (fun u n own => u.reduced e c n own others)) ∨
      (i = .reduceScatter e others ∧ ev = .reduceScatter e [] ∧ sends = (fun _ => true) ∧ rooted = false ∧ z = collSize (bf (dw c.words 6) 16 4) ∧
        lands = c.len / z / n * z ∧
        bytes = (fun u n own => ((u.reduced e c n own others).drop (own * (c.len / z / n * z))).take (c.len / z / n * z))) ∨
      (i = .allGather e others ∧ ev = .allGather e [] ∧ sends = (fun _ => true) ∧ rooted = false ∧ lands = n * c.len ∧
        bytes = (fun u n own => (List.range n).flatMap (fun r => (List.range c.len).map (fun i => u.rankByte e c own r others i)))) ∨
      (i = .broadcast e others ∧ ev = .broadcast e [] ∧ sends = (fun own => own == c.root) ∧ rooted = true ∧ lands = c.len ∧
        bytes = (fun u _ own => (List.range c.len).map (fun i => u.rankByte e c own c.root others i)))) :
    ∃ reads size out, exec i s = .next (s.collective e ev reads rooted size out) ∧ (∀ own, reads own c.root = sends own) ∧ size n c = lands ∧
      ∀ u own, out n own u c = bytes u n own := by
  rcases kind with ⟨rfl, rfl, rfl, rfl, rfl, rfl⟩ | ⟨rfl, rfl, rfl, rfl, rfl, rfl, rfl⟩ | ⟨rfl, rfl, rfl, rfl, rfl, rfl⟩ |
    ⟨rfl, rfl, rfl, rfl, rfl, rfl⟩ <;>
  exact ⟨_, _, _, rfl, fun _ => rfl, rfl, fun _ _ => rfl⟩

end

/-- Settles O58: a command through `takeCommand`, a chunk through `copyChunk_moves` and `copyChunk_faults`, a collective through
`collective_started`, a completion through its stages; what stores move besides, `State.units` says. -/
theorem enginesRunTheirJobs : Obligations.EnginesRunTheirJobs := by
  refine ⟨fun s e c rest takes => ?_, fun s e c rest takes => ⟨fun empty => ?_, fun some five odd => ?_, fun some even => ?_⟩,
    fun s e j => ?_, ?_, ?_, ?_, ?_⟩
  · refine ⟨_, congrArg Host.Outcome.next (State.takeCommand_taken (held := fun _ => none) takes rfl), ?_⟩
    obtain ⟨mem, homes, cores, -⟩ := (s.started e c rest).endJob_keeps e 2 0
    have beside := s.started_beside e c rest
    rw [State.engine_started_endJob]
    exact ⟨rfl, rfl, State.endJob_complete .., mem.trans (State.mem_beside beside), homes.trans (State.homes_beside beside),
      cores.trans (State.cores_beside beside)⟩
  · refine ⟨_, (execCopy_takes takes).trans (congrArg Host.Outcome.next (if_pos empty)), ?_, State.endJob_complete ..⟩
    rw [State.engine_started_endJob]
  · refine ⟨_, (execCopy_takes takes).trans (congrArg Host.Outcome.next ((if_neg some).trans (if_pos (by simp [five, odd])))), ?_,
      State.endJob_complete ..⟩
    rw [State.engine_started_endJob]
  · refine (execCopy_takes takes).trans (congrArg Host.Outcome.next ((if_neg some).trans (if_neg ?_)))
    simpa [or_iff_not_imp_left] using even
  · intro c n bs far u job runs unparked goes xform tagp held apart there
    have plain : j.plain := ⟨xform, tagp, held, apart⟩
    have beside := s.modJob_beside e (fun _ => j)
    refine ⟨fun v asks => congrArg Host.Outcome.next (State.copyChunk_asks plain job runs unparked goes there asks), fun near free stores => ?_⟩
    have bytes : u.chunkBytes e j = bs := List.map_congr_left fun i _ => congrArg (·.getD 0) (State.unitByte_beside beside ..)
    have moves (loads : s.engineFault e c .load (c.src + j.done) n = none) :
        exec (.copyChunk e) s = .next ((u.chunkWrite e (c.dst + j.written) bs []).afterChunk e j n) := by
      refine congrArg Host.Outcome.next ((State.copyChunk_moves plain job runs unparked goes there near loads).trans ?_)
      rw [← bytes]
      exact State.writeChunk_plain plain ((State.engineFault_beside beside ..).trans stores) ((State.devHeld_beside beside ..).trans free)
    refine ⟨fun loads last => ?_, fun loads more => ?_, fun a loads => ?_⟩
    · exact (moves loads).trans (congrArg Host.Outcome.next (if_pos last))
    · exact (moves loads).trans (congrArg Host.Outcome.next (if_neg (Nat.not_le_of_lt more)))
    · obtain ⟨parked, faddr, parkSeq⟩ := u.copyFault_parks e c a
      refine ⟨_, congrArg Host.Outcome.next (State.copyChunk_faults plain job runs unparked goes there near stores loads), parked, faddr, ?_,
        (u.copyFault_homes e c a).trans (State.homes_beside beside)⟩
      rw [parkSeq, State.engine_modJob_same]
  · intro s e others c rest i ev z size out reads rooted root g u n own kind far takes list source landing
    have group : u.groupOf g = s.groupOf g := State.groupOf_beside (s.started_beside e c rest) _
    have count : n = (s.groupOf c.group).1 := congrArg Prod.fst group
    have rank : own = (s.groupOf c.group).2 := congrArg Prod.snd group
    clear_value n own
    obtain ⟨reads', size', out', is, readsAs, sizeAs, outAs⟩ := exec_collective_kinds kind
    have source' (read : reads' own c.root = true) : s.devHeld false c.src c.len = false := source ((readsAs own).symm.trans read)
    have landing' : s.devHeld true c.dst (size' n c) = false := by rw [sizeAs]; exact landing
    subst count rank
    have settles := exec_collective is takes list source' landing'
    simp only [readsAs, outAs] at settles
    exact settles
  · intro s e c own others z elem
    simp only [State.reduced, collTree_two]
    rfl
  · intro s e c rest takes n bytes key u far source landing
    have size : c.tensorBytes = bytes := c.tensorBytes_eq
    rw [← size] at landing ⊢
    refine ⟨fun v asks => congrArg Host.Outcome.next (State.mediaDecode_asks takes source landing asks), fun near loads stores => ?_⟩
    obtain ⟨bs, runs⟩ := State.mediaDecode_runs takes source landing near loads stores
    obtain ⟨job, streams⟩ := State.mediaDecode_leaves (u := u) (key := key) (ok := Config.mediaDecodes u.free) (bs := bs) (n := c.tensorBytes)
      (congrArg Engine.job (s.engine_started_same e c rest))
    have free : u.free = s.free := State.free_beside (s.started_beside e c rest)
    rw [← free]
    exact ⟨_, congrArg Host.Outcome.next runs, job, State.endJob_complete .., streams⟩
  · refine fun s e => ⟨fun idle => congrArg Host.Outcome.next (by simp [State.completeJob, idle]), fun j job => ?_⟩
    intro w mbox loc
    refine ⟨fun runs => congrArg Host.Outcome.next (State.completeJob_runs job runs), ?_⟩
    intro y
    refine ⟨fun ended waits => congrArg Host.Outcome.next (State.completeJob_waits job ended waits), fun ended settled free => ⟨?_, ?_, ?_⟩⟩
    · intro named aligned stores z
      have beside : z.besideEngines y := by
        rw [show y = z.modJob e Job.posted from State.storeMailbox_stores named aligned stores]
        exact State.modJob_beside ..
      exact ⟨State.mem_beside beside, State.homes_beside beside, State.out_beside beside, State.posted_beside beside⟩
    · intro unsettled
      have posts := State.completeJob_posts job ended settled free
      rw [if_neg (by rw [unsettled]; decide)] at posts
      exact ⟨congrArg Host.Outcome.next posts, j.posted, congrArg Engine.job (State.storeMailbox_engine job), ended, dw_setAt_zero ..⟩
    · intro done
      have posts := State.completeJob_posts job ended settled free
      rw [if_pos done] at posts
      obtain ⟨idle, state, next, port, quiet⟩ := y.completed_leaves e j
      refine ⟨_, congrArg Host.Outcome.next posts, idle, state, fun c rest queue => ?_, fun none tells here => ?_, fun off => ?_⟩
      · refine next c rest ?_
        rw [State.storeMailbox_engine job]
        exact queue
      · have beside : s.besideEngines y := by
          rw [show y = s.modJob e Job.posted from State.storeMailbox_none none]
          exact State.modJob_beside ..
        have devnum : y.devnum = s.devnum := State.besideEngines_field beside (·.devnum) fun _ _ => rfl
        have core (k : Nat) : y.core k = s.core k := State.besideEngines_field beside (·.core k) fun _ _ => rfl
        rw [← core]
        exact port tells (here.trans devnum.symm)
      · exact quiet ((congrArg Debug.trace (State.storeMailbox_dbg ..)).trans off)

end Sys2Proof.Machine
end

section
/-! Tasks that are submitted, end and come back leave the device's engines, its debug modules, its streams and what waits at the host interface as they
are (R158, R314 to R318, R326). -/

namespace Sys2Proof.Machine

section
variable (s : State)

/-! ### Submissions and counters -/

@[simp] theorem State.setDctr_units (d : Nat) (l : Level) (n : Nat) (x : DCtr) : (s.setDctr d l n x).units = s.units := by
  cases l <;> rfl

@[simp] theorem State.openCtr_units (d : Nat) (owner : BitVec 4) (k : Nat) (l : Level) (path : List Nat) :
    (s.openCtr d owner k l path).units = s.units := by
  induction path generalizing k l with
  | nil => rfl
  | cons n above ih =>
    unfold State.openCtr
    dsimp only
    rw [State.setDctr_units]
    split
    · exact ih ..
    · rfl

@[simp] theorem State.submit_units (d : Nat) (desc : List Word) (domain : BitVec 16) (p : Nat) : (s.submit d desc domain p).1.units = s.units := by
  unfold State.submit
  dsimp only
  split
  · rfl
  · split
    · rfl
    · split
      · rfl
      · split
        · rfl
        · exact ((State.push_units ..).trans (State.modDie_units ..)).trans (State.openCtr_units ..)

@[simp] theorem State.closeCtr_units (d fuel : Nat) (l : Level) (n k : Nat) (cancelled : Bool) :
    (s.closeCtr d fuel l n k cancelled).units = s.units := by
  induction fuel generalizing s l n k cancelled with
  | zero => rfl
  | succ fuel ih =>
    unfold State.closeCtr
    dsimp only
    split
    · rfl
    · split
      · exact (ih ..).trans (State.setDctr_units ..)
      · exact State.setDctr_units ..

@[simp] theorem State.releaseClocks_units : s.releaseClocks.units = s.units := s.foldl_units (fun s _ => s.modCore_units ..) _

@[simp] theorem State.closeLaunch_units (d n k : Nat) (cancelled : Bool) : (s.closeLaunch d n k cancelled).units = s.units := by
  simp [State.closeLaunch]

@[simp] theorem State.leaveLaunch_units (l : Option LaunchRef) (cancelled : Bool) : (s.leaveLaunch l cancelled).units = s.units := by
  cases l
  · rfl
  · exact State.closeLaunch_units ..

@[simp] theorem State.enqueue_units (cid : Nat) (t : Task) : (s.enqueue cid t).units = s.units := by
  refine (State.foldl_units _ (fun s k => ?_) _).trans (s.modCore_units ..)
  split <;> rfl

@[simp] theorem State.wakeCtr_units (cid x : Nat) : (s.wakeCtr cid x).units = s.units := s.foldl_units (fun s _ => s.modHart_units ..) _

@[simp] theorem State.fire_units (cid x : Nat) (corr : BitVec 32) (g3 g8 g9 g10 : Word) (charge : Option Nat) :
    (s.fire cid x corr g3 g8 g9 g10 charge).units = s.units := by
  unfold State.fire
  dsimp only
  split
  · simp
  · split
    · simp
    · split <;> simp

@[simp] theorem State.decrement_units (cid x d : Nat) (corr : BitVec 32) (g3 g8 g9 g10 : Word) (charge : Option Nat) :
    (s.decrement cid x d corr g3 g8 g9 g10 charge).units = s.units := by
  unfold State.decrement
  dsimp only
  split
  · rfl
  · split <;> simp

@[simp] theorem State.countAt_units (cid x source : Nat) (corr : BitVec 32) : (s.countAt cid x source corr).units = s.units := rfl

@[simp] theorem State.countDown_units (cid x source : Nat) (corr : BitVec 32) : (s.countDown cid x source corr).units = s.units := by
  unfold State.countDown
  split
  · exact State.sendTrap_units ..
  · simp

/-! ### The end of a task -/

/-- A Gleaner's walks changed. -/
@[simp] theorem State.setGlean_units (k : Nat) (f : Cluster → List (Nat × GleanWalk)) :
    (s.modCluster k (fun c => { c with glean := f c })).units = s.units := s.modCluster_units rfl rfl

@[simp] theorem State.abortWalk_units (kid slot reason : Nat) : (s.abortWalk kid slot reason).units = s.units := by
  unfold State.abortWalk
  split
  · rfl
  · split
    · exact (State.foldl_units _ (fun s _ => s.leaveLaunch_units ..) _).trans (s.modCluster_units rfl rfl)
    · rfl

@[simp] theorem State.setStubble_units (w : GleanWalk) (point : Nat) : (s.setStubble w point).1.units = s.units := by
  unfold State.setStubble
  dsimp only
  split
  · rfl
  · split
    · rfl
    · rfl
    · split
      · split <;> simp
      · split <;> simp

@[simp] theorem State.pointDone_units (cid kid slot : Nat) (gen : Nat) (point : Nat) (corr : BitVec 32) (cancelled : Bool) :
    (s.pointDone cid kid slot gen point corr cancelled).units = s.units := by
  unfold State.pointDone
  split
  · rfl
  · split
    · rfl
    · dsimp only
      rw [State.setGlean_units]
      have marked (w : GleanWalk) : (if cancelled then s else
          if (s.setStubble w point).2 then (s.setStubble w point).1 else (s.setStubble w point).1.abortWalk kid slot 4).units = s.units := by
        split
        · rfl
        · split <;> simp
      split
      · exact (State.countDown_units ..).trans (marked _)
      · exact (State.countAt_units ..).trans (marked _)

@[simp] theorem State.taskEnds_units (cid : Nat) (t : Task) (cancelled : Bool) : (s.taskEnds cid t cancelled).units = s.units := by
  unfold State.taskEnds
  dsimp only
  rw [State.leaveLaunch_units]
  have joined : (match t.join with
      | none => s
      | some j => if j.cid = cid then s.countDown cid j.ctr 4 t.corr else s.countAt j.cid j.ctr 4 t.corr).units = s.units := by
    split
    · rfl
    · split <;> simp
  split
  · exact (State.modCore_units ..).trans joined
  · exact (State.pointDone_units ..).trans joined
  · exact joined

@[simp] theorem State.dropWalks_units (t : Task) : (s.dropWalks t).units = s.units := by
  refine s.foldl_units (fun s w => ?_) _
  apply State.modCluster_units
  all_goals
    split
    · split <;> rfl
    · rfl

@[simp] theorem State.dropPages_units (h base len scope : Nat) : (s.dropPages h base len scope).units = s.units := by
  unfold State.dropPages
  dsimp only
  refine (State.foldl_units _ (fun s _ => s.modDie_units ..) _).trans ?_
  split
  · exact (State.foldl_units _ (fun s _ => s.modHome_units ..) _).trans (s.foldl_units (fun s _ => s.modCore_units ..) _)
  · exact s.foldl_units (fun s _ => s.modCore_units ..) _

@[simp] theorem State.leaveBusy_units (h : Nat) : (s.leaveBusy h).units = s.units := by
  unfold State.leaveBusy
  split
  · exact s.modCluster_units rfl rfl
  · dsimp only
    split
    · exact (State.sendOut_units ..).trans (s.dropPages_units ..)
    · simp
  · split <;> rfl

@[simp] theorem State.releaseClaim_units (h : Nat) : (s.releaseClaim h).units = s.units := rfl

@[simp] theorem State.closeOpened_units (h : Nat) : (s.closeOpened h).units = s.units := by
  unfold State.closeOpened
  split
  · rfl
  · dsimp only
    split
    · split <;> rfl
    · rfl

@[simp] theorem State.withdraw_units (h : Nat) : (s.withdraw h).units = s.units := by
  unfold State.withdraw
  dsimp only
  split
  · refine (State.modCluster_units _ ?_ ?_).trans (s.closeOpened_units h) <;> split <;> rfl
  · split <;> simp
  · simp

@[simp] theorem State.stayHere_units (h : Nat) : (s.stayHere h).units = s.units := by
  unfold State.stayHere
  split <;> rfl

@[simp] theorem State.unboost_units (h : Nat) : (s.unboost h).units = s.units := by
  unfold State.unboost
  split <;> rfl

@[simp] theorem State.forgetAbsentOf_units (h : Nat) : (s.forgetAbsentOf h).units = s.units := by
  unfold State.forgetAbsentOf
  dsimp only
  split <;> rfl

@[simp] theorem State.freeHart_units (h : Nat) : (s.freeHart h).units = s.units := by
  simp [State.freeHart, State.quit]

@[simp] theorem State.freeSlotOf_units (r : SaveRef) : (s.freeSlotOf r).units = s.units := rfl

@[simp] theorem State.endTask_units (h : Nat) (cancelled : Bool) : (s.endTask h cancelled).units = s.units := by
  unfold State.endTask
  split
  · simp
  · dsimp only
    rw [State.freeHart_units, State.trace_units, State.taskEnds_units, State.dropWalks_units, State.releaseClaim_units, State.leaveBusy_units]
    split <;> rfl

/-! ### A parked hart that goes on -/

@[simp] theorem State.flipUnlessHalted_units (h : Nat) : (s.flipUnlessHalted h).units = s.units := by
  unfold State.flipUnlessHalted
  split <;> rfl

@[simp] theorem State.parkAs_units (h : Nat) (slotA : Bool) (cause : Cause) (code : BitVec 10) (faddr trappc bundle : Word) (kind : ParkKind) :
    (s.parkAs h slotA cause code faddr trappc bundle kind).units = s.units := by
  simp [State.parkAs]

@[simp] theorem State.unparkRetry_units (h : Nat) : (s.unparkRetry h).units = s.units := by simp [State.unparkRetry]
@[simp] theorem State.unparkSkip_units (h : Nat) (b : Bool) : (s.unparkSkip h b).units = s.units := by simp [State.unparkSkip]

@[simp] theorem State.cancelParked_units (h : Nat) : (s.cancelParked h).units = s.units := by
  unfold State.cancelParked
  split <;> simp

@[simp] theorem State.reissuePoint_units (h kid slot point : Nat) : (s.reissuePoint h kid slot point).units = s.units := by
  unfold State.reissuePoint
  dsimp only
  rw [State.push_units, State.freeHart_units, State.modHart_units, State.modCore_units, State.setGlean_units]
  split <;> simp

@[simp] theorem State.restore_units (h : Nat) (t : Task) (r : SaveRef) : (s.restore h t r).units = s.units := by
  unfold State.restore
  dsimp only
  split
  · exact (State.parkAs_units ..).trans (State.modHart_units ..)
  · rw [State.freeSlotOf_units]
    have pushed (u : State) (b : Bool) (e : Event) (same : u.units = s.units) : (if b then u.push e else u).units = s.units := by
      split <;> exact same
    refine pushed _ _ _ (pushed _ _ _ ?_)
    have bound (u : State) (ls : List PLoad) (same : u.units = s.units) :
        (ls.foldl (fun s l => if l.wants.all (fun y => y.val.isSome) then s.bindLoad h l else s) u).units = s.units := by
      refine (u.foldl_units (fun u l => ?_) ls).trans same
      split <;> simp
    have checked (u : State) (b : Bool) (same : u.units = s.units) : (if b then u.checkAt h r.addr else u).units = s.units := by
      split <;> exact same
    have due (u : State) (b : Bool) (same : u.units = s.units) : (if b then u else u.push (.machineCheck h)).units = s.units := by
      split <;> exact same
    split
    · exact (State.modCore_units ..).trans (bound _ _ (checked _ _ (due _ _ (State.modHart_units ..))))
    · exact bound _ _ (checked _ _ (due _ _ (State.modHart_units ..)))

@[simp] theorem State.bringBack_units (h : Nat) (t : Task) (r : SaveRef) : (s.bringBack h t r).units = s.units := by
  unfold State.bringBack
  split <;> simp

@[simp] theorem State.resumeHart_units (h seq action : Nat) : (s.resumeHart h seq action).1.units = s.units := by
  unfold State.resumeHart
  dsimp only
  split
  · rfl
  · split
    · simp
    · split
      · split <;> simp
      · split
        · simp
        · split
          · split
            · split <;> simp
            · simp
          · simp

theorem State.resumeEngine_hostIn (e action : Nat) : (s.resumeEngine e action).hostIn = s.hostIn := by
  have set (t : State) (x : Engine) : (t.setEngine e x).hostIn = t.hostIn := State.besideEngines_field (t.setEngine_beside e x) (·.hostIn) fun _ _ => rfl
  unfold State.resumeEngine
  dsimp only
  split
  · exact set ..
  · exact (set ..).trans (set ..)

@[simp] theorem State.resumeAt_hostIn (h seq action : Nat) : (s.resumeAt h seq action).1.hostIn = s.hostIn := by
  unfold State.resumeAt
  split
  · split
    · exact State.hostIn_of_units (State.resumeHart_units ..)
    · split
      · exact State.resumeEngine_hostIn ..
      · rfl
  · exact State.hostIn_of_units (State.resumeHart_units ..)

end

end Sys2Proof.Machine
end

section
/-! Accesses through the host interface (R338): those that wait there, and those that are performed at once. -/

namespace Sys2Proof.Machine

/-! ### What is read from outside the device -/

section
variable (s : State) (u : Nat)

@[simp] theorem State.askOutside_units (a n : Nat) : (s.askOutside u a n).units = s.units := by
  unfold State.askOutside
  dsimp only
  split
  · rfl
  · exact (State.leaves_units ..).trans rfl

theorem State.gather_some {ps : List (Nat × Nat)} {v : State} (asks : s.gather u ps = some v) : v.units = s.units := by
  unfold State.gather at asks
  dsimp only at asks
  split at asks
  · cases asks; rfl
  · split at asks <;> cases asks
    exact s.foldl_units (fun s _ => s.askOutside_units u ..) _

theorem State.gather_none {ps : List (Nat × Nat)} : s.gather u ps = none ↔ (s.postedOf u).left = 0 ∧
    ((s.postedOf u).failed.isSome || (ps.filter (fun p => s.reachesOut p.1 && (List.range p.2).any (fun k => (s.unitRead u (p.1 + k)).isNone))).isEmpty) =
      true := by
  unfold State.gather
  dsimp only
  split
  case isTrue left => simp at left; simp [left]
  case isFalse left =>
    simp at left
    rw [left]
    split
    case isTrue none => simp [none]
    case isFalse some => simp [some]

/-- What waits at the host interface does not change whether a unit still reads from outside the device. -/
theorem State.gather_none_hostIn (l : List Event) (ps : List (Nat × Nat)) :
    ({ s with hostIn := l } : State).gather u ps = none ↔ s.gather u ps = none :=
  (State.gather_none _ u).trans (State.gather_none s u).symm

@[simp] theorem State.setPosted_hostIn (x : Posted) : (s.setPosted u x).hostIn = s.hostIn := rfl

end

/-! ### One access where nothing waits -/

section
variable {s : State} {e : Event} (empty : s.hostIn = []) (other : e ≠ hostRetry)
include empty other

omit other in
/-- The same state, whose list of waiting accesses is empty as it was. -/
theorem State.hostIn_emptied (l : List Event) : ({ ({ s with hostIn := l } : State) with hostIn := [] } : State) = s := by
  rw [← empty]

theorem State.hostAccess_alone : s.hostAccess e =
    (let t := (({ s with hostIn := [e] } : State).drainHost 1)
     if t.hostIn.isEmpty then t else t.push hostRetry) := by
  simp [State.hostAccess, other, empty]

theorem State.hostAccess_held (held : s.hostHeld e = true) : s.hostAccess e = ({ s with hostIn := [e] } : State).push hostRetry := by
  rw [State.hostAccess_alone empty other]
  have held' : ({ s with hostIn := [e] } : State).hostHeld e = true := held
  simp [State.drainHost, held']

section
variable (free : s.hostHeld e = false)
include free

theorem State.hostAccess_asks {v : State} (reads : s.hostReads e ≠ [])
    (far : ({ s with hostIn := [e] } : State).gather hostUnit (s.hostReads e) = some v) : s.hostAccess e = v.push hostRetry := by
  rw [State.hostAccess_alone empty other]
  have free' : ({ s with hostIn := [e] } : State).hostHeld e = false := free
  have same : ({ s with hostIn := [e] } : State).hostReads e = s.hostReads e := rfl
  have waits := State.hostIn_of_units (State.gather_some _ _ far)
  simp [State.drainHost, free', same, reads, far, waits]

theorem State.hostAccess_acts (reads : s.hostReads e = []) (kept : (s.hostAct e).hostIn = []) : s.hostAccess e = s.hostAct e := by
  rw [State.hostAccess_alone empty other]
  have free' : ({ s with hostIn := [e] } : State).hostHeld e = false := free
  have same : ({ s with hostIn := [e] } : State).hostReads e = [] := reads
  have back : ({ s with hostIn := [] } : State) = s := State.hostIn_emptied empty []
  simp [State.drainHost, free', same, back, kept]

theorem State.hostAccess_reads (reads : s.hostReads e ≠ []) (near : s.gather hostUnit (s.hostReads e) = none) (kept : (s.hostAct e).hostIn = []) :
    s.hostAccess e = (s.hostAct e).setPosted hostUnit Posted.none := by
  rw [State.hostAccess_alone empty other]
  have free' : ({ s with hostIn := [e] } : State).hostHeld e = false := free
  have same : ({ s with hostIn := [e] } : State).hostReads e = s.hostReads e := rfl
  have near' := (s.gather_none_hostIn hostUnit [e] (s.hostReads e)).mpr near
  have back : ({ s with hostIn := [] } : State) = s := State.hostIn_emptied empty []
  simp [State.drainHost, free', same, reads, near', back, kept]

end
end

end Sys2Proof.Machine
end

section
/-! Memory through the host interface (R338): accesses at an address, through a window, and behind one that waits. -/

namespace Sys2Proof.Machine

theorem extentSplit_nothing (a : Nat) : extentSplit a 0 = [] := by simp [extentSplit, extentSplit.go]

theorem extentSplit_some {a n : Nat} (some : n ≠ 0) : extentSplit a n ≠ [] := by
  have inside : a < a + n := by omega
  simp [extentSplit, extentSplit.go, inside]

section
variable {s : State} {path : HostPath} {off len a : Nat} {data : List Byte}

/-! ### Writes and reads performed -/

/-- An access to memory, not to BAR0. -/
def memoryPath : HostPath → Prop
  | .bar0 _ => False
  | _ => True

section
variable (memory : memoryPath path)
include memory

theorem State.hostStore_memory : s.hostStore path off data = match s.hostAddr path off data.length with
    | some a => (s.devStore a data).1.writeThrough a data.length
    | none => { s with out := s.out ++ [.unsupported] } := by
  unfold State.hostStore
  split
  · cases memory
  · rfl

theorem State.hostStore_at (addr : s.hostAddr path off data.length = some a) :
    s.hostStore path off data = (s.devStore a data).1.writeThrough a data.length := by
  rw [State.hostStore_memory memory, addr]

theorem State.hostStore_nowhere (addr : s.hostAddr path off data.length = none) :
    s.hostStore path off data = { s with out := s.out ++ [.unsupported] } := by
  rw [State.hostStore_memory memory, addr]

theorem State.hostStore_hostIn : (s.hostStore path off data).hostIn = s.hostIn := by
  cases addr : s.hostAddr path off data.length with
  | none => rw [State.hostStore_nowhere memory addr]
  | some a =>
    rw [State.hostStore_at memory addr]
    exact State.hostIn_of_units ((State.writeThrough_units ..).trans (State.devStore_units ..))

theorem State.hostLoad_memory : s.hostLoad path off len =
    { s.drawFree with out := s.out ++ [match (s.hostAddr path off len).bind (fun a => s.unitLoad hostUnit a len) with
      | some bs => .hostRead bs
      | none => .unsupported] } := by
  unfold State.hostLoad
  dsimp only
  split
  · cases memory
  · cases (s.hostAddr path off len).bind (fun a => s.unitLoad hostUnit a len) <;> rfl

theorem State.hostHeld_write : s.hostHeld (.hostWrite path off data) =
    (s.hostAddr path off data.length).any (fun a => s.devHeld true a data.length) := by
  cases path with
  | bar0 m => cases memory
  | window => rfl
  | cxlMem => rfl

theorem State.hostReads_write : s.hostReads (.hostWrite path off data) = [] := by
  cases path with
  | bar0 m => cases memory
  | window => rfl
  | cxlMem => rfl

end

/-! ### Writes and reads that arrive where nothing waits -/

theorem hostWrite_ne_retry (other : data ≠ [] ∨ path ≠ .cxlMem) : Event.hostWrite path off data ≠ hostRetry := by
  intro same
  cases same
  simp at other

section
variable (empty : s.hostIn = [])
include empty

theorem exec_hostWrite_held (memory : memoryPath path) (other : data ≠ [] ∨ path ≠ .cxlMem) (addr : s.hostAddr path off data.length = some a)
    (held : s.devHeld true a data.length = true) : exec (.hostWrite path off data) s =
      .next (({ s with hostIn := [.hostWrite path off data] } : State).push hostRetry) := by
  refine congrArg Host.Outcome.next (State.hostAccess_held empty (hostWrite_ne_retry other) ?_)
  rw [State.hostHeld_write memory, addr]
  exact held

theorem exec_hostWrite_free (memory : memoryPath path) (other : data ≠ [] ∨ path ≠ .cxlMem)
    (free : ∀ a, s.hostAddr path off data.length = some a → s.devHeld true a data.length = false) :
    exec (.hostWrite path off data) s = .next (s.hostStore path off data) := by
  have free' : s.hostHeld (.hostWrite path off data) = false := by
    rw [State.hostHeld_write memory]
    exact Option.any_eq_false _ _ |>.mpr (by simpa using free)
  exact congrArg Host.Outcome.next (State.hostAccess_acts empty (hostWrite_ne_retry other) free' (State.hostReads_write memory)
    ((State.hostStore_hostIn memory).trans empty))

theorem exec_hostWrite_at (memory : memoryPath path) (other : data ≠ [] ∨ path ≠ .cxlMem) (addr : s.hostAddr path off data.length = some a)
    (free : s.devHeld true a data.length = false) :
    exec (.hostWrite path off data) s = .next ((s.devStore a data).1.writeThrough a data.length) := by
  refine (exec_hostWrite_free empty memory other fun b at' => ?_).trans (congrArg Host.Outcome.next (State.hostStore_at memory addr))
  rw [addr, Option.some_inj] at at'
  exact at' ▸ free

theorem exec_hostWrite_nowhere (memory : memoryPath path) (addr : s.hostAddr path off data.length = none) :
    exec (.hostWrite path off data) s = .next { s with out := s.out ++ [.unsupported] } := by
  have other : data ≠ [] ∨ path ≠ .cxlMem := .inr fun cxl => by rw [cxl] at addr; cases addr
  refine (exec_hostWrite_free empty memory other fun b at' => ?_).trans (congrArg Host.Outcome.next (State.hostStore_nowhere memory addr))
  rw [addr] at at'
  cases at'

theorem exec_hostRead_held (addr : s.hostAddr path off len = some a) (held : s.devHeld false a len = true) :
    exec (.hostRead path off len) s = .next (({ s with hostIn := [.hostRead path off len] } : State).push hostRetry) := by
  refine congrArg Host.Outcome.next (State.hostAccess_held empty (by simp [hostRetry]) ?_)
  rw [State.hostHeld, addr]
  exact held

section
variable (memory : memoryPath path)
include memory

theorem exec_hostRead_nowhere (addr : s.hostAddr path off len = none) :
    exec (.hostRead path off len) s = .next { s.drawFree with out := s.out ++ [.unsupported] } := by
  have free : s.hostHeld (.hostRead path off len) = false := by rw [State.hostHeld, addr]; rfl
  have reads : s.hostReads (.hostRead path off len) = [] := by rw [State.hostReads, addr]
  have performed : s.hostAct (.hostRead path off len) = { s.drawFree with out := s.out ++ [.unsupported] } := by
    rw [State.hostAct, State.hostLoad_memory memory, addr]
    rfl
  rw [← performed]
  refine congrArg Host.Outcome.next (State.hostAccess_acts empty (by simp [hostRetry]) free reads ?_)
  rw [performed]
  exact empty

section
variable (addr : s.hostAddr path off len = some a) (free : s.devHeld false a len = false)
include addr free

omit memory in
theorem exec_hostRead_asks {v : State} (bytes : len ≠ 0)
    (far : ({ s with hostIn := [.hostRead path off len] } : State).gather hostUnit (extentSplit a len) = some v) :
    exec (.hostRead path off len) s = .next (v.push hostRetry) := by
  have free' : s.hostHeld (.hostRead path off len) = false := by rw [State.hostHeld, addr]; exact free
  have reads : s.hostReads (.hostRead path off len) = extentSplit a len := by rw [State.hostReads, addr]
  refine congrArg Host.Outcome.next (State.hostAccess_asks empty (by simp [hostRetry]) free' ?_ ?_)
  · rw [reads]
    exact extentSplit_some bytes
  · rw [reads]
    exact far

/-- A read performed answers its bytes, and changes nothing that the device's memory or harts hold (R338). -/
theorem exec_hostRead_free (near : s.gather hostUnit (extentSplit a len) = none) : ∃ t : State,
    exec (.hostRead path off len) s = .next t ∧ t.out = s.out ++ [match s.unitLoad hostUnit a len with
      | some bs => .hostRead bs
      | none => .unsupported] ∧
      (len ≠ 0 → t.postedOf hostUnit = Posted.none) ∧ t.harts = s.harts ∧ t.cores = s.cores ∧ t.homes = s.homes ∧ t.mem = s.mem := by
  have free' : s.hostHeld (.hostRead path off len) = false := by rw [State.hostHeld, addr]; exact free
  have reads : s.hostReads (.hostRead path off len) = extentSplit a len := by rw [State.hostReads, addr]
  have performed : s.hostAct (.hostRead path off len) = { s.drawFree with out := s.out ++ [match s.unitLoad hostUnit a len with
      | some bs => .hostRead bs
      | none => .unsupported] } := by
    rw [State.hostAct, State.hostLoad_memory memory, addr]
    rfl
  have kept : (s.hostAct (.hostRead path off len)).hostIn = [] := by rw [performed]; exact empty
  by_cases bytes : len = 0
  · refine ⟨_, congrArg Host.Outcome.next (State.hostAccess_acts empty (by simp [hostRetry]) free' ?_ kept), ?_⟩
    · rw [reads, bytes, extentSplit_nothing]
    · rw [performed]
      exact ⟨rfl, fun some => absurd bytes some, rfl, rfl, rfl, rfl⟩
  · refine ⟨_, congrArg Host.Outcome.next (State.hostAccess_reads empty (by simp [hostRetry]) free' ?_ ?_ kept), ?_⟩
    · rw [reads]
      exact extentSplit_some bytes
    · rw [reads]
      exact near
    · rw [performed]
      refine ⟨rfl, fun _ => ?_, rfl, rfl, rfl, rfl⟩
      rw [State.postedOf, State.setPosted_none_posted, find_drop_same]
      rfl

end
end
end
end

/-! ### Windows -/

section
variable {s : State} {off n : Nat}

/-- Window k of BAR2 covers an access of n bytes (R338). -/
def State.windowCovers (s : State) (off n k : Nat) : Prop :=
  bf (s.reg (0x2000 + 16 * k + 8)) 32 32 * 2 ^ 21 ≤ off ∧
    off + n ≤ (bf (s.reg (0x2000 + 16 * k + 8)) 32 32 + bf (s.reg (0x2000 + 16 * k + 8)) 0 32) * 2 ^ 21

/-- The address that window k gives. -/
def State.windowAddr (s : State) (off k : Nat) : Nat :=
  bf (s.reg (0x2000 + 16 * k)) 21 36 * 2 ^ 21 + (off - bf (s.reg (0x2000 + 16 * k + 8)) 32 32 * 2 ^ 21)

theorem State.hostAddr_window : s.hostAddr .window off n = ((List.range 64).find? (fun k =>
    bf (s.reg (0x2000 + 16 * k + 8)) 32 32 * 2 ^ 21 ≤ off &&
      off + n ≤ bf (s.reg (0x2000 + 16 * k + 8)) 32 32 * 2 ^ 21 + bf (s.reg (0x2000 + 16 * k + 8)) 0 32 * 2 ^ 21)).map (s.windowAddr off) := rfl

theorem State.windowCovers_iff {k : Nat} : (decide (bf (s.reg (0x2000 + 16 * k + 8)) 32 32 * 2 ^ 21 ≤ off) &&
    decide (off + n ≤ bf (s.reg (0x2000 + 16 * k + 8)) 32 32 * 2 ^ 21 + bf (s.reg (0x2000 + 16 * k + 8)) 0 32 * 2 ^ 21)) = true ↔
      s.windowCovers off n k := by
  rw [State.windowCovers, Bool.and_eq_true, decide_eq_true_iff, decide_eq_true_iff, Nat.add_mul]

theorem State.hostAddr_uncovered (none : ∀ k, k < 64 → ¬ s.windowCovers off n k) : s.hostAddr .window off n = .none := by
  rw [State.hostAddr_window, Option.map_eq_none_iff, List.find?_eq_none]
  intro k within covers
  exact none k (List.mem_range.mp within) (State.windowCovers_iff.mp covers)

theorem State.hostAddr_covered {k : Nat} (within : k < 64) (covers : s.windowCovers off n k) (first : ∀ j, j < k → ¬ s.windowCovers off n j) :
    s.hostAddr .window off n = some (s.windowAddr off k) := by
  rw [State.hostAddr_window, Option.map_eq_some_iff]
  refine ⟨k, ?_, rfl⟩
  rw [List.find?_range_eq_some]
  refine ⟨State.windowCovers_iff.mpr covers, List.mem_range.mpr within, fun j before => ?_⟩
  rw [Bool.not_eq_true']
  exact Bool.eq_false_iff.mpr (mt State.windowCovers_iff.mp (first j before))

end

/-! ### Accesses behind one that waits -/

section
variable {s : State} {e : Event} {rest : List Event} (queue : s.hostIn = e :: rest)
include queue

theorem State.drainHost_held (held : s.hostHeld e = true) (n : Nat) : s.drainHost n = s := by
  cases n with
  | zero => rfl
  | succ n => simp [State.drainHost, queue, held]

theorem State.hostAccess_behind (held : s.hostHeld e = true) {f : Event} (other : f ≠ hostRetry) :
    s.hostAccess f = ({ s with hostIn := s.hostIn ++ [f] } : State).push hostRetry := by
  have queue' : ({ s with hostIn := s.hostIn ++ [f] } : State).hostIn = e :: (rest ++ [f]) := by simp [queue]
  have held' : ({ s with hostIn := s.hostIn ++ [f] } : State).hostHeld e = true := held
  unfold State.hostAccess
  simp only [if_neg other, State.drainHost_held queue' held']
  simp

theorem State.hostAccess_retried (held : s.hostHeld e = true) : s.hostAccess hostRetry = s.push hostRetry := by
  unfold State.hostAccess
  simp only [if_true, State.drainHost_held queue held]
  simp [queue]

theorem State.hostAccess_freed (free : s.hostHeld e = false) (last : rest = []) (reads : s.hostReads e = [])
    (kept : (({ s with hostIn := [] } : State).hostAct e).hostIn = []) : s.hostAccess hostRetry = ({ s with hostIn := [] } : State).hostAct e := by
  subst last
  unfold State.hostAccess
  simp [queue, State.drainHost, free, reads, kept]

end

end Sys2Proof.Machine
end

section
/-! Registers through the host interface (R339, R340, R342): BAR0, the doorbell page, and the owner register. -/

namespace Sys2Proof.Machine

/-! ### Little-endian bytes -/

theorem ofBytes_toBytes {w : Nat} (x : BitVec w) (n : Nat) (fits : w ≤ 8 * n) : ofBytes (toBytes x n) = x.toNat := by
  have value (n : Nat) (x : BitVec w) : ofBytes (toBytes x n) = x.toNat % 2 ^ (8 * n) := by
    induction n generalizing x with
    | zero => simp [toBytes, ofBytes, Nat.mod_one]
    | succ n ih =>
      rw [toBytes, ofBytes, ih, BitVec.toNat_setWidth, BitVec.toNat_ushiftRight, Nat.shiftRight_eq_div_pow,
        show 2 ^ (8 * (n + 1)) = 2 ^ 8 * 2 ^ (8 * n) by rw [← pow_add]; congr 1; ring, Nat.mod_mul]
      norm_num
  rw [value, Nat.mod_eq_of_lt (x.isLt.trans_le (Nat.pow_le_pow_right (by decide) fits))]

theorem wordOf_toBytes (v : Word) : wordOf (toBytes v 8) = v := by
  rw [wordOf, ofBytes_toBytes v 8 (by decide), word]
  exact ofNat_toNat_self v

/-! ### Registers written and read back -/

section
variable (s : State)

theorem State.reg_setReg_same {o : Nat} (named : o ≠ 0) (v : Word) : (s.setReg o v).reg o = v := by
  rw [State.reg, if_neg named, State.setReg, find_put_same]
  rfl

theorem State.reg_setReg_other {o o' : Nat} (ne : o' ≠ o) (v : Word) : (s.setReg o v).reg o' = s.reg o' := by
  unfold State.reg State.setReg
  rw [find_put_other ne]

end

/-! ### An access that reads no memory and no home holds -/

section
variable {s : State} (empty : s.hostIn = [])
include empty

theorem State.hostAccess_register {e : Event} (other : e ≠ hostRetry) (free : s.hostHeld e = false) (reads : s.hostReads e = []) :
    s.hostAccess e = if (s.hostAct e).hostIn.isEmpty then s.hostAct e else (s.hostAct e).push hostRetry := by
  rw [State.hostAccess_alone empty other]
  have free' : ({ s with hostIn := [e] } : State).hostHeld e = false := free
  have reads' : ({ s with hostIn := [e] } : State).hostReads e = [] := reads
  have back : ({ s with hostIn := [] } : State) = s := State.hostIn_emptied empty []
  simp [State.drainHost, free', reads', back]

/-- What two accesses do where nothing waits depends on nothing else of them. -/
theorem State.hostAccess_same {e f : Event} (ne : e ≠ hostRetry) (nf : f ≠ hostRetry) (freeE : s.hostHeld e = false) (freeF : s.hostHeld f = false)
    (readsE : s.hostReads e = []) (readsF : s.hostReads f = []) (same : s.hostAct e = s.hostAct f) : s.hostAccess e = s.hostAccess f := by
  rw [State.hostAccess_register empty ne freeE readsE, State.hostAccess_register empty nf freeF readsF, same]

/-! ### BAR0 -/

theorem exec_barWrite_register {m : Master} {o : Nat} (listed : o ∈ [0x18, 0x300, 0x338, 0x340]) (v : Word) :
    exec (.hostWrite (.bar0 m) o (toBytes v 8)) s = exec (.registerWrite m o v) s := by
  refine congrArg Host.Outcome.next (State.hostAccess_same empty (by simp [hostRetry]) (by simp [hostRetry]) ?_ rfl ?_ rfl ?_)
  all_goals
    simp only [List.mem_cons, List.not_mem_nil, or_false] at listed
    rcases listed with rfl | rfl | rfl | rfl <;> simp [State.hostHeld, State.hostReads, State.hostAct, State.hostStore, State.barWrite,
      length_toBytes, wordOf_toBytes]

theorem exec_barWrite_doorbell {m : Master} (v : BitVec 32) :
    exec (.hostWrite (.bar0 m) 0x4000 (toBytes v 4)) s = exec (.doorbellWrite 4 v) s := by
  refine congrArg Host.Outcome.next (State.hostAccess_same empty (by simp [hostRetry]) (by simp [hostRetry]) ?_ rfl ?_ rfl ?_)
  · simp [State.hostHeld]
  · simp [State.hostReads]
  · have value : (wordOf (toBytes v 4)).toNat = v.toNat := by
      rw [wordOf, ofBytes_toBytes v 4 (by decide), word, BitVec.toNat_ofNat, Nat.mod_eq_of_lt (v.isLt.trans (by decide))]
    simp [State.hostAct, State.hostStore, State.barWrite, length_toBytes, value]

/-- A read of a whole register of BAR0 that every master may read (R340). -/
theorem exec_barRead {m : Master} {o : Nat} (aligned : o % 8 = 0) (readable : ∀ k, k < 8 → readableByAll (o + k) = true) : ∃ t : State,
    exec (.hostRead (.bar0 m) o 8) s = .next t ∧ t.out = s.out ++ [.hostRead (toBytes (s.barWord o) 8)] := by
  have bytes : (List.range 8).map (fun k => s.barByte m (o + k)) = toBytes (s.barWord o) 8 := by
    refine List.ext_getElem (by simp [length_toBytes]) fun k short _ => ?_
    have within : k < 8 := by simpa using short
    have place : (o + k) / 8 * 8 = o := by omega
    have rest : (o + k) % 8 = k := by omega
    simp [State.barByte, readable k within, place, rest, bytesOf, length_toBytes, within]
  refine ⟨_, congrArg Host.Outcome.next (State.hostAccess_acts empty (by simp [hostRetry]) rfl rfl empty), ?_⟩
  rw [← bytes]
  rfl

end

/-! ### Doorbells -/

section
variable {s : State} (empty : s.hostIn = []) {size : Nat} {v : BitVec 32}
include empty

theorem exec_doorbell : exec (.doorbellWrite size v) s = .next (s.doorbell size v.toNat) := by
  refine congrArg Host.Outcome.next (State.hostAccess_acts empty (by simp [hostRetry]) rfl rfl ?_)
  show (s.doorbell size v.toNat).hostIn = []
  unfold State.doorbell
  dsimp only
  split <;> exact empty

end

/-! ### The owner register -/

section
variable {s : State} {m : Master} {expected new : Word}

/-- A CAS of the owner register that may change it for the master of id n (R342). -/
def State.ownerCasRight (s : State) (m : Master) (expected new : Word) (n : Nat) : Prop :=
  s.reg 0x10 = expected ∧ new = word ((bf (s.reg 0x10) 48 16 + 1) % 65536 * 2 ^ 48 + n) ∧
    (bf (s.reg 0x10) 0 3 = 0 ∨ bf (s.reg 0x18) 0 3 = n ∨ m = .controller)

theorem State.ownerCas_changes {n : Nat} (id : masterId m = some n) (right : s.ownerCasRight m expected new n) :
    s.ownerCas m expected new = (s.setReg 0x10 new).setReg 0x18 0 := by
  obtain ⟨old, value, may⟩ := right
  unfold State.ownerCas
  rw [id]
  exact if_pos (by simpa [old, value, or_assoc] using may)

theorem State.ownerCas_drops (wrong : ∀ n, masterId m = some n → ¬ s.ownerCasRight m expected new n) : s.ownerCas m expected new = s := by
  unfold State.ownerCas
  split
  · rfl
  case h_2 n id =>
    refine if_neg fun right => wrong n id ?_
    simpa [State.ownerCasRight, and_assoc, or_assoc] using right

section
variable (empty : s.hostIn = [])
include empty

theorem exec_ownerCas : exec (.ownerCas m expected new) s = .next (s.ownerCas m expected new) := by
  refine congrArg Host.Outcome.next (State.hostAccess_acts empty (by simp [hostRetry]) rfl rfl ?_)
  show (s.ownerCas m expected new).hostIn = []
  unfold State.ownerCas
  dsimp only
  split
  · exact empty
  · split <;> exact empty

end
end

end Sys2Proof.Machine
end

section
/-! What masters do through registers (R158, R340, R345, R346, R354): launches, resumes, trap queues, partitions and plain registers. -/

namespace Sys2Proof.Machine

/-! ### Host launches -/

section
variable {s : State} (empty : s.hostIn = []) {m : Master} {p : BitVec 4} {v : Word}
include empty

theorem exec_hostLaunch_stranger (stranger : s.isOwner m = false) : exec (.hostLaunch m p v) s = .next s := by
  have act : s.hostAct (.hostLaunch m p v) = s := by simp [State.hostAct, State.writeLaunch, stranger]
  have free : s.hostHeld (.hostLaunch m p v) = false := by simp [State.hostHeld, State.launchHeld, stranger]
  have reads : s.hostReads (.hostLaunch m p v) = [] := by simp [State.hostReads, State.launchReads, stranger]
  refine congrArg Host.Outcome.next ((State.hostAccess_acts empty (by simp [hostRetry]) free reads ?_).trans act)
  rw [act]
  exact empty

section
variable (owner : s.isOwner m = true)
include owner

theorem exec_hostLaunch_held (held : s.devHeld false (v.toNat / 64 * 64) 64 = true) :
    exec (.hostLaunch m p v) s = .next (({ s with hostIn := [.hostLaunch m p v] } : State).push hostRetry) := by
  refine congrArg Host.Outcome.next (State.hostAccess_held empty (by simp [hostRetry]) ?_)
  simp [State.hostHeld, State.launchHeld, owner, held]

section
variable (free : s.devHeld false (v.toNat / 64 * 64) 64 = false)
include free

/-- The registers that a launch by a master leaves: what it wrote, and its status (R340). -/
theorem exec_hostLaunch_refused (refused : s.launchRefused p.toNat v.toNat = true) : exec (.hostLaunch m p v) s =
    .next ((s.setReg (0x5000 + 16 * p.toNat) v).setReg (0x5008 + 16 * p.toNat) (word 5)) := by
  have act : s.hostAct (.hostLaunch m p v) = (s.setReg (0x5000 + 16 * p.toNat) v).setReg (0x5008 + 16 * p.toNat) (word 5) := by
    simp [State.hostAct, State.writeLaunch, owner, State.hostLaunch, refused]
  have free' : s.hostHeld (.hostLaunch m p v) = false := by simp [State.hostHeld, State.launchHeld, free]
  have reads : s.hostReads (.hostLaunch m p v) = [] := by simp [State.hostReads, State.launchReads, refused]
  refine congrArg Host.Outcome.next ((State.hostAccess_acts empty (by simp [hostRetry]) free' reads ?_).trans act)
  rw [act]
  exact empty

theorem exec_hostLaunch_submits {bs : List Byte} (allowed : s.launchRefused p.toNat v.toNat = false)
    (near : s.gather hostUnit (extentSplit (v.toNat / 64 * 64) 64) = none) (load : s.unitLoad hostUnit (v.toNat / 64 * 64) 64 = some bs) :
    let r := s.submit (v.toNat % 4) (wordsOf bs) (BitVec.ofNat 16 (bf (s.partWord p.toNat 0) 16 16)) p.toNat
    exec (.hostLaunch m p v) s =
      .next (((r.1.setReg (0x5000 + 16 * p.toNat) v).setReg (0x5008 + 16 * p.toNat) (word r.2)).setPosted hostUnit Posted.none) := by
  intro r
  have act : s.hostAct (.hostLaunch m p v) = (r.1.setReg (0x5000 + 16 * p.toNat) v).setReg (0x5008 + 16 * p.toNat) (word r.2) := by
    simp [State.hostAct, State.writeLaunch, owner, State.hostLaunch, allowed, load, r]
  have free' : s.hostHeld (.hostLaunch m p v) = false := by simp [State.hostHeld, State.launchHeld, free]
  have reads : s.hostReads (.hostLaunch m p v) = extentSplit (v.toNat / 64 * 64) 64 := by simp [State.hostReads, State.launchReads, owner, allowed]
  have kept : r.1.hostIn = s.hostIn := State.hostIn_of_units (State.submit_units ..)
  rw [← act]
  refine congrArg Host.Outcome.next (State.hostAccess_reads empty (by simp [hostRetry]) free' ?_ ?_ ?_)
  · rw [reads]
    exact extentSplit_some (by decide)
  · rw [reads]
    exact near
  · rw [act]
    exact kept.trans empty

end
end
end

section
variable {s : State} {p value : Nat}

theorem State.launchRefused_reserved (reserved : value / 4 % 16 ≠ 0) : s.launchRefused p value = true := by
  simp [State.launchRefused, reserved]

theorem State.launchRefused_not (clear : value / 4 % 16 = 0) (outside : ∀ o, zone (value / 64 * 64) ≠ .loc o) (owns : s.owns p (value / 64 * 64) = true)
    (allowed : s.allowedExt (BitVec.ofNat 16 (bf (s.partWord p 0) 16 16)) .load (value / 64 * 64) 64 = none) : s.launchRefused p value = false := by
  unfold State.launchRefused
  simp only [clear, owns, allowed]
  rfl

end

/-! ### Host resumes -/

section
variable {s : State} (empty : s.hostIn = []) {m : Master} {handle action : Word}

/-- The resume registers after a master's resume (R340). -/
def State.resumed (u : State) (handle action r : Word) : State := ((u.setReg 0x6000 handle).setReg 0x6008 action).setReg 0x6010 r

/-- A master that may resume a hart: the owner, or a virtual function (R340). -/
def State.mayResume (s : State) (m : Master) : Prop := (∃ p, m = .vf p) ∨ s.isOwner m = true

theorem State.writeResume_stranger (host : ∀ p, m ≠ .vf p) (stranger : s.isOwner m = false) : s.writeResume m handle action = s := by
  unfold State.writeResume
  cases m with
  | vf p => exact absurd rfl (host p)
  | host id => simp [stranger]
  | controller => simp [stranger]

theorem State.writeResume_may (may : s.mayResume m) :
    s.writeResume m handle action = (s.hostResume m handle action).1.resumed handle action (s.hostResume m handle action).2 := by
  unfold State.writeResume
  cases m with
  | vf p => rfl
  | host id =>
    have owner : s.isOwner (.host id) = true := by simpa [State.mayResume] using may
    simp [owner, State.resumed]
  | controller =>
    have owner : s.isOwner .controller = true := by simpa [State.mayResume] using may
    simp [owner, State.resumed]

theorem State.hostResume_reserved (bad : 2 < action.toNat ∨ handleBad handle = true) : s.hostResume m handle action = (s, 3) := by
  unfold State.hostResume
  exact if_pos (by simpa using bad)

section
variable (known : action.toNat ≤ 2) (good : handleBad handle = false) (here : bf handle 14 10 = s.devnum) (inside : s.devnum < 576)
include known good here inside

theorem State.hostResume_foreign {p : BitVec 4} (vf : m = .vf p) (foreign : s.partOf (clusterOf (bf handle 0 14)) ≠ p.toNat) :
    s.hostResume m handle action = (s, 2) := by
  subst vf
  unfold State.hostResume
  simp [good, here, foreign, Nat.not_lt_of_le known, Nat.not_le_of_lt inside]

theorem State.hostResume_acts (own : ∀ p, m = .vf p → s.partOf (clusterOf (bf handle 0 14)) = p.toNat) :
    s.hostResume m handle action = ((s.resumeAt (bf handle 0 14) (bf handle 32 16) action.toNat).1,
      word (s.resumeAt (bf handle 0 14) (bf handle 32 16) action.toNat).2) := by
  unfold State.hostResume
  cases m with
  | vf p => simp [good, here, own p rfl, Nat.not_lt_of_le known, Nat.not_le_of_lt inside]
  | _ => simp [good, here, Nat.not_lt_of_le known, Nat.not_le_of_lt inside]

end

include empty

theorem exec_hostResume_stranger (host : ∀ p, m ≠ .vf p) (stranger : s.isOwner m = false) : exec (.hostResume m handle action) s = .next s := by
  have act : s.hostAct (.hostResume m handle action) = s := State.writeResume_stranger host stranger
  refine congrArg Host.Outcome.next ((State.hostAccess_acts empty (by simp [hostRetry]) rfl rfl ?_).trans act)
  rw [act]
  exact empty

theorem exec_hostResume_done {u : State} {r : Word} (may : s.mayResume m) (done : s.hostResume m handle action = (u, r)) (kept : u.hostIn = s.hostIn) :
    exec (.hostResume m handle action) s = .next (((u.setReg 0x6000 handle).setReg 0x6008 action).setReg 0x6010 r) := by
  have act : s.hostAct (.hostResume m handle action) = u.resumed handle action r := by
    rw [State.hostAct, State.writeResume_may may, done]
  refine congrArg Host.Outcome.next ((State.hostAccess_acts empty (by simp [hostRetry]) rfl rfl ?_).trans act)
  rw [act]
  exact kept.trans empty

end

/-! ### Trap queues -/

section
variable {s : State} {m : Master} {p : BitVec 4} {q : HostQ} {x : List Word}

/-- A host queue whose shown payload has been acknowledged (R346). -/
def HostQ.next (q : HostQ) : HostQ :=
  match q.queue with
  | [] => ⟨none, [], q.msix⟩
  | y :: rest => ⟨some y, rest, q.msix + 1⟩

theorem State.flushUnits_nothing (yoke : s.yokeEgress = []) (dies : ∀ d, d < 4 → (s.die d).egress = []) : s.flushUnits = s := by
  have quiet (l : List Nat) (within : ∀ d ∈ l, d < 4) : l.foldl (fun s d => if (s.die d).egress.isEmpty then s else
      let (s, e) := flushEgress s (s.die d).egress
      s.modDie d (fun x => { x with egress := e })) s = s := by
    induction l with
    | nil => rfl
    | cons d l ih =>
      rw [List.foldl_cons, if_pos (by rw [dies d (within d (List.mem_cons_self ..))]; rfl)]
      exact ih fun d later => within d (List.mem_cons_of_mem _ later)
  unfold State.flushUnits
  rw [yoke]
  have same : ({ s with yokeEgress := [] } : State) = s := by rw [← yoke]
  simp only [flushEgress, same]
  exact quiet _ fun d => List.mem_range.mp

theorem State.trapAck_next (queue : find p.toNat s.hostq = some q) (shown : q.shown = some x) (may : s.mayAct m p = true)
    (yoke : s.yokeEgress = []) (dies : ∀ d, d < 4 → (s.die d).egress = []) :
    s.trapAck m p = { s with hostq := put p.toNat q.next s.hostq } := by
  unfold State.trapAck
  simp only [may, queue, shown]
  exact State.flushUnits_nothing yoke dies

theorem exec_trapAcknowledge (empty : s.hostIn = []) (kept : (s.trapAck m p).hostIn = s.hostIn) :
    exec (.trapAcknowledge m p) s = .next (s.trapAck m p) :=
  congrArg Host.Outcome.next (State.hostAccess_acts empty (by simp [hostRetry]) rfl rfl (kept.trans empty))

theorem State.queueHost_cases {m : HostMsg} (queue : find m.part s.hostq = some q) : s.queueHost m =
    if q.shown.isNone then some { s with hostq := put m.part ⟨some m.payload, q.queue, q.msix + 1⟩ s.hostq }
    else if q.queue.length < 64 then some { s with hostq := put m.part { q with queue := q.queue ++ [m.payload] } s.hostq }
    else none := by
  unfold State.queueHost
  rw [queue]
  rfl

section
variable {c : Nat} {msg : HostMsg} {rest : List HostMsg} (waits : (s.core c).egress = msg :: rest)
include waits

theorem exec_hostTrapDelivery_queued {u : State} (queued : s.queueHost msg = some u) :
    exec (.hostTrapDelivery c) s = .next (u.modCore c (fun x => { x with egress := rest })) := by
  show execHostTrapDelivery c s = _
  simp only [execHostTrapDelivery, waits, queued]

theorem exec_hostTrapDelivery_full (full : s.queueHost msg = none) : exec (.hostTrapDelivery c) s = .next (s.push (.hostTrapDelivery c)) := by
  show execHostTrapDelivery c s = _
  simp only [execHostTrapDelivery, waits, full]

end

end

/-! ### Partitions -/

section
variable {s : State} {m : Master} {p : BitVec 4} {w0 w1 w2 w3 : Word}

/-- The groups of a partition's new entry meet another valid entry's (R345). -/
def State.groupsMeet (s : State) (q : Nat) (w : Word) : Prop :=
  ∃ n, n < 16 ∧ n ≠ q ∧ bit (s.partWord n 0) 63 = true ∧ bf (s.partWord n 0) 0 16 &&& bf w 0 16 ≠ 0

theorem State.groupsMeet_iff {q : Nat} {w : Word} :
    ((List.range 16).any (fun n => n != q && bit (s.partWord n 0) 63 && bf (s.partWord n 0) 0 16 &&& bf w 0 16 != 0)) = true ↔ s.groupsMeet q w := by
  simp [State.groupsMeet, List.any_eq_true, and_assoc]

theorem State.writePartition_drops {q : Nat} (bad : s.isOwner m = false ∨ s.groupsMeet q w0) : s.writePartition m q w0 w1 w2 w3 = s := by
  refine if_pos ?_
  rw [Bool.or_eq_true, State.groupsMeet_iff]
  simpa using bad

theorem State.writePartition_writes {q : Nat} (owner : s.isOwner m = true) (apart : ¬ s.groupsMeet q w0) : s.writePartition m q w0 w1 w2 w3 =
    (((s.setReg (0x1000 + 32 * q) (w0 &&& partMask 0)).setReg (0x1008 + 32 * q) (w1 &&& partMask 1)).setReg
      (0x1010 + 32 * q) (w2 &&& partMask 2)).setReg (0x1018 + 32 * q) (w3 &&& partMask 3) := by
  refine if_neg ?_
  rw [Bool.or_eq_true, State.groupsMeet_iff]
  simpa [owner] using apart

variable (s) in
/-- A partition's entry reads as it was written, and every other partition's as before (R345). -/
theorem State.partWord_written (q : Nat) (w0 w1 w2 w3 : Word) :
    let t := (((s.setReg (0x1000 + 32 * q) w0).setReg (0x1008 + 32 * q) w1).setReg (0x1010 + 32 * q) w2).setReg (0x1018 + 32 * q) w3
    t.partWord q 0 = w0 ∧ t.partWord q 1 = w1 ∧ t.partWord q 2 = w2 ∧ t.partWord q 3 = w3 ∧
      ∀ n i, n ≠ q → i < 4 → t.partWord n i = s.partWord n i := by
  intro t
  refine ⟨?_, ?_, ?_, ?_, fun n i ne within => ?_⟩ <;> rw [State.partWord, show t = _ from rfl]
  · rw [State.reg_setReg_other _ (by omega), State.reg_setReg_other _ (by omega), State.reg_setReg_other _ (by omega)]
    exact State.reg_setReg_same _ (by omega) _
  · rw [State.reg_setReg_other _ (by omega), State.reg_setReg_other _ (by omega), show 0x1000 + 32 * q + 8 * 1 = 0x1008 + 32 * q by omega]
    exact State.reg_setReg_same _ (by omega) _
  · rw [State.reg_setReg_other _ (by omega), show 0x1000 + 32 * q + 8 * 2 = 0x1010 + 32 * q by omega]
    exact State.reg_setReg_same _ (by omega) _
  · rw [show 0x1000 + 32 * q + 8 * 3 = 0x1018 + 32 * q by omega]
    exact State.reg_setReg_same _ (by omega) _
  · rw [State.reg_setReg_other _ (by omega), State.reg_setReg_other _ (by omega), State.reg_setReg_other _ (by omega),
      State.reg_setReg_other _ (by omega), State.partWord]

theorem exec_partitionWrite (empty : s.hostIn = []) :
    exec (.partitionWrite m p w0 w1 w2 w3) s = .next (s.writePartition m p.toNat w0 w1 w2 w3) := by
  refine congrArg Host.Outcome.next (State.hostAccess_acts empty (by simp [hostRetry]) rfl rfl ?_)
  show (s.writePartition m p.toNat w0 w1 w2 w3).hostIn = []
  unfold State.writePartition
  dsimp only
  split <;> exact empty

end

/-! ### Plain registers and debug modules -/

section
variable {s : State} {m : Master} {o : Nat} {v : Word}

theorem exec_registerWrite (empty : s.hostIn = []) (kept : (s.writeRegister m o v).hostIn = s.hostIn) :
    exec (.registerWrite m o v) s = .next (s.writeRegister m o v) :=
  congrArg Host.Outcome.next (State.hostAccess_acts empty (by simp [hostRetry]) rfl rfl (kept.trans empty))

theorem State.writeRegister_plain {owned : Bool} {x : Word} (low : o < 0x100000) (plain : plainRegister o v = some (owned, x)) (quiet : o ≠ 0x338)
    (may : (if owned then s.isOwner m else m == .controller) = true) : s.writeRegister m o v = s.setReg o x := by
  unfold State.writeRegister
  rw [if_neg (by simp; omega), plain]
  dsimp only
  rw [if_pos may, if_neg (by simp [quiet])]

theorem State.writeRegister_barred {x : Word} (low : o < 0x100000) (plain : plainRegister o v = some (true, x)) (stranger : s.isOwner m = false) :
    s.writeRegister m o v = s := by
  unfold State.writeRegister
  rw [if_neg (by simp; omega), plain]
  exact if_neg (by simp [stranger])

theorem State.writeRegister_fixed (low : o < 0x100000) (fixed : plainRegister o v = none) : s.writeRegister m o v = s := by
  unfold State.writeRegister
  rw [if_neg (by simp; omega), fixed]

theorem exec_registerWrite_plain (empty : s.hostIn = []) {owned : Bool} {x : Word} (low : o < 0x100000) (plain : plainRegister o v = some (owned, x))
    (quiet : o ≠ 0x338) (may : (if owned then s.isOwner m else m == .controller) = true) :
    exec (.registerWrite m o v) s = .next (s.setReg o x) := by
  have act := State.writeRegister_plain (s := s) (m := m) low plain quiet may
  exact (exec_registerWrite empty (by rw [act]; rfl)).trans (congrArg Host.Outcome.next act)

theorem exec_registerWrite_stays (empty : s.hostIn = []) (act : s.writeRegister m o v = s) : exec (.registerWrite m o v) s = .next s :=
  (exec_registerWrite empty (by rw [act])).trans (congrArg Host.Outcome.next act)

/-- Registers that no write changes (R340). -/
theorem plainRegister_readOnly (listed : o ∈ [0x0, 0x8, 0x10, 0x20, 0x100, 0x140, 0x200, 0x320]) (v : Word) : plainRegister o v = none := by
  simp only [List.mem_cons, List.not_mem_nil, or_false] at listed
  rcases listed with rfl | rfl | rfl | rfl | rfl | rfl | rfl | rfl <;> rfl

theorem State.writeRegister_debug {k : Nat} (within : k < 256) (owner : s.isOwner m = true) :
    s.writeRegister m (0x100000 + 0x1000 * k + 0x80) v = s.modCluster k (fun c => { c with dbg := c.dbg.write s.cycle 0x80 v }) := by
  unfold State.writeRegister
  rw [if_pos (by simp; omega), if_pos (by simp [owner]; omega), show (0x100000 + 0x1000 * k + 0x80 - 0x100000) / 0x1000 = k by omega,
    show (0x100000 + 0x1000 * k + 0x80) % 0x1000 = 0x80 by omega]

theorem Debug.write_control (x : Debug) (cycle : Nat) (v : Word) :
    (x.write cycle 0x80 v).haltOnBp = bit v 0 ∧ (x.write cycle 0x80 v).haltOnWatch = bit v 1 ∧
      (x.write cycle 0x80 v).trace = (bit v 2 || (x.trace && !bit v 3)) ∧
      (bit v 2 = true → (x.write cycle 0x80 v).traceUntil = if bit v 3 then some (cycle + 1) else none) := by
  simp only [Debug.write, Debug.setTrace]
  cases bit v 2 <;> cases bit v 3 <;> simp

end

end Sys2Proof.Machine
end

section
/-! What stands outside the order of the host interface (R278, R354 to R356): completed peer reads, sampling, and the debugger. -/

namespace Sys2Proof.Machine

/-! ### Peer reads -/

/-- What a map holds that has been filled from a list of places. -/
theorem find_foldr_put {α : Type} (g : Nat → α) (l : List Nat) (j : Nat) :
    find j ((l.map (fun k => (k, g k))).foldr (fun p m => put p.1 p.2 m) []) = if j ∈ l then some (g j) else none := by
  induction l with
  | nil => rfl
  | cons k l ih =>
    by_cases own : j = k
    · subst own; simp
    · simp [find_put_other own, own, ih]

/-- The bytes of a completion that gives as many as were asked for. -/
theorem completion_bytes {data : List Byte} {n : Nat} (full : data.length = n) (rest : Nat → Byte) :
    (List.range n).map (fun k => (data[k]?).getD (rest k)) = data := by
  refine List.ext_getElem (by simp [full]) fun k short long => ?_
  simp [long]

theorem Hart.getG_of_g {x y : Hart} (same : x.g = y.g) (r : BitVec 5) : x.getG r = y.getG r := by
  unfold Hart.getG
  rw [same]

section
variable (x : Hart)

theorem Hart.keepNear_keeps (nb : List (Nat × Nat)) (wants : List Want) :
    (x.keepNear nb wants).loads = x.loads ∧ (x.keepNear nb wants).g = x.g := by
  unfold Hart.keepNear
  induction nb generalizing x with
  | nil => exact ⟨rfl, rfl⟩
  | cons e nb ih => exact ih _

end

/-- The wants of a load of n bytes from a, with what has come for them. -/
def wantsFrom (a n : Nat) (val : Nat → Option Byte) : List Want := (List.range n).map (fun k => ⟨a + k, k, 0, val k⟩)

section
variable {s : State} {h a n : Nat} {l : PLoad} {rd : BitVec 5} {sg : Bool} {data : List Byte}

/-- The value of a load of these bytes into a g register (R213). -/
def loadValue (sg : Bool) (n : Nat) (data : List Byte) : Word :=
  if sg then BitVec.signExtend 64 (BitVec.ofNat (8 * n) (ofBytes data)) else word (ofBytes data)

theorem State.bindLoad_register (one : (s.hart h).loads = [l]) (dest : l.dest = .g rd n sg) {y : PLoad} (id : y.id = l.id) (target : y.dest = l.dest)
    (wants : y.wants = wantsFrom a n (fun k => data[k]?)) (full : data.length = n) :
    ((s.bindLoad h y).hart h).loads = [] ∧ (rd ≠ 0 → ((s.bindLoad h y).hart h).getG rd = loadValue sg n data) ∧ (s.bindLoad h y).out = s.out := by
  have keeps : s.keepsLoad h y = false := by simp [State.keepsLoad, target, dest]
  have places : y.wants.map (fun w => (w.pos, w.val.getD 0)) = (List.range n).map (fun k => (k, (data[k]?).getD 0)) := by
    simp [wants, wantsFrom]
  have value : (List.range n).map (fun k => (find k ((y.wants.map (fun w => (w.pos, w.val.getD 0))).foldr (fun p m => put p.1 p.2 m) [])).getD 0) =
      data := by
    refine (List.map_congr_left fun k within => ?_).trans (completion_bytes full (fun _ => 0))
    rw [places, find_foldr_put, if_pos within]
    rfl
  have gone : ((s.hart h).loads.filter (fun z => z.id != y.id)) = [] := by simp [one, id]
  unfold State.bindLoad
  rw [if_neg (by simp [keeps])]
  simp only [target, dest, State.hart_modHart_same, Hart.bindDest, gone]
  rw [value]
  refine ⟨?_, fun named => ?_, rfl⟩
  · split
    · simp [Hart.clearNear]
    · rw [(Hart.keepNear_keeps ..).1, Hart.setG_loads]
  · have written (x : Hart) : (x.setG rd (loadValue sg n data)).getG rd = loadValue sg n data := Hart.getG_setG_same named ..
    split
    · exact written _
    · exact (Hart.getG_of_g (Hart.keepNear_keeps ..).2 rd).trans (written _)

/-- The reply that a completed peer read gives to the load that asked (R278). -/
def peerReply (a : Nat) (data : List Byte) (q : Asker) : Reply := ⟨a, data, 0, allShared, false, [q], false, 0⟩

section
variable {id : Nat} (one : (s.hart h).loads = [l]) (named : l.id = id) (wants : l.wants = wantsFrom a n (fun _ => none))
  (full : data.length = n)
include one named wants full

/-- The load takes the reply, whole, and is bound. -/
theorem State.giveReply_peer (gone : List (Nat × Nat)) : ∃ y : PLoad, y.id = l.id ∧ y.dest = l.dest ∧ y.wants = wantsFrom a n (fun k => data[k]?) ∧
    s.giveReply ⟨h, id, 0⟩ (peerReply a data ⟨h, id, 0⟩) gone = s.bindLoad h y := by
  let y := s.replyTo l ⟨h, id, 0⟩ (peerReply a data ⟨h, id, 0⟩)
  have filled : y.wants = wantsFrom a n (fun k => data[k]?) := by
    show (l.wants.map _) = _
    rw [wants, wantsFrom, List.map_map]
    refine List.map_congr_left fun k within => ?_
    have short : k < data.length := full ▸ List.mem_range.mp within
    simp [peerReply, short]
  have whole : y.wants.all (fun w => w.val.isSome) = true := by
    rw [filled, wantsFrom, List.all_map, List.all_eq_true]
    intro k within
    have short : k < data.length := full ▸ List.mem_range.mp within
    simp [short]
  have again : y.again ⟨h, id, 0⟩ (peerReply a data ⟨h, id, 0⟩) gone = y := by
    refine if_pos (List.all_eq_true.mpr fun w mem => ?_)
    rw [List.all_eq_true.mp whole w mem, Bool.or_true]
  have found : (s.hart h).loads.find? (fun l => l.id == id) = some l := by simp [one, named]
  have clean : y.poisonedBy ⟨h, id, 0⟩ (peerReply a data ⟨h, id, 0⟩) = false := by
    simp [PLoad.poisonedBy, peerReply, bit]
  refine ⟨y, rfl, rfl, filled, ?_⟩
  unfold State.giveReply
  simp only [found]
  rw [show (s.replyTo l ⟨h, id, 0⟩ (peerReply a data ⟨h, id, 0⟩)) = y from rfl, again, if_pos whole, clean]
  rfl

omit one named wants full in
theorem State.fillNear_uncached {cid : Nat} {r : Reply} (gone : List (Nat × Nat)) (uncached : r.cache = false) : s.fillNear cid r gone = s := by
  unfold State.fillNear
  exact if_neg (by simp [uncached])

omit wants full in
/-- A reply that makes no near-cache entry goes to its load alone. -/
theorem State.landReply_peer : ∃ (t : State) (gone : List (Nat × Nat)), t.harts = s.harts ∧ t.out = s.out ∧
    s.landReply (coreOf h) (peerReply a data ⟨h, id, 0⟩) = t.giveReply ⟨h, id, 0⟩ (peerReply a data ⟨h, id, 0⟩) gone := by
  let mine (f : FillAsk) : Bool := f.addr == a && f.len == data.length
  let t := if (s.core (coreOf h)).fills.any mine then s.modCore (coreOf h) (fun c => { c with fills := removeFirst mine c.fills }) else s
  let gone := (((s.core (coreOf h)).fills.find? mine).map (fun f => f.gone)).getD []
  have same : t.harts = s.harts ∧ t.out = s.out := by
    unfold t
    split <;> exact ⟨rfl, rfl⟩
  have asked : (t.hart h).asked id = true := by
    rw [State.hart_of_harts same.1]
    simp [Hart.asked, one, named]
  have filled : t.fillNear (coreOf h) (peerReply a data ⟨h, id, 0⟩) gone = t := State.fillNear_uncached gone rfl
  have given : s.landReply (coreOf h) (peerReply a data ⟨h, id, 0⟩) = [(⟨h, id, 0⟩ : Asker)].foldl (fun s q =>
      if (s.hart q.hid).asked q.id then s.giveReply q (peerReply a data ⟨h, id, 0⟩) gone
      else (s.modCore (coreOf h) (fun c => { c with lateReplies := c.lateReplies ++ [(q.id, { peerReply a data ⟨h, id, 0⟩ with asks := [q] })] })).push
        (.loadReplyForwarded (coreOf h))) (t.fillNear (coreOf h) (peerReply a data ⟨h, id, 0⟩) gone) := rfl
  refine ⟨t, gone, same.1, same.2, given.trans ?_⟩
  rw [filled, List.foldl_cons, List.foldl_nil, if_pos asked]

end

/-- A completed peer read is bound to the load that asked for it (R278). -/
theorem execPeerReadCompletion_load {id b : Nat} {rest : List OutMsg} (hart : h < 2 ^ 26) (asked : s.out = .peerRead ⟨h, id, 0⟩ a b n :: rest)
    (one : (s.hart h).loads = [l]) (named : l.id = id) (dest : l.dest = .g rd n sg) (wants : l.wants = wantsFrom a n (fun _ => none))
    (full : data.length = n) : ∃ t : State, execPeerReadCompletion data s = .next t ∧ t.out = rest ∧ (t.hart h).loads = [] ∧
      (rd ≠ 0 → (t.hart h).getG rd = loadValue sg n data) := by
  let u : State := { s with out := rest, free := s.free + 1 }
  obtain ⟨t, gone, harts, out, landed⟩ := State.landReply_peer (s := u) (a := a) (data := data) one named
  have loads : (t.hart h).loads = [l] := by rw [State.hart_of_harts harts]; exact one
  obtain ⟨y, yid, ydest, ywants, given⟩ := State.giveReply_peer loads named wants full gone
  obtain ⟨bound, value, sent⟩ := State.bindLoad_register loads dest yid ydest ywants full
  have oldest : takePeerRead s.out = some ((⟨h, id, 0⟩, a, n), rest) := by rw [asked]; rfl
  refine ⟨_, ?_, sent.trans out, bound, value⟩
  rw [← given, ← landed]
  unfold execPeerReadCompletion
  rw [oldest]
  dsimp only
  rw [if_neg (Nat.not_le_of_lt hart), completion_bytes full]
  rfl

/-- A completed peer read goes to the unit that asked for it (R278). -/
theorem execPeerReadCompletion_unit {u id b : Nat} {rest : List OutMsg} (asked : s.out = .peerRead ⟨2 ^ 26 + u, id, 0⟩ a b n :: rest)
    (full : data.length = n) : ∃ t : State, execPeerReadCompletion data s = .next t ∧ t.out = rest ∧ t.harts = s.harts ∧ t.mem = s.mem ∧
      (t.postedOf u).acks = (s.postedOf u).acks ++ [⟨none, none, data.mapIdx (fun k b => (a + k, b))⟩] ∧
      Event.ackReceived (2 ^ 26 + u) ∈ t.agenda := by
  have oldest : takePeerRead s.out = some ((⟨2 ^ 26 + u, id, 0⟩, a, n), rest) := by rw [asked]; rfl
  let s' : State := { s with out := rest, free := s.free + 1 }
  refine ⟨s'.tellUnit u ⟨none, none, data.mapIdx (fun k b => (a + k, b))⟩, ?_, rfl, rfl, rfl, ?_, State.mem_push ..⟩
  · unfold execPeerReadCompletion
    rw [oldest]
    dsimp only
    rw [if_pos (Nat.le_add_right ..), completion_bytes full, Nat.add_sub_cancel_left]
  · have some : ({ s'.postedOf u with acks := (s'.postedOf u).acks ++ [⟨none, none, data.mapIdx (fun k b => (a + k, b))⟩] } : Posted) ≠ Posted.none := by
      intro same
      simpa [Posted.none] using congrArg Posted.acks same
    unfold State.tellUnit State.modPosted State.setPosted
    rw [if_neg some]
    exact (congrArg (fun x : Option Posted => (x.getD Posted.none).acks) (find_put_same ..))

end

/-! ### Sampling -/

theorem length_bytesOf (ws : List Word) : (bytesOf ws).length = 8 * ws.length := by
  induction ws with
  | nil => rfl
  | cons w ws ih =>
    rw [show bytesOf (w :: ws) = toBytes w 8 ++ bytesOf ws from rfl, List.length_append, length_toBytes, ih, List.length_cons]
    omega

section
variable (s : State) (d : Nat)

@[simp] theorem State.sampleDie_harts : (s.sampleDie d).harts = s.harts := rfl

theorem State.sampleDie_other {j : Nat} (ne : j ≠ d) : (s.sampleDie d).die j = s.die j := by
  show (find j (put d _ (put d _ s.dies))).getD Die.reset = _
  rw [find_put_other ne, find_put_other ne]
  rfl

theorem State.sampleDie_same : ((s.sampleDie d).die d).sampleSeq = ((s.die d).sampleSeq + 1) % 65536 ∧
    ((s.sampleDie d).die d).lastSample.length = 32 + 16 * (s.occupied d).length := by
  unfold State.sampleDie
  simp only [State.modDie, State.die_setDie_same, length_bytesOf, List.length_append, List.length_cons, List.length_nil, List.length_flatMap,
    List.map_const', List.sum_replicate, true_and]
  simp
  omega

/-- Every die of a list sampled. -/
theorem State.sample_all {l : List Nat} (distinct : l.Nodup) : (l.foldl (fun s d => s.sampleDie d) s).harts = s.harts ∧
    (∀ d, d ∉ l → (l.foldl (fun s d => s.sampleDie d) s).die d = s.die d) ∧
    ∀ d ∈ l, ((l.foldl (fun s d => s.sampleDie d) s).die d).sampleSeq = ((s.die d).sampleSeq + 1) % 65536 ∧
      ((l.foldl (fun s d => s.sampleDie d) s).die d).lastSample.length = 32 + 16 * (s.occupied d).length := by
  induction l generalizing s with
  | nil => simp
  | cons k l ih =>
    obtain ⟨fresh, distinct⟩ := List.nodup_cons.mp distinct
    obtain ⟨harts, others, sampled⟩ := ih (s.sampleDie k) distinct
    refine ⟨harts, fun d out => ?_, fun d mem => ?_⟩
    · obtain ⟨ne, out⟩ := not_or.mp (mt List.mem_cons.mpr out)
      exact (others d out).trans (s.sampleDie_other k ne)
    · rcases List.mem_cons.mp mem with rfl | later
      · rw [List.foldl_cons, others d fresh]
        exact s.sampleDie_same d
      · have ne : d ≠ k := fun same => fresh (same ▸ later)
        obtain ⟨seq, record⟩ := sampled d later
        rw [s.sampleDie_other k ne] at seq
        exact ⟨seq, record⟩

end

/-! ### The debugger -/

section
variable (s : State) (k : Nat)

theorem State.haltCluster_halts : ((s.haltCluster k).cluster k).dbg.halted = true ∧
    ∀ j ∈ (s.cluster k).dbg.cross, ((s.haltCluster k).cluster j).dbg.halted = true :=
  ⟨State.halted_of_mem (.inr (List.mem_cons_self ..)), fun _ named => State.halted_of_mem (.inr (List.mem_cons_of_mem _ named))⟩

/-- The intervals of a cluster's harts turn, and nothing else of any hart. -/
theorem State.flipCluster_hart (h : Nat) : ∃ t, (s.flipCluster k).hart h = { s.hart h with preempt := t } := by
  unfold State.flipCluster
  generalize List.range 64 = js
  induction js generalizing s with
  | nil => exact ⟨_, rfl⟩
  | cons j js ih =>
    rw [List.foldl_cons]
    split
    case isFalse => exact ih s
    case isTrue =>
      obtain ⟨t, turned⟩ := ih (s.flipInterval (64 * k + j))
      by_cases own : h = 64 * k + j
      · subst own
        exact ⟨t, by rw [turned, State.flipInterval, State.hart_modHart_same]⟩
      · exact ⟨t, by rw [turned, State.flipInterval, State.modHart, State.hart_setHart_other own]⟩

/-- What waited for a halted cluster on hart h goes on (R354). -/
def State.goesOn (s : State) (h : Nat) : State :=
  if (s.hart h).run = .free then s.push (.taskDispatch h)
  else if (s.hart h).cancelled then s.cancelHart h
  else if (s.hart h).mchecks.isEmpty then s else s.push (.machineCheck h)

theorem State.resumeCluster_halted (halted : (s.cluster k).dbg.halted = true) : s.resumeCluster k =
    (List.range 64).foldl (fun s j => s.goesOn (64 * k + j))
      ((s.modCluster k (fun c => { c with dbg := { c.dbg with halted := false } })).flipCluster k) := by
  unfold State.resumeCluster
  rw [halted]
  rfl

/-- A hart none of whose task is cancelled goes on by an event alone. -/
theorem State.goesOn_events {h : Nat} (kept : (s.hart h).cancelled = false) : ∃ events, s.goesOn h = { s with agenda := s.agenda ++ events } ∧
    ((s.hart h).run = .free → Event.taskDispatch h ∈ events) ∧
    ((s.hart h).run ≠ .free → (s.hart h).mchecks ≠ [] → Event.machineCheck h ∈ events) := by
  unfold State.goesOn
  split
  case isTrue free => exact ⟨[.taskDispatch h], rfl, fun _ => List.mem_singleton_self _, fun busy => absurd free busy⟩
  case isFalse busy =>
    rw [if_neg (by simp [kept])]
    split
    case isTrue none => exact ⟨[], by simp, fun free => absurd free busy, fun _ some => absurd (List.isEmpty_iff.mp none) some⟩
    case isFalse some => exact ⟨[.machineCheck h], rfl, fun free => absurd free busy, fun _ _ => List.mem_singleton_self _⟩

/-- The same of each hart of a list. -/
theorem State.goOn_events {js : List Nat} (kept : ∀ j ∈ js, (s.hart (64 * k + j)).cancelled = false) : ∃ events,
    js.foldl (fun s j => s.goesOn (64 * k + j)) s = { s with agenda := s.agenda ++ events } ∧
    ∀ j ∈ js, ((s.hart (64 * k + j)).run = .free → Event.taskDispatch (64 * k + j) ∈ events) ∧
      ((s.hart (64 * k + j)).run ≠ .free → (s.hart (64 * k + j)).mchecks ≠ [] → Event.machineCheck (64 * k + j) ∈ events) := by
  induction js generalizing s with
  | nil => exact ⟨[], by simp, by simp⟩
  | cons j js ih =>
    obtain ⟨first, goes, free, checks⟩ := s.goesOn_events (kept j (List.mem_cons_self ..))
    obtain ⟨later, gone, due⟩ := ih (s.goesOn (64 * k + j)) (by rw [goes]; exact fun i mem => kept i (List.mem_cons_of_mem _ mem))
    refine ⟨first ++ later, ?_, fun i mem => ?_⟩
    · rw [List.foldl_cons, gone, goes, ← List.append_assoc]
    · rcases List.mem_cons.mp mem with rfl | mem
      · exact ⟨fun x => List.mem_append_left _ (free x), fun x y => List.mem_append_left _ (checks x y)⟩
      · rw [goes] at due
        exact ⟨fun x => List.mem_append_right _ ((due i mem).1 x), fun x y => List.mem_append_right _ ((due i mem).2 x y)⟩

/-- A halted cluster goes on: its harts look for work, or take the machine checks that came meanwhile (R354). -/
theorem State.resumeCluster_goesOn (halted : (s.cluster k).dbg.halted = true) (kept : ∀ j, j < 64 → (s.hart (64 * k + j)).cancelled = false) :
    ∃ t, s.resumeCluster k = t ∧ (t.cluster k).dbg.halted = false ∧ ∀ j, j < 64 →
      ((s.hart (64 * k + j)).run = .free → Event.taskDispatch (64 * k + j) ∈ t.agenda) ∧
      ((s.hart (64 * k + j)).run ≠ .free → (s.hart (64 * k + j)).mchecks ≠ [] → Event.machineCheck (64 * k + j) ∈ t.agenda) := by
  have gone := s.resumeCluster_halted k halted
  have on : (((s.modCluster k (fun c => { c with dbg := { c.dbg with halted := false } })).flipCluster k).cluster k).dbg.halted = false := by
    rw [State.cluster, State.flipCluster_clusters, ← State.cluster, State.cluster_modCluster_same]
  have turned := State.flipCluster_hart (s.modCluster k (fun c => { c with dbg := { c.dbg with halted := false } })) k
  generalize (s.modCluster k (fun c => { c with dbg := { c.dbg with halted := false } })).flipCluster k = u at gone on turned
  have hart (h : Nat) : (u.hart h).cancelled = (s.hart h).cancelled ∧ (u.hart h).run = (s.hart h).run ∧ (u.hart h).mchecks = (s.hart h).mchecks := by
    obtain ⟨p, turned⟩ := turned h
    rw [turned]
    exact ⟨rfl, rfl, rfl⟩
  obtain ⟨events, all, due⟩ := u.goOn_events k (js := List.range 64) fun j within => (hart _).1.trans (kept j (List.mem_range.mp within))
  refine ⟨_, gone.trans all, on, fun j within => ?_⟩
  · obtain ⟨-, run, checks⟩ := hart (64 * k + j)
    obtain ⟨free, busy⟩ := due j (List.mem_range.mpr within)
    rw [run] at free busy
    rw [checks] at busy
    exact ⟨fun x => List.mem_append_right _ (free x), fun x y => List.mem_append_right _ (busy x y)⟩

end

end Sys2Proof.Machine
end

section
/-! The host, its masters and the debugger: the statement (R278, R338 to R340, R342, R345, R346, R354 to R356). -/

namespace Sys2Proof.Machine

/-! ### Registers written by the debugger -/

section
variable (x : Hart) (isV : Bool) (r : BitVec 5)

theorem Hart.dropResult_getG (q : BitVec 5) : (x.dropResult isV r).getG q = x.getG q := rfl
theorem Hart.dropResult_getV (q : BitVec 5) : (x.dropResult isV r).getV q = x.getV q := rfl

theorem Hart.getM_setM_same {q : BitVec 3} (named : q ≠ 0) (v : Word) : (x.setM q v).getM q = v := by
  unfold Hart.setM
  rw [if_neg named, Hart.getM, if_neg named]
  exact Vector.getElem_set_self ..

end

section
variable {s : State} {m : Master} {h : Nat}

theorem exec_debugRegister_dropped (refused : s.isOwner m = false ∨ (s.cluster (clusterOf h)).dbg.halted = false) (r : DebugReg) :
    exec (.debugRegisterWrite m h r) s = .next s :=
  congrArg Host.Outcome.next (if_pos (by simpa using refused))

section
variable (owner : s.isOwner m = true) (halted : (s.cluster (clusterOf h)).dbg.halted = true)
include owner halted

theorem execDebugRegisterWrite_performed : ¬ (!s.isOwner m || !(s.cluster (clusterOf h)).dbg.halted) = true := by simp [owner, halted]

theorem exec_debugRegister_g (q : BitVec 5) (v : Word) : exec (.debugRegisterWrite m h (.g q v)) s =
    .next (s.modHart h (fun x => (x.dropResult false q).setG q v)) :=
  congrArg Host.Outcome.next (if_neg (execDebugRegisterWrite_performed owner halted))

theorem exec_debugRegister_v (q : BitVec 5) (v : Vec) : exec (.debugRegisterWrite m h (.v q v)) s =
    .next (s.modHart h (fun x => (x.dropResult true q).setV q v)) :=
  congrArg Host.Outcome.next (if_neg (execDebugRegisterWrite_performed owner halted))

theorem exec_debugRegister_m (q : BitVec 3) (v : Word) : exec (.debugRegisterWrite m h (.m q v)) s = .next (s.modHart h (fun x => x.setM q v)) :=
  congrArg Host.Outcome.next (if_neg (execDebugRegisterWrite_performed owner halted))

theorem exec_debugRegister_pc (v : Word) : ∃ t : State, exec (.debugRegisterWrite m h (.pc v)) s = .next t ∧
    (t.hart h).pc = v &&& ~~~ 7 ∧ (t.hart h).wait = .none ∧ (t.hart h).reads = [] ∧ (t.hart h).safeAt = none ∧ (t.hart h).g = (s.hart h).g := by
  obtain ⟨loads, withdrawn⟩ := s.hart_withdraw h
  refine ⟨_, congrArg Host.Outcome.next (if_neg (execDebugRegisterWrite_performed owner halted)), ?_⟩
  dsimp only
  rw [State.hart_modHart_same, State.hart_of_harts (State.forgetAbsentOf_harts ..), withdrawn]
  exact ⟨rfl, rfl, rfl, rfl, rfl⟩

end
end

/-! ### Registers that every master may read -/

section
variable {o : Nat} (listed : o ∈ [0x0, 0x10, 0x100, 0x200, 0x1000, 0x6010])
include listed

theorem aligned_listed : o % 8 = 0 := by
  simp only [List.mem_cons, List.not_mem_nil, or_false] at listed
  omega

theorem readable_listed (k : Nat) (within : k < 8) : readableByAll (o + k) = true := by
  simp only [List.mem_cons, List.not_mem_nil, or_false] at listed
  simp only [readableByAll, Bool.or_eq_true, Bool.and_eq_true, decide_eq_true_eq]
  omega

theorem barWord_listed {s : State} : s.barWord o = s.reg o := by
  have aligned := aligned_listed listed
  simp only [List.mem_cons, List.not_mem_nil, or_false] at listed
  unfold State.barWord
  rw [if_neg (by simp; omega), if_neg (by simp; omega), show o / 8 * 8 = o by omega]

end

theorem low_listed {o : Nat} (listed : o ∈ [0x0, 0x8, 0x10, 0x20, 0x100, 0x140, 0x200, 0x320]) : o < 0x100000 := by
  simp only [List.mem_cons, List.not_mem_nil, or_false] at listed
  omega

theorem readableByAll_payload {o : Nat} (low : 0x8000 ≤ o) (high : o < 0x8400) : readableByAll o = true := by
  simp only [readableByAll, Bool.or_eq_true, Bool.and_eq_true, decide_eq_true_eq]
  omega

theorem State.barWord_shown {s : State} {p : Nat} {x : List Word} (within : p < 16) (shown : (find p s.hostq).bind (fun q => q.shown) = some x) :
    s.barWord (0x8000 + 64 * p) = x.getD 0 0 := by
  unfold State.barWord
  rw [if_pos (by simp; omega), show (0x8000 + 64 * p - 0x8000) / 64 = p by omega, shown, show (0x8000 + 64 * p) % 64 / 8 = 0 by omega,
    List.getD_eq_getElem?_getD]
  rfl

/-! ### The statement -/

/-- Settles O59: the accesses in their order through `hostAccess` where nothing waits and behind one that does, the rest by its own event. -/
theorem theHostActs : Obligations.TheHostActs := by
  refine ⟨?_, ?_, ?_, ?_, ?_, ?_, ?_, ?_, ?_, ?_, ?_, ?_, ?_, ?_, ?_, ?_, ?_⟩
  · intro s off len data empty
    refine ⟨fun some held => exec_hostWrite_held empty trivial (.inl some) rfl held, fun some free => ?_,
      fun held => exec_hostRead_held empty rfl held, fun free some v far => exec_hostRead_asks empty rfl free some far,
      fun free near => exec_hostRead_free empty trivial rfl free near, fun none => ?_, fun none => ?_, fun k within covers first free => ?_⟩
    · exact exec_hostWrite_at empty trivial (.inl some) (path := .cxlMem) rfl free
    · exact exec_hostWrite_nowhere empty trivial (State.hostAddr_uncovered none)
    · exact exec_hostRead_nowhere empty trivial (State.hostAddr_uncovered none)
    · exact exec_hostWrite_at empty trivial (.inr (by simp)) (State.hostAddr_covered within covers first) free
  · intro s off data rest some queue
    refine ⟨fun held => ⟨fun path o n => ?_, fun n v => ?_, ?_⟩, fun free last => ?_⟩
    · exact congrArg Host.Outcome.next (State.hostAccess_behind queue held (by simp [hostRetry]))
    · exact congrArg Host.Outcome.next (State.hostAccess_behind queue held (by simp [hostRetry]))
    · exact congrArg Host.Outcome.next (State.hostAccess_retried queue held)
    · exact congrArg Host.Outcome.next (State.hostAccess_freed queue free last rfl (State.hostStore_hostIn (path := .cxlMem) trivial))
  · intro s m empty
    refine ⟨fun o listed v => exec_barWrite_register empty listed v, fun v => exec_barWrite_doorbell empty v, fun o listed => ?_,
      fun p x within shown => ?_⟩
    · rw [← barWord_listed listed]
      exact exec_barRead empty (aligned_listed listed) (readable_listed listed)
    · rw [← State.barWord_shown within shown]
      exact exec_barRead empty (by omega) fun k short => readableByAll_payload (by omega) (by omega)
  · intro s size v empty
    refine ⟨fun four here => ?_, fun other => ?_⟩
    · rw [exec_doorbell empty, State.doorbell, if_pos (by simp [four, here])]
      rfl
    · rw [exec_doorbell empty, State.doorbell, if_neg (by simpa [imp_iff_not_or] using other)]
  · intro s m expected new empty right
    refine ⟨fun n id may => ⟨_, (exec_ownerCas empty).trans (congrArg Host.Outcome.next (State.ownerCas_changes id may)), ?_, ?_, fun o o1 o2 => ?_,
      rfl, rfl, rfl⟩, fun wrong => (exec_ownerCas empty).trans (congrArg Host.Outcome.next (State.ownerCas_drops wrong))⟩
    · rw [State.reg_setReg_other _ (by decide), State.reg_setReg_same _ (by decide)]
    · rw [State.reg_setReg_same _ (by decide)]
    · rw [State.reg_setReg_other _ o2, State.reg_setReg_other _ o1]
  · intro s m p v empty
    refine ⟨fun stranger => exec_hostLaunch_stranger empty stranger, fun owner held => exec_hostLaunch_held empty owner held,
      fun owner free reserved => ?_, fun bs owner free clear outside owns allowed near load => ?_⟩
    · refine ⟨_, exec_hostLaunch_refused empty owner free (State.launchRefused_reserved reserved), ?_, ?_, rfl, rfl⟩
      · rw [State.reg_setReg_same _ (by omega)]
        rfl
      · rw [State.reg_setReg_other _ (by omega), State.reg_setReg_same _ (by omega)]
    · exact exec_hostLaunch_submits empty owner free (State.launchRefused_not clear outside owns allowed) near load
  · intro s m handle action empty done
    refine ⟨fun host stranger => ?_, fun may => ⟨fun bad => ?_, fun known good here inside => ⟨fun p vf foreign => ?_, fun own => ?_⟩⟩⟩
    · exact exec_hostResume_stranger empty host stranger
    · exact exec_hostResume_done empty may (State.hostResume_reserved bad) rfl
    · exact exec_hostResume_done empty may (State.hostResume_foreign known good here inside vf foreign) rfl
    · exact exec_hostResume_done empty may (State.hostResume_acts known good here inside own) (State.resumeAt_hostIn ..)
  · intro s m p q x empty queue shown
    refine ⟨fun stranger => ?_, fun may yoke dies => ?_⟩
    · have act : s.trapAck m p = s := if_pos (by simp [stranger])
      exact (exec_trapAcknowledge empty (by rw [act])).trans (congrArg Host.Outcome.next act)
    · have act := State.trapAck_next queue shown may yoke dies
      refine ⟨_, (exec_trapAcknowledge empty (by rw [act])).trans (congrArg Host.Outcome.next act), rfl, rfl, fun none => ?_, fun y rest some => ?_⟩
      · rw [find_put_same, HostQ.next, none]
      · rw [find_put_same, HostQ.next, some]
  · intro s c m rest q waits queue
    have queued := State.queueHost_cases queue
    cases shown : q.shown with
    | none =>
      rw [if_pos (by simp [shown])] at queued
      refine ⟨_, exec_hostTrapDelivery_queued waits queued, fun _ => ⟨by simp, find_put_same ..⟩, fun some => ?_, fun some => ?_⟩ <;> cases some
    | some x =>
      rw [if_neg (by simp [shown])] at queued
      by_cases room : q.queue.length < 64
      · rw [if_pos room] at queued
        refine ⟨_, exec_hostTrapDelivery_queued waits queued, fun none => ?_, fun _ _ => ⟨by simp, ?_⟩, fun _ full => absurd room (Nat.not_lt_of_le full)⟩
        · cases none
        · rw [← shown]
          exact find_put_same ..
      · rw [if_neg room] at queued
        refine ⟨_, exec_hostTrapDelivery_full waits queued, fun none => ?_, fun _ less => absurd less room, fun _ _ => rfl⟩
        cases none
  · intro s m p w0 w1 w2 w3 empty meets
    exact ⟨fun bad => (exec_partitionWrite empty).trans (congrArg Host.Outcome.next (State.writePartition_drops bad)), fun owner apart =>
      ⟨_, (exec_partitionWrite empty).trans (congrArg Host.Outcome.next (State.writePartition_writes owner apart)), s.partWord_written ..⟩⟩
  · intro s m v empty
    refine ⟨fun owner => ⟨?_, ?_, ?_⟩, fun stranger => ⟨?_, ?_⟩, fun o listed => ?_, ?_, fun k within owner => ?_⟩
    · exact exec_registerWrite_plain empty (by decide) (owned := true) rfl (by decide) owner
    · exact exec_registerWrite_plain empty (by decide) (owned := true) rfl (by decide) owner
    · exact exec_registerWrite_plain empty (by decide) (owned := true) rfl (by decide) owner
    · exact exec_registerWrite_stays empty (State.writeRegister_barred (by decide) rfl stranger)
    · exact exec_registerWrite_stays empty (State.writeRegister_barred (by decide) rfl stranger)
    · exact exec_registerWrite_stays empty (State.writeRegister_fixed (low_listed listed) (plainRegister_readOnly listed v))
    · exact exec_registerWrite_plain empty (by decide) (owned := false) rfl (by decide) rfl
    · have act := State.writeRegister_debug (s := s) (m := m) (v := v) within owner
      refine ⟨_, (exec_registerWrite empty (by rw [act]; rfl)).trans (congrArg Host.Outcome.next act), ?_⟩
      rw [State.cluster_modCluster_same]
      exact (s.cluster k).dbg.write_control s.cycle v
  · intro s h id a b n rest data rd sg l hart asked one named dest wants full
    exact execPeerReadCompletion_load hart asked one named dest wants full
  · intro s u id a b n rest data asked full
    exact execPeerReadCompletion_unit asked full
  · intro s none data
    show Host.Outcome.next _ = _
    rw [none]
  · intro s m
    obtain ⟨harts, -, sampled⟩ := s.sample_all (l := List.range 4) List.nodup_range
    refine ⟨fun stranger => congrArg Host.Outcome.next (if_neg (by simp [stranger])), fun owner => congrArg Host.Outcome.next (if_pos owner),
      ⟨_, rfl, harts, fun d within => sampled d (List.mem_range.mpr within)⟩, fun idle => congrArg Host.Outcome.next (if_neg (by simp [idle])),
      fun due => ⟨_, congrArg Host.Outcome.next (if_pos due), rfl, fun d within => (sampled d (List.mem_range.mpr within)).1⟩⟩
  · intro s m k
    refine ⟨fun stranger => ⟨congrArg Host.Outcome.next (if_neg (by simp [stranger])), congrArg Host.Outcome.next (if_neg (by simp [stranger]))⟩,
      fun asker may => ⟨s.haltCluster k, ?_, s.haltCluster_halts k⟩, fun owner halted kept => ?_⟩
    · rcases may with rfl | ⟨o, rfl, owner⟩
      · rfl
      · exact congrArg Host.Outcome.next (if_pos owner)
    · obtain ⟨t, goes, on, due⟩ := s.resumeCluster_goesOn k halted kept
      exact ⟨t, congrArg Host.Outcome.next ((if_pos owner).trans goes), on, fun j within => (due j within).1, fun j within => (due j within).2⟩
  · intro s m h
    refine ⟨fun refused r => exec_debugRegister_dropped refused r, fun owner halted => ⟨fun q v => ?_, fun q v => ?_, fun q v named => ?_,
      fun v => exec_debugRegister_pc owner halted v⟩⟩
    · refine ⟨_, exec_debugRegister_g owner halted q v, ?_⟩
      rw [State.hart_modHart_same]
      exact ⟨Hart.getG_setG .., fun r ne => Hart.getG_setG_other ne .., Hart.setG_v ..⟩
    · refine ⟨_, exec_debugRegister_v owner halted q v, ?_⟩
      rw [State.hart_modHart_same]
      exact ⟨Hart.getV_setV_same .., fun r ne => Hart.getV_setV_other ne .., rfl⟩
    · refine ⟨_, exec_debugRegister_m owner halted q v, ?_⟩
      rw [State.hart_modHart_same]
      exact Hart.getM_setM_same _ named v

end Sys2Proof.Machine
end
